-- ==== Sys2Proof/Word.lean ====
section
/-!
DEFINITION. Word sizes of the SRD-4128 and their plainest arithmetic (R2, R3, R49, R92, R112).
Bit 0 is the least significant bit of every value (R3).
-/
namespace Sys2Proof

/-- One byte of storage. -/
abbrev Byte := BitVec 8
/-- A halfword: an index of the index stream (R128), a format tag (R97). -/
abbrev Half := BitVec 16
/-- One vector lane or one accumulator element (R49, R96). -/
abbrev W32 := BitVec 32
/-- A scalar register, a control register, a descriptor field (R49, R82). -/
abbrev Word := BitVec 64
/-- A mask register, one bit for each vector lane (R49). -/
abbrev Mask := BitVec 128
/-- A bundle (R112). -/
abbrev BundleBits := BitVec 384

/-- Bits [lo+w-1 : lo] of `x` as an unsigned number (R3). -/
def bits {n : Nat} (x : BitVec n) (lo w : Nat) : Nat := (x.toNat >>> lo) % 2 ^ w

/-- Bit `i` of `x` (R3). -/
def bitAt {n : Nat} (x : BitVec n) (i : Nat) : Bool := x.getLsbD i

/-- `x` read as a `w`-bit two's complement number (R7, sext). -/
def sextNat (x w : Nat) : Int :=
  let v : Nat := x % 2 ^ w
  if w = 0 then 0 else if v < 2 ^ (w - 1) then (v : Int) else (v : Int) - ((2 ^ w : Nat) : Int)

/-- An exact integer wrapped to `w` bits (R7, wrap). -/
def wrapInt (w : Nat) (x : Int) : BitVec w := BitVec.ofInt w x

/-- Round a length up to the next multiple of `m`. -/
def roundUp (x m : Nat) : Nat := (x + m - 1) / m * m

end Sys2Proof
end

