-- ==== Sys2Proof/Syntax.lean ====
section
/-!
DEFINITION. The instruction set as abstract syntax. One constructor of `Instr` stands for each row of
spec/opcode_table.json: the 173 slot operations of R135, then the 78 operations and events of the device
(95_what_each_step_holds.md), each of which is one indivisible step of the machine.
-/
namespace Sys2Proof

/-! ## Slots (R46) -/

/-- The nine slots of a bundle, in ascending bit position, then the two further sources a trap record
names: fetch or header, and none (R46, R337). -/
inductive Slot | s0 | s1 | c | v0 | v1 | m | x | k | o | fetch | none
  deriving DecidableEq, Repr

/-- The slot code of a trap record (R337). -/
def Slot.code : Slot → Nat
  | .s0 => 0 | .s1 => 1 | .c => 2 | .v0 => 3 | .v1 => 4 | .m => 5 | .x => 6 | .k => 7 | .o => 8
  | .fetch => 9 | .none => 15

/-! ## Operands of the slots (R117 to R127) -/

/-- The two scalar slots (R46). -/
inductive SUnit | s0 | s1
  deriving DecidableEq, Repr
/-- The two vector slots (R46). -/
inductive VUnit | v0 | v1
  deriving DecidableEq, Repr

/-- The slot of a scalar unit. -/
def SUnit.slot : SUnit → Slot | .s0 => .s0 | .s1 => .s1
/-- The slot of a vector unit. -/
def VUnit.slot : VUnit → Slot | .v0 => .v0 | .v1 => .v1

/-- A destination register with its nowb bit (R52). -/
structure Dst (n : Nat) where
  reg  : Fin n
  nowb : Bool
  deriving DecidableEq, Repr

/-- Source a of the S format: a register of the operation's class, or a latch (R127). -/
inductive SSrc
  | reg (r : Fin 64)
  | latch (q : Fin 16)
  deriving DecidableEq, Repr
/-- Source b of the S format: a register, a latch or a 12-bit signed immediate (R117, R127). -/
inductive SBSrc
  | reg (r : Fin 64)
  | latch (q : Fin 16)
  | imm (v : BitVec 12)
  deriving DecidableEq, Repr
/-- A source of the V format: a vector register, a latch, or the broadcast of s0 to s15 (R127). -/
inductive VSrc
  | reg (r : Fin 32)
  | latch (q : Fin 16)
  | bcast (s : Fin 16)
  deriving DecidableEq, Repr
/-- The fields etype, rnd, sat and mask of the V format (R119). -/
structure VMods where
  ety  : BitVec 4
  rnd  : BitVec 2
  sat  : Bool
  mask : Fin 8
  deriving DecidableEq, Repr
/-- The address offset of the M format: an immediate, or an index register with its scale (R120). -/
inductive MOff
  | imm (off : BitVec 16)
  | index (r : Fin 64) (sc : BitVec 2)
  deriving DecidableEq, Repr
/-- The shape fields of a solve routine: s[shp], or descriptors when shp is 0 (R231). -/
structure XShape where
  shp : Fin 64
  da  : Fin 16
  db  : Fin 16
  deriving DecidableEq, Repr
/-- The completion fields of the K format (R124, R125). -/
structure KDone where
  sc  : Fin 64
  lvl : BitVec 2
  deriving DecidableEq, Repr

/-! ## Operands of the device's own operations and events -/

/-- A context bank of a core (R65). -/
structure CtxId where
  core : Fin 128
  bank : Fin 2
  deriving DecidableEq, Repr

/-- The access paths that take K commands (R175, R253). -/
inductive KPath | copy | gather | collective
  deriving DecidableEq, Repr

/-- A trap ring: a context's own, or the device ring (R338). -/
inductive RingId
  | ctx (c : CtxId)
  | device
  deriving DecidableEq, Repr

/-- Bytes that Zenhel, the host or a remote device writes at a physical address. -/
structure ExtWrite where
  addr  : Nat
  bytes : List Byte
  deriving DecidableEq, Repr

/-- Zenhel's answer to a fault request (R396). -/
inductive FaultReply
  /-- The entry has been made valid or widened; the writes are those Zenhel made to do so. -/
  | retry (writes : List ExtWrite)
  | refuse
  deriving DecidableEq, Repr

/-- Who waits for Zenhel's answer: a lane (R397) or an engine command (R396). -/
inductive FaultParty
  | lane (c : CtxId)
  | command (id : Nat)
  deriving DecidableEq, Repr

/-- What a remote device answers to a FUTRD or FUTFILL (R311, R313, R348). -/
inductive FutureReply
  | value (v : Word)
  | empty
  | filled
  | mismatch
  | poisoned
  | linkError (code : BitVec 8)
  deriving DecidableEq, Repr

/-- An access that another device makes to a future homed here (R311). -/
inductive RemoteAccess
  | read (device record : Nat)
  | fill (device : Nat) (v : Word)
  deriving DecidableEq, Repr

/-- What a delivered Plibin flit brings that no event of its own stands for: acknowledgements (R312), the KA2A exchange
of virtual lane 0 (R183, R184), and what becomes of a remote KCPY issued here (R310). -/
inductive FlitLoad
  | none
  /-- Every flit of lane `vl` up to number `seq` has arrived. -/
  | ack (vl : Fin 4) (seq : Nat)
  /-- A party of device `device` posts: its rank, receive address and count of parties, and its counts for all ranks. -/
  | post (device : Nat) (asid : BitVec 12) (record rank rbase parties : Nat) (counts : List Nat)
  /-- Its count and payload for rank `dest` here. -/
  | data (asid : BitVec 12) (record rank dest : Nat) (bytes : List Byte)
  /-- It has reached visible level. -/
  | shown (asid : BitVec 12) (record rank : Nat)
  /-- Its round fails, with a link code where the link failed (R313, R405). -/
  | fail (asid : BitVec 12) (record : Nat) (code : BitVec 8)
  /-- Source bytes of a KCPY, by their physical address in the remote window. -/
  | copyData (id : Nat) (writes : List ExtWrite)
  /-- The remote device refuses a KCPY. -/
  | copyFail (id : Nat) (code : BitVec 8)
  /-- Device `device` has every byte that a KCPY writes there. -/
  | copyDone (device id : Nat)
  /-- The first flit of a KCPY of device `device`: the ranges it reads and writes here. -/
  | copyOpen (device : Nat) (reads writes : List (Nat × Nat))
  deriving DecidableEq, Repr

/-- What a Plibin receiver finds when it checks a flit (R312), and what the flit brings where it can be read. -/
inductive FlitCheck
  | whole (ld : FlitLoad)
  | corrected (ld : FlitLoad)
  | uncorrectable
  deriving DecidableEq, Repr
/-- A KCPY that another device runs, in so far as it touches this one: the device time of its first flit, the bytes it
reads here and the bytes it writes here (R310). -/
structure FarCopy where
  first  : Nat
  reads  : List (Nat × Nat)
  writes : List ExtWrite
  deriving DecidableEq, Repr

/-- What a soft error strikes (R382, R369). -/
inductive SoftTarget
  /-- A stored word of an accumulator, the checksum row and column (index 128) among them. -/
  | accWord (z : Fin 8) (row col : Fin 129) (flip : W32)
  /-- A parity error of an accumulator's tag. -/
  | accTag (z : Fin 8)
  /-- A parity error of an accumulator's recorded loss scale. -/
  | accScale (z : Fin 8)
  | pivotParity (pv : Fin 4)
  /-- Bits of a scalar register; its residue stays as it was. -/
  | scalar (r : Fin 64) (flip : Word)
  deriving DecidableEq, Repr

/-- What the actions of one boot stage establish (R306). -/
structure BootData where
  /-- Stage 3: the slot map of each core named (R62), and the self-test signature of the stepping (R419). -/
  slotmaps  : List (Fin 128 × Word)
  signature : W32
  /-- Stage 4: bytes behind each CXL port (R302), and whether the host link runs CXL.cache (R301). -/
  cxl     : List Nat
  hostCxl : Bool
  nvme    : BitVec 4
  /-- Stage 5: trained Plibin ports, the device number, and a port for each reachable device (R309). -/
  ports  : BitVec 16
  /-- The device at the far end of each port (R313). -/
  far    : List Half
  device : Half
  routes : List (Nat × Fin 16)
  /-- Stage 6: scheduler configuration writes (R317), memory written by Zenhel (R318, R338), free arena
  frames, and the trap ring of each context. -/
  config : List (Nat × Word)
  memory : List ExtWrite
  pool   : List Nat
  rings  : List (CtxId × Word)
  /-- Where BAR2 stands in die 0's DRAM (R301). -/
  staging : Nat
  /-- Frame attribute table entries: frame number and policy code (R77). -/
  policies : List (Nat × BitVec 2)
  deriving DecidableEq, Repr

/-- A neighbour-link flit of 32 bytes, as four words (R410), and the receiver's link over which it arrives; none where
the mesh has routed it and does not say (R413). -/
structure NFlit where
  w0 : Word
  w1 : Word
  w2 : Word
  w3 : Word
  hop : Option (Fin 4) := none
  deriving DecidableEq, Repr

/-- One instruction, operation or event of the device: one constructor for each row of the opcode table. -/
inductive Instr
  /- S slot (R139 to R148) -/
  | add (u : SUnit) (p : Fin 64) (d : Dst 64) (a : SSrc) (b : SBSrc)
  | sub (u : SUnit) (p : Fin 64) (d : Dst 64) (a : SSrc) (b : SBSrc)
  | mul (u : SUnit) (p : Fin 64) (d : Dst 64) (a : SSrc) (b : SBSrc)
  | mulh (u : SUnit) (p : Fin 64) (d : Dst 64) (a : SSrc) (b : SBSrc)
  | mulhn (u : SUnit) (p : Fin 64) (d : Dst 64) (a : SSrc) (b : SBSrc)
  | divs (u : SUnit) (p : Fin 64) (d : Dst 64) (a : SSrc) (b : SBSrc)
  | divn (u : SUnit) (p : Fin 64) (d : Dst 64) (a : SSrc) (b : SBSrc)
  | rems (u : SUnit) (p : Fin 64) (d : Dst 64) (a : SSrc) (b : SBSrc)
  | remn (u : SUnit) (p : Fin 64) (d : Dst 64) (a : SSrc) (b : SBSrc)
  | and (u : SUnit) (p : Fin 64) (d : Dst 64) (a : SSrc) (b : SBSrc)
  | or (u : SUnit) (p : Fin 64) (d : Dst 64) (a : SSrc) (b : SBSrc)
  | xor (u : SUnit) (p : Fin 64) (d : Dst 64) (a : SSrc) (b : SBSrc)
  | andn (u : SUnit) (p : Fin 64) (d : Dst 64) (a : SSrc) (b : SBSrc)
  | shl (u : SUnit) (p : Fin 64) (d : Dst 64) (a : SSrc) (b : SBSrc)
  | shr (u : SUnit) (p : Fin 64) (d : Dst 64) (a : SSrc) (b : SBSrc)
  | sra (u : SUnit) (p : Fin 64) (d : Dst 64) (a : SSrc) (b : SBSrc)
  | min (u : SUnit) (p : Fin 64) (d : Dst 64) (a : SSrc) (b : SBSrc)
  | max (u : SUnit) (p : Fin 64) (d : Dst 64) (a : SSrc) (b : SBSrc)
  | minn (u : SUnit) (p : Fin 64) (d : Dst 64) (a : SSrc) (b : SBSrc)
  | maxn (u : SUnit) (p : Fin 64) (d : Dst 64) (a : SSrc) (b : SBSrc)
  | movi (u : SUnit) (p : Fin 64) (d : Dst 64) (imm : BitVec 20)
  | movk (u : SUnit) (p : Fin 64) (d : Dst 64) (v : Half) (h : BitVec 2)
  | lea (u : SUnit) (p : Fin 64) (d : Dst 64) (a : SSrc) (b : SBSrc)
  | sext (u : SUnit) (p : Fin 64) (d : Dst 64) (a : SSrc) (w : BitVec 12)
  | zext (u : SUnit) (p : Fin 64) (d : Dst 64) (a : SSrc) (w : BitVec 12)
  | popc (u : SUnit) (p : Fin 64) (d : Dst 64) (a : SSrc)
  | clz (u : SUnit) (p : Fin 64) (d : Dst 64) (a : SSrc)
  | ctz (u : SUnit) (p : Fin 64) (d : Dst 64) (a : SSrc)
  | bext (u : SUnit) (p : Fin 64) (d : Dst 64) (a : SSrc) (b : SBSrc)
  | bins (u : SUnit) (p : Fin 64) (d : Dst 64) (a : SSrc) (b : SBSrc)
  | cmpeq (u : SUnit) (p : Fin 64) (d : Dst 64) (a : SSrc) (b : SBSrc)
  | cmpne (u : SUnit) (p : Fin 64) (d : Dst 64) (a : SSrc) (b : SBSrc)
  | cmplt (u : SUnit) (p : Fin 64) (d : Dst 64) (a : SSrc) (b : SBSrc)
  | cmple (u : SUnit) (p : Fin 64) (d : Dst 64) (a : SSrc) (b : SBSrc)
  | cmpltn (u : SUnit) (p : Fin 64) (d : Dst 64) (a : SSrc) (b : SBSrc)
  | cmplen (u : SUnit) (p : Fin 64) (d : Dst 64) (a : SSrc) (b : SBSrc)
  | sel (u : SUnit) (p : Fin 64) (d : Dst 64) (a : SSrc) (b : SBSrc)
  | pand (u : SUnit) (p : Fin 64) (d : Dst 64) (a b : SSrc)
  | por (u : SUnit) (p : Fin 64) (d : Dst 64) (a b : SSrc)
  | pxor (u : SUnit) (p : Fin 64) (d : Dst 64) (a b : SSrc)
  | pandn (u : SUnit) (p : Fin 64) (d : Dst 64) (a b : SSrc)
  | pmov (u : SUnit) (p : Fin 64) (d : Dst 64) (a : SSrc)
  | ptos (u : SUnit) (p : Fin 64) (d : Dst 64) (a : SSrc)
  | dset (u : SUnit) (p : Fin 64) (d : Dst 16) (a : SSrc) (f : Fin 8)
  | dget (u : SUnit) (p : Fin 64) (d : Dst 64) (a : Fin 16) (f : Fin 8)
  | crrd (u : SUnit) (p : Fin 64) (d : Dst 64) (num : BitVec 12)
  | crwr (u : SUnit) (p : Fin 64) (a : SSrc) (num : BitVec 12)
  | sfld (u : SUnit) (p : Fin 64) (d : Dst 64) (a : SSrc) (fld : BitVec 12)
  | fadds (u : SUnit) (p : Fin 64) (d : Dst 64) (a b : SSrc)
  | fmuls (u : SUnit) (p : Fin 64) (d : Dst 64) (a b : SSrc)
  | fcmplt (u : SUnit) (p : Fin 64) (d : Dst 64) (a b : SSrc)
  | fcvtis (u : SUnit) (p : Fin 64) (d : Dst 64) (a : SSrc) (rm : BitVec 2)
  | fcvtsi (u : SUnit) (p : Fin 64) (d : Dst 64) (a : SSrc) (rm : BitVec 2) (sat : Bool)
  /- C slot (R149) -/
  | br (p : Fin 64) (off : BitVec 20)
  | brs (p : Fin 64) (a : Fin 64)
  | call (p : Fin 64) (off : BitVec 20)
  | ret (p : Fin 64) (a : Fin 64)
  | loop (p : Fin 64) (a : Fin 64) (e : Byte)
  | loopi (p : Fin 64) (n : BitVec 12) (e : Byte)
  | tail (p : Fin 64) (a : Fin 64)
  | phase (p : Fin 64)
  | fence (p : Fin 64) (m : BitVec 5)
  | waiteq (p : Fin 64) (a b : Fin 64)
  | waitge (p : Fin 64) (a b : Fin 64)
  | hwait (p : Fin 64) (h : Fin 8) (b : Fin 64)
  | hrel (p : Fin 64) (h : Fin 8) (b : Fin 64)
  | hset (p : Fin 64) (h : Fin 8) (a : Fin 64) (sp : BitVec 3)
  | trap (p : Fin 64) (c : Byte) (a : Fin 64)
  | bkpt (p : Fin 64) (c : Byte)
  /- M slot (R164) -/
  | ld (p : Fin 64) (d : Dst 64) (base : Fin 64) (off : MOff) (ty : BitVec 4)
  | st (p : Fin 64) (d : Fin 64) (base : Fin 64) (off : MOff) (ty : BitVec 4)
  | ldg (p : Fin 64) (d : Dst 64) (base : Fin 64) (off : MOff) (ty : BitVec 4)
  | stg (p : Fin 64) (d : Fin 64) (base : Fin 64) (off : MOff) (ty : BitVec 4)
  | vld (p : Fin 64) (d : Dst 32) (base : Fin 64) (off : MOff) (ty : BitVec 4)
  | vst (p : Fin 64) (d : Fin 32) (base : Fin 64) (off : MOff) (ty : BitVec 4)
  | vlds (p : Fin 64) (d : Dst 32) (base : Fin 64) (pitch : MOff) (ty : BitVec 4)
  | vsts (p : Fin 64) (d : Fin 32) (base : Fin 64) (pitch : MOff) (ty : BitVec 4)
  | vldx (p : Fin 64) (d : Dst 32) (base : Fin 64) (vi : Fin 32) (sc : BitVec 2) (ty : BitVec 4)
  | vstx (p : Fin 64) (d : Fin 32) (base : Fin 64) (vi : Fin 32) (sc : BitVec 2) (ty : BitVec 4)
  | vldt (p : Fin 64) (d : Dst 32) (base : Fin 64) (dn : Fin 16)
  | vstt (p : Fin 64) (d : Fin 32) (base : Fin 64) (dn : Fin 16)
  | ldb (p : Fin 64) (d : Fin 64) (base : Fin 64) (off : MOff)
  | amadd (p : Fin 64) (d : Fin 64) (base : Fin 64) (off : MOff) (ty : BitVec 4)
  | ammax (p : Fin 64) (d : Fin 64) (base : Fin 64) (off : MOff) (ty : BitVec 4)
  | ammin (p : Fin 64) (d : Fin 64) (base : Fin 64) (off : MOff) (ty : BitVec 4)
  | amand (p : Fin 64) (d : Fin 64) (base : Fin 64) (off : MOff) (ty : BitVec 4)
  | amor (p : Fin 64) (d : Fin 64) (base : Fin 64) (off : MOff) (ty : BitVec 4)
  | futrd (p : Fin 64) (d : Dst 64) (base : Fin 64) (off : MOff)
  | futfill (p : Fin 64) (d : Fin 64) (base : Fin 64) (off : MOff)
  | kst (p : Fin 64) (d : Fin 64) (base : Fin 64) (off : MOff)
  | dld (p : Fin 64) (d : Fin 16) (base : Fin 64) (off : MOff)
  | dst (p : Fin 64) (d : Fin 16) (base : Fin 64) (off : MOff)
  | vldsc (p : Fin 64) (d : Dst 32) (base : Fin 64) (off : MOff) (ty : BitVec 4)
  /- V slot (R189) -/
  | vadd (u : VUnit) (p : Fin 64) (d : Dst 32) (a b : VSrc) (m : VMods)
  | vsub (u : VUnit) (p : Fin 64) (d : Dst 32) (a b : VSrc) (m : VMods)
  | vmul (u : VUnit) (p : Fin 64) (d : Dst 32) (a b : VSrc) (m : VMods)
  | vfma (u : VUnit) (p : Fin 64) (d : Dst 32) (a b c : VSrc) (m : VMods)
  | vfms (u : VUnit) (p : Fin 64) (d : Dst 32) (a b c : VSrc) (m : VMods)
  | vfnma (u : VUnit) (p : Fin 64) (d : Dst 32) (a b c : VSrc) (m : VMods)
  | vmin (u : VUnit) (p : Fin 64) (d : Dst 32) (a b : VSrc) (m : VMods)
  | vmax (u : VUnit) (p : Fin 64) (d : Dst 32) (a b : VSrc) (m : VMods)
  | vabs (u : VUnit) (p : Fin 64) (d : Dst 32) (a : VSrc) (m : VMods)
  | vneg (u : VUnit) (p : Fin 64) (d : Dst 32) (a : VSrc) (m : VMods)
  | vcpys (u : VUnit) (p : Fin 64) (d : Dst 32) (a b : VSrc) (m : VMods)
  | vand (u : VUnit) (p : Fin 64) (d : Dst 32) (a b : VSrc) (m : VMods)
  | vor (u : VUnit) (p : Fin 64) (d : Dst 32) (a b : VSrc) (m : VMods)
  | vxor (u : VUnit) (p : Fin 64) (d : Dst 32) (a b : VSrc) (m : VMods)
  | vshl (u : VUnit) (p : Fin 64) (d : Dst 32) (a b : VSrc) (m : VMods)
  | vshr (u : VUnit) (p : Fin 64) (d : Dst 32) (a b : VSrc) (m : VMods)
  | vsra (u : VUnit) (p : Fin 64) (d : Dst 32) (a b : VSrc) (m : VMods)
  | vcmpeq (u : VUnit) (p : Fin 64) (d : Dst 8) (a b : VSrc) (m : VMods)
  | vcmplt (u : VUnit) (p : Fin 64) (d : Dst 8) (a b : VSrc) (m : VMods)
  | vcmple (u : VUnit) (p : Fin 64) (d : Dst 8) (a b : VSrc) (m : VMods)
  | vcmpne (u : VUnit) (p : Fin 64) (d : Dst 8) (a b : VSrc) (m : VMods)
  | vclass (u : VUnit) (p : Fin 64) (d : Dst 32) (a : VSrc) (m : VMods)
  | vsel (u : VUnit) (p : Fin 64) (d : Dst 32) (a b : VSrc) (ks : Fin 8)
  | vrcp (u : VUnit) (p : Fin 64) (d : Dst 32) (a : VSrc) (m : VMods)
  | vrsqrt (u : VUnit) (p : Fin 64) (d : Dst 32) (a : VSrc) (m : VMods)
  | vsqrt (u : VUnit) (p : Fin 64) (d : Dst 32) (a : VSrc) (m : VMods)
  | vexp2 (u : VUnit) (p : Fin 64) (d : Dst 32) (a : VSrc) (m : VMods)
  | vlog2 (u : VUnit) (p : Fin 64) (d : Dst 32) (a : VSrc) (m : VMods)
  | vtanh (u : VUnit) (p : Fin 64) (d : Dst 32) (a : VSrc) (m : VMods)
  | vcvt (u : VUnit) (p : Fin 64) (d : Dst 32) (a : VSrc) (m : VMods)
  | vscale (u : VUnit) (p : Fin 64) (d : Dst 32) (a b : VSrc) (m : VMods)
  | vquant (u : VUnit) (p : Fin 64) (d : Dst 32) (a b : VSrc) (m : VMods)
  | vradd (u : VUnit) (p : Fin 64) (d : Dst 32) (a : VSrc) (m : VMods)
  | vrmax (u : VUnit) (p : Fin 64) (d : Dst 32) (a : VSrc) (m : VMods)
  | vrmin (u : VUnit) (p : Fin 64) (d : Dst 32) (a : VSrc) (m : VMods)
  | vbcast (u : VUnit) (p : Fin 64) (d : Dst 32) (a b : VSrc) (mask : Fin 8)
  | vperm (u : VUnit) (p : Fin 64) (d : Dst 32) (a b c : VSrc) (mask : Fin 8)
  | vrotl (u : VUnit) (p : Fin 64) (d : Dst 32) (a b : VSrc) (mask : Fin 8)
  | viota (u : VUnit) (p : Fin 64) (d : Dst 32) (a : VSrc) (m : VMods)
  | vmovk (u : VUnit) (p : Fin 64) (d : Dst 8) (a b : Fin 8) (op : BitVec 5)
  | kpopc (u : VUnit) (p : Fin 64) (d : Dst 32) (a : Fin 8) (mask : Fin 8)
  | vsig (u : VUnit) (p : Fin 64) (d : Dst 32) (a : VSrc) (h : Fin 16) (ety : BitVec 4)
  | vmov (u : VUnit) (p : Fin 64) (d : Dst 32) (a : VSrc) (mask : Fin 8)
  | vextr (u : VUnit) (p : Fin 64) (d : Dst 32) (a b : VSrc)
  | vins (u : VUnit) (p : Fin 64) (d : Dst 32) (a b c : VSrc)
  | vscan (u : VUnit) (p : Fin 64) (d : Dst 32) (a : VSrc) (m : VMods)
  /- X slot (R211, R231) -/
  | mzero (p : Fin 64) (zd : Fin 8) (bar : Fin 64)
  | mmul (p : Fin 64) (zd : Fin 8) (da db : Fin 16) (shp : Fin 64) (set : Bool) (bar : Fin 64)
  | mopa (p : Fin 64) (zd : Fin 8) (da db : Fin 16) (shp : Fin 64) (set : Bool) (bar : Fin 64)
  | macc (p : Fin 64) (zd zs : Fin 8) (bar : Fin 64)
  | mscl (p : Fin 64) (zd : Fin 8) (shp : Fin 64) (val : Bool) (bar : Fin 64)
  | mdrn (p : Fin 64) (db : Fin 16) (zs : Fin 8) (sat unscale : Bool) (bar : Fin 64)
  | mldz (p : Fin 64) (zd : Fin 8) (da : Fin 16) (ls : Bool) (bar : Fin 64)
  | mtrn (p : Fin 64) (zd zs : Fin 8) (bar : Fin 64)
  | mcopy (p : Fin 64) (zd zs : Fin 8) (bar : Fin 64)
  | mlu (p : Fin 64) (zd : Fin 8) (pv : Fin 4) (sh : XShape) (bar : Fin 64)
  | mchol (p : Fin 64) (zd : Fin 8) (sh : XShape) (bar : Fin 64)
  | mtrs (p : Fin 64) (zd zs : Fin 8) (up unit : Bool) (sh : XShape) (bar : Fin 64)
  | mqr (p : Fin 64) (zd zs : Fin 8) (sh : XShape) (bar : Fin 64)
  | msolve (p : Fin 64) (zd zs : Fin 8) (pv : Fin 4) (sh : XShape) (bar : Fin 64)
  | mresume (p : Fin 64) (bar : Fin 64)
  | mperm (p : Fin 64) (zd : Fin 8) (pv : Fin 4) (sh : XShape) (bar : Fin 64)
  | mnorm (p : Fin 64) (zs : Fin 8) (sh : XShape) (bar : Fin 64)
  /- K slot (R175) -/
  | kcpy (p : Fin 64) (dd ds : Fin 16) (k : KDone)
  | kmcst (p : Fin 64) (dd ds : Fin 16) (sa : Fin 64) (k : KDone)
  | kred (p : Fin 64) (dd ds : Fin 16) (k : KDone)
  | kidx (p : Fin 64) (sa : Fin 64)
  | kgth (p : Fin 64) (dd ds : Fin 16) (sa : Fin 64) (k : KDone)
  | ksct (p : Fin 64) (dd ds : Fin 16) (sa : Fin 64) (k : KDone)
  | kroute (p : Fin 64) (dd ds : Fin 16) (sa sb : Fin 64) (k : KDone)
  | ka2a (p : Fin 64) (dd ds : Fin 16) (sa sb : Fin 64) (k : KDone)
  | kgat (p : Fin 64) (dd : Fin 16) (sa sb : Fin 64) (k : KDone)
  | kring (p : Fin 64) (ds : Fin 16) (e : Bool) (k : KDone)
  | kfill (p : Fin 64) (dd : Fin 16) (sa : Fin 64) (k : KDone)
  /- O slot (R224) -/
  | osgd (p : Fin 64) (z : Fin 8) (row : Fin 128) (dw : Fin 16)
  | omom (p : Fin 64) (z : Fin 8) (row : Fin 128) (dw dx : Fin 16)
  | oadam (p : Fin 64) (z : Fin 8) (row : Fin 128) (dw dx : Fin 16)
  | oclip (p : Fin 64) (d a b : Fin 8)
  | oscl (p : Fin 64) (ds : Fin 16) (n : Fin 128)
  | ogsq (p : Fin 64) (z : Fin 8) (row : Fin 128) (dx : Fin 16)
  /- Lanes, bundles and gangs -/
  | syncBundle (c : CtxId)
  | syncRelease (c : CtxId)
  | endOfStepBundle (c : CtxId)
  | laneFinish (c : CtxId)
  | resultLand (c : CtxId)
  | bankSwitch (core : Fin 128)
  | waitSatisfied (c : CtxId)
  | hwaitSatisfied (c : CtxId)
  | remoteFutureAnswer (c : CtxId) (r : FutureReply)
  | remoteWakeUp (die : Fin 4) (record : Nat) (v : Word)
  /- Engines -/
  | projectionCacheFill (core : Fin 128) (hcb : Nat)
  | xBarrierSatisfied (c : CtxId)
  | matrixEngineStep (c : CtxId)
  | matrixStepReplay (c : CtxId)
  | kCommandStart (id : Nat)
  | sourceReadDone (id : Nat)
  | visibleLevel (id : Nat)
  | commandError (id : Nat)
  | kredAccept (id : Nat)
  | kringClaim (id : Nat)
  | ka2aSend (id : Nat) (party : Nat)
  | ka2aRoundAdvance (asid : BitVec 12) (record : Nat)
  | loadBlockResident (id : Nat)
  | closeWriteArrival (c : CtxId)
  | trapRingConsume (r : RingId) (cons : W32)
  | dataPoison (loc : Nat)
  | faultAnswer (who : FaultParty) (r : FaultReply)
  /- Mailbox commands, taken by Zenhel from mailbox `mb` (R303) -/
  | submitGraph (mb : Fin 16)
  | loadModule (mb : Fin 16)
  | preemptNode (mb : Fin 16)
  | preemptAsid (mb : Fin 16)
  | resumeNode (mb : Fin 16)
  | setDebugging (mb : Fin 16)
  | releaseBreakpoint (mb : Fin 16)
  | abortNodes (mb : Fin 16)
  | poisonFuture (mb : Fin 16)
  | mailboxReservedCommand (mb : Fin 16)
  /- Scheduling -/
  | dispatchDecision (die : Fin 4)
  | clusterClaim (die : Fin 4)
  | traceReplayDispatch (core : Fin 128)
  | traceWaitTimeout (core : Fin 128)
  | traceFullClear (asid : BitVec 12) (base : Nat) (nrec : W32)
  | stepSnapshotSave (c : CtxId)
  | stepStart (c : CtxId)
  | nodeActivation (asid : BitVec 12) (opb : Nat)
  | randomBufferFill (asid : BitVec 12) (opb : Nat)
  | nodeRetirement (asid : BitVec 12) (opb : Nat)
  | slotBoundary
  | watchdogExpiry (c : CtxId)
  | preemptionSave (asid : BitVec 12) (opb : Nat)
  | saveAbandon (c : CtxId)
  /- Boot, configuration, monitors -/
  | moduleReset
  | bootStageComplete (d : BootData)
  | configRegisterWrite (off : Nat) (v : Word)
  | monitorSample (mon : Fin 32) (v : Word)
  | monitorClear (mon : Fin 32)
  | counterClear (core : Fin 128)
  /- Plibin link -/
  | flitReceive (port : Fin 16) (vl : Fin 4) (seq : Nat) (chk : FlitCheck)
  | flitReplay (port : Fin 16) (vl : Fin 4) (seq : Nat)
  | pauseFlit (port : Fin 16) (vl : Fin 3)
  | resumeFlit (port : Fin 16) (vl : Fin 3)
  | remoteKcpyArrival (device : Nat) (copy : FarCopy)
  /- Neighbour voting and fencing -/
  | heartbeatSend (core : Fin 128)
  | heartbeatReceive (core : Fin 128) (dir : Fin 4) (f : NFlit)
  | heartbeatPeriodEnd (core : Fin 128)
  | voteReceive (core : Fin 128) (f : NFlit)
  | fenceNotice (core : Fin 128) (f : NFlit)
  | selfTestComplete (core : Fin 128) (sig : W32)
  | appealReceive (core : Fin 128) (f : NFlit)
  | reinstatementNotice (core : Fin 128) (f : NFlit)
  | controlHeartbeat (ctl : Fin 8)
  | standbyTakeover (ctl : Fin 8)
  /- Changes of the outside world -/
  | cxlDeviceRemoved (port : Fin 4) (base size : Nat)
  | portDown (port : Fin 16)
  | portRetrained (port : Fin 16)
  | softError (c : CtxId) (during : Bool) (t : SoftTarget)
  | translationInvalidation (asid : BitVec 12) (va : Nat) (writes : List ExtWrite)
  | remoteFutureAccess (asid : BitVec 12) (addr : Nat) (a : RemoteAccess)
  deriving DecidableEq, Repr

end Sys2Proof
end

