-- ==== Sys2Proof/WellFormed.lean ====
section
/-!
DEFINITION. Which instruction terms are instructions: the limits the entries of the manual put on the fields
(R116, R137 to R149, R164, R172, R188, R189, R211, R231, R125). The operand types already exclude what no field can
hold; each check below is a limit an encoding can break, and breaking it is the fate 0x04 of R367.
-/
namespace Sys2Proof

/-- Control-register numbers a step may name (R162). -/
def crNameable (n : Nat) : Bool :=
  n ≤ 0x008 || (0x010 ≤ n && n ≤ 0x017) || (0x020 ≤ n && n ≤ 0x02B) || (0x030 ≤ n && n ≤ 0x037) ||
    n = 0x040 || n = 0x041

/-- Integer element types, as the letter I of R188. -/
def etInt (e : BitVec 4) : Bool := e = 0 || (7 ≤ e.toNat && e.toNat ≤ 12)
/-- Floating element types, as the letter F of R188. -/
def etFloat (e : BitVec 4) : Bool := e = 1 || e = 2 || e = 3

/-- Memory types 0 to 5 and 7 to 12 (R164). -/
def tyPlain (t : BitVec 4) : Bool := t.toNat ≤ 5 || (7 ≤ t.toNat && t.toNat ≤ 12)
/-- Memory types 0 to 12 (R164). -/
def tyAll (t : BitVec 4) : Bool := t.toNat ≤ 12
/-- Types of AMADD, AMMAX and AMMIN (R172). -/
def tyUpdate (t : BitVec 4) : Bool := t.toNat ≤ 3 || (7 ≤ t.toNat && t.toNat ≤ 12)
/-- Types of AMAND and AMOR (R172). -/
def tyBitUpdate (t : BitVec 4) : Bool := t = 0 || (7 ≤ t.toNat && t.toNat ≤ 12)

/-- rnd and sat where the row of R189 says "both": rnd is reserved zero for an integer type (R188). -/
def vBoth (m : VMods) : Bool := (etInt m.ety && m.rnd = 0) || etFloat m.ety
/-- rnd and sat reserved. -/
def vPlain (m : VMods) : Bool := m.rnd = 0 && !m.sat

/-- The completion limits of R125. -/
def KDone.wf (k : KDone) : Bool :=
  if k.lvl = 0 then k.sc = 0 else if k.lvl = 3 then 1 ≤ k.sc.val && k.sc.val ≤ 60
  else 1 ≤ k.sc.val && k.sc.val ≤ 62

/-- Barrier registers are 0 to 62 (R123). -/
def barOk (b : Fin 64) : Bool := b.val ≤ 62
/-- With shp 1 to 63 da and db are zero (R231). -/
def XShape.wf2 (s : XShape) : Bool := s.shp = 0 || (s.da = 0 && s.db = 0)
/-- As wf2, and db is zero where the routine names dA only (R231). -/
def XShape.wf1 (s : XShape) : Bool := s.wf2 && s.db = 0
/-- The factor accumulator of MSOLVE (R231). -/
def zfOf (zs : Fin 8) : Fin 8 := zs + 1

/-- Vector types 0 to 5 and 7 to 12 (R189, bitwise logic). -/
def etLogic (e : BitVec 4) : Bool := tyPlain e

/-- The well-formed instructions. -/
def Instr.wf : Instr → Bool
  | .sext _ _ _ _ w | .zext _ _ _ _ w => 1 ≤ w.toNat && w.toNat ≤ 64
  | .crrd _ _ _ n => crNameable n.toNat
  | .crwr _ _ _ n => crNameable n.toNat
  | .sfld _ _ _ _ i => i.toNat ≤ 5
  | .brs _ a | .ret _ a | .tail _ a => a ≠ 0
  | .loop _ _ e => e ≠ 0
  | .loopi _ _ e => e ≠ 0
  | .fence _ m => m ≠ 0
  | .waiteq _ a _ | .waitge _ a _ => a ≠ 0
  | .hwait _ _ b | .hrel _ _ b => b ≠ 0
  | .hset _ _ a sp => a ≠ 0 && (sp = 0 || sp = 1 || sp = 4)
  | .ld _ _ _ _ t | .st _ _ _ _ t | .ldg _ _ _ _ t | .stg _ _ _ _ t => tyPlain t
  | .vld _ _ _ _ t | .vst _ _ _ _ t => tyAll t
  | .vlds _ _ _ _ t | .vsts _ _ _ _ t | .vldx _ _ _ _ _ t | .vstx _ _ _ _ _ t => tyPlain t
  | .ldb _ d _ _ => 1 ≤ d.val && d.val ≤ 62
  | .amadd _ _ _ _ t | .ammax _ _ _ _ t | .ammin _ _ _ _ t => tyUpdate t
  | .amand _ _ _ _ t | .amor _ _ _ _ t => tyBitUpdate t
  | .vldsc _ _ _ _ t => 1 ≤ t.toNat && t.toNat ≤ 6
  | .vadd _ _ _ _ _ m | .vsub _ _ _ _ _ m | .vmul _ _ _ _ _ m => vBoth m
  | .vfma _ _ _ _ _ _ m | .vfms _ _ _ _ _ _ m | .vfnma _ _ _ _ _ _ m => etFloat m.ety
  | .vmin _ _ _ _ _ m | .vmax _ _ _ _ _ m => (etInt m.ety || etFloat m.ety) && vPlain m
  | .vabs _ _ _ _ m | .vneg _ _ _ _ m => m.rnd = 0 && (etInt m.ety || (etFloat m.ety && !m.sat))
  | .vcpys _ _ _ _ _ m => etFloat m.ety && vPlain m
  | .vand _ _ _ _ _ m | .vor _ _ _ _ _ m | .vxor _ _ _ _ _ m => etLogic m.ety && vPlain m
  | .vshl _ _ _ _ _ m | .vshr _ _ _ _ _ m | .vsra _ _ _ _ _ m => etInt m.ety && vPlain m
  | .vcmpeq _ _ _ _ _ m | .vcmplt _ _ _ _ _ m | .vcmple _ _ _ _ _ m | .vcmpne _ _ _ _ _ m =>
      (etInt m.ety || etFloat m.ety) && vPlain m
  | .vclass _ _ _ _ m => 1 ≤ m.ety.toNat && m.ety.toNat ≤ 5 && vPlain m
  | .vrcp _ _ _ _ m | .vrsqrt _ _ _ _ m | .vsqrt _ _ _ _ m | .vexp2 _ _ _ _ m | .vlog2 _ _ _ _ m
  | .vtanh _ _ _ _ m => etFloat m.ety
  | .vcvt _ _ _ _ m => tyPlain m.ety && m.ety ≠ 0
  | .vscale _ _ _ _ _ m => etFloat m.ety
  | .vquant _ _ _ _ _ m => m.ety = 2 || m.ety = 3 || m.ety = 4 || m.ety = 5 || m.ety = 7
  | .vradd _ _ _ _ m | .vscan _ _ _ _ m => vBoth m
  | .vrmax _ _ _ _ m | .vrmin _ _ _ _ m => (etInt m.ety || etFloat m.ety) && vPlain m
  | .viota _ _ _ _ m => etInt m.ety && vPlain m
  | .vmovk _ _ _ _ b op => op.toNat ≤ 6 && (op.toNat < 4 || b = 0)
  | .vsig _ _ _ _ _ e => e = 1 || e = 2
  | .mzero _ _ bar | .macc _ _ _ bar | .mdrn _ _ _ _ _ bar | .mldz _ _ _ _ bar | .mtrn _ _ _ bar
  | .mcopy _ _ _ bar | .mresume _ bar => barOk bar
  | .mmul _ _ _ _ _ _ bar | .mopa _ _ _ _ _ _ bar => barOk bar
  | .mscl _ _ shp val bar => barOk bar && (val = (shp ≠ 0))
  | .mlu _ _ _ sh bar => barOk bar && sh.wf1
  | .mchol _ _ sh bar => barOk bar && sh.wf1
  | .mtrs _ zd zs _ _ sh bar => barOk bar && sh.wf2 && zd ≠ zs
  | .mqr _ zd zs sh bar => barOk bar && sh.wf2 && zd ≠ zs
  | .msolve _ zd zs _ sh bar => barOk bar && sh.wf2 && zd ≠ zs && zd ≠ zfOf zs
  | .mperm _ _ _ sh bar => barOk bar && sh.wf1
  | .mnorm _ _ sh bar => barOk bar && sh.wf1
  | .kcpy _ _ _ k | .kmcst _ _ _ _ k | .kred _ _ _ k | .kgth _ _ _ _ k | .ksct _ _ _ _ k
  | .kroute _ _ _ _ _ k | .ka2a _ _ _ _ _ k | .kgat _ _ _ _ k | .kring _ _ _ k | .kfill _ _ _ k => k.wf
  | _ => true

end Sys2Proof
end

