-- ==== Sys2Proof/Decode.lean ====
section
/-!
DEFINITION. The decoder of bundles and slots, total on any bits (R112 to R136), and after it the encoder.
A slot that is no instruction is rejected with the code and the lowest offending bit that R367 gives: 0x03 for a
reserved opcode, 0x04 for a reserved bit, a reserved value or a field outside its limit.
-/
namespace Sys2Proof

/-- Why a slot's bits are no instruction: the code of R367 and the slot-relative lowest offending bit. -/
structure DecErr where
  code : Byte
  bit  : Nat
  deriving DecidableEq, Repr

/-- The lowest position among the checks that fail. -/
def firstBad : List (Nat × Bool) → Option Nat
  | [] => none
  | (b, ok) :: l =>
    match firstBad l with
    | some c => if ok then some c else some (if b ≤ c then b else c)
    | none => if ok then none else some b

/-- One check for each of the `w` bits of `x` from `lo`, which are reserved zero (R116). -/
def zeros {n : Nat} (x : BitVec n) (lo : Nat) : Nat → List (Nat × Bool)
  | 0 => []
  | w + 1 => (lo + w, !x.getLsbD (lo + w)) :: zeros x lo w

/-- One limit of a field whose lowest bit is `b`. -/
def lim (b : Nat) (ok : Bool) : List (Nat × Bool) := [(b, ok)]

/-- The instruction if every check holds, else 0x04 at the lowest offending bit (R367). -/
def judge (checks : List (Nat × Bool)) (i : Instr) : Except DecErr Instr :=
  match firstBad checks with
  | none => .ok i
  | some b => .error ⟨0x04, b⟩

/-- Opcode zero with another bit set (R115, R367). -/
def judgeNop {n : Nat} (x : BitVec n) (ow : Nat) : DecErr :=
  ⟨0x04, (firstBad (zeros x ow (n - ow))).getD ow⟩

/-- A reserved opcode (R135, R367). -/
def reservedOp : Except DecErr Instr := .error ⟨0x03, 0⟩

/-- Bits [lo+w-1 : lo] of `x` as a register number. -/
def fieldFin {n : Nat} (x : BitVec n) (lo : Nat) (m : Nat) [NeZero m] : Fin m := Fin.ofNat m (x.toNat >>> lo)

/-- Bits [lo+w-1 : lo] of `x`. -/
def fieldBV {n : Nat} (x : BitVec n) (lo w : Nat) : BitVec w := BitVec.ofNat w (x.toNat >>> lo)

/-! ## S format (R117, R137) -/

/-- The destination of an S-slot operation. -/
def sDst (x : BitVec 40) : Dst 64 := ⟨fieldFin x 6 64, bitAt x 12⟩
/-- Source a: alat chooses a latch (R127). -/
def sA (x : BitVec 40) : SSrc := if bitAt x 13 then .latch (fieldFin x 14 16) else .reg (fieldFin x 14 64)
/-- A latch number of 16 to 63 is reserved (R117). -/
def sAok (x : BitVec 40) : List (Nat × Bool) := if bitAt x 13 then zeros x 18 2 else []
/-- Source b in register or latch form, or as the immediate. -/
def sB (x : BitVec 40) : SBSrc :=
  if bitAt x 20 then .imm (fieldBV x 22 12)
  else if bitAt x 21 then .latch (fieldFin x 22 16) else .reg (fieldFin x 22 64)
/-- Source b in register or latch form only. -/
def sBr (x : BitVec 40) : SSrc := if bitAt x 21 then .latch (fieldFin x 22 16) else .reg (fieldFin x 22 64)
/-- Limits of b where only a register or a latch may stand: bimm zero, b[33:28] zero, latch below 16. DEDUCED (log
entry 66): "b[11:3] is zero" (R148, R376) limits the immediate that codes mode and saturate, in FCVTIS and FCVTSI; b of
FADDS, FMULS and FCMPLT is a register of R137, s0 to s63, or a latch. -/
def sBrok (x : BitVec 40) : List (Nat × Bool) :=
  (20, !bitAt x 20) :: zeros x 28 6 ++ (if bitAt x 21 then zeros x 26 2 else [])
/-- Limits of b in every form: bimm and blat not both set (R117). -/
def sBok (x : BitVec 40) : List (Nat × Bool) :=
  if bitAt x 20 then lim 20 (!bitAt x 21)
  else zeros x 28 6 ++ (if bitAt x 21 then zeros x 26 2 else [])
/-- b is an immediate only. -/
def sImm (x : BitVec 40) : List (Nat × Bool) := lim 20 (bitAt x 20) ++ lim 21 (!bitAt x 21)
/-- b is not used: its field and selection bits are zero. -/
def sNoB (x : BitVec 40) : List (Nat × Bool) := zeros x 20 14
/-- a is not used. -/
def sNoA (x : BitVec 40) : List (Nat × Bool) := zeros x 13 7

/-- Decode an S slot (R117, R135, R137 to R148); `none` is the NOP of R115. -/
def decodeS (u : SUnit) (x : BitVec 40) : Except DecErr (Option Instr) :=
  if x = 0 then .ok none else
  let p : Fin 64 := fieldFin x 34 64
  let d := sDst x
  let imm12 : BitVec 12 := fieldBV x 22 12
  some <$> match bits x 0 6 with
  | 0x00 => .error (judgeNop x 6)
  | 0x01 => judge (sAok x ++ sBok x) (.add u p d (sA x) (sB x))
  | 0x02 => judge (sAok x ++ sBok x) (.sub u p d (sA x) (sB x))
  | 0x03 => judge (sAok x ++ sBok x) (.mul u p d (sA x) (sB x))
  | 0x04 => judge (sAok x ++ sBok x) (.mulh u p d (sA x) (sB x))
  | 0x05 => judge (sAok x ++ sBok x) (.mulhn u p d (sA x) (sB x))
  | 0x06 => judge (sAok x ++ sBok x) (.divs u p d (sA x) (sB x))
  | 0x07 => judge (sAok x ++ sBok x) (.divn u p d (sA x) (sB x))
  | 0x08 => judge (sAok x ++ sBok x) (.rems u p d (sA x) (sB x))
  | 0x09 => judge (sAok x ++ sBok x) (.remn u p d (sA x) (sB x))
  | 0x0A => judge (sAok x ++ sBok x) (.and u p d (sA x) (sB x))
  | 0x0B => judge (sAok x ++ sBok x) (.or u p d (sA x) (sB x))
  | 0x0C => judge (sAok x ++ sBok x) (.xor u p d (sA x) (sB x))
  | 0x0D => judge (sAok x ++ sBok x) (.andn u p d (sA x) (sB x))
  | 0x0E => judge (sAok x ++ sBok x) (.shl u p d (sA x) (sB x))
  | 0x0F => judge (sAok x ++ sBok x) (.shr u p d (sA x) (sB x))
  | 0x10 => judge (sAok x ++ sBok x) (.sra u p d (sA x) (sB x))
  | 0x11 => judge (sAok x ++ sBok x) (.min u p d (sA x) (sB x))
  | 0x12 => judge (sAok x ++ sBok x) (.max u p d (sA x) (sB x))
  | 0x13 => judge (sAok x ++ sBok x) (.minn u p d (sA x) (sB x))
  | 0x14 => judge (sAok x ++ sBok x) (.maxn u p d (sA x) (sB x))
  | 0x15 => judge (lim 13 (!bitAt x 13)) (.movi u p d (fieldBV x 14 20))
  | 0x16 => judge ((13, !bitAt x 13) :: zeros x 32 2) (.movk u p d (fieldBV x 14 16) (fieldBV x 30 2))
  | 0x17 => judge (sAok x ++ sBok x) (.lea u p d (sA x) (sB x))
  | 0x18 => judge (sAok x ++ sImm x ++ lim 22 (1 ≤ imm12.toNat && imm12.toNat ≤ 64)) (.sext u p d (sA x) imm12)
  | 0x19 => judge (sAok x ++ sImm x ++ lim 22 (1 ≤ imm12.toNat && imm12.toNat ≤ 64)) (.zext u p d (sA x) imm12)
  | 0x1A => judge (sAok x ++ sNoB x) (.popc u p d (sA x))
  | 0x1B => judge (sAok x ++ sNoB x) (.clz u p d (sA x))
  | 0x1C => judge (sAok x ++ sNoB x) (.ctz u p d (sA x))
  | 0x1D => judge (sAok x ++ sBok x) (.bext u p d (sA x) (sB x))
  | 0x1E => judge (sAok x ++ sBok x) (.bins u p d (sA x) (sB x))
  | 0x1F => judge (sAok x ++ sBok x) (.cmpeq u p d (sA x) (sB x))
  | 0x20 => judge (sAok x ++ sBok x) (.cmpne u p d (sA x) (sB x))
  | 0x21 => judge (sAok x ++ sBok x) (.cmplt u p d (sA x) (sB x))
  | 0x22 => judge (sAok x ++ sBok x) (.cmple u p d (sA x) (sB x))
  | 0x23 => judge (sAok x ++ sBok x) (.cmpltn u p d (sA x) (sB x))
  | 0x24 => judge (sAok x ++ sBok x) (.cmplen u p d (sA x) (sB x))
  | 0x25 => judge (sAok x ++ sBok x) (.sel u p d (sA x) (sB x))
  | 0x26 => judge (sAok x ++ sBrok x) (.pand u p d (sA x) (sBr x))
  | 0x27 => judge (sAok x ++ sBrok x) (.por u p d (sA x) (sBr x))
  | 0x28 => judge (sAok x ++ sBrok x) (.pxor u p d (sA x) (sBr x))
  | 0x29 => judge (sAok x ++ sBrok x) (.pandn u p d (sA x) (sBr x))
  | 0x2A => judge (sAok x ++ sNoB x) (.pmov u p d (sA x))
  | 0x2B => judge (sAok x ++ sNoB x) (.ptos u p d (sA x))
  | 0x2C => judge (zeros x 10 2 ++ sAok x ++ sImm x ++ lim 22 (imm12.toNat ≤ 7)) (.dset u p ⟨fieldFin x 6 16, bitAt x 12⟩ (sA x) (fieldFin x 22 8))
  | 0x2D => judge ((13, !bitAt x 13) :: zeros x 18 2 ++ sImm x ++ lim 22 (imm12.toNat ≤ 7)) (.dget u p d (fieldFin x 14 16) (fieldFin x 22 8))
  | 0x2E => judge (sNoA x ++ sImm x ++ lim 22 (crNameable imm12.toNat)) (.crrd u p d imm12)
  | 0x2F => judge (zeros x 6 7 ++ sAok x ++ sImm x ++ lim 22 (crNameable imm12.toNat)) (.crwr u p (sA x) imm12)
  | 0x30 => judge (sAok x ++ sImm x ++ lim 22 (imm12.toNat ≤ 5)) (.sfld u p d (sA x) imm12)
  | 0x31 => judge (sAok x ++ sBrok x) (.fadds u p d (sA x) (sBr x))
  | 0x32 => judge (sAok x ++ sBrok x) (.fmuls u p d (sA x) (sBr x))
  | 0x33 => judge (sAok x ++ sBrok x) (.fcmplt u p d (sA x) (sBr x))
  | 0x34 => judge (sAok x ++ sImm x ++ zeros x 24 10) (.fcvtis u p d (sA x) (fieldBV x 22 2))
  | 0x35 => judge (sAok x ++ sImm x ++ zeros x 25 9) (.fcvtsi u p d (sA x) (fieldBV x 22 2) (bitAt x 24))
  | _ => reservedOp

/-! ## C format (R118, R149) -/

/-- Decode the C slot; `none` is the NOP of R115. -/
def decodeC (x : BitVec 32) : Except DecErr (Option Instr) :=
  if x = 0 then .ok none else
  let p : Fin 64 := fieldFin x 6 64
  let a : Fin 64 := fieldFin x 12 64
  let b : Fin 64 := fieldFin x 18 64
  let i8 : Byte := fieldBV x 24 8
  let h : Fin 8 := fieldFin x 24 8
  let noA := zeros x 12 6
  let noB := zeros x 18 6
  let noI := zeros x 24 8
  let posA : List (Nat × Bool) := lim 12 (a ≠ 0)
  let posB : List (Nat × Bool) := lim 18 (b ≠ 0)
  some <$> match bits x 0 6 with
  | 0x00 => .error (judgeNop x 6)
  | 0x01 => .ok (.br p (fieldBV x 12 20))
  | 0x02 => judge (posA ++ noB ++ noI) (.brs p a)
  | 0x03 => .ok (.call p (fieldBV x 12 20))
  | 0x04 => judge (posA ++ noB ++ noI) (.ret p a)
  | 0x05 => judge (noB ++ lim 24 (i8 ≠ 0)) (.loop p a i8)
  | 0x06 => judge (lim 24 (i8 ≠ 0)) (.loopi p (fieldBV x 12 12) i8)
  | 0x07 => judge (posA ++ noB ++ noI) (.tail p a)
  | 0x08 => judge (noA ++ noB ++ noI) (.phase p)
  | 0x09 => judge (noA ++ noB ++ zeros x 29 3 ++ lim 24 ((fieldBV x 24 5 : BitVec 5) ≠ 0)) (.fence p (fieldBV x 24 5))
  | 0x0A => judge (posA ++ noI) (.waiteq p a b)
  | 0x0B => judge (posA ++ noI) (.waitge p a b)
  | 0x0C => judge (noA ++ posB ++ zeros x 27 5) (.hwait p h b)
  | 0x0D => judge (noA ++ posB ++ zeros x 27 5) (.hrel p h b)
  | 0x0E =>
    let sp : BitVec 3 := fieldBV x 27 3
    judge (posA ++ noB ++ zeros x 30 2 ++ lim 27 (sp = 0 || sp = 1 || sp = 4)) (.hset p h a sp)
  | 0x0F => judge noB (.trap p i8 a)
  | 0x10 => judge (noA ++ noB) (.bkpt p i8)
  | _ => reservedOp

/-! ## M format (R120, R164) -/

/-- The offset or index form (R120). -/
def mOff (x : BitVec 48) : MOff :=
  if bitAt x 19 then .index (fieldFin x 20 64) (fieldBV x 26 2) else .imm (fieldBV x 20 16)
/-- In the index form [35:28] are reserved. -/
def mOffok (x : BitVec 48) : List (Nat × Bool) := if bitAt x 19 then zeros x 28 8 else []

/-- Decode the M slot; `none` is the NOP of R115. -/
def decodeM (x : BitVec 48) : Except DecErr (Option Instr) :=
  if x = 0 then .ok none else
  let p : Fin 64 := fieldFin x 42 64
  let nw := bitAt x 12
  let s : Fin 64 := fieldFin x 6 64
  let v : Fin 32 := fieldFin x 6 32
  let dd : Fin 16 := fieldFin x 6 16
  let base : Fin 64 := fieldFin x 13 64
  let t : BitVec 4 := fieldBV x 36 4
  let off := mOff x
  let res := zeros x 40 2
  let noNw : List (Nat × Bool) := lim 12 (!nw)
  let noT := lim 36 (t = 0)
  let vok := zeros x 11 1
  let dok := zeros x 10 2
  let common := mOffok x ++ res
  let xidx : List (Nat × Bool) := (19, bitAt x 19) :: zeros x 25 1 ++ zeros x 28 8 ++ res
  let tdesc : List (Nat × Bool) := zeros x 19 1 ++ zeros x 24 12 ++ noT ++ res
  some <$> match bits x 0 6 with
  | 0x00 => .error (judgeNop x 6)
  | 0x01 => judge (common ++ lim 36 (tyPlain t)) (.ld p ⟨s, nw⟩ base off t)
  | 0x02 => judge (noNw ++ common ++ lim 36 (tyPlain t)) (.st p s base off t)
  | 0x03 => judge (common ++ lim 36 (tyPlain t)) (.ldg p ⟨s, nw⟩ base off t)
  | 0x04 => judge (noNw ++ common ++ lim 36 (tyPlain t)) (.stg p s base off t)
  | 0x05 => judge (vok ++ common ++ lim 36 (tyAll t)) (.vld p ⟨v, nw⟩ base off t)
  | 0x06 => judge (vok ++ noNw ++ common ++ lim 36 (tyAll t)) (.vst p v base off t)
  | 0x07 => judge (vok ++ common ++ lim 36 (tyPlain t)) (.vlds p ⟨v, nw⟩ base off t)
  | 0x08 => judge (vok ++ noNw ++ common ++ lim 36 (tyPlain t)) (.vsts p v base off t)
  | 0x09 => judge (vok ++ xidx ++ lim 36 (tyPlain t)) (.vldx p ⟨v, nw⟩ base (fieldFin x 20 32) (fieldBV x 26 2) t)
  | 0x0A => judge (vok ++ noNw ++ xidx ++ lim 36 (tyPlain t)) (.vstx p v base (fieldFin x 20 32) (fieldBV x 26 2) t)
  | 0x0B => judge (vok ++ tdesc) (.vldt p ⟨v, nw⟩ base (fieldFin x 20 16))
  | 0x0C => judge (vok ++ noNw ++ tdesc) (.vstt p v base (fieldFin x 20 16))
  | 0x0D => judge (noNw ++ noT ++ common ++ lim 6 (1 ≤ s.val && s.val ≤ 62)) (.ldb p s base off)
  | 0x0E => judge (noNw ++ common ++ lim 36 (tyUpdate t)) (.amadd p s base off t)
  | 0x0F => judge (noNw ++ common ++ lim 36 (tyUpdate t)) (.ammax p s base off t)
  | 0x10 => judge (noNw ++ common ++ lim 36 (tyUpdate t)) (.ammin p s base off t)
  | 0x11 => judge (noNw ++ common ++ lim 36 (tyBitUpdate t)) (.amand p s base off t)
  | 0x12 => judge (noNw ++ common ++ lim 36 (tyBitUpdate t)) (.amor p s base off t)
  | 0x13 => judge (noT ++ common) (.futrd p ⟨s, nw⟩ base off)
  | 0x14 => judge (noNw ++ noT ++ common) (.futfill p s base off)
  | 0x15 => judge (noNw ++ noT ++ common) (.kst p s base off)
  | 0x16 => judge (dok ++ noNw ++ noT ++ common) (.dld p dd base off)
  | 0x17 => judge (dok ++ noNw ++ noT ++ common) (.dst p dd base off)
  | 0x18 => judge (vok ++ common ++ lim 36 (1 ≤ t.toNat && t.toNat ≤ 6)) (.vldsc p ⟨v, nw⟩ base off t)
  | _ => reservedOp

/-! ## V format (R119, R188, R189) -/

/-- A V source: latch bit 0 is a vector register; latch bit 1 is a latch, or from 16 a broadcast (R127). -/
def vSrc (x : BitVec 48) (sel lo : Nat) : VSrc :=
  if bitAt x sel then
    (if bitAt x (lo + 4) then .bcast (fieldFin x lo 16) else .latch (fieldFin x lo 16))
  else .reg (fieldFin x lo 32)

/-- The fields etype, rnd, sat and mask. -/
def vMods (x : BitVec 48) : VMods := ⟨fieldBV x 34 4, fieldBV x 38 2, bitAt x 40, fieldFin x 31 8⟩

/-- The element types a row of R189 allows. -/
def vEt (x : BitVec 48) (ok : BitVec 4 → Bool) : List (Nat × Bool) := lim 34 (ok (fieldBV x 34 4))
/-- rnd reserved zero. -/
def vNoRnd (x : BitVec 48) : List (Nat × Bool) := zeros x 38 2
/-- sat reserved zero. -/
def vNoSat (x : BitVec 48) : List (Nat × Bool) := zeros x 40 1
/-- "both" of R189: rnd is reserved zero for an integer type (R188). -/
def vBothOk (x : BitVec 48) : List (Nat × Bool) :=
  if etInt (fieldBV x 34 4) then vNoRnd x else []
/-- b not used. -/
def vNoB (x : BitVec 48) : List (Nat × Bool) := zeros x 19 6
/-- c not used. -/
def vNoC (x : BitVec 48) : List (Nat × Bool) := zeros x 25 6
/-- mask reserved zero. -/
def vNoMask (x : BitVec 48) : List (Nat × Bool) := zeros x 31 3
/-- etype is 0, rnd and sat are reserved zero. -/
def vNoMods (x : BitVec 48) : List (Nat × Bool) := vEt x (fun e => e = 0) ++ vNoRnd x ++ vNoSat x

/-- The checks of an arithmetic row that has rnd and sat as `rs` and the types `ok`. -/
def vRow (x : BitVec 48) (ok : BitVec 4 → Bool) (rs : List (Nat × Bool)) (unused : List (Nat × Bool)) :
    List (Nat × Bool) :=
  vEt x ok ++ rs ++ unused ++ zeros x 47 1

/-- Integer or floating types. -/
def etFI (e : BitVec 4) : Bool := etInt e || etFloat e

/-- Decode a V slot; `none` is the NOP of R115. -/
def decodeV (u : VUnit) (x : BitVec 48) : Except DecErr (Option Instr) :=
  if x = 0 then .ok none else
  let p : Fin 64 := fieldFin x 41 64
  let d : Dst 32 := ⟨fieldFin x 7 32, bitAt x 12⟩
  let kd : Dst 8 := ⟨fieldFin x 7 8, bitAt x 12⟩
  let a := vSrc x 13 14
  let b := vSrc x 19 20
  let c := vSrc x 25 26
  let m := vMods x
  let mk : Fin 8 := fieldFin x 31 8
  let kdok := zeros x 10 2
  let ka : Fin 8 := fieldFin x 14 8
  let kb : Fin 8 := fieldFin x 20 8
  let kaok : List (Nat × Bool) := (13, !bitAt x 13) :: zeros x 17 2
  let kbok : List (Nat × Bool) := (19, !bitAt x 19) :: zeros x 23 2
  let noRS := vNoRnd x ++ vNoSat x
  let top := zeros x 47 1
  some <$> match bits x 0 7 with
  | 0x00 => .error (judgeNop x 7)
  | 0x01 => judge (vRow x etFI (vBothOk x) (vNoC x)) (.vadd u p d a b m)
  | 0x02 => judge (vRow x etFI (vBothOk x) (vNoC x)) (.vsub u p d a b m)
  | 0x03 => judge (vRow x etFI (vBothOk x) (vNoC x)) (.vmul u p d a b m)
  | 0x04 => judge (vRow x etFloat [] []) (.vfma u p d a b c m)
  | 0x05 => judge (vRow x etFloat [] []) (.vfms u p d a b c m)
  | 0x06 => judge (vRow x etFloat [] []) (.vfnma u p d a b c m)
  | 0x07 => judge (vRow x etFI noRS (vNoC x)) (.vmin u p d a b m)
  | 0x08 => judge (vRow x etFI noRS (vNoC x)) (.vmax u p d a b m)
  | 0x09 => judge (vRow x etFI (vNoRnd x ++ if etInt m.ety then [] else vNoSat x) (vNoB x ++ vNoC x)) (.vabs u p d a m)
  | 0x0A => judge (vRow x etFI (vNoRnd x ++ if etInt m.ety then [] else vNoSat x) (vNoB x ++ vNoC x)) (.vneg u p d a m)
  | 0x0B => judge (vRow x etFloat noRS (vNoC x)) (.vcpys u p d a b m)
  | 0x0C => judge (vRow x etLogic noRS (vNoC x)) (.vand u p d a b m)
  | 0x0D => judge (vRow x etLogic noRS (vNoC x)) (.vor u p d a b m)
  | 0x0E => judge (vRow x etLogic noRS (vNoC x)) (.vxor u p d a b m)
  | 0x0F => judge (vRow x etInt noRS (vNoC x)) (.vshl u p d a b m)
  | 0x10 => judge (vRow x etInt noRS (vNoC x)) (.vshr u p d a b m)
  | 0x11 => judge (vRow x etInt noRS (vNoC x)) (.vsra u p d a b m)
  | 0x12 => judge (kdok ++ vRow x etFI noRS (vNoC x)) (.vcmpeq u p kd a b m)
  | 0x13 => judge (kdok ++ vRow x etFI noRS (vNoC x)) (.vcmplt u p kd a b m)
  | 0x14 => judge (kdok ++ vRow x etFI noRS (vNoC x)) (.vcmple u p kd a b m)
  | 0x15 => judge (kdok ++ vRow x etFI noRS (vNoC x)) (.vcmpne u p kd a b m)
  | 0x16 => judge (vRow x (fun e => 1 ≤ e.toNat && e.toNat ≤ 5) noRS (vNoB x ++ vNoC x)) (.vclass u p d a m)
  | 0x17 => judge (vNoC x ++ vNoMods x ++ top) (.vsel u p d a b mk)
  | 0x18 => judge (vRow x etFloat [] (vNoB x ++ vNoC x)) (.vrcp u p d a m)
  | 0x19 => judge (vRow x etFloat [] (vNoB x ++ vNoC x)) (.vrsqrt u p d a m)
  | 0x1A => judge (vRow x etFloat [] (vNoB x ++ vNoC x)) (.vsqrt u p d a m)
  | 0x1B => judge (vRow x etFloat [] (vNoB x ++ vNoC x)) (.vexp2 u p d a m)
  | 0x1C => judge (vRow x etFloat [] (vNoB x ++ vNoC x)) (.vlog2 u p d a m)
  | 0x1D => judge (vRow x etFloat [] (vNoB x ++ vNoC x)) (.vtanh u p d a m)
  | 0x1E => judge (vRow x (fun e => tyPlain e && e ≠ 0) [] (vNoB x ++ vNoC x)) (.vcvt u p d a m)
  | 0x1F => judge (vRow x etFloat [] (vNoC x)) (.vscale u p d a b m)
  | 0x20 => judge (vRow x (fun e => e = 2 || e = 3 || e = 4 || e = 5 || e = 7) [] (vNoC x)) (.vquant u p d a b m)
  | 0x21 => judge (vRow x etFI (vBothOk x) (vNoB x ++ vNoC x)) (.vradd u p d a m)
  | 0x22 => judge (vRow x etFI noRS (vNoB x ++ vNoC x)) (.vrmax u p d a m)
  | 0x23 => judge (vRow x etFI noRS (vNoB x ++ vNoC x)) (.vrmin u p d a m)
  | 0x24 => judge (vNoC x ++ vNoMods x ++ top) (.vbcast u p d a b mk)
  | 0x25 => judge (vNoMods x ++ top) (.vperm u p d a b c mk)
  | 0x26 => judge (vNoC x ++ vNoMods x ++ top) (.vrotl u p d a b mk)
  | 0x27 => judge (vRow x etInt noRS (vNoB x ++ vNoC x)) (.viota u p d a m)
  | 0x28 => let op : BitVec 5 := fieldBV x 26 5
    judge (kdok ++ kaok ++ kbok ++ lim 25 (!bitAt x 25) ++ lim 26 (op.toNat ≤ 6) ++ lim 20 (op.toNat < 4 || kb = 0) ++ vNoMask x ++ vNoMods x ++ top)
      (.vmovk u p kd ka kb op)
  | 0x29 => judge (kaok ++ vNoB x ++ vNoC x ++ vNoMods x ++ top) (.kpopc u p d ka mk)
  | 0x2A => judge (lim 19 (bitAt x 19) ++ lim 20 (bitAt x 24) ++ vNoC x ++ vNoMask x ++ vEt x (fun e => e = 1 || e = 2) ++ noRS ++ top)
      (.vsig u p d a (fieldFin x 20 16) m.ety)
  | 0x2B => judge (vNoB x ++ vNoC x ++ vNoMods x ++ top) (.vmov u p d a mk)
  | 0x2C => judge (vNoC x ++ vNoMask x ++ vNoMods x ++ top) (.vextr u p d a b)
  | 0x2D => judge (vNoMask x ++ vNoMods x ++ top) (.vins u p d a b c)
  | 0x2E => judge (vRow x etFI (vBothOk x) (vNoB x ++ vNoC x)) (.vscan u p d a m)
  | _ => reservedOp

/-! ## X format (R122, R211, R231) -/

/-- Decode the X slot; `none` is the NOP of R115. -/
def decodeX (x : BitVec 40) : Except DecErr (Option Instr) :=
  if x = 0 then .ok none else
  let p : Fin 64 := fieldFin x 34 64
  let zd : Fin 8 := fieldFin x 6 8
  let da : Fin 16 := fieldFin x 9 16
  let db : Fin 16 := fieldFin x 13 16
  let zs : Fin 8 := fieldFin x 17 8
  let bar : Fin 64 := fieldFin x 20 64
  let shp : Fin 64 := fieldFin x 26 64
  let pv : Fin 4 := fieldFin x 32 4
  let sh : XShape := ⟨shp, da, db⟩
  let barL : List (Nat × Bool) := lim 20 (barOk bar)
  let noZd := zeros x 6 3
  let noDa := zeros x 9 4
  let noDb := zeros x 13 4
  let noZs := zeros x 17 3
  let noShp := zeros x 26 6
  let noVar := zeros x 32 2
  let var1 := lim 32 (!bitAt x 33)
  let noD : List (Nat × Bool) := if shp = 0 then [] else noDa ++ noDb
  let noD1 : List (Nat × Bool) := noD ++ noDb
  some <$> match bits x 0 6 with
  | 0x00 => .error (judgeNop x 6)
  | 0x01 => judge (barL ++ noDa ++ noDb ++ noZs ++ noShp ++ noVar) (.mzero p zd bar)
  | 0x02 => judge (barL ++ noZs ++ var1) (.mmul p zd da db shp (bitAt x 32) bar)
  | 0x03 => judge (barL ++ noZs ++ var1) (.mopa p zd da db shp (bitAt x 32) bar)
  | 0x04 => judge (barL ++ noDa ++ noDb ++ noShp ++ noVar) (.macc p zd zs bar)
  | 0x05 => judge (barL ++ noDa ++ noDb ++ noZs ++ var1 ++ lim 26 (bitAt x 32 = (shp ≠ 0))) (.mscl p zd shp (bitAt x 32) bar)
  | 0x06 => judge (barL ++ noZd ++ noDa ++ noShp) (.mdrn p db zs (bitAt x 32) (bitAt x 33) bar)
  | 0x07 => judge (barL ++ noDb ++ noZs ++ noShp ++ var1) (.mldz p zd da (bitAt x 32) bar)
  | 0x08 => judge (barL ++ noDa ++ noDb ++ noShp ++ noVar) (.mtrn p zd zs bar)
  | 0x09 => judge (barL ++ noDa ++ noDb ++ noShp ++ noVar) (.mcopy p zd zs bar)
  | 0x0A => judge (barL ++ noZs ++ noD1) (.mlu p zd pv sh bar)
  | 0x0B => judge (barL ++ noZs ++ noD1 ++ noVar) (.mchol p zd sh bar)
  | 0x0C => judge (barL ++ noD ++ lim 17 (zd ≠ zs)) (.mtrs p zd zs (bitAt x 32) (bitAt x 33) sh bar)
  | 0x0D => judge (barL ++ noD ++ noVar ++ lim 17 (zd ≠ zs)) (.mqr p zd zs sh bar)
  | 0x0E => judge (barL ++ noD ++ lim 17 (zd ≠ zs && zd ≠ zfOf zs)) (.msolve p zd zs pv sh bar)
  | 0x0F => judge (barL ++ noZd ++ noDa ++ noDb ++ noZs ++ noShp ++ noVar) (.mresume p bar)
  | 0x10 => judge (barL ++ noZs ++ noD1) (.mperm p zd pv sh bar)
  | 0x11 => judge (barL ++ noZd ++ noD1 ++ noVar) (.mnorm p zs sh bar)
  | _ => reservedOp

/-! ## K format (R124, R125, R175) -/

/-- Decode the K slot; `none` is the NOP of R115. -/
def decodeK (x : BitVec 40) : Except DecErr (Option Instr) :=
  if x = 0 then .ok none else
  let p : Fin 64 := fieldFin x 34 64
  let ds : Fin 16 := fieldFin x 6 16
  let dd : Fin 16 := fieldFin x 10 16
  let sa : Fin 64 := fieldFin x 14 64
  let sb : Fin 64 := fieldFin x 28 64
  let k : KDone := ⟨fieldFin x 20 64, fieldBV x 26 2⟩
  let kok : List (Nat × Bool) := lim 20 (k.wf)
  let noDs := zeros x 6 4
  let noDd := zeros x 10 4
  let noSa := zeros x 14 6
  let noSb := zeros x 28 6
  some <$> match bits x 0 6 with
  | 0x00 => .error (judgeNop x 6)
  | 0x01 => judge (kok ++ noSa ++ noSb) (.kcpy p dd ds k)
  | 0x02 => judge (kok ++ noSb) (.kmcst p dd ds sa k)
  | 0x03 => judge (kok ++ noSa ++ noSb) (.kred p dd ds k)
  | 0x04 => judge (noDs ++ noDd ++ zeros x 20 8 ++ noSb) (.kidx p sa)
  | 0x05 => judge (kok ++ noSb) (.kgth p dd ds sa k)
  | 0x06 => judge (kok ++ noSb) (.ksct p dd ds sa k)
  | 0x07 => judge kok (.kroute p dd ds sa sb k)
  | 0x08 => judge kok (.ka2a p dd ds sa sb k)
  | 0x09 => judge (kok ++ noDs) (.kgat p dd sa sb k)
  | 0x0A => judge (kok ++ zeros x 11 3 ++ noSa ++ noSb) (.kring p ds (bitAt x 10) k)
  | 0x0B => judge (kok ++ noDs ++ noSb) (.kfill p dd sa k)
  | _ => reservedOp

/-! ## O format (R126, R224) -/

/-- Decode the O slot; `none` is the NOP of R115. -/
def decodeO (x : BitVec 32) : Except DecErr (Option Instr) :=
  if x = 0 then .ok none else
  let p : Fin 64 := fieldFin x 26 64
  let z : Fin 8 := fieldFin x 5 8
  let row : Fin 128 := fieldFin x 8 128
  let dw : Fin 16 := fieldFin x 15 16
  let dx : Fin 16 := fieldFin x 19 16
  let res := zeros x 23 3
  let noZ := zeros x 5 3
  let noDw := zeros x 15 4
  let noDx := zeros x 19 4
  some <$> match bits x 0 5 with
  | 0x00 => .error (judgeNop x 5)
  | 0x01 => judge (noDx ++ res) (.osgd p z row dw)
  | 0x02 => judge res (.omom p z row dw dx)
  | 0x03 => judge res (.oadam p z row dw dx)
  | 0x04 => judge (zeros x 14 1 ++ noDw ++ noDx ++ res) (.oclip p (fieldFin x 8 8) (fieldFin x 11 8) z)
  | 0x05 => judge (noZ ++ noDx ++ res) (.oscl p dw row)
  | 0x06 => judge (noDw ++ res) (.ogsq p z row dx)
  | _ => reservedOp

/-! ## Bundles (R112, R113) -/

/-- The header and the slots of a bundle as fetch hands them to issue. A NOP slot is not listed. -/
structure Bundle where
  kind   : BitVec 2
  resv   : BitVec 7
  bpred  : Fin 64
  inv    : Bool
  slots  : List (Slot × Except DecErr Instr)

/-- One slot of the list: nothing for a NOP. -/
def slotEntry (s : Slot) : Except DecErr (Option Instr) → List (Slot × Except DecErr Instr)
  | .ok none => []
  | .ok (some i) => [(s, .ok i)]
  | .error e => [(s, .error e)]

/-- Decode a bundle (R112). The slots stand in the order in which failures are reported (R335). -/
def decodeBundle (b : BundleBits) : Bundle where
  kind  := fieldBV b 0 2
  resv  := fieldBV b 9 7
  bpred := fieldFin b 2 64
  inv   := bitAt b 8
  slots := slotEntry .s0 (decodeS .s0 (fieldBV b 16 40)) ++ slotEntry .s1 (decodeS .s1 (fieldBV b 56 40)) ++
    slotEntry .c (decodeC (fieldBV b 96 32)) ++ slotEntry .v0 (decodeV .v0 (fieldBV b 128 48)) ++
    slotEntry .v1 (decodeV .v1 (fieldBV b 176 48)) ++ slotEntry .m (decodeM (fieldBV b 224 48)) ++
    slotEntry .x (decodeX (fieldBV b 272 40)) ++ slotEntry .k (decodeK (fieldBV b 312 40)) ++
    slotEntry .o (decodeO (fieldBV b 352 32))

/-- The halfwords of a bundle in stream order: halfword j holds bits [16j+15:16j] (R129). -/
def bundleHalves (b : BundleBits) : List Half := (List.range 24).map fun j => fieldBV b (16 * j) 16

/-- The bundle that 24 halfwords hold (R129). -/
def halvesBundle (l : List Half) : BundleBits :=
  BitVec.ofNat 384 (l.foldr (fun h acc => h.toNat + acc * 65536) 0)

/-- Little-endian bytes to a number (R3). -/
def leNat (l : List Byte) : Nat := l.foldr (fun b acc => b.toNat + acc * 256) 0

/-- Where the low bit of a slot stands in a bundle (R112). -/
def Slot.pos : Slot → Nat
  | .s0 => 16 | .s1 => 56 | .c => 96 | .v0 => 128 | .v1 => 176 | .m => 224 | .x => 272 | .k => 312 | .o => 352
  | .fetch => 0 | .none => 0

/-- The bundle whose one slot `s` holds `w`: header zero, every other slot NOP (R113, R115). -/
def oneSlotBundle (s : Slot) (w : Nat) : BundleBits := BitVec.ofNat 384 (w <<< s.pos)

/-- Where the opcode table's word stands in a bundle. The table gives bits only to rows of the C and O slots, each a
slot of 32 bits (R118, R126); a word that the C slot takes is a C word, any other an O word. A table word of 384 bits
is a whole bundle. -/
def tableBundle (nbits w : Nat) : BundleBits :=
  if nbits ≤ 32 then
    match decodeC (BitVec.ofNat 32 w) with
    | .ok (some _) => oneSlotBundle .c (w % 2 ^ 32)
    | _ => oneSlotBundle .o (w % 2 ^ 32)
  else BitVec.ofNat 384 w

/-- The instruction the decoder reads from a table word: the one slot of its bundle that is no NOP. -/
def decodeTableWord (nbits w : Nat) : Option Instr :=
  match (decodeBundle (tableBundle nbits w)).slots with
  | [(_, .ok i)] => some i
  | _ => none

/-! ## The encoder (R117 to R126) -/

/-- A Boolean as a bit. -/
def bit (b : Bool) : Nat := if b then 1 else 0

/-- Source a of the S format, bits [19:13]. -/
def encSA : SSrc → Nat
  | .reg r => r.val * 2 ^ 14
  | .latch q => 2 ^ 13 + q.val * 2 ^ 14
/-- Source b of the S format, bits [33:20]. -/
def encSB : SBSrc → Nat
  | .reg r => r.val * 2 ^ 22
  | .latch q => 2 ^ 21 + q.val * 2 ^ 22
  | .imm v => 2 ^ 20 + v.toNat * 2 ^ 22
/-- Source b of the S format where it is a register or a latch. -/
def encSBr : SSrc → Nat
  | .reg r => r.val * 2 ^ 22
  | .latch q => 2 ^ 21 + q.val * 2 ^ 22
/-- An immediate b. -/
def encSI (v : Nat) : Nat := 2 ^ 20 + v * 2 ^ 22
/-- Opcode, destination and predicate of the S format. -/
def encSH {n : Nat} (op : Nat) (p : Fin 64) (d : Dst n) : Nat :=
  op + d.reg.val * 2 ^ 6 + bit d.nowb * 2 ^ 12 + p.val * 2 ^ 34

/-- Opcode, predicate and fields of the C format. -/
def encC (op : Nat) (p : Fin 64) (a b i : Nat) : Nat :=
  op + p.val * 2 ^ 6 + a * 2 ^ 12 + b * 2 ^ 18 + i * 2 ^ 24

/-- Address offset of the M format, bits [35:19]. -/
def encMOff : MOff → Nat
  | .imm o => o.toNat * 2 ^ 20
  | .index r sc => 2 ^ 19 + r.val * 2 ^ 20 + sc.toNat * 2 ^ 26
/-- The M format. -/
def encM (op : Nat) (p : Fin 64) (data : Nat) (nw : Bool) (base : Fin 64) (off : Nat) (t : BitVec 4) : Nat :=
  op + data * 2 ^ 6 + bit nw * 2 ^ 12 + base.val * 2 ^ 13 + off + t.toNat * 2 ^ 36 + p.val * 2 ^ 42

/-- A V source whose selection bit is `sel` and whose field begins at `sel + 1`. -/
def encVSrc (sel : Nat) : VSrc → Nat
  | .reg r => r.val * 2 ^ (sel + 1)
  | .latch q => 2 ^ sel + q.val * 2 ^ (sel + 1)
  | .bcast s => 2 ^ sel + (16 + s.val) * 2 ^ (sel + 1)
/-- etype, rnd, sat and mask. -/
def encVMods (m : VMods) : Nat :=
  m.mask.val * 2 ^ 31 + m.ety.toNat * 2 ^ 34 + m.rnd.toNat * 2 ^ 38 + bit m.sat * 2 ^ 40
/-- Opcode, destination and predicate of the V format. -/
def encVH {n : Nat} (op : Nat) (p : Fin 64) (d : Dst n) : Nat :=
  op + d.reg.val * 2 ^ 7 + bit d.nowb * 2 ^ 12 + p.val * 2 ^ 41
/-- Two sources and the modifiers. -/
def encV2 {n : Nat} (op : Nat) (p : Fin 64) (d : Dst n) (a b : VSrc) (m : VMods) : Nat :=
  encVH op p d + encVSrc 13 a + encVSrc 19 b + encVMods m
/-- One source and the modifiers. -/
def encV1 {n : Nat} (op : Nat) (p : Fin 64) (d : Dst n) (a : VSrc) (m : VMods) : Nat :=
  encVH op p d + encVSrc 13 a + encVMods m

/-- The X format. -/
def encX (op : Nat) (p : Fin 64) (zd da db zs bar shp var : Nat) : Nat :=
  op + zd * 2 ^ 6 + da * 2 ^ 9 + db * 2 ^ 13 + zs * 2 ^ 17 + bar * 2 ^ 20 + shp * 2 ^ 26 + var * 2 ^ 32 + p.val * 2 ^ 34

/-- The K format. -/
def encK (op : Nat) (p : Fin 64) (ds dd sa sb : Nat) (k : KDone) : Nat :=
  op + ds * 2 ^ 6 + dd * 2 ^ 10 + sa * 2 ^ 14 + k.sc.val * 2 ^ 20 + k.lvl.toNat * 2 ^ 26 + sb * 2 ^ 28 + p.val * 2 ^ 34

/-- The O format. -/
def encO (op : Nat) (p : Fin 64) (z row dw dx : Nat) : Nat :=
  op + z * 2 ^ 5 + row * 2 ^ 8 + dw * 2 ^ 15 + dx * 2 ^ 19 + p.val * 2 ^ 26

/-- The slot of an instruction and its bits there; `none` for the device's own operations and events, which no
bundle encodes. -/
def encode : Instr → Option (Slot × Nat)
  | .add u p d a b => some (u.slot, encSH 0x01 p d + encSA a + encSB b)
  | .sub u p d a b => some (u.slot, encSH 0x02 p d + encSA a + encSB b)
  | .mul u p d a b => some (u.slot, encSH 0x03 p d + encSA a + encSB b)
  | .mulh u p d a b => some (u.slot, encSH 0x04 p d + encSA a + encSB b)
  | .mulhn u p d a b => some (u.slot, encSH 0x05 p d + encSA a + encSB b)
  | .divs u p d a b => some (u.slot, encSH 0x06 p d + encSA a + encSB b)
  | .divn u p d a b => some (u.slot, encSH 0x07 p d + encSA a + encSB b)
  | .rems u p d a b => some (u.slot, encSH 0x08 p d + encSA a + encSB b)
  | .remn u p d a b => some (u.slot, encSH 0x09 p d + encSA a + encSB b)
  | .and u p d a b => some (u.slot, encSH 0x0A p d + encSA a + encSB b)
  | .or u p d a b => some (u.slot, encSH 0x0B p d + encSA a + encSB b)
  | .xor u p d a b => some (u.slot, encSH 0x0C p d + encSA a + encSB b)
  | .andn u p d a b => some (u.slot, encSH 0x0D p d + encSA a + encSB b)
  | .shl u p d a b => some (u.slot, encSH 0x0E p d + encSA a + encSB b)
  | .shr u p d a b => some (u.slot, encSH 0x0F p d + encSA a + encSB b)
  | .sra u p d a b => some (u.slot, encSH 0x10 p d + encSA a + encSB b)
  | .min u p d a b => some (u.slot, encSH 0x11 p d + encSA a + encSB b)
  | .max u p d a b => some (u.slot, encSH 0x12 p d + encSA a + encSB b)
  | .minn u p d a b => some (u.slot, encSH 0x13 p d + encSA a + encSB b)
  | .maxn u p d a b => some (u.slot, encSH 0x14 p d + encSA a + encSB b)
  | .lea u p d a b => some (u.slot, encSH 0x17 p d + encSA a + encSB b)
  | .bext u p d a b => some (u.slot, encSH 0x1D p d + encSA a + encSB b)
  | .bins u p d a b => some (u.slot, encSH 0x1E p d + encSA a + encSB b)
  | .cmpeq u p d a b => some (u.slot, encSH 0x1F p d + encSA a + encSB b)
  | .cmpne u p d a b => some (u.slot, encSH 0x20 p d + encSA a + encSB b)
  | .cmplt u p d a b => some (u.slot, encSH 0x21 p d + encSA a + encSB b)
  | .cmple u p d a b => some (u.slot, encSH 0x22 p d + encSA a + encSB b)
  | .cmpltn u p d a b => some (u.slot, encSH 0x23 p d + encSA a + encSB b)
  | .cmplen u p d a b => some (u.slot, encSH 0x24 p d + encSA a + encSB b)
  | .sel u p d a b => some (u.slot, encSH 0x25 p d + encSA a + encSB b)
  | .pand u p d a b => some (u.slot, encSH 0x26 p d + encSA a + encSBr b)
  | .por u p d a b => some (u.slot, encSH 0x27 p d + encSA a + encSBr b)
  | .pxor u p d a b => some (u.slot, encSH 0x28 p d + encSA a + encSBr b)
  | .pandn u p d a b => some (u.slot, encSH 0x29 p d + encSA a + encSBr b)
  | .fadds u p d a b => some (u.slot, encSH 0x31 p d + encSA a + encSBr b)
  | .fmuls u p d a b => some (u.slot, encSH 0x32 p d + encSA a + encSBr b)
  | .fcmplt u p d a b => some (u.slot, encSH 0x33 p d + encSA a + encSBr b)
  | .popc u p d a => some (u.slot, encSH 0x1A p d + encSA a)
  | .clz u p d a => some (u.slot, encSH 0x1B p d + encSA a)
  | .ctz u p d a => some (u.slot, encSH 0x1C p d + encSA a)
  | .pmov u p d a => some (u.slot, encSH 0x2A p d + encSA a)
  | .ptos u p d a => some (u.slot, encSH 0x2B p d + encSA a)
  | .movi u p d imm => some (u.slot, encSH 0x15 p d + imm.toNat * 2 ^ 14)
  | .movk u p d v h => some (u.slot, encSH 0x16 p d + v.toNat * 2 ^ 14 + h.toNat * 2 ^ 30)
  | .sext u p d a i => some (u.slot, encSH 0x18 p d + encSA a + encSI i.toNat)
  | .zext u p d a i => some (u.slot, encSH 0x19 p d + encSA a + encSI i.toNat)
  | .dset u p d a f => some (u.slot, encSH 0x2C p d + encSA a + encSI f.val)
  | .dget u p d a f => some (u.slot, encSH 0x2D p d + a.val * 2 ^ 14 + encSI f.val)
  | .crrd u p d n => some (u.slot, encSH 0x2E p d + encSI n.toNat)
  | .crwr u p a n => some (u.slot, 0x2F + p.val * 2 ^ 34 + encSA a + encSI n.toNat)
  | .sfld u p d a i => some (u.slot, encSH 0x30 p d + encSA a + encSI i.toNat)
  | .fcvtis u p d a rm => some (u.slot, encSH 0x34 p d + encSA a + encSI rm.toNat)
  | .fcvtsi u p d a rm sat => some (u.slot, encSH 0x35 p d + encSA a + encSI (rm.toNat + bit sat * 4))
  | .br p off => some (.c, 0x01 + p.val * 2 ^ 6 + off.toNat * 2 ^ 12)
  | .brs p a => some (.c, encC 0x02 p a.val 0 0)
  | .call p off => some (.c, 0x03 + p.val * 2 ^ 6 + off.toNat * 2 ^ 12)
  | .ret p a => some (.c, encC 0x04 p a.val 0 0)
  | .loop p a e => some (.c, encC 0x05 p a.val 0 e.toNat)
  | .loopi p n e => some (.c, 0x06 + p.val * 2 ^ 6 + n.toNat * 2 ^ 12 + e.toNat * 2 ^ 24)
  | .tail p a => some (.c, encC 0x07 p a.val 0 0)
  | .phase p => some (.c, encC 0x08 p 0 0 0)
  | .fence p m => some (.c, encC 0x09 p 0 0 m.toNat)
  | .waiteq p a b => some (.c, encC 0x0A p a.val b.val 0)
  | .waitge p a b => some (.c, encC 0x0B p a.val b.val 0)
  | .hwait p h b => some (.c, encC 0x0C p 0 b.val h.val)
  | .hrel p h b => some (.c, encC 0x0D p 0 b.val h.val)
  | .hset p h a sp => some (.c, encC 0x0E p a.val 0 (h.val + sp.toNat * 8))
  | .trap p c a => some (.c, encC 0x0F p a.val 0 c.toNat)
  | .bkpt p c => some (.c, encC 0x10 p 0 0 c.toNat)
  | .ld p d b o t => some (.m, encM 0x01 p d.reg.val d.nowb b (encMOff o) t)
  | .st p s b o t => some (.m, encM 0x02 p s.val false b (encMOff o) t)
  | .ldg p d b o t => some (.m, encM 0x03 p d.reg.val d.nowb b (encMOff o) t)
  | .stg p s b o t => some (.m, encM 0x04 p s.val false b (encMOff o) t)
  | .vld p d b o t => some (.m, encM 0x05 p d.reg.val d.nowb b (encMOff o) t)
  | .vst p s b o t => some (.m, encM 0x06 p s.val false b (encMOff o) t)
  | .vlds p d b o t => some (.m, encM 0x07 p d.reg.val d.nowb b (encMOff o) t)
  | .vsts p s b o t => some (.m, encM 0x08 p s.val false b (encMOff o) t)
  | .vldx p d b i sc t => some (.m, encM 0x09 p d.reg.val d.nowb b (2 ^ 19 + i.val * 2 ^ 20 + sc.toNat * 2 ^ 26) t)
  | .vstx p s b i sc t => some (.m, encM 0x0A p s.val false b (2 ^ 19 + i.val * 2 ^ 20 + sc.toNat * 2 ^ 26) t)
  | .vldt p d b n => some (.m, encM 0x0B p d.reg.val d.nowb b (n.val * 2 ^ 20) 0)
  | .vstt p s b n => some (.m, encM 0x0C p s.val false b (n.val * 2 ^ 20) 0)
  | .ldb p s b o => some (.m, encM 0x0D p s.val false b (encMOff o) 0)
  | .amadd p s b o t => some (.m, encM 0x0E p s.val false b (encMOff o) t)
  | .ammax p s b o t => some (.m, encM 0x0F p s.val false b (encMOff o) t)
  | .ammin p s b o t => some (.m, encM 0x10 p s.val false b (encMOff o) t)
  | .amand p s b o t => some (.m, encM 0x11 p s.val false b (encMOff o) t)
  | .amor p s b o t => some (.m, encM 0x12 p s.val false b (encMOff o) t)
  | .futrd p d b o => some (.m, encM 0x13 p d.reg.val d.nowb b (encMOff o) 0)
  | .futfill p s b o => some (.m, encM 0x14 p s.val false b (encMOff o) 0)
  | .kst p s b o => some (.m, encM 0x15 p s.val false b (encMOff o) 0)
  | .dld p s b o => some (.m, encM 0x16 p s.val false b (encMOff o) 0)
  | .dst p s b o => some (.m, encM 0x17 p s.val false b (encMOff o) 0)
  | .vldsc p d b o t => some (.m, encM 0x18 p d.reg.val d.nowb b (encMOff o) t)
  | .vadd u p d a b m => some (u.slot, encV2 0x01 p d a b m)
  | .vsub u p d a b m => some (u.slot, encV2 0x02 p d a b m)
  | .vmul u p d a b m => some (u.slot, encV2 0x03 p d a b m)
  | .vmin u p d a b m => some (u.slot, encV2 0x07 p d a b m)
  | .vmax u p d a b m => some (u.slot, encV2 0x08 p d a b m)
  | .vcpys u p d a b m => some (u.slot, encV2 0x0B p d a b m)
  | .vand u p d a b m => some (u.slot, encV2 0x0C p d a b m)
  | .vor u p d a b m => some (u.slot, encV2 0x0D p d a b m)
  | .vxor u p d a b m => some (u.slot, encV2 0x0E p d a b m)
  | .vshl u p d a b m => some (u.slot, encV2 0x0F p d a b m)
  | .vshr u p d a b m => some (u.slot, encV2 0x10 p d a b m)
  | .vsra u p d a b m => some (u.slot, encV2 0x11 p d a b m)
  | .vcmpeq u p d a b m => some (u.slot, encV2 0x12 p d a b m)
  | .vcmplt u p d a b m => some (u.slot, encV2 0x13 p d a b m)
  | .vcmple u p d a b m => some (u.slot, encV2 0x14 p d a b m)
  | .vcmpne u p d a b m => some (u.slot, encV2 0x15 p d a b m)
  | .vscale u p d a b m => some (u.slot, encV2 0x1F p d a b m)
  | .vquant u p d a b m => some (u.slot, encV2 0x20 p d a b m)
  | .vfma u p d a b c m => some (u.slot, encV2 0x04 p d a b m + encVSrc 25 c)
  | .vfms u p d a b c m => some (u.slot, encV2 0x05 p d a b m + encVSrc 25 c)
  | .vfnma u p d a b c m => some (u.slot, encV2 0x06 p d a b m + encVSrc 25 c)
  | .vabs u p d a m => some (u.slot, encV1 0x09 p d a m)
  | .vneg u p d a m => some (u.slot, encV1 0x0A p d a m)
  | .vclass u p d a m => some (u.slot, encV1 0x16 p d a m)
  | .vrcp u p d a m => some (u.slot, encV1 0x18 p d a m)
  | .vrsqrt u p d a m => some (u.slot, encV1 0x19 p d a m)
  | .vsqrt u p d a m => some (u.slot, encV1 0x1A p d a m)
  | .vexp2 u p d a m => some (u.slot, encV1 0x1B p d a m)
  | .vlog2 u p d a m => some (u.slot, encV1 0x1C p d a m)
  | .vtanh u p d a m => some (u.slot, encV1 0x1D p d a m)
  | .vcvt u p d a m => some (u.slot, encV1 0x1E p d a m)
  | .vradd u p d a m => some (u.slot, encV1 0x21 p d a m)
  | .vrmax u p d a m => some (u.slot, encV1 0x22 p d a m)
  | .vrmin u p d a m => some (u.slot, encV1 0x23 p d a m)
  | .viota u p d a m => some (u.slot, encV1 0x27 p d a m)
  | .vscan u p d a m => some (u.slot, encV1 0x2E p d a m)
  | .vsel u p d a b k => some (u.slot, encV2 0x17 p d a b ⟨0, 0, false, k⟩)
  | .vbcast u p d a b k => some (u.slot, encV2 0x24 p d a b ⟨0, 0, false, k⟩)
  | .vperm u p d a b c k => some (u.slot, encV2 0x25 p d a b ⟨0, 0, false, k⟩ + encVSrc 25 c)
  | .vrotl u p d a b k => some (u.slot, encV2 0x26 p d a b ⟨0, 0, false, k⟩)
  | .vmovk u p d a b op => some (u.slot, encVH 0x28 p d + a.val * 2 ^ 14 + b.val * 2 ^ 20 + op.toNat * 2 ^ 26)
  | .kpopc u p d a k => some (u.slot, encVH 0x29 p d + a.val * 2 ^ 14 + k.val * 2 ^ 31)
  | .vsig u p d a h e => some (u.slot, encV2 0x2A p d a (.bcast h) ⟨e, 0, false, 0⟩)
  | .vmov u p d a k => some (u.slot, encV1 0x2B p d a ⟨0, 0, false, k⟩)
  | .vextr u p d a b => some (u.slot, encV2 0x2C p d a b ⟨0, 0, false, 0⟩)
  | .vins u p d a b c => some (u.slot, encV2 0x2D p d a b ⟨0, 0, false, 0⟩ + encVSrc 25 c)
  | .mzero p zd bar => some (.x, encX 0x01 p zd.val 0 0 0 bar.val 0 0)
  | .mmul p zd da db shp set bar => some (.x, encX 0x02 p zd.val da.val db.val 0 bar.val shp.val (bit set))
  | .mopa p zd da db shp set bar => some (.x, encX 0x03 p zd.val da.val db.val 0 bar.val shp.val (bit set))
  | .macc p zd zs bar => some (.x, encX 0x04 p zd.val 0 0 zs.val bar.val 0 0)
  | .mscl p zd shp val bar => some (.x, encX 0x05 p zd.val 0 0 0 bar.val shp.val (bit val))
  | .mdrn p db zs sat us bar => some (.x, encX 0x06 p 0 0 db.val zs.val bar.val 0 (bit sat + bit us * 2))
  | .mldz p zd da ls bar => some (.x, encX 0x07 p zd.val da.val 0 0 bar.val 0 (bit ls))
  | .mtrn p zd zs bar => some (.x, encX 0x08 p zd.val 0 0 zs.val bar.val 0 0)
  | .mcopy p zd zs bar => some (.x, encX 0x09 p zd.val 0 0 zs.val bar.val 0 0)
  | .mlu p zd pv sh bar => some (.x, encX 0x0A p zd.val sh.da.val sh.db.val 0 bar.val sh.shp.val pv.val)
  | .mchol p zd sh bar => some (.x, encX 0x0B p zd.val sh.da.val sh.db.val 0 bar.val sh.shp.val 0)
  | .mtrs p zd zs up unit sh bar =>
      some (.x, encX 0x0C p zd.val sh.da.val sh.db.val zs.val bar.val sh.shp.val (bit up + bit unit * 2))
  | .mqr p zd zs sh bar => some (.x, encX 0x0D p zd.val sh.da.val sh.db.val zs.val bar.val sh.shp.val 0)
  | .msolve p zd zs pv sh bar => some (.x, encX 0x0E p zd.val sh.da.val sh.db.val zs.val bar.val sh.shp.val pv.val)
  | .mresume p bar => some (.x, encX 0x0F p 0 0 0 0 bar.val 0 0)
  | .mperm p zd pv sh bar => some (.x, encX 0x10 p zd.val sh.da.val sh.db.val 0 bar.val sh.shp.val pv.val)
  | .mnorm p zs sh bar => some (.x, encX 0x11 p 0 sh.da.val sh.db.val zs.val bar.val sh.shp.val 0)
  | .kcpy p dd ds k => some (.k, encK 0x01 p ds.val dd.val 0 0 k)
  | .kmcst p dd ds sa k => some (.k, encK 0x02 p ds.val dd.val sa.val 0 k)
  | .kred p dd ds k => some (.k, encK 0x03 p ds.val dd.val 0 0 k)
  | .kidx p sa => some (.k, encK 0x04 p 0 0 sa.val 0 ⟨0, 0⟩)
  | .kgth p dd ds sa k => some (.k, encK 0x05 p ds.val dd.val sa.val 0 k)
  | .ksct p dd ds sa k => some (.k, encK 0x06 p ds.val dd.val sa.val 0 k)
  | .kroute p dd ds sa sb k => some (.k, encK 0x07 p ds.val dd.val sa.val sb.val k)
  | .ka2a p dd ds sa sb k => some (.k, encK 0x08 p ds.val dd.val sa.val sb.val k)
  | .kgat p dd sa sb k => some (.k, encK 0x09 p 0 dd.val sa.val sb.val k)
  | .kring p ds e k => some (.k, encK 0x0A p ds.val (bit e) 0 0 k)
  | .kfill p dd sa k => some (.k, encK 0x0B p 0 dd.val sa.val 0 k)
  | .osgd p z r dw => some (.o, encO 0x01 p z.val r.val dw.val 0)
  | .omom p z r dw dx => some (.o, encO 0x02 p z.val r.val dw.val dx.val)
  | .oadam p z r dw dx => some (.o, encO 0x03 p z.val r.val dw.val dx.val)
  | .oclip p d a b => some (.o, encO 0x04 p b.val (d.val + a.val * 8) 0 0)
  | .oscl p ds n => some (.o, encO 0x05 p 0 n.val ds.val 0)
  | .ogsq p z r dx => some (.o, encO 0x06 p z.val r.val 0 dx.val)
  | _ => none

/-- Decode the bits of one slot of a bundle. -/
def decodeSlot (s : Slot) (w : Nat) : Except DecErr (Option Instr) :=
  match s with
  | .s0 => decodeS .s0 (BitVec.ofNat 40 w)
  | .s1 => decodeS .s1 (BitVec.ofNat 40 w)
  | .c => decodeC (BitVec.ofNat 32 w)
  | .v0 => decodeV .v0 (BitVec.ofNat 48 w)
  | .v1 => decodeV .v1 (BitVec.ofNat 48 w)
  | .m => decodeM (BitVec.ofNat 48 w)
  | .x => decodeX (BitVec.ofNat 40 w)
  | .k => decodeK (BitVec.ofNat 40 w)
  | .o => decodeO (BitVec.ofNat 32 w)
  | .fetch => .ok none
  | .none => .ok none

end Sys2Proof
end

