-- ==== Sys2Proof/Config.lean ====
section
/-!
DEFINITION. What stepping B1 fixes, and the free values: constants without a body, which no proof can evaluate.
-/
namespace Sys2Proof.Config

/-- The stepping letter, 'B' (R314, R315). -/
def steppingLetter : Nat := 0x42
/-- The stepping digit, 1 (R315). -/
def steppingDigit : Nat := 0x01
/-- The native latency class (R59, R61). -/
def nativeClass : Nat := 0
/-- Bit c set: latency class c accepted (R61). -/
def acceptedClasses : Half := 0x0003
/-- Cycles of one slot of the slot table (R274). -/
def slotCycles : Nat := 95000
/-- Cycles of a context-bank switch (R67). -/
def switchCycles : Nat := 6
/-- X commands a lane's matrix-engine queue holds (R212). -/
def xQueueDepth : Nat := 16
/-- K commands one path of a lane holds (R176). -/
def kPathDepth : Nat := 16
/-- Indices a lane's index queue holds (R176). -/
def indexQueueDepth : Nat := 256
/-- Waiter records of a die's scheduler (R351). -/
def waiterRecords : Nat := 16384
/-- Arena slots of the device (R86). -/
def arenaSlots : Nat := 65536
/-- Cycles after which a save is abandoned (R356). -/
def saveLimit : Nat := 1048576

/-- FREE VALUE: a choice the manual leaves to timing (which waiter record a squash takes, R38; which arena slot a
birth takes, R43; the address a load-module command returns, R303). Log entry 12. -/
opaque freeChoice : Nat → Nat
/-- FREE VALUE: whether a synchronisation write of a closing bundle was already applied when its close is refused
(R334, item 2). Log entry 13. -/
opaque freeApplied : Nat → Bool
/-- FREE VALUE: a word the manual gives no value (log entry 14). -/
opaque freeWord : Nat → Word

end Sys2Proof.Config
end

