-- ==== Sys2Proof/Machine/Sparse.lean ====
section
/-!
DEFINITION. Sparse storage in one canonical form: a list of (key, value) pairs with strictly rising keys in which no
pair holds the value that an unlisted key reads as.
-/
namespace Sys2Proof.Machine

/-- A sparse map with `Nat` keys. -/
abbrev Sparse (α : Type) := List (Nat × α)

/-- The value at key `k`; an unlisted key reads as `dflt`. -/
def Sparse.get {α : Type} (dflt : α) : Sparse α → Nat → α
  | [], _ => dflt
  | (a, v) :: t, k => if k = a then v else if k < a then dflt else Sparse.get dflt t k

/-- Put a pair at the head unless it holds the default. -/
def Sparse.put {α : Type} [DecidableEq α] (dflt : α) (k : Nat) (v : α) (t : Sparse α) : Sparse α :=
  if v = dflt then t else (k, v) :: t

/-- Write `v` at key `k`, keeping the canonical form. -/
def Sparse.set {α : Type} [DecidableEq α] (dflt : α) : Sparse α → Nat → α → Sparse α
  | [], k, v => Sparse.put dflt k v []
  | (a, w) :: t, k, v =>
    if k = a then Sparse.put dflt k v t
    else if k < a then Sparse.put dflt k v ((a, w) :: t)
    else (a, w) :: Sparse.set dflt t k v

/-- Every key is at least `lo`, keys rise strictly, and no pair holds the default. -/
def Sparse.wfFrom {α : Type} [DecidableEq α] (dflt : α) : Nat → Sparse α → Bool
  | _, [] => true
  | lo, (a, v) :: t => decide (lo ≤ a) && decide (v ≠ dflt) && Sparse.wfFrom dflt (a + 1) t

/-- The canonical form. -/
def Sparse.wf {α : Type} [DecidableEq α] (dflt : α) (m : Sparse α) : Bool := Sparse.wfFrom dflt 0 m

end Sys2Proof.Machine
end

