-- ==== Sys2Proof/Machine/State.lean ====
section
/-!
DEFINITION. Everything the spec gives the module to hold, as plain data, and its value at reset.
The state is the whole module: 128 cores of two context banks each, their engines, the node schedulers, memory, the
mailboxes and monitors, the Plibin ports, the neighbour links and the control cluster.
-/
namespace Sys2Proof.Machine

/-! ## Registers of a context (R49 to R51, R65) -/

/-- A scalar with its hidden mod-15 residue (R49, R50). -/
structure SVal where
  val : Word
  res : BitVec 4
  deriving DecidableEq, Repr
/-- A scalar with the residue computed afresh from its value (R50). -/
def SVal.of (w : Word) : SVal := ⟨w, BitVec.ofNat 4 (w.toNat % 15)⟩

/-- The FP32 pattern of +1.0. -/
def one32 : W32 := 0x3F800000

/-- A vector register: 128 vector lanes, a format tag and an FP32 scale (R49, R97). -/
structure VReg where
  lanes : Vector W32 128
  tag   : Half
  scale : W32
  deriving DecidableEq, Repr
/-- Zero lanes, tag 0 and scale +1.0 (R32, R53). -/
def VReg.zero : VReg := ⟨Vector.replicate 128 0, 0, one32⟩

/-- A bypass latch: empty, or the class of its last result (R51, R53). -/
inductive Latch
  | empty
  | scalar (v : SVal)
  | pred (b : Bool)
  | mask (m : Mask)
  | vec (v : VReg)
  deriving DecidableEq, Repr

/-- An accumulator: 129 by 129 stored words (row and column 128 are the checksums, R381), its tag, its recorded loss
scale (R217) and the parity bit of each of the two, true while it is good (R381). -/
structure Acc where
  el     : Vector (Vector W32 129) 129
  tag    : Half
  ls     : Option W32
  tagOk  : Bool
  lsOk   : Bool
  deriving DecidableEq, Repr
/-- The accumulator MZERO leaves (R218). -/
def Acc.zero : Acc := ⟨Vector.replicate 129 (Vector.replicate 129 0), 0, none, true, true⟩

/-- A pivot vector and its parity bit (R49, R381). -/
structure PVec where
  e      : Vector Byte 128
  parity : Bool
  deriving DecidableEq, Repr
/-- The zero pivot vector (R32). -/
def PVec.zero : PVec := ⟨Vector.replicate 128 0, true⟩

/-- A tile descriptor: fields f0 to f7 (R82). -/
abbrev Desc := Vector Word 8

/-- A ring binding: the address and space HSET named (R158). -/
structure RingBind where
  addr  : Word
  space : BitVec 3
  deriving DecidableEq, Repr

/-- An entry of the hardware loop stack (R153). -/
structure LoopEnt where
  start : W32
  stop  : W32
  left  : W32
  deriving DecidableEq, Repr

/-- Sticky arithmetic flags: [0] invalid, [1] divide-by-zero, [2] overflow, [3] underflow, [4] inexact,
[5] saturated (R105, R111). -/
abbrev Flags := BitVec 6

/-- A sticky arithmetic record (R111). -/
structure FxRec where
  flags : Flags
  first : W32
  deriving DecidableEq, Repr

/-- The control registers a step can write, and those its own commands write (R32, R162). -/
structure CReg where
  lscale    : W32
  fx        : Vector FxRec 8
  pivtol    : W32
  growth    : W32
  growthmax : W32
  solvest   : Word
  solres    : W32
  soltol    : W32
  deadline  : Word
  maskbrk   : Bool
  mxretry   : BitVec 4
  maxit     : Byte
  nrmmax    : W32
  nrmfro    : W32
  mseq      : Vector Word 8
  tenstab   : Word
  deriving DecidableEq, Repr
/-- Values after reset (R84, R111, R217, R249 to R251, R385). -/
def CReg.reset : CReg where
  lscale := one32
  fx := Vector.replicate 8 ⟨0, 0⟩
  pivtol := 0
  growth := one32
  growthmax := 0x7F800000
  solvest := 0xFF0000000
  solres := 0
  soltol := 0
  deadline := 0
  maskbrk := false
  mxretry := 2
  maxit := 4
  nrmmax := 0
  nrmfro := 0
  mseq := #v[0x0FF0000000000000, 0, 0, 0, 0, 0, 0, 0]
  tenstab := 0

/-! ## Results in flight (R47, R48, R51, R55, R60, R67) -/

/-- One write that a landing result makes. -/
inductive RegWrite
  | s (r : Fin 64) (v : SVal)
  | p (r : Fin 64) (b : Bool)
  | v (r : Fin 32) (x : VReg)
  | k (r : Fin 8) (m : Mask)
  | d (r : Fin 16) (x : Desc)
  | df (r : Fin 16) (f : Fin 8) (w : Word)
  | o (r : Fin 8) (w : W32)
  | cr (num : Nat) (w : Word)
  /-- Scratchpad bytes an O operation writes (R224), by storage location. -/
  | spad (cells : List Host.Cell)
  deriving DecidableEq, Repr

/-- A stretch of storage that an access touches: the address that names its first byte (R403), its first location and its
length. -/
structure Span where
  name : Word
  loc  : Nat
  len  : Nat
  deriving DecidableEq, Repr

/-- A result in flight. `due` is the bundle count it lands before; none is an interlocked result that has not arrived
(R55). -/
structure Landing where
  slot   : Slot
  n      : Nat
  pc     : W32
  due    : Option Nat
  writes : List RegWrite
  latch  : Option Latch
  flags  : Flags
  /-- The storage bytes an interlocked load took (R401). -/
  src    : List Span
  /-- The device time at which its unit delivers it, counted from its issue (R34). -/
  t      : Nat
  /-- The landing opens a phase (R39). -/
  opens  : Bool
  deriving DecidableEq, Repr

/-! ## Failures (R333 to R337) -/

/-- What a trap record says of a failure: the code, w4, the code-specific bits of w5 and w6 (R336, R337). -/
structure Fail where
  code  : BitVec 8
  faddr : Word := 0
  d0    : Word := 0
  d1    : Word := 0
  deriving DecidableEq, Repr

/-- What the slot operation last executed came to. -/
inductive Verdict
  /-- It issued. -/
  | ok
  /-- It fails at issue (R362); its precise trap has been taken. -/
  | failed (slot : Slot) (f : Fail)
  /-- Its bundle does not issue yet (R56). -/
  | held
  /-- The close it made was refused (R334, item 2); the trap has been taken. -/
  | closed (slot : Slot) (f : Fail)
  deriving DecidableEq, Repr

/-- What follows a trap record once it is written (R334, R340, R342). -/
inductive After
  | nothing
  /-- A precise trap: the recovery of its rung for run `run`. -/
  | recover (run : Nat)
  /-- The same, where a gang peer's failure in the same bundle needs a higher rung: its core and code (R335, R344). -/
  | recoverAs (run core code : Nat)
  /-- TRAP with c[7] = 1: the node is aborted with cause 0x00 (R160). -/
  | abort (run : Nat)
  /-- A command error: the error words of command `id` (R340). -/
  | errorWords (id : Nat)
  deriving DecidableEq, Repr

/-- A record whose producer waits for space in its ring: words w0 to w6, and what follows (R339). -/
structure RingRec where
  words : List Word
  seq   : Word
  after : After
  deriving DecidableEq, Repr

/-! ## Accesses and publication (R36, R253 to R260) -/

/-- How an access touches its bytes (R257). -/
inductive AKind | read | write | update | sync
  /-- A read that observes synchronisation writes (R256). -/
  | observe
  deriving DecidableEq, Repr

/-- The combination of a commutative update (R172, R402). -/
inductive UKind | sum | max | min | and | or
  deriving DecidableEq, Repr

/-- One access as the conflict rule sees it (R257): bytes loc to loc + len - 1, its open and close times. -/
structure Access where
  owner : CtxId
  run   : Nat
  step  : Word
  /-- The address that names its first byte (R403). -/
  name  : Word
  loc   : Nat
  len   : Nat
  kind  : AKind
  opn   : Nat
  cls   : Option Nat
  deriving DecidableEq, Repr

/-- What a held write does when it is applied at its home. -/
inductive PendOp
  | bytes (cells : List Host.Cell)
  | upd (loc : Nat) (u : UKind) (ty : BitVec 4) (v : Word)
  deriving DecidableEq, Repr

/-- A write of a lane that no close has published yet (R36, R255). -/
structure Pend where
  op   : PendOp
  name : Word
  /-- Once this is published the step may not be re-executed (R346). -/
  once : Bool
  /-- A home has already accepted it (R404): no refusal is left. -/
  sure : Bool
  /-- The path that made it, by its bit of a FENCE's mask, as long as no FENCE or observation has ordered it before the
  lane's later commands on other paths (R156, R254). -/
  path : Option Nat
  deriving DecidableEq, Repr

/-- A close on its way to the home dies (R75): the bundle it is reported at, its slot and its writes. -/
structure Closing where
  owner : CtxId
  run  : Nat
  step : Word
  asid : BitVec 12
  opb  : Nat
  pc   : W32
  slot : Slot
  t    : Nat
  ops  : List Pend
  /-- Scratchpad bytes of the phase it closed as they were, newest first, and the poison units that it has cleared, for a
  refusal of the close (R334, items 2 and 5). -/
  undo : List Host.Cell
  unpoison : List Nat
  deriving DecidableEq, Repr

/-- An element held in exact form (R85, R109, R402): s counts units of 2^-149. -/
structure ExactEl where
  kind : UKind
  ty   : BitVec 4
  s    : Int
  pinf : Bool
  ninf : Bool
  nan  : Bool
  negz : Bool
  deriving DecidableEq, Repr

/-- Bytes as a command's open time shows them: storage, and the elements in exact form that stand in it (R36, R85). -/
structure Snap where
  cells : List Host.Cell
  exact : Sparse (Option ExactEl)
  deriving DecidableEq, Repr
/-- No bytes. -/
def Snap.empty : Snap := ⟨[], []⟩

/-! ## Engine commands -/

/-- The running state of a solve routine between sequencer steps (R234, R244, R251). -/
structure Solve where
  op     : BitVec 6
  var    : BitVec 2
  zd     : Fin 8
  zs     : Fin 8
  shape  : Word
  step   : Nat
  rho    : Nat
  stage  : Nat
  iter   : Nat
  best   : Nat
  zcol   : Byte
  amax0  : W32
  gmax   : W32
  bestn  : W32
  pivtol : W32
  soltol : W32
  maxit  : Byte
  maskbrk : Bool
  gmaxthr : W32
  deriving DecidableEq, Repr

/-- A command of a lane's matrix-engine queue with all it captured at issue (R212). -/
structure XCmd where
  seq      : Nat
  op       : Instr
  pc       : W32
  /-- Device time of the issuing bundle (R234). -/
  t        : Nat
  /-- Open time of the issuing bundle (R213). -/
  opn      : Nat
  da       : Desc
  db       : Desc
  shape    : Word
  bar      : Option (Nat × Word)
  lscale   : W32
  pivtol   : W32
  soltol   : W32
  gmaxthr  : W32
  maxit    : Byte
  maskbrk  : Bool
  deadline : Word
  retries  : Nat
  mseq     : Vector Word 8
  /-- Engine commands of other paths issued earlier and not ordered before it, and whether their reads are not either
  (R254). -/
  unord    : List (Nat × Bool)
  /-- M-slot accesses outside the scratchpads that no FENCE had ordered before it at its issue (R214, R254). -/
  loose    : List (AKind × Span)
  /-- The M-slot writes of its open phase that nothing had ordered before it at its issue: a barrier may (R214). -/
  mops     : List PendOp
  /-- The first closing event of its lane after its issue (R36). -/
  closeAt  : Option Nat
  /-- Source bytes as published at its open time, with the writes of its step that are ordered before it (R36, R213). -/
  snap     : Snap
  /-- Its footprint is known whole (R213, R396). -/
  whole    : Bool
  barOk    : Bool
  /-- A router's error word has released its barrier (R417). -/
  barFree  : Bool
  /-- The next k-block (R212). -/
  kb       : Nat
  solve    : Option Solve
  flags    : Flags
  /-- The device time before which the running step does not end (R252); none until the command is started (R212). -/
  busy     : Option Nat
  replays  : Nat
  /-- The accumulator that verified uncorrectable at the end of the step, which waits for its replay (R384); for a pivot
  vector the accumulator that the step works on (log entry 49). -/
  bad      : Option (Fin 8)
  /-- The accumulator for which the running step was last replayed, as `bad` names it (R387). -/
  mended   : Option (Fin 8)
  /-- MRESUME: another routine was issued since the state it names was written (R393). -/
  stale    : Bool
  waitFault : Option Fail
  deriving DecidableEq, Repr

/-- What the engine keeps of the state before the running step: every accumulator and pivot vector that the step writes,
and what it reads, as the operand buffers hold it: accumulators, and the operands from memory (R384). -/
structure Shadow where
  src  : List (Fin 8 × Acc)
  vals : List Nat
  z    : List (Fin 8 × Acc)
  pv   : List (Fin 4 × PVec)
  deriving DecidableEq, Repr

/-- How far a K command or load block has come (R176, R177). -/
inductive KStage | queued | started | srcDone | visible
  deriving DecidableEq, Repr

/-- A command of the copy engine, gather unit or collective unit, or a load block (R170, R175). -/
structure KCmd where
  id      : Nat
  owner   : CtxId
  run     : Nat
  step    : Word
  asid    : BitVec 12
  opb     : Nat
  op      : Instr
  /-- None for a load block. -/
  path    : Option KPath
  pc      : W32
  t       : Nat
  opn     : Nat
  /-- The open time of its destination writes: that of its issue, for a KRING the device time of its claim (R186). -/
  wopn    : Nat
  /-- The field widths and the tensor table of its step (R27, R84), which it keeps when the step ends (R34). -/
  fields  : List Nat
  tenstab : Word
  dd      : Desc
  ds      : Desc
  sa      : Word
  sb      : Word
  lvl     : BitVec 2
  srcWord : Option (Nat × Word)
  visWord : Option (Nat × Word)
  ring    : Option RingBind
  /-- Earlier engine commands of other paths not ordered before it, and whether their reads are not either (R254). -/
  unord   : List (Nat × Bool)
  /-- M-slot accesses outside the scratchpads that no FENCE had ordered before it at its issue (R254). -/
  loose   : List (AKind × Span)
  /-- The first closing event of its lane after its issue (R36). -/
  closeAt : Option Nat
  /-- Source bytes as published at its open time, with the step's earlier writes (R36). -/
  snap    : Snap
  /-- Source bytes that have arrived from another device (R310). -/
  far     : List Host.Cell
  /-- The devices whose homes have acknowledged every byte it writes there (R310). -/
  homes   : List Nat
  stage   : KStage
  /-- Destination writes held until visible level (R404). -/
  held    : List Pend
  /-- Source and destination bytes (R178). -/
  srcFoot : List Span
  dstFoot : List Span
  /-- A gather or scatter: all bytes of the tile that its indices name rows of (R72, R181). -/
  area    : List Span
  /-- Its footprint is known whole (R178, R396). -/
  whole   : Bool
  idx     : List W32
  accepted : Bool
  /-- A ring claim: its position and slot (R186). -/
  claim   : Option (Nat × Nat)
  /-- The location of the ring object of its claim. -/
  ringLoc : Nat
  /-- KA2A: the party has posted, in which round and with which count of parties; the ranks it has sent to (R184). -/
  posted  : Bool
  sent    : List Nat
  round   : Nat
  parties : Nat
  /-- A failure found and not yet reported by COMMAND_ERROR. -/
  failed  : Option Fail
  /-- Its class-2 record: not produced, waiting for its ring, or written (R339, R340). -/
  record  : Option Bool
  /-- Its error has been reported (R340). -/
  errored : Bool
  waitFault : Option Fail
  /-- Its step has stopped: no effect, no completion word (R334). -/
  dead    : Bool
  /-- Its bytes are no longer open towards the lane's M slot (R178). -/
  seenSrc : Bool
  seenVis : Bool
  srcDoneWord : Bool
  visDoneWord : Bool
  deriving DecidableEq, Repr

/-- An O operation's or X command's bytes that stay open towards the M slot until FENCE bit 2 (R213). -/
structure XFoot where
  seq : Nat
  src : List Span
  dst : List Span
  /-- The destination takes a commutative update (R228). -/
  upd : Bool
  deriving DecidableEq, Repr

/-- A debug dump: the copy of a stopped lane's registers in Zenhel's debug area for the core (R356); the latches are never
saved (R53). The check word is a
free value, since the layout of the dump is not given (log entry 14). -/
structure Dump where
  sreg : Vector SVal 64
  preg : BitVec 64
  vreg : Vector VReg 32
  kreg : Vector Mask 8
  dreg : Vector Desc 16
  zreg : Vector Acc 8
  pvreg : Vector PVec 4
  hreg : Vector (Option RingBind) 8
  oreg : Vector W32 8
  cr   : CReg
  check : W32
  /-- It reads back without error. -/
  good : Bool
  deriving DecidableEq, Repr

/-! ## Contexts (R65) -/

/-- What a context waits for. -/
inductive Wait
  | none
  /-- WAITEQ, WAITGE: the scratchpad word's location and the value (R157). -/
  | word (ge : Bool) (loc : Nat) (v : Word)
  /-- HWAIT: the ring and the count (R159). -/
  | ring (h : Fin 8) (n : Word)
  /-- A FUTRD that sleeps: the future, its address, and where the value goes (R39, R67). -/
  | future (loc : Nat) (addr : Word) (d : Dst 64) (pc : W32)
  /-- A bundle held until a remote device answers (R311). -/
  | remote (fill : Bool) (loc : Nat) (v : Word)
  /-- A sync bundle at its rendezvous (R30). -/
  | sync
  /-- A FENCE on the paths of its mask (R156). -/
  | fence (m : BitVec 5)
  /-- Held at a BKPT (R161). -/
  | bkpt
  /-- Waiting for Zenhel's answer to a fault; the code of a refusal (R396, R397). -/
  | fault (slot : Slot) (f : Fail)
  /-- A VSIG waits for a head's projection matrix (R210). -/
  | projection (hcb : Nat)
  deriving DecidableEq, Repr

/-- Where a context stands in its step. -/
inductive CStat
  /-- The bank holds no step. -/
  | empty
  /-- A step is dispatched and its snapshot not yet written (R346). -/
  | snapshot
  /-- A step is dispatched and has not started (R32). -/
  | loaded
  | running
  /-- The end-of-step bundle has issued; the lane settles (R34). -/
  | ending
  /-- The lane has finished; its gang has not (R31). -/
  | finished
  /-- Stopped by a trap whose recovery waits for a ring (R334, R339). -/
  | stopped
  deriving DecidableEq, Repr

/-- One context bank: the registers of R49, the control registers, the fetch state and the step it holds. -/
structure Ctx where
  /- registers -/
  sreg : Vector SVal 64
  preg : BitVec 64
  vreg : Vector VReg 32
  kreg : Vector Mask 8
  dreg : Vector Desc 16
  zreg : Vector Acc 8
  pvreg : Vector PVec 4
  hreg : Vector (Option RingBind) 8
  oreg : Vector W32 8
  qreg : Vector Latch 16
  cr   : CReg
  /-- cr.trapring, number 0x800: the physical address of the trap ring's control block (R338). -/
  trapring : Word
  /- fetch -/
  pc    : W32
  /-- Bundles issued (R57): the number of the next one. -/
  n     : Nat
  redir : List (Nat × W32)
  loops : List LoopEnt
  /-- A LOOP of count 0 sends fetch past its end (R153). -/
  skip  : Option W32
  pipe  : List Landing
  /-- No bundle issues before this device time (R64, R67). -/
  nextIssue : Nat
  /-- The latency class of the running kernel (R59, R61). -/
  kclass : BitVec 4
  ndict  : Nat
  /-- The kernel's index stream (R128, R132). -/
  stream : List Half
  /- the step -/
  stat  : CStat
  wait  : Wait
  /-- Further waits of the bundle that made `wait`, each taken up as the one before it ends (R39, R157, R210). -/
  next  : List Wait
  run   : Nat
  asid  : BitVec 12
  opb   : Nat
  step  : Word
  lane  : Fin 4
  /-- The gang's lanes, 1, 2 or 4 (R29). -/
  width : Nat
  /-- The step-identifier field widths w0 to w(nf-1) of the node's OPB (R27). -/
  fields : List Nat
  /-- Watchdog (R276): cycles counted before, since when it counts (none: paused), and its limit. -/
  wdAcc   : Nat
  wdSince : Option Nat
  wdLimit : W32
  /-- Debugging was on for the ASID at the step's start (R161, R318). -/
  debug : Bool
  tails : List Word
  lastPc : W32
  /-- When the bank last became free (R275). -/
  freed : Option Nat
  /- phases and writes -/
  phaseOpen : Nat
  pend  : List Pend
  /-- Scratchpad bytes of the open phase as they were, newest first (R334, item 5). -/
  undo  : List Host.Cell
  /-- Poison units that writes of the open phase have cleared (R341). -/
  unpoison : List Nat
  /-- M-slot accesses outside the scratchpads that no FENCE of bit 0 has ordered before later engine commands (R254). -/
  mfoot : List (AKind × Span)
  /- engines -/
  seq   : Nat
  xq    : List XCmd
  xfoot : List XFoot
  shadow : Option Shadow
  strikes : List SoftTarget
  idxq  : List W32
  /-- The bundle at pc has been tried and stalls (R56). -/
  stalled : Bool
  /-- The sync bundle at pc has been released and issues next (R30). -/
  synced : Bool
  /-- A remote device's answer to the held bundle's FUTRD or FUTFILL (R311). -/
  answer : Option FutureReply
  /- trap ring and saves -/
  ringQ : List RingRec
  /-- A save under way: its kind (R345) and when it began (R356). -/
  save  : Option (Nat × Nat)
  /-- The dump of a lane held at a BKPT (R356). -/
  dump  : Option Dump
  deriving DecidableEq, Repr

/-- The registers as every step starts with them, apart from its inputs (R32). -/
def Ctx.blank : Ctx where
  sreg := Vector.replicate 64 ⟨0, 0⟩
  preg := 1
  vreg := Vector.replicate 32 VReg.zero
  kreg := #v[BitVec.allOnes 128, 0, 0, 0, 0, 0, 0, 0]
  dreg := Vector.replicate 16 (Vector.replicate 8 0)
  zreg := Vector.replicate 8 Acc.zero
  pvreg := Vector.replicate 4 PVec.zero
  hreg := Vector.replicate 8 none
  oreg := Vector.replicate 8 0
  qreg := Vector.replicate 16 .empty
  cr := CReg.reset
  trapring := 0
  pc := 0
  n := 0
  redir := []
  loops := []
  skip := none
  pipe := []
  nextIssue := 0
  kclass := 0
  ndict := 0
  stream := []
  stat := .empty
  wait := .none
  next := []
  run := 0
  asid := 0
  opb := 0
  step := 0
  lane := 0
  width := 1
  fields := []
  wdAcc := 0
  wdSince := none
  wdLimit := 0x00017318
  debug := false
  tails := []
  lastPc := 0
  freed := none
  phaseOpen := 0
  pend := []
  undo := []
  unpoison := []
  mfoot := []
  seq := 0
  xq := []
  xfoot := []
  shadow := none
  strikes := []
  idxq := []
  stalled := false
  synced := false
  answer := none
  ringQ := []
  save := none
  dump := none

/-! ## Cores: shared between the banks, and neighbour voting (R62 to R68, R409 to R421) -/

/-- What a receiver keeps of one neighbour (R412). Counts are of the heartbeats of the period now open and of the
period before it. -/
structure NLink where
  /-- The link is closed by a fence (R415). -/
  closed : Bool
  lastSeq : Option Half
  cur : Nat
  prev : Nat
  /-- A flit of the open period that was malformed or out of sequence. -/
  curBad : Bool
  prevBad : Bool
  silent : Nat
  clean : Nat
  silence : Bool
  babble : Bool
  /-- An appeal heard: period ends until the watch is over (R419). -/
  watch : Option Nat
  /-- Flits discarded for their crc since the last heartbeat: its sequence number may skip as many (R412). -/
  noise : Nat
  deriving DecidableEq, Repr
/-- A link as module reset leaves it (R412). -/
def NLink.reset : NLink := ⟨false, none, 0, 0, false, false, 0, 0, false, false, none, 0⟩

/-- A vote held: voter, accused and reason (R413). -/
structure Vote where
  voter : Fin 128
  accused : Fin 128
  reason : BitVec 2
  deriving DecidableEq, Repr

/-- A fence sealed and not yet reversed: who sealed it, for which reason, and T_s (R415, R416, R421). -/
structure Seal where
  by'    : Fin 128
  reason : Nat
  t      : Nat
  deriving DecidableEq, Repr

/-- The state a core sends in its heartbeats (R410). -/
inductive SelfState | normal | fenced | testing
  deriving DecidableEq, Repr

/-- The performance counters of a core (R319). Cycles are kept as those of the spans that have ended and the start of
the span that has not; stalls are the cycles in which no bundle began. -/
structure Perf where
  held     : Nat
  since    : Option Nat
  bundles  : Nat
  splits   : Nat
  branches : Nat
  returns  : Nat
  switches : Nat
  deriving DecidableEq, Repr

/-- A head's projection matrix held by a key-signature unit (R88, R210). -/
structure ProjEnt where
  asid : BitVec 12
  hcb  : Nat
  rows : List Byte
  deriving DecidableEq, Repr

/-- One core. -/
structure CoreSt where
  slotmap : Word
  /-- The bank that issues (R67, R68). -/
  cur : Fin 2
  /-- Banks whose wait has been satisfied and that have not issued since, with the device time of that (R67). -/
  ready : List (Nat × Fin 2)
  dict : Vector (List BundleBits) 2
  dictOf : Vector (Option (BitVec 12 × Nat)) 2
  proj : List ProjEnt
  perf : Perf
  /-- The latency of the copy command that last became visible, until a monitor has sampled it (R316). -/
  copyLat : Option Nat
  /-- Bound to an ASID's trace, the core has waited for its record's node since then (R279, R358). -/
  traceWait : List (BitVec 12 × Nat)
  /- neighbour voting -/
  links : Vector NLink 4
  hbSeq : Half
  hbPeriod : Option Nat
  /-- The period this core has open as a receiver (R412). -/
  period : Nat
  self : SelfState
  residues : BitVec 4
  corrections : BitVec 4
  uncorrectables : BitVec 4
  votes : List Vote
  /-- Cores that this core knows to be fenced (R415). -/
  fencedView : Mask
  /-- Notices already forwarded: type, fenced core and epoch (R415). -/
  seen : List (BitVec 4 × Fin 128 × Half)
  /-- The seals of a fence of this core: from the first T_s on its engine commands have ended (R416). -/
  cut : List Seal
  deriving DecidableEq, Repr
/-- A core after module reset (R63, R409 to R412). -/
def CoreSt.reset : CoreSt where
  slotmap := 0x3F44
  cur := 0
  ready := []
  dict := #v[[], []]
  dictOf := #v[none, none]
  proj := []
  perf := ⟨0, none, 0, 0, 0, 0, 0⟩
  copyLat := none
  traceWait := []
  links := Vector.replicate 4 NLink.reset
  hbSeq := 0
  hbPeriod := none
  period := 0
  self := .normal
  residues := 0
  corrections := 0
  uncorrectables := 0
  votes := []
  fencedView := 0
  seen := []
  cut := []

/-! ## The scheduler (R268 to R284, R343 to R361) -/

/-- The carries of one lane (R28). -/
abbrev Carry := Vector Word 4

/-- A step to be dispatched again (R41, R347). -/
structure StepRec where
  step : Word
  carries : List Carry
  restarts : Nat
  /-- Cores its next placement excludes (R347). -/
  excl : List (Fin 128)
  /-- The earlier run whose engine commands must first have ended (R347, R350). -/
  after : Option Nat
  /-- When it became ready to be dispatched again (R269). -/
  since : Nat
  deriving DecidableEq, Repr

/-- Pre-emption of a node (R280). -/
inductive PreState
  | no
  | requested
  /-- Its lane records stand in memory. -/
  | saved
  /-- The save was abandoned: the scheduler keeps the lane values (R357). -/
  | kept
  deriving DecidableEq, Repr

/-- A node the scheduler holds; its other fields stand in its OPB, at physical address `phys` (R21, R22). -/
structure Node where
  asid : BitVec 12
  opb  : Nat
  phys : Nat
  die  : Fin 4
  /-- Its own prio, or its parent's for a tail child (R26, R268). -/
  prio : Nat
  requeue : List StepRec
  /-- Carries of the next step, by lane, for chain = 1 (R28). -/
  carries : List Carry
  inherited : Bool
  rndDone : Bool
  ord : Option W32
  pre : PreState
  /-- The mailboxes whose pre-emption commands wait for it. -/
  preMb : List (Fin 16)
  /-- Since when its lane records wait to be saved: its request, or the end of its last running step (R356). -/
  preSince : Nat
  /-- An abort that waits for engine commands: the class-4 records it ends with (R343). -/
  dying : Option (List (List Word))
  deriving DecidableEq, Repr

/-- A dispatched step: its gang, what its snapshot holds (R346) and what its end records (R154). -/
structure Run where
  id : Nat
  asid : BitVec 12
  opb : Nat
  step : Word
  gang : List CtxId
  carries : List Carry
  once : Bool
  restarts : Nat
  /-- A lane has closed a phase (R39). -/
  closed : Bool
  /-- The snapshot in the journal holds poisoned or damaged data (R347). -/
  snapBad : Bool
  deriving DecidableEq, Repr

/-- Who is woken by a waiter record (R40, R39, R311). -/
inductive Wake
  /-- A squashed step. -/
  | step (r : StepRec)
  /-- A lane that sleeps. -/
  | lane (c : CtxId) (run : Nat)
  /-- A proxy for a reader on another device (R311). -/
  | proxy (device record : Nat)
  deriving DecidableEq, Repr

/-- A waiter record of a die (R40, R351). -/
structure Waiter where
  die : Fin 4
  idx : Nat
  asid : BitVec 12
  opb : Nat
  wake : Wake
  count : Nat
  dead : Bool
  /-- The future whose list holds it; for a future on another device, its address here (R309). -/
  loc : Nat
  deriving DecidableEq, Repr

/-- An arena slot (R86). -/
structure Arena where
  gen : BitVec 24
  live : Bool
  asid : BitVec 12
  frames : List Nat
  deriving DecidableEq, Repr
/-- An arena slot that has never been used. -/
def Arena.none : Arena := ⟨0, false, 0, []⟩

/-- The scheduler configuration block (R317). -/
structure SchedCfg where
  slots    : Vector Half 64
  /-- Entries written and not yet in effect (R274). -/
  slotsNew : Vector Half 64
  asidtab  : Word
  devring  : Word
  hbperiod : W32
  appealmax : BitVec 4
  enable   : Bool
  lock     : Mask
  appeals  : Vector (BitVec 4) 128
  health   : Vector Half 128
  deriving DecidableEq, Repr
/-- Values after reset (R317). -/
def SchedCfg.reset : SchedCfg where
  slots := Vector.replicate 64 0
  slotsNew := Vector.replicate 64 0
  asidtab := 0
  devring := 0
  hbperiod := 0x2000
  appealmax := 2
  enable := false
  lock := 0
  appeals := Vector.replicate 128 0
  health := Vector.replicate 128 0

/-- The decision that a class-4 or class-5 record belongs to: what follows once the record is written (R339). -/
inductive DevAfter
  | nothing
  /-- The end of a node's abort (R343, step 5). -/
  | endAbort (asid : BitVec 12) (opb : Nat)
  /-- A step is enqueued again with its restart count (R347). -/
  | reexecute (run restarts : Nat)
  /-- The recovery of rung 3 of a stopped step (R342, R357). -/
  | recover (run core code : Nat)
  /-- A step whose snapshot save was abandoned is dispatched again (R357). -/
  | redispatch (run core : Nat)
  /-- A pre-empted node goes on from its OPB (R357). -/
  | unpreempt (asid : BitVec 12) (opb : Nat)
  /-- A pre-empted node's lane values stay with the scheduler (R357). -/
  | keep (asid : BitVec 12) (opb : Nat)
  /-- The runs of a fenced core are recovered (R418). -/
  | fence (core : Fin 128)
  /-- A reinstated core returns to placement (R419). -/
  | free (core : Fin 128)
  /-- The trace whose control block stands at `cb` goes past a record: ri becomes `ri` (R358). -/
  | passTrace (cb ri : Nat)
  deriving DecidableEq, Repr

/-- A record that waits for space in the device ring, and the decision that waits with it (R339). -/
structure DevRec where
  words : List Word
  seq   : Word
  after : DevAfter
  deriving DecidableEq, Repr

/-! ## Host, control cluster, link (R300 to R316, R360) -/

/-- A mailbox (R303). -/
structure Mailbox where
  cmd : Byte
  go : Bool
  arg0 : Word
  arg1 : Word
  arg2 : Word
  status : Byte
  deriving DecidableEq, Repr
/-- A mailbox after reset (R303). -/
def Mailbox.reset : Mailbox := ⟨0, false, 0, 0, 0, 0⟩

/-- A mailbox intent in the journal of the control cluster that has no completion mark (R360). -/
structure Intent where
  mb : Fin 16
  cmd : Mailbox
  deriving DecidableEq, Repr

/-- A monitor (R316). -/
structure Monitor where
  src : Byte
  inst : Byte
  lo : W32
  width : W32
  min : Word
  max : Word
  count : Word
  bins : Vector W32 16
  deriving DecidableEq, Repr
/-- A monitor after reset (R316). -/
def Monitor.reset : Monitor := ⟨0, 0, 0, 0, BitVec.allOnes 64, 0, 0, Vector.replicate 16 0⟩

/-- What a flit in flight belongs to (R313). -/
inductive FlitUse
  | command (id : Nat)
  | future (c : CtxId)
  /-- A wake-up or an answer to another device (R311). -/
  | reply
  /-- Pause, resume, replay request or acknowledgement (R307, R308, R312). -/
  | link
  | other
  deriving DecidableEq, Repr

/-- A flit a sender keeps until it is acknowledged (R312). -/
structure TxFlit where
  seq : Nat
  /-- The destination device; for a flit of lane 3 the port's far end. -/
  dest : Nat
  replays : Nat
  use : FlitUse
  deriving DecidableEq, Repr

/-- One virtual lane of a port (R307, R308, R312). -/
structure VLane where
  /-- Free flits of the receiver's skid buffer. -/
  free : Nat
  /-- Sequence number of the next flit to deliver. -/
  expect : Nat
  /-- A pause has been sent and no resume since. -/
  pauseSent : Bool
  /-- A replay has been asked for from this number. -/
  asked : Option Nat
  /-- The sender has been told to pause. -/
  paused : Bool
  /-- Flits it may still start after the pause. -/
  grace : Nat
  nextSeq : Nat
  sent : List TxFlit
  /-- Flits that a pause holds back: their destination devices and what they carry (R308). -/
  queue : List (Nat × FlitUse)
  deriving DecidableEq, Repr
/-- A virtual lane with nothing in flight (R308). -/
def VLane.reset : VLane := ⟨128, 0, false, none, false, 0, 0, [], []⟩

/-- A Plibin port (R307, R312). -/
structure Port where
  trained : Bool
  far : Half
  lanes : Vector VLane 4
  deriving DecidableEq, Repr
/-- A port before training. -/
def Port.reset : Port := ⟨false, 0, Vector.replicate 4 VLane.reset⟩

/-- A KA2A party on another device, as its flits have shown it (R183, R184). -/
structure FarParty where
  asid : BitVec 12
  /-- The location of the group record here. -/
  loc : Nat
  round : Nat
  rank : Nat
  device : Nat
  parties : Nat
  rbase : Nat
  counts : List Nat
  /-- The ranks here into whose buffers it has delivered. -/
  sent : List Nat
  /-- What it has sent to ranks here whose buffers wait for Zenhel's answer to a fault (R396). -/
  stash : List (Nat × List Byte)
  visible : Bool
  deriving DecidableEq, Repr

/-- What happens next: a step of the machine that the outside world or timing chooses. -/
inductive Move
  /-- A context tries to issue its next bundle. -/
  | issue (c : CtxId)
  /-- An operation or event of the opcode table. -/
  | act (i : Instr)
  /-- Device time passes. -/
  | tick (cycles : Nat)
  /-- The host writes the staging area through BAR2 (R301). -/
  | stage (off : Nat) (bytes : List Byte)
  /-- The host writes a mailbox word (R303). -/
  | mailbox (mb : Fin 16) (off : Nat) (v : Word)
  /-- The host writes a monitor word (R316). -/
  | monitor (i : Fin 32) (off : Nat) (v : Word)
  /-- Zenhel writes memory (R338). -/
  | zenhel (ws : List ExtWrite)
  /-- Zenhel writes an entry of the frame attribute table (R77). -/
  | policy (frame : Nat) (code : BitVec 2)
  deriving DecidableEq, Repr

/-! ## The module -/

/-- The whole module. -/
structure State where
  /-- Device time (R8, R163). -/
  time  : Nat
  ctxs  : Vector Ctx 256
  cores : Vector CoreSt 128
  /-- Storage: bytes of physical memory at their physical address (R73), bytes of core c's scratchpad from
  2^52 + c * 2^22 (R69, R70). -/
  mem   : List Host.Cell
  /-- First bytes of poisoned units (R341), rising. -/
  poison : List Nat
  /-- Elements in exact form, by location (R85). -/
  exact : Sparse (Option ExactEl)
  /-- Policies of the frame attribute table (R77); an unlisted frame has code 0. -/
  policy : Sparse (BitVec 2)
  accs  : List Access
  /-- The povf bits that a KST has set (R407): the location of the byte and the device time. -/
  povfs : List (Nat × Nat)
  /-- Closes on their way to other dies, oldest first (R75). -/
  closing : List Closing
  kcmds : List KCmd
  /-- KA2A parties on other devices (R183). -/
  parties : List FarParty
  /-- KCPYs of other devices whose first flits have arrived: the device, and the step that they count as here (R310). -/
  farCopies : List (Nat × Nat)
  nextId : Nat
  nextRun : Nat
  /- the scheduler -/
  cfg   : SchedCfg
  /-- The ready-sequence counter (R24). -/
  rseq  : Word
  nodes : List Node
  runs  : List Run
  waiters : List Waiter
  arenas : Sparse Arena
  /-- Free 64 KiB frames (R43). -/
  pool  : List Nat
  devQ  : List DevRec
  /-- Fenced cores, as the schedulers see them (R415), and each core's fence epoch. -/
  fenced : Mask
  epochs : Vector Half 128
  /- host and boot -/
  boot  : Nat
  mail  : Vector Mailbox 16
  /-- Mailboxes whose go has been written and that Zenhel has not taken, with the device time of the write (R304). -/
  mbQueue : List (Nat × Fin 16)
  mons  : Vector Monitor 32
  signature : W32
  cxl   : Vector Nat 4
  hostCxl : Bool
  nvme  : BitVec 4
  ports : Vector Port 16
  device : Half
  routes : List (Nat × Fin 16)
  staging : Nat
  /-- CXL ranges removed since boot (R302). -/
  removed : List (Nat × Nat)
  /-- The heartbeat word of each control core, the device time of its last heartbeat, and whether the standby has taken
  over (R360). -/
  ctlBeat : Vector Nat 8
  /-- The journal of the control cluster: intents without a completion mark (R360). -/
  journal : List Intent
  standbyUsed : Bool
  /- the model's own -/
  /-- The context whose slot operations `exec` runs. -/
  cur   : CtxId
  /-- What the slot operation last executed came to. -/
  verdict : Verdict
  agenda : List Move
  /-- Free values drawn so far (log entry 12). -/
  free  : Nat
  deriving DecidableEq, Repr

/-- The machine right after module reset (R4, R306): nothing runs, no memory byte is listed. -/
def State.reset : State where
  time := 0
  ctxs := Vector.replicate 256 Ctx.blank
  cores := Vector.replicate 128 CoreSt.reset
  mem := []
  poison := []
  exact := []
  policy := []
  accs := []
  povfs := []
  closing := []
  kcmds := []
  parties := []
  farCopies := []
  nextId := 0
  nextRun := 1
  cfg := SchedCfg.reset
  rseq := 0
  nodes := []
  runs := []
  waiters := []
  arenas := []
  pool := []
  devQ := []
  fenced := 0
  epochs := Vector.replicate 128 0
  boot := 1
  mail := Vector.replicate 16 Mailbox.reset
  mbQueue := []
  mons := Vector.replicate 32 Monitor.reset
  signature := 0
  cxl := #v[0, 0, 0, 0]
  hostCxl := false
  nvme := 0
  ports := Vector.replicate 16 Port.reset
  device := 0
  routes := []
  staging := 0
  removed := []
  ctlBeat := Vector.replicate 8 0
  journal := []
  standbyUsed := false
  cur := ⟨0, 0⟩
  verdict := .ok
  agenda := []
  free := 0

/-! ## Reasons a step can stop -/

/-- Why a step of the machine faults. -/
inductive Fault
  /-- No step raises it: every failure the spec names is reported by a trap record, an error word, a mailbox status
  or a class-4 or class-5 record, all of them next states (R333). Safe. -/
  | never
  deriving DecidableEq, Repr

/-- Why a step is refused. -/
inductive Refusal
  /-- Raised by the arms of `exec` for instructions with no meaning yet. Safe: nothing is claimed of them. -/
  | notModelled (mnemonic : String)
  deriving DecidableEq, Repr

/-- The outcome of a step of this machine. -/
abbrev Out := Host.Outcome State Fault Refusal

end Sys2Proof.Machine
end

