-- ==== Sys2Proof/Machine/Flags.lean ====
section
/-!
DEFINITION. Formats, exact values, rounding and the sticky arithmetic flags (R92 to R96, R102 to R105).
An exact value is a rational number with a sign, so every operation computes exactly and rounds once.
-/
namespace Sys2Proof.Machine

/-! ## Flags (R105, R111) -/

/-- invalid -/
def fInv : Flags := 1
/-- divide-by-zero -/
def fDz : Flags := 2
/-- overflow -/
def fOvf : Flags := 4
/-- underflow -/
def fUnf : Flags := 8
/-- inexact -/
def fInx : Flags := 16
/-- saturated -/
def fSat : Flags := 32
/-- Flag `f` where `c` holds. -/
def flagIf (c : Bool) (f : Flags) : Flags := if c then f else 0

/-! ## Formats (R92, R93) -/

/-- Which values the all-ones exponent holds (R93). -/
inductive FKind
  /-- Infinities and NaNs. -/
  | ieee
  /-- Normal values but for the NaN pattern S.1111.111. -/
  | e4m3
  /-- Normal values only. -/
  | e3m2
  deriving DecidableEq, Repr

/-- A floating-point format: exponent bits, mantissa bits, bias, largest finite pattern, default NaN (R93). -/
structure Fmt where
  e    : Nat
  m    : Nat
  bias : Nat
  kind : FKind
  maxp : Nat
  nan  : Nat
  deriving DecidableEq, Repr

/-- FP32 -/
def fp32 : Fmt := ⟨8, 23, 127, .ieee, 0x7F7FFFFF, 0x7FC00000⟩
/-- BF16 -/
def bf16 : Fmt := ⟨8, 7, 127, .ieee, 0x7F7F, 0x7FC0⟩
/-- FP16 -/
def fp16 : Fmt := ⟨5, 10, 15, .ieee, 0x7BFF, 0x7E00⟩
/-- E4M3 -/
def e4m3 : Fmt := ⟨4, 3, 7, .e4m3, 0x7E, 0x7F⟩
/-- E5M2 -/
def e5m2 : Fmt := ⟨5, 2, 15, .ieee, 0x7B, 0x7E⟩
/-- E3M2 -/
def e3m2 : Fmt := ⟨3, 2, 3, .e3m2, 0x1F, 0⟩

/-- The floating-point format of a format code (R92). -/
def fmtOf (c : Nat) : Option Fmt :=
  match c with
  | 1 => some fp32 | 2 => some bf16 | 3 => some fp16 | 4 => some e4m3 | 5 => some e5m2 | 6 => some e3m2
  | _ => none

/-- Width in bits of an element of a format code (R92). -/
def fmtBits (c : Nat) : Nat :=
  match c with
  | 0 => 32 | 1 => 32 | 2 => 16 | 3 => 16 | 4 => 8 | 5 => 8 | 6 => 6 | 7 => 8 | 8 => 8 | 9 => 16 | 10 => 16
  | _ => 32

/-- A format code of signed integers (R92). -/
def fmtSigned (c : Nat) : Bool := c = 7 || c = 9 || c = 11
/-- A format code of integers (R92). -/
def fmtInt (c : Nat) : Bool := decide (7 ≤ c) && decide (c ≤ 12)

/-! ## Exact values -/

/-- An exact value: (-1)^neg * num / den * 2^e with den positive, an infinity, or NaN. -/
inductive XV
  | nan
  | inf (neg : Bool)
  | fin (neg : Bool) (num den : Nat) (e : Int)
  deriving DecidableEq, Repr

/-- Positive zero. -/
def XV.zero : XV := .fin false 0 1 0
/-- An exact integer. -/
def XV.ofInt (i : Int) : XV := .fin (decide (i < 0)) i.natAbs 1 0

/-- The value of a pattern (R93). -/
def Fmt.dec (f : Fmt) (p : Nat) : XV :=
  let neg := p.testBit (f.e + f.m)
  let ex := (p >>> f.m) % 2 ^ f.e
  let m := p % 2 ^ f.m
  if ex = 2 ^ f.e - 1 && f.kind == .ieee then (if m = 0 then .inf neg else .nan)
  else if f.kind == .e4m3 && p % 128 = 127 then .nan
  else if ex = 0 then .fin neg m 1 (1 - (f.bias : Int) - f.m)
  else .fin neg (m + 2 ^ f.m) 1 ((ex : Int) - f.bias - f.m)

/-- The sign bit of a value; NaN counts as positive. -/
def XV.neg : XV → Bool
  | .nan => false
  | .inf n => n
  | .fin n _ _ _ => n
/-- Is it NaN. -/
def XV.isNan : XV → Bool
  | .nan => true
  | _ => false
/-- Is it an infinity. -/
def XV.isInf : XV → Bool
  | .inf _ => true
  | _ => false
/-- Is it a zero. -/
def XV.isZero : XV → Bool
  | .fin _ n _ _ => n = 0
  | _ => false
/-- The value with its sign set. -/
def XV.withNeg (b : Bool) : XV → XV
  | .nan => .nan
  | .inf _ => .inf b
  | .fin _ n d e => .fin b n d e
/-- The negation. -/
def XV.negate (x : XV) : XV := x.withNeg (!x.neg)
/-- The magnitude. -/
def XV.abs (x : XV) : XV := x.withNeg false

/-- `n * 2^k` for a natural `k`, else `n`. -/
def shiftUp (n : Nat) (k : Int) : Nat := n * 2 ^ k.toNat

/-- Order of two magnitudes n1/d1*2^e1 and n2/d2*2^e2. -/
def cmpMag (n1 d1 : Nat) (e1 : Int) (n2 d2 : Nat) (e2 : Int) : Ordering :=
  compare (shiftUp (n1 * d2) (e1 - e2)) (shiftUp (n2 * d1) (e2 - e1))

/-- Order of two values that are not NaN; the zeros are equal (R94). -/
def XV.cmp (a b : XV) : Ordering :=
  match a, b with
  | .nan, _ => .eq
  | _, .nan => .eq
  | .inf x, .inf y => if x = y then .eq else if x then .lt else .gt
  | .inf x, .fin _ _ _ _ => if x then .lt else .gt
  | .fin _ _ _ _, .inf y => if y then .gt else .lt
  | .fin s n d e, .fin t m c g =>
    if n = 0 && m = 0 then .eq
    else if n = 0 then (if t then .gt else .lt)
    else if m = 0 then (if s then .lt else .gt)
    else if s ≠ t then (if s then .lt else .gt)
    else if s then cmpMag m c g n d e else cmpMag n d e m c g

/-- a < b, false with a NaN. -/
def XV.lt (a b : XV) : Bool := !a.isNan && !b.isNan && a.cmp b == .lt
/-- a ≤ b, false with a NaN. -/
def XV.le (a b : XV) : Bool := !a.isNan && !b.isNan && a.cmp b != .gt
/-- a = b, false with a NaN. -/
def XV.eqv (a b : XV) : Bool := !a.isNan && !b.isNan && a.cmp b == .eq

/-- The signed numerator of a finite value over `2^e`, at the lesser exponent `g ≤ e`. -/
def signedAt (neg : Bool) (n : Nat) (e g : Int) : Int :=
  let v := shiftUp n (e - g)
  if neg then -(v : Int) else v

/-- Exact addition; the sign of an exact zero sum follows IEEE 754 under mode `rm` (R94, R105). -/
def XV.add (rm : Nat) (a b : XV) : XV × Flags :=
  match a, b with
  | .nan, _ => (.nan, 0)
  | _, .nan => (.nan, 0)
  | .inf x, .inf y => if x = y then (.inf x, 0) else (.nan, fInv)
  | .inf x, _ => (.inf x, 0)
  | _, .inf y => (.inf y, 0)
  | .fin s n d e, .fin t m c g =>
    let lo := min e g
    let v := signedAt s (n * c) e lo + signedAt t (m * d) g lo
    if v = 0 then (.fin (if s = t then s else decide (rm = 2)) 0 1 0, 0)
    else (.fin (decide (v < 0)) v.natAbs (d * c) lo, 0)

/-- Exact multiplication (R94, R105). -/
def XV.mul (a b : XV) : XV × Flags :=
  match a, b with
  | .nan, _ => (.nan, 0)
  | _, .nan => (.nan, 0)
  | .inf x, .inf y => (.inf (x != y), 0)
  | .inf x, .fin t m _ _ => if m = 0 then (.nan, fInv) else (.inf (x != t), 0)
  | .fin s n _ _, .inf y => if n = 0 then (.nan, fInv) else (.inf (s != y), 0)
  | .fin s n d e, .fin t m c g => (.fin (s != t) (n * m) (d * c) (e + g), 0)

/-- Exact division (R105, R227). -/
def XV.div (a b : XV) : XV × Flags :=
  match a, b with
  | .nan, _ => (.nan, 0)
  | _, .nan => (.nan, 0)
  | .inf _, .inf _ => (.nan, fInv)
  | .inf x, .fin t _ _ _ => (.inf (x != t), 0)
  | .fin s _ _ _, .inf y => (.fin (s != y) 0 1 0, 0)
  | .fin s n d e, .fin t m c g =>
    if m = 0 then (if n = 0 then (.nan, fInv) else (.inf (s != t), fDz))
    else (.fin (s != t) (n * c) (d * m) (e - g), 0)

/-! ## Rounding (R7, R102) -/

/-- The number of bits of `n`. -/
def natLen (n : Nat) : Nat := if n = 0 then 0 else n.log2 + 1

/-- A magnitude in [q, q+1) * 2^sh; `more` says that it is not q * 2^sh. -/
structure Mag where
  q    : Nat
  sh   : Int
  more : Bool
  deriving DecidableEq, Repr

/-- The flags that making an exact value from operands `xs` raises: a NaN among them raises none (R94; log entry 55). -/
def quiet (xs : List XV) (f : Flags) : Flags := if xs.any XV.isNan then 0 else f

/-- The magnitude of num/den * 2^e, with at least 64 bits where it is not exact. -/
def magOf (num den : Nat) (e : Int) : Mag :=
  if den = 1 then ⟨num, e, false⟩
  else
    let k := 64 + natLen den - natLen num
    let v := num * 2 ^ k
    ⟨v / den, e - k, v % den ≠ 0⟩

/-- Round a magnitude to a multiple of 2^u by mode `rm` (0 nearest-even, 1 toward zero, 2 down, 3 up): the multiple,
and whether it differs. -/
def roundAt (x : Mag) (neg : Bool) (rm : Nat) (u : Int) : Nat × Bool :=
  -- past the length of q the floor is 0 and less than half remains, however far u lies above
  let d := min (u - x.sh).toNat (natLen x.q + 2)
  if u ≤ x.sh then (shiftUp x.q (x.sh - u), x.more)
  else
    let n := x.q >>> d
    let r := x.q % 2 ^ d
    let half := 2 ^ (d - 1)
    let inx := r ≠ 0 || x.more
    let up :=
      match rm with
      | 0 => decide (half < r) || (decide (r = half) && (x.more || n % 2 = 1))
      | 1 => false
      | 2 => inx && neg
      | _ => inx && !neg
    (if up then n + 1 else n, inx)

/-- The pattern of sign `neg` and magnitude pattern `p`. -/
def Fmt.signed (f : Fmt) (neg : Bool) (p : Nat) : Nat := if neg then p + 2 ^ (f.e + f.m) else p

/-- The infinity of a format, or the default NaN of a format without one (R102). -/
def Fmt.infp (f : Fmt) (neg : Bool) : Nat :=
  match f.kind with
  | .ieee => f.signed neg ((2 ^ f.e - 1) * 2 ^ f.m)
  | .e4m3 => f.nan
  | .e3m2 => f.signed neg f.maxp

/-- What an overflow delivers (R102, R105): the result and whether it is saturated. -/
def Fmt.overflow (f : Fmt) (rm : Nat) (sat neg : Bool) : Nat × Flags :=
  let toMax := match rm with
    | 0 => false
    | 1 => true
    | 2 => !neg
    | _ => neg
  let max := f.signed neg f.maxp
  if f.kind == .e3m2 then (max, fOvf ||| fInx ||| fSat)
  else if toMax then (max, fOvf ||| fInx)
  else if sat then (max, fOvf ||| fInx ||| fSat)
  else (f.infp neg, fOvf ||| fInx)

/-- Round a nonzero magnitude (R102, R105). -/
def Fmt.roundMag (f : Fmt) (rm : Nat) (sat neg : Bool) (x : Mag) : Nat × Flags :=
  let ex : Int := (natLen x.q : Int) - 1 + x.sh
  let emin : Int := 1 - (f.bias : Int)
  let (nu, _) := roundAt x neg rm (ex - f.m)
  -- the unbounded rounding is nu * 2^(ex - m), nu from 2^m to 2^(m+1)
  let exu : Int := if nu = 2 ^ (f.m + 1) then ex + 1 else ex
  let u : Int := max ex emin - f.m
  let (n, inx) := roundAt x neg rm u
  -- the delivered magnitude is n * 2^u; its pattern is n plus the exponent field above the first
  let p := n + (u + f.m - emin).toNat * 2 ^ f.m
  if f.maxp < p then f.overflow rm sat neg
  else (f.signed neg p, flagIf inx fInx ||| flagIf (inx && decide (exu < emin)) fUnf)

/-- Round an exact value to a format by mode `rm` (R7, R94, R102, R103). A NaN gives the default NaN, or +0 and invalid
in E3M2 (R95). -/
def Fmt.round (f : Fmt) (rm : Nat) (sat : Bool) (x : XV) : Nat × Flags :=
  match x with
  | .nan => (f.nan, flagIf (f.kind == .e3m2) fInv)
  | .inf neg =>
    match f.kind with
    | .ieee => (f.infp neg, 0)
    | .e4m3 => if sat then (f.signed neg f.maxp, fSat) else (f.nan, fInv)
    | .e3m2 => (f.signed neg f.maxp, fOvf ||| fSat)
  | .fin neg num den e =>
    if num = 0 then (f.signed neg 0, 0) else f.roundMag rm sat neg (magOf num den e)

/-- Round num/den * 2^e to an integer by mode `rm`, and whether that changed the value. -/
def roundInt (rm : Nat) (neg : Bool) (num den : Nat) (e : Int) : Int × Bool :=
  let n := shiftUp num e
  let d := shiftUp den (-e)
  let (q, r) := (n / d, n % d)
  let up := match rm with
    | 0 => decide (d < 2 * r) || (decide (2 * r = d) && q % 2 = 1)
    | 1 => false
    | 2 => r ≠ 0 && neg
    | _ => r ≠ 0 && !neg
  let m := if up then q + 1 else q
  (if neg then -(m : Int) else m, r ≠ 0)

/-! ## Integers (R104) -/

/-- Least and greatest value of a `w`-bit integer. -/
def intLo (sgn : Bool) (w : Nat) : Int := if sgn then -((2 ^ (w - 1) : Nat) : Int) else 0
/-- The greatest. -/
def intHi (sgn : Bool) (w : Nat) : Int := if sgn then ((2 ^ (w - 1) : Nat) : Int) - 1 else ((2 ^ w : Nat) : Int) - 1
/-- The low `w` bits of an integer, as a natural. -/
def wrapNat (w : Nat) (x : Int) : Nat := (x % ((2 ^ w : Nat) : Int)).toNat
/-- The integer a pattern of width `w` stands for. -/
def intOf (sgn : Bool) (w p : Nat) : Int := if sgn then sextNat p w else ((p % 2 ^ w : Nat) : Int)

/-- Clamp to a range. -/
def clampInt (lo hi x : Int) : Int := max lo (min hi x)

/-- Integer to integer (R104). -/
def intToInt (sgn : Bool) (w : Nat) (sat : Bool) (x : Int) : Nat × Flags :=
  let c := clampInt (intLo sgn w) (intHi sgn w) x
  if sat then (wrapNat w c, flagIf (decide (c ≠ x)) fSat) else (wrapNat w x, 0)

/-- Float to integer (R104, R105): rounding first, wrapping second. What is delivered for a value outside the range differs
from it, which R105 calls inexact. -/
def floatToInt (sgn : Bool) (w rm : Nat) (sat : Bool) (x : XV) : Nat × Flags :=
  match x with
  | .nan => (0, fInv)
  | .inf neg => (if sat then wrapNat w (if neg then intLo sgn w else intHi sgn w) else 0, fInv)
  | .fin neg num den e =>
    let (i, inx) := roundInt rm neg num den e
    let out := decide (i < intLo sgn w) || decide (intHi sgn w < i)
    let v := if sat then clampInt (intLo sgn w) (intHi sgn w) i else i
    (wrapNat w v, flagIf out fInv ||| flagIf (inx || out) fInx)

/-! ## Square roots -/

/-- The integer square root, one bit at a time from bit `k - 1`. -/
def isqrtGo (n : Nat) : Nat → Nat → Nat
  | 0, r => r
  | k + 1, r => isqrtGo n k (if (r + 2 ^ k) * (r + 2 ^ k) ≤ n then r + 2 ^ k else r)
/-- The integer square root. -/
def isqrt (n : Nat) : Nat := isqrtGo n (natLen n / 2 + 1) 0

/-- The magnitude of the square root of num/den * 2^e, with at least 64 bits. -/
def sqrtMag (num den : Nat) (e : Int) : Mag :=
  -- scale by 4^k so that the root has 64 bits, with an even exponent
  let e0 := e - e % 2
  let num' := if e % 2 = 0 then num else 2 * num
  let k := 66 + natLen den
  let v := num' * 4 ^ k
  let q := isqrt (v / den)
  ⟨q, e0 / 2 - k, q * q * den ≠ v⟩

/-- Round the square root of an exact value (R105, R201). -/
def Fmt.sqrt (f : Fmt) (rm : Nat) (sat : Bool) (x : XV) : Nat × Flags :=
  match x with
  | .nan => (f.nan, 0)
  | .inf neg => if neg then (f.nan, fInv) else f.round rm sat (.inf false)
  | .fin neg num den e =>
    if num = 0 then (f.signed neg 0, 0)
    else if neg then (f.nan, fInv)
    else f.roundMag rm sat false (sqrtMag num den e)

/-- Round a/√b for finite a and positive finite b. -/
def Fmt.divSqrt (f : Fmt) (rm : Nat) (a : Bool × Nat × Nat × Int) (b : Nat × Nat × Int) : Nat × Flags :=
  let (neg, n, d, e) := a
  let (m, c, g) := b
  if n = 0 then (f.signed neg 0, 0)
  else f.roundMag rm false neg (sqrtMag (n * n * c) (d * d * m) (2 * e - g))

/-! ## FP32 arithmetic by nearest-even (R107) -/

/-- The value of an FP32 word. -/
def f32 (x : W32) : XV := fp32.dec x.toNat
/-- Round to FP32 by nearest-even. -/
def r32 (x : XV) : W32 × Flags :=
  let (p, f) := fp32.round 0 false x
  (BitVec.ofNat 32 p, f)
/-- a + b -/
def add32 (a b : W32) : W32 × Flags :=
  let (v, f) := XV.add 0 (f32 a) (f32 b)
  let (r, g) := r32 v
  (r, f ||| g)
/-- a * b -/
def mul32 (a b : W32) : W32 × Flags :=
  let (v, f) := XV.mul (f32 a) (f32 b)
  let (r, g) := r32 v
  (r, f ||| g)
/-- a / b -/
def div32 (a b : W32) : W32 × Flags :=
  let (v, f) := XV.div (f32 a) (f32 b)
  let (r, g) := r32 v
  (r, f ||| g)
/-- c + a*b, or c - a*b, with one rounding; a NaN operand gives the default NaN without raising invalid (R94). -/
def fma32 (sub : Bool) (a b c : W32) : W32 × Flags :=
  if (f32 a).isNan || (f32 b).isNan || (f32 c).isNan then (0x7FC00000, 0) else
  let (p, f) := XV.mul (f32 a) (f32 b)
  let (v, g) := XV.add 0 (f32 c) (if sub then p.negate else p)
  let (r, h) := r32 v
  (r, f ||| g ||| h)
/-- The square root of a. -/
def sqrt32 (a : W32) : W32 × Flags :=
  let (p, f) := fp32.sqrt 0 false (f32 a)
  (BitVec.ofNat 32 p, f)

/-- Default NaN of FP32. -/
def nan32 : W32 := 0x7FC00000

/-- The fixed tree of a reduction (R108): `op` combines element i with element i + h for h = 2^(k-1) down to 1. -/
def treeGo (op : W32 → W32 → W32 × Flags) : Nat → List W32 → Flags → W32 × Flags
  | 0, l, f => (l.headD 0, f)
  | k + 1, l, f =>
    let h := 2 ^ k
    let r := List.zipWith op (l.take h) (l.drop h)
    treeGo op k (r.map Prod.fst) (r.foldl (fun a x => a ||| x.2) f)
/-- The tree over 128 elements. -/
def treeReduce (op : W32 → W32 → W32 × Flags) (l : List W32) : W32 × Flags := treeGo op 7 l 0

/-- A table of `n` values. -/
def tab {α : Type} (n : Nat) (f : Nat → α) : Vector α n := ⟨((List.range n).map f).toArray, by simp⟩

end Sys2Proof.Machine
end

