-- ==== Sys2Proof/Machine/Mem.lean ====
section
/-!
DEFINITION. Storage: bytes, poison, exact form, homes, translation and the gates of R395.
A storage location is a physical address, or 2^52 + core * 2^22 + address for a scratchpad byte.
-/
namespace Sys2Proof.Machine

/-- Device time, a 64-bit count (R8). -/
def State.clock (s : State) : Nat := s.time % 2 ^ 64

/-! ## Bytes (R3, R70, R73) -/

/-- What a byte that nothing has written reads as: DESIGN CHOICE 0 (log entry 2). -/
def unwritten : Byte := 0
/-- The canonical form of the memory list. -/
def Memory.wf (m : List Host.Cell) : Bool := Sparse.wf unwritten m

/-- The location of byte `a` of core `c`'s scratchpad. -/
def spadLoc (c : Fin 128) (a : Nat) : Nat := 2 ^ 52 + c.val * 2 ^ 22 + a
/-- Is the location a scratchpad byte. -/
def isSpad (l : Nat) : Bool := decide (2 ^ 52 ≤ l)
/-- Where the snapshot of run `r` stands, for DATA_POISON: the journal's address is not given (log entry 14). -/
def snapLoc (r : Nat) : Nat := 2 ^ 53 + 128 * r
/-- Where the debug dump of context number `i` stands, for DATA_POISON (log entry 14). -/
def dumpLoc (i : Nat) : Nat := 2 ^ 52 + 2 ^ 51 + 128 * i

/-- Read one byte. -/
def State.byte (s : State) (l : Nat) : Byte := Sparse.get unwritten s.mem l
/-- Write one byte. -/
def State.setByte (s : State) (l : Nat) (b : Byte) : State := { s with mem := Sparse.set unwritten s.mem l b }
/-- Read `n` bytes, the lowest first. -/
def State.bytes (s : State) (l n : Nat) : List Byte := (List.range n).map fun i => s.byte (l + i)
/-- Read an `n`-byte little-endian number (R3). -/
def State.num (s : State) (l n : Nat) : Nat := leNat (s.bytes l n)
/-- Write cells in order. -/
def State.setCells (s : State) (cs : List Host.Cell) : State := cs.foldl (fun s c => s.setByte c.1 c.2) s
/-- The `n` bytes of a number, the lowest first (R3). -/
def leBytes (v n : Nat) : List Byte := (List.range n).map fun i => BitVec.ofNat 8 (v >>> (8 * i))
/-- Cells for bytes from location `l`. -/
def cellsAt (l : Nat) (bs : List Byte) : List Host.Cell := (List.range bs.length).zipWith (fun i b => (l + i, b)) bs
/-- Write an `n`-byte little-endian number. -/
def State.setNum (s : State) (l v n : Nat) : State := s.setCells (cellsAt l (leBytes v n))
/-- Replace bits [lo+w-1:lo] of a 64-bit word in storage. -/
def State.setField (s : State) (l lo w v : Nat) : State :=
  let o := s.num l 8
  s.setNum l (o - ((o >>> lo) % 2 ^ w) * 2 ^ lo + (v % 2 ^ w) * 2 ^ lo) 8
/-- Bits [lo+w-1:lo] of a 64-bit word in storage. -/
def State.field (s : State) (l lo w : Nat) : Nat := (s.num l 8 >>> lo) % 2 ^ w

/-! ## Homes (R12, R73, R309) -/

/-- The die of a core (R12). -/
def coreDie (c : Fin 128) : Fin 4 := Fin.ofNat 4 (2 * (c.val / 64) + (c.val % 16) / 8)
/-- The cluster of a core (R13). -/
def coreCluster (c : Fin 128) : Nat := (c.val / 16 / 2) * 8 + (c.val % 16) / 2
/-- A core's position in its cluster (R13). -/
def corePos (c : Fin 128) : Nat := (c.val / 16 % 2) * 2 + c.val % 2
/-- The core at position `p` of cluster `k` (R13). -/
def clusterCore (k p : Nat) : Fin 128 := Fin.ofNat 128 ((2 * (k / 8) + p / 2) * 16 + 2 * (k % 8) + p % 2)

/-- The remote window a physical address lies in, and the offset in it (R309). -/
def remoteWindow (a : Nat) : Option (Nat × Nat) :=
  if 0x4000000000000 ≤ a && a < 0x8000000000000 then
    some ((a - 0x4000000000000) / 0x4000000000, (a - 0x4000000000000) % 0x4000000000)
  else none

/-- The port that carries the route to device `d` (R309). -/
def State.route (s : State) (d : Nat) : Option (Fin 16) := (s.routes.find? (·.1 = d)).map Prod.snd

/-- The home die of a location (R73, R309). -/
def State.home (s : State) (l : Nat) : Fin 4 :=
  if isSpad l then coreDie (Fin.ofNat 128 ((l - 2 ^ 52) / 2 ^ 22))
  else if l < 0x3000000000 then Fin.ofNat 4 (l / 0xC00000000)
  else match remoteWindow l with
    | some (d, _) => match s.route d with
      | some p => Fin.ofNat 4 (p.val / 4)
      | none => 0
    | none =>
      if 0x1000000000000 ≤ l && l < 0x1080000000000 then Fin.ofNat 4 ((l - 0x1000000000000) / 0x20000000000) else 0

/-- Order 10 of R395: the physical address exists. -/
def State.populated (s : State) (a : Nat) : Bool :=
  if a < 0x3000000000 then true
  else if 0x1000000000000 ≤ a && a < 0x1080000000000 then
    let c := (a - 0x1000000000000) / 0x20000000000
    decide ((a - 0x1000000000000) % 0x20000000000 < (s.cxl[c]?).getD 0) &&
      !(s.removed.any fun r => decide (r.1 ≤ a) && decide (a < r.1 + r.2))
  else match remoteWindow a with
    | some (d, o) => decide (o < 0x3000000000) && decide (d ≠ s.device.toNat)
    | none => decide (0x8000000000000 ≤ a) && decide (a < 2 ^ 52) && s.hostCxl

/-! ## Poison (R341) -/

/-- First byte of the poison unit of a location. -/
def unitBase (l : Nat) : Nat := if isSpad l then l / 32 * 32 else l / 128 * 128
/-- Bytes of the unit. -/
def unitLen (l : Nat) : Nat := if isSpad l then 32 else 128
/-- Is the byte in a poisoned unit. -/
def State.poisoned (s : State) (l : Nat) : Bool := s.poison.contains (unitBase l)
/-- Insert in a rising list. -/
def insertNat (x : Nat) : List Nat → List Nat
  | [] => [x]
  | a :: t => if x < a then x :: a :: t else if x = a then a :: t else a :: insertNat x t
/-- The first poisoned byte of a range. -/
def State.poisonIn (s : State) (l n : Nat) : Option Nat :=
  ((List.range n).map (l + ·)).find? fun a => s.poisoned a
/-- A list of written bytes covers the whole unit of location `l`. -/
def coversUnit (cs : List Host.Cell) (l : Nat) : Bool :=
  (List.range (unitLen l)).all fun i => cs.any fun c => c.1 = unitBase l + i
/-- The first written byte that covers only part of a poisoned unit (R341). -/
def State.poisonWrite (s : State) (cs : List Host.Cell) : Option Nat :=
  (cs.map Prod.fst).find? fun l => s.poisoned l && !coversUnit cs l

/-! ## Exact form (R85, R109, R402) -/

/-- Bytes of an element of a commutative update's type (R164, R172). -/
def updBytes (ty : BitVec 4) : Nat := if ty = 0 then 8 else fmtBits ty.toNat / 8
/-- The floating-point format of an update's type (R172). -/
def updFmt (ty : BitVec 4) : Option Fmt := if ty = 1 || ty = 2 || ty = 3 then fmtOf ty.toNat else none

/-- The value a plain read gives an element in exact form (R109). -/
def ExactEl.value (e : ExactEl) (f : Fmt) : Nat :=
  if e.nan || (e.pinf && e.ninf) then f.nan
  else if e.pinf then f.infp false
  else if e.ninf then f.infp true
  else if e.s = 0 then f.signed e.negz 0
  else (f.round 0 false (.fin (decide (e.s < 0)) e.s.natAbs 1 (-149))).1

/-- Contribute a value to an element in exact form (R109, add). -/
def ExactEl.add (e : ExactEl) (v : XV) : ExactEl :=
  let e' := match v with
    | .nan => { e with nan := true }
    | .inf false => { e with pinf := true }
    | .inf true => { e with ninf := true }
    | .fin neg n _ g => { e with s := e.s + signedAt neg n g (-149) }
  { e' with negz := e.negz && (v.isZero && v.neg) }

/-- An element that enters exact form (R109, enter). -/
def ExactEl.enter (k : UKind) (ty : BitVec 4) : ExactEl := ⟨k, ty, 0, false, false, false, true⟩

/-- The greater or lesser of two floating-point patterns, +0 above -0, NaN contagious (R109). -/
def fpPick (f : Fmt) (gt : Bool) (a b : Nat) : Nat :=
  let x := f.dec a
  let y := f.dec b
  if x.isNan || y.isNan then f.nan
  else match x.cmp y with
    | .lt => if gt then b else a
    | .gt => if gt then a else b
    | .eq => if x.neg = gt then b else a

/-- Combine a stored pattern with a contribution that keeps no exact sum (R109, R172). -/
def combine (u : UKind) (ty : BitVec 4) (a b : Nat) : Nat :=
  let w := 8 * updBytes ty
  let sgn := ty = 0 || fmtSigned ty.toNat
  match u, updFmt ty with
  | .sum, _ => (a + b) % 2 ^ w
  | .and, _ => a &&& b
  | .or, _ => a ||| b
  | .max, some f => fpPick f true a b
  | .min, some f => fpPick f false a b
  | .max, none => if intOf sgn w a < intOf sgn w b then b else a
  | .min, none => if intOf sgn w b < intOf sgn w a then b else a

/-- Is an exact sum kept for such updates (R85). -/
def keepsSum (u : UKind) (ty : BitVec 4) : Bool := u == .sum && (updFmt ty).isSome

/-- The elements in exact form in the 128-byte line of a location. -/
def State.lineExact (s : State) (l : Nat) : Sparse (Option ExactEl) :=
  s.exact.filter fun e => decide (e.1 / 128 = l / 128)

/-- A plain access touches a line: every element of it is rounded once and leaves exact form (R85). -/
def State.flushLine (s : State) (l : Nat) : State :=
  (s.lineExact l).foldl (fun s e =>
    let s' := { s with exact := Sparse.set none s.exact e.1 none }
    match e.2 with
    | some x => match updFmt x.ty with
      | some f => if x.kind == .sum then s'.setNum e.1 (x.value f) (updBytes x.ty) else s'
      | none => s'
    | none => s') s

/-- The elements in exact form that a range touches. -/
def State.exactIn (s : State) (l n : Nat) : List (Nat × ExactEl) :=
  s.exact.filterMap fun e => match e.2 with
    | some x => if e.1 < l + n && l < e.1 + updBytes x.ty then some (e.1, x) else none
    | none => none

/-- A range holds an element of another kind, format or place (R402). -/
def State.mixed (s : State) (l : Nat) (u : UKind) (ty : BitVec 4) : Bool :=
  (s.exactIn l (updBytes ty)).any fun e => !(e.1 = l && e.2.kind == u && e.2.ty = ty)

/-- Apply one commutative contribution at its home (R85, R109). -/
def State.update (s : State) (l : Nat) (u : UKind) (ty : BitVec 4) (v : Word) : State :=
  let n := updBytes ty
  let old := s.num l n
  match updFmt ty, keepsSum u ty with
  | some f, true =>
    let e := match Sparse.get none s.exact l with
      | some x => x
      | none => (ExactEl.enter u ty).add (f.dec old)
    { s with exact := Sparse.set none s.exact l (some (e.add (f.dec (v.toNat % 2 ^ (8 * n))))) }
  | _, _ =>
    { s.setNum l (combine u ty old (v.toNat % 2 ^ (8 * n))) n with
      exact := Sparse.set none s.exact l (some (ExactEl.enter u ty)) }

/-- Bytes are written; poison they cover whole is cleared (R341). -/
def State.putCells (s : State) (cs : List Host.Cell) : State :=
  { s.setCells cs with poison := s.poison.filter fun u => !coversUnit cs u }
/-- A plain write at its home: the lines it touches leave exact form first (R85). -/
def State.plainWrite (s : State) (cs : List Host.Cell) : State :=
  (cs.foldl (fun s c => if (s.lineExact c.1).isEmpty then s else s.flushLine c.1) s).putCells cs

/-- Apply one held write. -/
def State.applyPend (s : State) (p : Pend) : State :=
  match p.op with
  | .bytes cs => s.plainWrite cs
  | .upd l u ty v =>
    -- an accepted contribution that meets another kind rounds it first (log entry 5)
    let s := if s.mixed l u ty then s.flushLine l else s
    s.update l u ty v

/-- The name of a location that a held write covers: as the access that wrote it named it (R403). -/
def State.writeName (s : State) (p : Pend) (l first : Nat) : Word :=
  match s.accs.reverse.find? fun a => a.kind = .write && decide (a.loc ≤ l) && decide (l < a.loc + a.len) with
  | some a => a.name + BitVec.ofNat 64 (l - a.loc)
  | none => p.name + BitVec.ofNat 64 (l - first)
/-- Why a home refuses a held write (R401, R402): poison is reported by the first byte of its unit (R337). -/
def State.refusePend (s : State) (p : Pend) : Option Fail :=
  match p.op with
  | .bytes cs => if p.sure then none else (s.poisonWrite cs).map fun l =>
      { code := 0x23, faddr := s.writeName p l (cs.headD (l, 0)).1 - BitVec.ofNat 64 (l - unitBase l) }
  | .upd l u ty _ =>
    if p.sure then none
    else if (s.poisonIn l (updBytes ty)).isSome then some { code := 0x23, faddr := p.name - BitVec.ofNat 64 (l - unitBase l) }
    else if s.mixed l u ty then some { code := 0x07, faddr := p.name }
    else none

/-- Apply held writes in order, or the first refusal (R334, item 2). -/
def State.applyAll (s : State) : List Pend → Except Fail State
  | [] => .ok s
  | p :: t => match s.refusePend p with
    | some f => .error f
    | none => (s.applyPend p).applyAll t

/-! ## Published memory (R36, R75, R85) -/

/-- Memory as published: closes on their way to their homes have been made (R36, R75). -/
def State.arrived (s : State) : State := s.closing.foldl (fun s q => match s.applyAll q.ops with
  | .ok t => t
  | .error _ => s) s
/-- A plain read of one byte in a view: an element in exact form shows its rounded value (R85). -/
def State.plainByte (v : State) (l : Nat) : Byte :=
  if (v.lineExact l).isEmpty then v.byte l else (v.flushLine l).byte l
/-- The bytes at `ls` as the device's own reads find them. -/
def State.pubBytes (s : State) (ls : List Nat) : List Byte := ls.map s.arrived.plainByte
/-- An `n`-byte number as the device's own reads find it. -/
def State.pubNum (s : State) (l n : Nat) : Nat := leNat (s.pubBytes ((List.range n).map (l + ·)))

/-! ## Translation (R79 to R81, R87, R395) -/

/-- Whether an access passes a gate, waits for Zenhel (R396), or fails. -/
inductive Gate (α : Type)
  | ok (a : α)
  /-- The fault path; the failure if Zenhel refuses. -/
  | fault (f : Fail)
  | fail (f : Fail)
  deriving DecidableEq, Repr

/-- Continue where a gate is passed. -/
def Gate.bind {α β : Type} (g : Gate α) (k : α → Gate β) : Gate β :=
  match g with
  | .ok a => k a
  | .fault f => .fault f
  | .fail f => .fail f

/-- The place of a gate's failure in the order of R395; what is found after translation comes last. -/
def failOrder (asked : Bool) (f : Fail) : Nat :=
  if f.code = 0x28 then 1
  else if f.code = 0x24 then 2
  else if f.code = 0x20 then
    (if asked then 6 else if f.d1 = 8 then 10 else if f.d1 = 16 then 11 else if 2 ^ 56 ≤ f.faddr.toNat then 1 else 3)
  else if f.code = 0x21 then (if asked then 8 else 4)
  else if f.code = 0x26 then (if asked then 7 else 5)
  else if f.code = 0x23 then 6
  else if f.code = 0x22 then 9
  else 12
/-- The place of a gate in that order, if it does not let its access pass. -/
def Gate.order {α : Type} : Gate α → Option Nat
  | .ok _ => none
  | .fault f => some (failOrder true f)
  | .fail f => some (failOrder false f)
/-- Both gates have to be passed: each check of R395 is made of both before a later one of either (R395, R399). -/
def Gate.both {α β γ : Type} (g : Gate α) (h : Gate β) (k : α → β → γ) : Gate γ :=
  let late := match g.order, h.order with
    | some m, some n => decide (n < m)
    | _, _ => false
  match g, h with
  | .ok a, .ok b => .ok (k a b)
  | .fault f, .ok _ => .fault f
  | .fail f, .ok _ => .fail f
  | .ok _, .fault f => .fault f
  | .ok _, .fail f => .fail f
  | .fault f, .fault e => .fault (if late then e else f)
  | .fault f, .fail e => if late then .fail e else .fault f
  | .fail f, .fault e => if late then .fault e else .fail f
  | .fail f, .fail e => .fail (if late then e else f)

/-- What the access wants of its pages, and whether a remote window takes it (R310). -/
structure Want where
  write  : Bool
  remote : Bool
  deriving DecidableEq, Repr

/-- A word of an ASID's entry in the ASID table (R318). -/
def State.asidWord (s : State) (a : BitVec 12) (off : Nat) : Nat :=
  s.num (bits s.cfg.asidtab 0 52 + 64 * a.toNat + off) 8

/-- A failure at an address with the given w6. -/
def mkFail (code : Nat) (va d1 : Nat) : Fail := { code := BitVec.ofNat 8 code, faddr := BitVec.ofNat 64 va, d1 := BitVec.ofNat 64 d1 }

/-- The frame number's policy (R77). -/
def State.framePolicy (s : State) (a : Nat) : BitVec 2 := Sparse.get 0 s.policy (a / 65536)

/-- A table entry of a walk; poison in it fails the access (R401). -/
def State.walkEntry (s : State) (va a level : Nat) : Gate Nat :=
  if (s.poisonIn a 8).isSome then .fail (mkFail 0x23 va 0)
  else
    let e := s.pubNum a 8
    if e % 2 = 1 then .ok e else .fault (mkFail 0x20 va level)

/-- The frame bits of an entry. -/
def entryFrame (e : Nat) : Nat := ((e >>> 16) % 2 ^ 36) * 65536

/-- The 32 entries of a 2 MiB group from entry address `g` are well formed (R80). -/
def State.groupOk (s : State) (g : Nat) : Bool :=
  let e0 := s.pubNum g 8
  decide (entryFrame e0 % 0x200000 = 0) &&
  (List.range 32).all fun i =>
    let e := s.pubNum (g + 8 * i) 8
    decide (e % 16 = e0 % 16) && decide (e % 2 = 1) && decide ((e >>> 3) % 2 = 1) &&
      decide (entryFrame e = entryFrame e0 + 65536 * i)
/-- The group that a large entry stands in; poison in any of its entries fails the access (R80, R401). -/
def State.groupGate (s : State) (va g : Nat) : Gate Unit :=
  if (s.poisonIn g 256).isSome then .fail (mkFail 0x23 va 0)
  else if s.groupOk g then .ok () else .fault (mkFail 0x20 va 4)

/-- Orders 9 to 11 of R395 for physical address `pa`; `arena` says that it was reached through the window. -/
def State.frameGate (s : State) (va pa : Nat) (arena : Bool) (w : Want) : Gate Nat :=
  let p := s.framePolicy pa
  let hostWin := decide (0x8000000000000 ≤ pa)
  if p = 3 || (p = 0 && hostWin) then .fail (mkFail 0x22 va 1)
  else if arena && p ≠ 0 then .fail (mkFail 0x22 va 2)
  else if (remoteWindow pa).isSome && p ≠ 2 then .fail (mkFail 0x22 va 3)
  else if !s.populated pa then .fail (mkFail 0x20 va 8)
  else if (remoteWindow pa).isSome && !w.remote then .fail (mkFail 0x20 va 16)
  else .ok pa

/-- An address of the arena window (R86, R87; orders 3, 4, 9, 10 of R395) of an access of `n` bytes. -/
def State.arenaGate (s : State) (a : BitVec 12) (va n : Nat) (w : Want) : Gate Nat :=
  let slot := (va >>> 32) % 65536
  let off := va % 2 ^ 32
  let ar := Sparse.get Arena.none s.arenas slot
  let size := ar.frames.length * 65536
  if !ar.live || size ≤ off then .fail (mkFail 0x20 va 0)
  else if size < off + n then .fail (mkFail 0x20 (va - off + size) 0)
  else if ar.asid ≠ a then .fail (mkFail 0x21 va (if w.write then 1 else 0))
  else s.frameGate va ((ar.frames.getD (off / 65536) 0) + off % 65536) true w

/-- Translate one byte of an access of `n` further bytes in space 1 (orders 1, 3, 4, 6, 8 to 11 of R395). -/
def State.translate (s : State) (a : BitVec 12) (va n : Nat) (w : Want) : Gate Nat :=
  if 2 ^ 56 ≤ va then .fail (mkFail 0x20 va 0)
  else if va >>> 48 = 0xF0 then s.arenaGate a va n w
  else
    let l2 := s.asidWord a 0 % 2 ^ 52
    if l2 = 0 then .fault (mkFail 0x20 va 2)
    else (s.walkEntry va (l2 + 8 * (va >>> 42)) 2).bind fun e2 =>
      (s.walkEntry va (entryFrame e2 + 8 * ((va >>> 29) % 8192)) 1).bind fun e1 =>
      let i0 := (va >>> 16) % 8192
      (s.walkEntry va (entryFrame e1 + 8 * i0) 0).bind fun e0 =>
      let large := (e0 >>> 3) % 2 = 1
      let g := entryFrame e1 + 8 * (i0 / 32 * 32)
      (if large then s.groupGate va g else .ok ()).bind fun _ =>
      if w.write && (e0 >>> 2) % 2 = 0 then .fault (mkFail 0x21 va 1)
      else if !w.write && (e0 >>> 1) % 2 = 0 then .fault (mkFail 0x21 va 0)
      else if large && !((List.range 32).all fun i => s.framePolicy (entryFrame (s.pubNum g 8) + 65536 * i) =
          s.framePolicy (entryFrame (s.pubNum g 8))) then .fail (mkFail 0x22 va 0)
      else s.frameGate va (entryFrame e0 + va % 65536) false w

/-- A range of physical bytes that a stretch of an access reaches. -/
abbrev Piece := Nat × Nat

/-- Translate `n` bytes from `va`, page by page, all of them before any moves (R399); `k` bounds the pages. -/
def State.pieces (s : State) (a : BitVec 12) (w : Want) : Nat → Nat → Nat → Gate (List Piece)
  | 0, _, _ => .ok []
  | k + 1, va, n =>
    if n = 0 then .ok []
    else
      let here := min n (65536 - va % 65536)
      (s.translate a va here w).both (s.pieces a w k (va + here) (n - here)) fun pa t => (pa, here) :: t

/-- The locations of `n` bytes of space 1 from `va`. -/
def State.gate1 (s : State) (a : BitVec 12) (va n : Nat) (w : Want) : Gate (List Nat) :=
  -- the size check of an arena window access covers the whole access (R87)
  if va >>> 48 = 0xF0 && va < 2 ^ 56 then
    (s.arenaGate a va n w).bind fun _ =>
      (s.pieces a w (n / 65536 + 2) va n).bind fun ps => .ok (ps.flatMap fun p => (List.range p.2).map (p.1 + ·))
  else
    (s.pieces a w (n / 65536 + 2) va n).bind fun ps => .ok (ps.flatMap fun p => (List.range p.2).map (p.1 + ·))

/-- The locations of `n` bytes of space 2 at offset `o` of handle `h` (R87; orders 2 to 4 of R395). -/
def State.gate2 (s : State) (a : BitVec 12) (h : Word) (o : Int) (n : Nat) (w : Want) : Gate (List Nat) :=
  let slot := bits h 0 16
  let base := 0xF0000000000000 + slot * 2 ^ 32
  let va := (((base : Nat) : Int) + o).toNat
  let ar := Sparse.get Arena.none s.arenas slot
  if !ar.live || ar.gen.toNat ≠ bits h 16 24 then .fail (mkFail 0x24 va 0)
  else if o < 0 || ((ar.frames.length * 65536 : Nat) : Int) ≤ o then .fail (mkFail 0x20 va 0)
  else if ((ar.frames.length * 65536 : Nat) : Int) < o + n then .fail (mkFail 0x20 (base + ar.frames.length * 65536) 0)
  else if ar.asid ≠ a then .fail (mkFail 0x21 va (if w.write then 1 else 0))
  else s.gate1 a va n w

/-- Space 0: the scratchpad of core `c` (order 1 of R395). -/
def gate0 (c : Fin 128) (addr : Int) (n : Nat) : Gate (List Nat) :=
  let bad := if addr < 0 || 0x400000 ≤ addr then some addr else if 0x400000 < addr + n then some 0x400000 else none
  match bad with
  | some b => .fail { code := 0x28, faddr := wrapInt 64 b }
  | none => .ok ((List.range n).map fun i => spadLoc c (addr.toNat + i))

/-- Space 4: a peer's scratchpad in the cluster of core `c` (R69; order 1 of R395). -/
def gate4 (c : Fin 128) (addr : Int) (n : Nat) : Gate (List Nat) :=
  let a := addr.toNat
  if addr < 0 || 2 ^ 26 ≤ a || (a >>> 22) % 4 ≠ 0 then .fail { code := 0x28, faddr := wrapInt 64 addr }
  else if 0x400000 < a % 2 ^ 22 + n then .fail (mkFail 0x28 (a - a % 2 ^ 22 + 0x400000) 0)
  else .ok ((List.range n).map fun i => spadLoc (clusterCore (coreCluster c) (a >>> 24)) (a % 2 ^ 22 + i))

/-! ## Tensors (R84) -/

/-- Bytes of storage at a virtual address that the device itself reads (R84). -/
def State.readVa (s : State) (a : BitVec 12) (va n : Nat) : Gate Nat :=
  (s.gate1 a va n ⟨false, false⟩).bind fun ls =>
    if ls.any s.poisoned then .fail (mkFail 0x23 va 0) else .ok (leNat (s.pubBytes ls))

/-- The location of the group of the element at (row, col) of tensor `t` under layout `lay`, whose elements have
format `f`; `n` bytes of it are wanted (R84; orders 5, 7, 9, 10 of R395). -/
def State.gate3 (s : State) (a : BitVec 12) (tenstab : Word) (t lay f : Nat) (row col : Int) (n : Nat) (w : Want) :
    Gate (List Nat) :=
  let nope := Gate.fail (mkFail 0x26 0 (2 ^ 32))
  let ent := bits tenstab 0 56 + 32 * t
  if bits tenstab 0 56 = 0 then nope
  else (s.readVa a ent 8).bind fun w0 =>
    let tiletab := w0 % 2 ^ 56
    if tiletab = 0 then nope
    else (s.readVa a (ent + 8) 8).bind fun w1 =>
      (s.readVa a (ent + 16) 8).bind fun w2 =>
      let rows := w1 % 2 ^ 32
      let cols := w1 >>> 32
      let experts := w2 % 4096
      let r := row.toNat
      let c := col.toNat
      let e := if lay = 3 then r >>> 20 else 0
      let r' := if lay = 3 then r % 2 ^ 20 else r
      -- twelve bits hold up to 4,095; the field's 0 means 4,096 experts (log entry 6)
      let ne := if experts = 0 then 4096 else experts
      if row < 0 || col < 0 || rows ≤ r' || cols ≤ c || (lay = 3 && ne ≤ e) then nope
      else
        let tr := (rows + 127) / 128
        let tc := (cols + 127) / 128
        let tile := if lay = 2 then (c / 128) * tr + r' / 128 else e * tr * tc + (r' / 128) * tc + c / 128
        let (x, y) := if lay = 2 then (c % 128, r' % 128) else (r' % 128, c % 128)
        let off := if f = 6 then 96 * x + 3 * (y / 4) else (x * 128 + y) * (fmtBits f / 8)
        (s.readVa a (tiletab + 8 * tile) 8).bind fun te =>
          if te % 65536 ≠ 1 || te >>> 52 ≠ 0 then .fault (mkFail 0x26 0 tile)
          else (s.frameGate (entryFrame te + off) (entryFrame te + off) false w).bind fun pa =>
            .ok ((List.range n).map (pa + ·))

end Sys2Proof.Machine
end

