-- ==== Sys2Proof/Machine/Ops.lean ====
section
/-!
DEFINITION. The named operations over contexts: registers, landings, phases and conflicts, and what every failure
shares: trap records, the precise trap, the abort of a node, the re-execution of a step (R47 to R53, R35 to R37,
R255 to R258, R333 to R347).
-/
namespace Sys2Proof.Machine

/-! ## Contexts and cores -/

/-- Where a context stands in the state. -/
def ctxIdx (c : CtxId) : Fin 256 := ⟨2 * c.core.val + c.bank.val, by omega⟩
/-- A context. -/
def State.ctx (s : State) (c : CtxId) : Ctx := s.ctxs[ctxIdx c]
/-- Replace a context. -/
def State.setCtx (s : State) (c : CtxId) (x : Ctx) : State := { s with ctxs := s.ctxs.set (ctxIdx c) x }
/-- Change a context. -/
def State.modCtx (s : State) (c : CtxId) (f : Ctx → Ctx) : State := s.setCtx c (f (s.ctx c))
/-- The context whose slot operations run. -/
def State.me (s : State) : Ctx := s.ctx s.cur
/-- Change it. -/
def State.modMe (s : State) (f : Ctx → Ctx) : State := s.modCtx s.cur f
/-- A core. -/
def State.core (s : State) (c : Fin 128) : CoreSt := s.cores[c]
/-- Change a core. -/
def State.modCore (s : State) (c : Fin 128) (f : CoreSt → CoreSt) : State := { s with cores := s.cores.set c (f (s.core c)) }
/-- The other bank of a core. -/
def otherBank (c : CtxId) : CtxId := ⟨c.core, if c.bank = 0 then 1 else 0⟩

/-! ## The watchdog count (R276) -/

/-- Stop counting. -/
def Ctx.wdPause (c : Ctx) (t : Nat) : Ctx := match c.wdSince with
  | some b => { c with wdAcc := c.wdAcc + (t - b), wdSince := none }
  | none => c
/-- The record's producer is the lane: an engine command's record does not stall the lane (R339). -/
def RingRec.byLane (r : RingRec) : Bool := match r.after with
  | .errorWords _ => false
  | _ => true
/-- Count again, unless the step's first bundle has not issued or another of the four cases of R276 still stops the
count. -/
def Ctx.wdResume (c : Ctx) (t : Nat) : Ctx :=
  let held := c.n = 0 || c.save.isSome || c.ringQ.any RingRec.byLane || (match c.wait with
    | .fault _ _ => true
    | .bkpt => true
    | _ => false)
  match c.wdSince with
  | some _ => c
  | none => if held then c else { c with wdSince := some t }

/-! ## Registers (R49, R50) -/

/-- Scalar register `r`; s0 reads 0 (R49). -/
def Ctx.sget (c : Ctx) (r : Fin 64) : SVal := if r = 0 then ⟨0, 0⟩ else c.sreg[r]
/-- Predicate register `r`; p0 reads true (R49). -/
def Ctx.pget (c : Ctx) (r : Fin 64) : Bool := r = 0 || c.preg.getLsbD r
/-- Mask register `r`; k0 reads all ones (R49). -/
def Ctx.kget (c : Ctx) (r : Fin 8) : Mask := if r = 0 then BitVec.allOnes 128 else c.kreg[r]
/-- Field `f` of a descriptor. -/
def Desc.get (d : Desc) (f : Fin 8) : Word := d[f]

/-- Set bit `i` of a bit vector. -/
def setBit {n : Nat} (x : BitVec n) (i : Nat) (b : Bool) : BitVec n :=
  if b then x ||| (1#n <<< i) else x &&& ~~~(1#n <<< i)

/-- The index of a slot's sticky record, cr.fxs0 to cr.fxo (R111, R162). -/
def fxIdx : Slot → Option (Fin 8)
  | .s0 => some 0 | .s1 => some 1 | .v0 => some 2 | .v1 => some 3 | .m => some 4 | .x => some 5 | .k => some 6
  | .o => some 7 | .c => none | .fetch => none | .none => none
/-- The latch that takes a slot's results (R46). -/
def latchIdx : Slot → Option (Fin 8)
  | .s0 => some 0 | .s1 => some 1 | .v0 => some 2 | .v1 => some 3 | .m => some 4 | .o => some 5 | .c => some 6
  | .k => some 7 | .x => none | .fetch => none | .none => none

/-- Record flags of the bundle at `pc` (R111). -/
def FxRec.raise (r : FxRec) (pc : W32) (f : Flags) : FxRec :=
  if f = 0 then r else ⟨r.flags ||| f, if r.flags = 0 then pc else r.first⟩
/-- Record flags in a slot's record. -/
def Ctx.raise (c : Ctx) (sl : Slot) (pc : W32) (f : Flags) : Ctx :=
  match fxIdx sl with
  | some i => { c with cr := { c.cr with fx := c.cr.fx.set i (c.cr.fx[i].raise pc f) } }
  | none => c
/-- A result enters its slot's latch; what the latch held moves to its second (R51). -/
def Ctx.pushLatch (c : Ctx) (sl : Slot) (v : Latch) : Ctx :=
  match latchIdx sl with
  | some i => { c with qreg := (c.qreg.set (i.val + 8) c.qreg[i.val]).set i.val v }
  | none => c

/-- Write a control register under its access codes (R4, R5, R146, R162). The cr.mseq words are written whole (R251), so
that MRESUME can find a reserved field that is not zero (R392). -/
def CReg.write (c : CReg) (num : Nat) (w : Word) : CReg :=
  let lo : W32 := w.truncate 32
  if num = 0x008 then { c with lscale := lo }
  else if h : 0x010 ≤ num ∧ num ≤ 0x017 then
    let i : Fin 8 := ⟨num - 0x010, by omega⟩
    let f := c.fx[i].flags &&& ~~~(w.truncate 6)
    { c with fx := c.fx.set i ⟨f, if f = 0 then 0 else c.fx[i].first⟩ }
  else if num = 0x020 then { c with pivtol := lo }
  else if num = 0x022 then { c with growthmax := lo }
  else if num = 0x023 then
    -- [35:0] RW, [36] W1C, [63:37] RO (R250)
    let g := bitAt c.solvest 36 && !bitAt w 36
    { c with solvest := BitVec.ofNat 64 (bits w 0 36 + (if g then 2 ^ 36 else 0)) }
  else if num = 0x025 then { c with soltol := lo }
  else if num = 0x026 then { c with deadline := w }
  else if num = 0x027 then { c with maskbrk := bitAt w 0 }
  else if num = 0x028 then { c with mxretry := w.truncate 4 }
  else if num = 0x029 then { c with maxit := w.truncate 8 }
  else if h : 0x030 ≤ num ∧ num ≤ 0x037 then { c with mseq := c.mseq.set (num - 0x030) w }
  else c

/-- One register write; writes to s0, p0 and k0 are discarded (R50). -/
def Ctx.write (c : Ctx) : RegWrite → Ctx
  | .s r v => if r = 0 then c else { c with sreg := c.sreg.set r v }
  | .p r b => if r = 0 then c else { c with preg := setBit c.preg r b }
  | .v r x => { c with vreg := c.vreg.set r x }
  | .k r m => if r = 0 then c else { c with kreg := c.kreg.set r m }
  | .d r x => { c with dreg := c.dreg.set r x }
  | .df r f w => { c with dreg := c.dreg.set r (c.dreg[r].set f w) }
  | .o r w => { c with oreg := c.oreg.set r w }
  | .cr num w => { c with cr := c.cr.write num w }
  | .spad _ => c

/-- The scratchpad bytes a landing writes. -/
def RegWrite.cells : RegWrite → List Host.Cell
  | .spad cs => cs
  | _ => []

/-- Everything a landing changes in its context: registers, latch, sticky record (R47, R51, R111). -/
def Ctx.landed (c : Ctx) (l : Landing) : Ctx :=
  let c := l.writes.foldl Ctx.write c
  let c := match l.latch with
    | some v => c.pushLatch l.slot v
    | none => c
  c.raise l.slot l.pc l.flags

/-- Write scratchpad bytes in the open phase of a context, keeping what they were and the poison they clear (R334, item
5; R341). A scratchpad holds no element in exact form (R172, R180). -/
def State.spadWrite (s : State) (c : CtxId) (cs : List Host.Cell) : State :=
  let old := cs.map fun x => (x.1, s.byte x.1)
  if cs.isEmpty then s
  else (s.putCells cs).modCtx c fun x => { x with
    undo := old.reverse ++ x.undo
    unpoison := s.poison.filter (coversUnit cs) ++ x.unpoison }

/-- A result lands (R47). -/
def State.landOne (s : State) (c : CtxId) (l : Landing) : State :=
  let s := s.modCtx c fun x => x.landed l
  let s := s.spadWrite c (l.writes.flatMap RegWrite.cells)
  if l.opens then s.modCtx c fun x => { x with phaseOpen := s.time } else s

/-- Is a result due before bundle `n` reads. -/
def Landing.dueBy (l : Landing) (n : Nat) : Bool := match l.due with
  | some k => decide (k ≤ n)
  | none => false

/-- Land every result due before the next bundle reads, the earlier-issued first (R47, R48). -/
def State.landDue (s : State) (c : CtxId) : State :=
  let x := s.ctx c
  let (now, later) := x.pipe.partition fun l => l.dueBy x.n
  now.foldl (fun s l => s.landOne c l) (s.modCtx c fun x => { x with pipe := later })

/-- A result joins the pipeline of the current context: it lands `lat` bundles on (R8, R54). -/
def State.land (s : State) (sl : Slot) (lat : Nat) (ws : List RegWrite) (q : Option Latch) (f : Flags) : State :=
  s.modMe fun c => { c with pipe := c.pipe ++ [⟨sl, c.n, c.pc, some (c.n + lat), ws, q, f, [], s.time + lat, false⟩] }

/-! ## Sources (R127, R368, R369) -/

/-- Operand class misuse of latch `q` (R368). -/
def classFail (q : Fin 16) : Fail := { code := 0x05, d1 := BitVec.ofNat 64 (q.val <<< 16) }

/-- A scalar source. -/
def Ctx.readS (c : Ctx) : SSrc → Except Fail SVal
  | .reg r => .ok (c.sget r)
  | .latch q => match c.qreg[q] with
    | .scalar v => .ok v
    | .empty => .ok ⟨0, 0⟩
    | _ => .error (classFail q)
/-- A predicate source. -/
def Ctx.readP (c : Ctx) : SSrc → Except Fail Bool
  | .reg r => .ok (c.pget r)
  | .latch q => match c.qreg[q] with
    | .pred b => .ok b
    | .empty => .ok false
    | _ => .error (classFail q)
/-- Source b of the S format: register, latch or sign-extended immediate (R127). -/
def Ctx.readSB (c : Ctx) : SBSrc → Except Fail SVal
  | .reg r => c.readS (.reg r)
  | .latch q => c.readS (.latch q)
  | .imm v => .ok (SVal.of (v.signExtend 64))
/-- The residue agrees with the value (R369). -/
def SVal.good (v : SVal) : Bool := v.res.toNat = v.val.toNat % 15
/-- Residue mismatch of register `r`, or of a latch (R369). -/
def residueFail (r : Nat) (latch : Bool) : Fail :=
  { code := 0x0C, d1 := BitVec.ofNat 64 (r + if latch then 64 else 0) }
/-- A register read at a check point (R369). -/
def Ctx.checked (c : Ctx) (r : Fin 64) : Except Fail Word :=
  if (c.sget r).good then .ok (c.sget r).val else .error (residueFail r false)
/-- A scalar source read at a check point (R369). -/
def Ctx.checkedS (c : Ctx) (a : SSrc) : Except Fail Word :=
  match c.readS a with
  | .error f => .error f
  | .ok v => if v.good then .ok v.val else .error (match a with
    | .reg r => residueFail r false
    | .latch q => residueFail q true)

/-! ## Slot operations -/

/-- What a slot operation that takes effect comes to. -/
inductive Res
  | done (s : State)
  /-- It fails at issue. -/
  | fail (f : Fail)
  /-- Its bundle does not issue yet; what changes meanwhile. -/
  | hold (s : State)
  /-- It issued, and the close it made is refused (R334, item 2). -/
  | refused (s : State) (f : Fail)

/-- Continue with a value, or fail. -/
def Res.need {α : Type} (e : Except Fail α) (k : α → Res) : Res :=
  match e with
  | .ok a => k a
  | .error f => .fail f

/-! ## Conflicts (R257, R258, R403) -/

/-- Two kinds of access that conflict where they overlap (R257). -/
def AKind.clash : AKind → AKind → Bool
  | .read, .read => false
  | .update, .update => false
  | .sync, .sync => false
  | .sync, .observe => false
  | .observe, .sync => false
  | .observe, .observe => false
  | _, _ => true

/-- Neither closes strictly before the other opens (R257, item 3). -/
def overlapTimes (o1 : Nat) (c1 : Option Nat) (o2 : Nat) (c2 : Option Nat) : Bool :=
  (match c1 with
    | some k => decide (o2 ≤ k)
    | none => true) &&
  (match c2 with
    | some k => decide (o1 ≤ k)
    | none => true)

/-- A command's destination takes commutative updates only (R180). -/
def KCmd.updates (k : KCmd) : Bool := match k.op with
  | .kred .. => true
  | _ => false

/-- The writes that engine commands numbered below `id` are still to make: open towards other steps from their open time on
(R255, R258). -/
def State.inFlight (s : State) (id : Nat) : List Access :=
  ((s.kcmds.filter fun k => decide (k.id < id) && k.stage ≠ .visible && k.failed.isNone && !k.errored && !k.dead).flatMap fun k =>
    (k.dstFoot.filter fun x => (remoteWindow x.loc).isNone).map fun x =>
      ⟨k.owner, k.run, k.step, x.name, x.loc, x.len, if k.updates then .update else .write, k.wopn, none⟩) ++
  (s.runs.flatMap Run.gang).flatMap fun c =>
    let x := s.ctx c
    (x.xq.filter fun q => decide (q.seq < id)).flatMap fun q =>
      (x.xfoot.filter fun f => f.seq = q.seq).flatMap fun f => f.dst.map fun y =>
        ⟨c, x.run, x.step, y.name, y.loc, y.len, .write, q.opn, none⟩

/-- The accesses of other steps that conflict with bytes l to l+n-1 touched by run `run` of context `c` (R257), those of
engine commands in flight among them; an engine command looks at those numbered below its own number `id`. -/
def State.clashes (s : State) (c : CtxId) (run : Nat) (k : AKind) (l n opn : Nat) (cls : Option Nat)
    (id : Nat := s.nextId) : List Access :=
  (s.accs ++ s.inFlight id).filter fun a => !(a.owner = c && a.run = run) && k.clash a.kind &&
    decide (a.loc < l + n) && decide (l < a.loc + a.len) && overlapTimes opn cls a.opn a.cls

/-- The step that made an access has ended. -/
def State.ended (s : State) (a : Access) : Bool := decide ((s.ctx a.owner).run ≠ a.run) || (s.ctx a.owner).stat = .empty

/-- The report of a conflict with access `a` at address `addr` (R403). -/
def State.conflictFail (s : State) (a : Access) (addr : Word) : Fail :=
  let core := if s.ended a then 0xFF else a.owner.core.val
  { code := 0x30, faddr := addr,
    d0 := BitVec.ofNat 64 (core * 2 ^ 32 + (if a.kind = .write || a.kind = .sync || a.kind = .observe then 2 ^ 40 else 0) +
      (if a.kind = .update then 2 ^ 41 else 0)),
    d1 := BitVec.ofNat 64 (a.step.toNat % 2 ^ 32 * 2 ^ 32) }

/-- A synchronisation access to these bytes closed at this very device time: it can be observed from the next on
(R256). -/
def State.fresh (s : State) (l n : Nat) : Bool := s.accs.any fun a =>
  a.kind = .sync && a.cls = some s.time && decide (a.loc < l + n) && decide (l < a.loc + a.len)

/-- Join a span with the one before it in the order of a list. -/
def addSpan (x : Span) : List Span → List Span
  | [] => [x]
  | y :: t =>
    if x.loc + x.len = y.loc && x.name + BitVec.ofNat 64 x.len = y.name then ⟨x.name, x.loc, x.len + y.len⟩ :: t
    else if x.loc = y.loc && x.name = y.name && decide (x.len ≤ y.len) then y :: t
    else x :: y :: t
/-- The spans of accesses, each named by the address of its first byte. -/
def spansOf (l : List (Word × List Nat)) : List Span :=
  (l.flatMap fun a => (List.range a.2.length).zipWith (fun i x => (⟨a.1 + BitVec.ofNat 64 i, x, 1⟩ : Span)) a.2).foldr
    addSpan []
/-- The locations of spans. -/
def spanLocs (l : List Span) : List Nat := l.flatMap fun x => (List.range x.len).map (x.loc + ·)

/-- The candidate with the lowest address. -/
def lowest : List (Access × Word) → Option (Access × Word)
  | [] => none
  | x :: t => match lowest t with
    | some y => some (if y.2.ult x.2 then y else x)
    | none => some x

/-- The conflict of an access with one that is already published or open, with the address of the lowest byte of the
overlap (R258, R403): a read made first is left to the close that publishes the write. -/
def State.firstClash (s : State) (c : CtxId) (run : Nat) (k : AKind) (opn : Nat) (cls : Option Nat) (l : List Span)
    (id : Nat := s.nextId) : Option (Access × Word) :=
  lowest (l.flatMap fun x => ((s.clashes c run k x.loc x.len opn cls id).filter fun a => a.kind ≠ .read || k = .read).map
    fun a => (a, x.name + BitVec.ofNat 64 (a.loc - x.loc)))

/-- The conflict of a write that is published as it is made, so that no close follows to report it (R258). -/
def State.lateClash (s : State) (c : CtxId) (run : Nat) (k : AKind) (opn : Nat) (l : List Span) (id : Nat := s.nextId) :
    Option Fail :=
  (lowest (l.flatMap fun x => (s.clashes c run k x.loc x.len opn (some s.time) id).map
    fun a => (a, x.name + BitVec.ofNat 64 (a.loc - x.loc)))).map fun r => s.conflictFail r.1 r.2
/-- An access by run `run` of context `c`: reported if it conflicts (R258), else logged. -/
def State.touchAs (s : State) (c : CtxId) (run : Nat) (step : Word) (k : AKind) (opn : Nat) (cls : Option Nat)
    (l : List Span) (id : Nat := s.nextId) : Except Fail State :=
  match s.firstClash c run k opn cls l id with
  | some (a, w) => .error (s.conflictFail a w)
  | none => .ok { s with accs := s.accs ++ l.map fun x => ⟨c, run, step, x.name, x.loc, x.len, k, opn, cls⟩ }

/-- An access of a context's step to bytes `ls`, named from address `name`. -/
def State.touch (s : State) (c : CtxId) (k : AKind) (opn : Nat) (ls : List Nat) (name : Word) : Except Fail State :=
  s.touchAs c (s.ctx c).run (s.ctx c).step k opn none (spansOf [(name, ls)])

/-- A list of spans holds a location. -/
def inSpans (rs : List Span) (l : Nat) : Bool := rs.any fun r => decide (r.loc ≤ l) && decide (l < r.loc + r.len)

/-- The bytes that a K command holds open towards its lane's M slot, and how it touches them: its destination until its
visible word is observed, its source until either word is (R178). -/
def KCmd.opens (q : KCmd) : List (AKind × List Span) :=
  (if q.seenVis then [] else [(if q.updates then .update else .write, q.dstFoot)]) ++
  (if q.seenSrc then [] else [(.read, q.srcFoot)])
/-- The bytes that a command of the matrix path holds open (R213). -/
def XFoot.opens (q : XFoot) : List (AKind × List Span) := [(if q.upd then .update else .write, q.dst), (.read, q.src)]
/-- All bytes that a lane's engine commands hold open towards its M slot (R178, R213). -/
def State.laneOpens (s : State) (c : CtxId) : List (AKind × List Span) :=
  ((s.kcmds.filter fun q => q.owner = c && q.run = (s.ctx c).run && !q.dead).flatMap KCmd.opens) ++
  (s.ctx c).xfoot.flatMap XFoot.opens
/-- How an engine command of the lane that holds byte `l` open against an M-slot access of kind `k` touches it (R178,
R213). -/
def State.ownOther (s : State) (c : CtxId) (k : AKind) (l : Nat) : Option AKind :=
  ((s.laneOpens c).find? fun o => k.clash o.1 && inSpans o.2 l).map Prod.fst
/-- An M-slot access to byte `l` meets the open bytes of an engine command of its lane (R178, R213). -/
def State.ownOpen (s : State) (c : CtxId) (k : AKind) (l : Nat) : Bool := (s.ownOther c k l).isSome

/-- The report of a conflict within one lane with an access of kind `o` (R178, R403). -/
def State.ownFail (s : State) (c : CtxId) (o : AKind) (addr : Word) : Fail :=
  { code := 0x30, faddr := addr,
    d0 := BitVec.ofNat 64 (c.core.val * 2 ^ 32 + (if o = .write || o = .sync || o = .observe then 2 ^ 40 else 0) +
      (if o = .update then 2 ^ 41 else 0)),
    d1 := BitVec.ofNat 64 ((s.ctx c).step.toNat % 2 ^ 32 * 2 ^ 32) }

/-- The lowest of some addresses. -/
def lowestAddr (l : List Word) : Option Word := l.foldl (fun m w => match m with
  | some v => some (if w.ult v then w else v)
  | none => some w) none
/-- The bytes of spans that satisfy `p`, by their names. -/
def spanNames (p : Nat → Bool) (l : List Span) : List Word :=
  l.flatMap fun x => (List.range x.len).filterMap fun i => if p (x.loc + i) then some (x.name + BitVec.ofNat 64 i) else none
/-- How the access at the address that a conflict within one lane reports touches it. -/
def State.ownKind (s : State) (c : CtxId) (k : AKind) (l : List Span) (w : Word) : AKind :=
  (l.findSome? fun x => if (w - x.name).toNat < x.len then s.ownOther c k (x.loc + (w - x.name).toNat) else none).getD .write
/-- An M-slot access of the current context: its own commands first, then other steps (R178, R213, R257). -/
def State.mTouchAll (s : State) (k : AKind) (l : List Span) : Except Fail State :=
  match lowestAddr (spanNames (s.ownOpen s.cur k) l) with
  | some w => .error (s.ownFail s.cur (s.ownKind s.cur k l w) w)
  | none => s.touchAs s.cur s.me.run s.me.step k s.me.phaseOpen none l
/-- An M-slot access outside the scratchpads stays unordered towards the lane's later engine commands until a FENCE of
bit 0 (R254). -/
def State.noted (s : State) (k : AKind) (l : List Span) : State :=
  s.modMe fun c => { c with mfoot := c.mfoot ++ (l.filter fun x => !isSpad x.loc).map fun x => (k, x) }
/-- An M-slot access to bytes `ls`, named from address `name`. -/
def State.mTouch (s : State) (k : AKind) (ls : List Nat) (name : Word) : Except Fail State :=
  (s.mTouchAll k (spansOf [(name, ls)])).map fun t => t.noted k (spansOf [(name, ls)])

/-! ## Phases and publication (R35, R36, R75, R255) -/

/-- An opening event (R35). -/
def State.openPhase (s : State) (c : CtxId) : State := s.modCtx c fun x => { x with phaseOpen := s.time }

/-- The read that a write of the closing phase overlaps, if any (R258). -/
def State.doomed (s : State) (c : CtxId) : Option Fail :=
  let x := s.ctx c
  (lowest ((s.accs.filter fun a => a.owner = c && a.run = x.run && a.cls = none && a.kind ≠ .read).flatMap fun a =>
    ((s.clashes c x.run a.kind a.loc a.len a.opn none).filter fun r => r.kind = .read).map fun r =>
      (r, a.name + BitVec.ofNat 64 (r.loc - a.loc)))).map fun r => s.conflictFail r.1 r.2

/-- The locations a write touches. -/
def PendOp.locs : PendOp → List Nat
  | .bytes cs => cs.map Prod.fst
  | .upd l _ ty _ => (List.range (updBytes ty)).map (l + ·)
/-- The locations a held write touches. -/
def Pend.locs (p : Pend) : List Nat := p.op.locs

/-- The part of a held write that lies outside the bytes `gone`. -/
def Pend.without (gone : Nat → Bool) (p : Pend) : Option Pend := match p.op with
  | .bytes cs => if cs.all fun c => gone c.1 then none else some { p with op := .bytes (cs.filter fun c => !gone c.1) }
  | .upd l .. => if gone l then none else some p
/-- A held plain write covers location `l`. -/
def Pend.covers (p : Pend) (l : Nat) : Bool := match p.op with
  | .bytes cs => cs.any fun c => c.1 = l
  | .upd .. => false
/-- The writes of a phase as their homes take them when it closes: those of engine commands, which stand at the homes and
have been accepted there (R177, R404), and then the M slot's, without the bytes that an engine command ordered after them
has written (R254). -/
def splitPend : List Pend → List Pend × List Pend
  | [] => ([], [])
  | p :: t =>
    let (done, sent) := splitPend t
    if p.sure then (p :: done, sent)
    else match p.without fun l => done.any fun q => q.covers l with
      | some q => (done, q :: sent)
      | none => (done, sent)
/-- The order in which a close applies the writes of its phase. -/
def closeOrder (l : List Pend) : List Pend := (splitPend l).1 ++ (splitPend l).2

/-- Change the dispatched step of id `i`. -/
def State.modRun (s : State) (i : Nat) (f : Run → Run) : State :=
  { s with runs := s.runs.map fun r => if r.id = i then f r else r }
/-- The dispatched step of id `i`. -/
def State.getRun (s : State) (i : Nat) : Option Run := s.runs.find? (·.id = i)

/-- The accesses of the phase that closes get close time `t`. -/
def closeAccs (c : CtxId) (run t : Nat) (l : List Access) : List Access :=
  l.map fun a => if a.owner = c && a.run = run && a.cls = none then { a with cls := some t } else a

/-- A closing event of context `c` (R35, R255): its writes are published at once where the homes of those of the M slot are
all its own die, else they travel (R75). What a refusal is to put back travels with them (R334). -/
def State.closePhase (s : State) (c : CtxId) (sl : Slot) (pc : W32) (once : Bool) : Except Fail State :=
  let x := s.ctx c
  match s.doomed c with
  | some f => .error f
  | none =>
    let ops := closeOrder x.pend
    let far := ops.any fun p => !p.sure && p.locs.any fun l => s.home l ≠ coreDie c.core
    match (if far then .ok s else s.applyAll ops) with
    | .error f => .error f
    | .ok s' =>
      let s' := { s' with kcmds := s'.kcmds.map fun (k : KCmd) =>
        if k.owner = c && k.run = x.run && k.closeAt = none then { k with closeAt := some s.time } else k }
      let s' := s'.modCtx c fun y => { y with
        pend := [], undo := [], unpoison := []
        xq := y.xq.map fun (q : XCmd) => if q.closeAt = none then { q with closeAt := some s.time } else q }
      -- what this phase has written stays written where an earlier close of the lane is refused
      let kept (q : Closing) : Closing := if q.owner = c && q.run = x.run then
          { q with undo := q.undo.filter fun u => !(x.undo.any fun w => w.1 = u.1) } else q
      let s' := { s' with closing := s'.closing.map kept ++
        (if far then [(⟨c, x.run, x.step, x.asid, x.opb, pc, sl, s.time, ops, x.undo, x.unpoison⟩ : Closing)] else []) }
      let s' := s'.modRun x.run fun r => { r with closed := true, once := r.once || once || x.pend.any (·.once) }
      .ok { s' with accs := closeAccs c x.run s.time s'.accs }

/-- What a lane's own reads see: memory with its unpublished writes (R36, R171, R255). -/
def State.view (s : State) (c : CtxId) : State :=
  let x := s.ctx c
  ((s.closing.filter fun q => q.owner = c && q.run = x.run).flatMap (·.ops) ++ x.pend).foldl State.applyPend s

/-- The lines that a plain access touches leave exact form (R85). -/
def State.flushLocs (s : State) (ls : List Nat) : State :=
  ls.foldl (fun s l => if (s.lineExact l).isEmpty then s else s.flushLine l) s
/-- A lane's plain read of bytes: what it sees, and the lines leave exact form (R85). -/
def State.plainRead (s : State) (c : CtxId) (ls : List Nat) : List Byte × State :=
  (ls.map (s.view c).plainByte, s.flushLocs ls)

/-- The state as lane `c` is to find it: the closes of other lanes have come to their homes (R36, R75). -/
def State.settled (s : State) (c : CtxId) : State :=
  let own (q : Closing) : Bool := q.owner = c && q.run = (s.ctx c).run
  { (s.closing.filter fun q => !own q).foldl (fun (s : State) q => match s.applyAll q.ops with
      | .ok t => t
      | .error _ => s) s with closing := s.closing.filter own }

/-- A close is on its way to the home of a location (R75). -/
def State.onItsWay (s : State) (l : Nat) : Bool := s.closing.any fun q => q.ops.any fun p => p.locs.contains l
/-- A location waits for a close of another lane that is on its way to its home (R75). -/
def State.inTransit (s : State) (c : CtxId) (l : Nat) : Bool :=
  s.closing.any fun q => !(q.owner = c && q.run = (s.ctx c).run) && q.ops.any fun p => p.locs.contains l

/-! ## Trap rings (R338, R339) -/

/-- Word 0 of a trap record (R337). -/
def recWord0 (code cls slot core bank others : Nat) : Word :=
  BitVec.ofNat 64 (code + cls * 2 ^ 8 + slot * 2 ^ 12 + core * 2 ^ 16 + bank * 2 ^ 24 + others * 2 ^ 25)

/-- Take the next sequence number of the ring at `cb` (R339, item 1). -/
def State.ringSeq (s : State) (cb : Nat) : Word × State :=
  (BitVec.ofNat 64 (s.num (cb + 0x20) 8), s.setNum (cb + 0x20) ((s.num (cb + 0x20) 8 + 1) % 2 ^ 64) 8)
/-- The ring at `cb` has space (R339, item 2). -/
def State.ringSpace (s : State) (cb : Nat) : Bool :=
  let prod := s.num (cb + 0x10) 4
  let cons := s.num (cb + 0x14) 4
  decide ((prod + 2 ^ 32 - cons) % 2 ^ 32 < 2 ^ (s.field (cb + 8) 0 5))
/-- Write a record and advance prod (R339, item 2). -/
def State.ringPut (s : State) (cb : Nat) (ws : List Word) : State :=
  let prod := s.num (cb + 0x10) 4
  let base := s.field cb 0 52
  let a := base + 64 * (prod % 2 ^ (s.field (cb + 8) 0 5))
  let s := s.plainWrite (cellsAt a (ws.flatMap fun w => leBytes w.toNat 8))
  s.setNum (cb + 0x10) ((prod + 1) % 2 ^ 32) 4

/-- The trap ring of a context. -/
def State.ringOf (s : State) (c : CtxId) : Nat := bits (s.ctx c).trapring 0 52
/-- The device ring. -/
def State.devRing (s : State) : Nat := bits s.cfg.devring 0 52

/-- A class-3 or outside record: dropped when the ring is full (R339). -/
def State.ringDrop (s : State) (cb : Nat) (ws : List Word) : State :=
  let (n, s) := s.ringSeq cb
  if s.ringSpace cb then s.ringPut cb (ws ++ [n])
  else
    let s := s.setField (cb + 0x18) 0 1 1
    s.setNum (cb + 0x28) (min (s.num (cb + 0x28) 4 + 1) 0xFFFFFFFF) 4

/-- A class-4 or class-5 record on the device ring, and the rest `k` of the decision `a` that it belongs to: both wait
when the ring is full (R339). -/
def State.devWith (s : State) (ws : List Word) (a : DevAfter) (k : State → State) : State :=
  let cb := s.devRing
  let (n, s) := s.ringSeq cb
  if s.devQ.isEmpty && s.ringSpace cb then k (s.ringPut cb (ws ++ [n]))
  else { s.setField (cb + 0x18) 1 1 1 with devQ := s.devQ ++ [⟨ws, n, a⟩] }
/-- A decision waits for its record (R339). -/
def State.deciding (s : State) (a : DevAfter) : Bool := s.devQ.any fun r => r.after = a

/-- The words of a class-4 record (R345). -/
def devWords (code core : Nat) (step : Word) (opb w4 w5 w6 : Nat) : List Word :=
  [recWord0 code 4 15 core 0 0, 0, step, BitVec.ofNat 64 opb, BitVec.ofNat 64 w4, BitVec.ofNat 64 w5, BitVec.ofNat 64 w6]

/-! ## Nodes in memory (R21, R22) -/

/-- The live node of an ASID and OPB address. -/
def State.node (s : State) (a : BitVec 12) (opb : Nat) : Option Node := s.nodes.find? fun n => n.asid = a && n.opb = opb
/-- Change a live node. -/
def State.modNode (s : State) (a : BitVec 12) (opb : Nat) (f : Node → Node) : State :=
  { s with nodes := s.nodes.map fun n => if n.asid = a && n.opb = opb then f n else n }
/-- A field of a node's OPB. -/
def State.opbField (s : State) (n : Node) (off lo w : Nat) : Nat := s.field (n.phys + off) lo w
/-- Write a field of a node's OPB. -/
def State.setOpb (s : State) (n : Node) (off lo w v : Nat) : State := s.setField (n.phys + off) lo w v
/-- Step identifier field widths w0 to w(nf-1) (R21, R27). -/
def State.opbWidths (s : State) (n : Node) : List Nat :=
  (List.range (s.opbField n 0x10 0 3)).map fun i => s.opbField n 0x10 (8 + 6 * i) 6

/-! ## Stopping a lane (R334, R40) -/

/-- Is any engine command of a run still on its way. -/
def State.runBusy (s : State) (run : Nat) : Bool := s.kcmds.any fun k => k.run = run && k.stage ≠ .visible

/-- A KRING: it counts as not started until it has its slot, and gives the slot up at a stop (R334, item 4). -/
def KCmd.ringing (k : KCmd) : Bool := match k.op with
  | .kring .. => true
  | _ => false
/-- A gather or scatter, which takes indices (R181). -/
def KCmd.gathers (k : KCmd) : Bool := match k.op with
  | .kgth .. => true
  | .ksct .. => true
  | _ => false
/-- It still waits for indices (R181, R334). -/
def KCmd.waitsIdx (k : KCmd) : Bool := k.gathers && decide (k.idx.length < k.sa.toNat)
/-- A KA2A that has posted and of whose payload no byte has been read or written yet (R184, R334). -/
def KCmd.unsent (k : KCmd) : Bool := k.posted && k.sent.isEmpty && k.held.isEmpty
/-- A command that has come to its end and is waited for by nothing. -/
def KCmd.over (k : KCmd) : Bool := (k.stage = .visible || k.errored) && k.claim.isNone && !k.posted

/-- What a stop does to the K commands of a run: those not started are dropped, those started run on without completion
words (R334, item 4). A KGTH or KSCT that still waits for indices, a KRING, which advances nothing now, and a KA2A that has
only posted count as not started. A failed command whose error has not been reported keeps its record to write (R335,
R340). -/
def stopK (run : Nat) (l : List KCmd) : List KCmd :=
  (l.filter fun k => !(k.run = run && (k.errored ||
    (k.failed.isNone && (k.stage = .queued || k.stage = .visible || k.ringing || k.waitsIdx || k.unsent))))).map
    fun k => if k.run = run then { k with dead := true, held := [], claim := none } else k

/-- A lane stops: results in flight land, its open phase is discarded, its queues empty (R334, items 4 and 5). -/
def State.stopLane (s : State) (c : CtxId) : State :=
  let s := (s.ctx c).pipe.foldl (fun s l => if l.due.isSome then s.modCtx c fun x => x.landed l else s) s
  let x := s.ctx c
  let s := s.setCells x.undo
  let s := { s with poison := x.unpoison.foldl (fun l u => insertNat u l) s.poison }
  let s := { s with accs := s.accs.filter fun a => !(a.owner = c && a.run = x.run && a.cls = none) }
  s.modCtx c fun x => { x with
    pipe := [], pend := [], undo := [], unpoison := [], mfoot := [], xq := [], xfoot := [], idxq := [],
    shadow := none, wait := .none, next := [], stat := .stopped }

/-- A bank gives up its step; the next step that starts in it sets every register anew (R32, R34). Its registers hold
their last values until then (R331); its latches are empty (R53). Where the other bank holds a step, the core passes to
it at once: that this costs no cycle and is no switch that R319 counts is a DESIGN CHOICE (log entry 43). -/
def State.freeCtx (s : State) (c : CtxId) : State :=
  let x := s.ctx c
  let s := s.setCtx c { Ctx.blank with
    sreg := x.sreg, preg := x.preg, vreg := x.vreg, kreg := x.kreg, dreg := x.dreg, zreg := x.zreg, pvreg := x.pvreg,
    hreg := x.hreg, oreg := x.oreg, cr := x.cr,
    trapring := x.trapring, ringQ := x.ringQ, freed := some s.time,
    nextIssue := x.nextIssue }
  let o := s.ctx (otherBank c)
  s.modCore c.core fun k =>
    let since := if o.stat = .empty then none else k.perf.since
    { k with
      cur := if o.stat = .empty then k.cur else (otherBank c).bank
      ready := k.ready.filter fun q => q.2 ≠ c.bank
      perf := { k.perf with since := since, held := k.perf.held +
        (match k.perf.since with
          | some t => if o.stat = .empty then s.time - t else 0
          | none => 0) } }

/-- The posts of KA2As that a stop drops are withdrawn (R183, R334). -/
def State.unpost (s : State) (run : Nat) : State :=
  (s.kcmds.filter fun k => k.run = run && k.failed.isNone && !k.errored && k.unsent).foldl
    (fun s k => s.setNum (k.ringLoc + 8) (s.num (k.ringLoc + 8) 4 - 1) 4) s
/-- Every lane of a run stops (R334, item 3; R40). -/
def State.stopRun (s : State) (run : Nat) : State :=
  let g := match s.getRun run with
    | some r => r.gang
    | none => []
  let s := (g.foldl (fun s c => if (s.ctx c).run = run then s.stopLane c else s) s).unpost run
  { s with kcmds := stopK run s.kcmds }

/-- A run leaves its cores. -/
def State.endRun (s : State) (run : Nat) : State :=
  let g := match s.getRun run with
    | some r => r.gang
    | none => []
  let s := g.foldl (fun s c => if (s.ctx c).run = run then s.freeCtx c else s) s
  let node (n : Node) : Bool := (s.getRun run).any fun r => r.asid = n.asid && r.opb = n.opb
  { s with
    nodes := s.nodes.map fun n => if node n then { n with preSince := s.time } else n
    runs := s.runs.filter fun r => r.id ≠ run
    kcmds := s.kcmds.filter fun k => !(k.run = run && k.over) }

/-! ## Arenas (R44) -/

/-- The bytes of spans outside `gone`. -/
def cutSpans (gone : Nat → Bool) (l : List Span) : List Span :=
  if (spanLocs l).any gone then
    (l.flatMap fun x => (List.range x.len).filterMap fun i =>
      if gone (x.loc + i) then none else some (⟨x.name + BitVec.ofNat 64 i, x.loc + i, 1⟩ : Span)).foldr addSpan []
  else l
/-- A place that no future has: that of a waiter in no list (R38). -/
def nowhere : Nat := 2 ^ 60
/-- The failure of a command at its first translation after the death of an arena (R354): by its handle in space 2, at its
window address in space 1. -/
def deadFail (space : Nat) (w : Word) : Fail := { code := if space = 2 then 0x24 else 0x20, faddr := w }
/-- How a command whose bytes have gone with an arena fails (R354). One not started meets the dead arena as it starts; one
visible has nothing left to translate. -/
def KCmd.lost (gone : Nat → Bool) (k : KCmd) : Option Fail :=
  let hit (l : List Span) : Option Word := (spanNames gone l).head?
  if k.failed.isSome || k.errored || k.dead || k.stage = .queued || k.stage = .visible then none
  else if (k.claim.isSome || k.posted) && gone k.ringLoc then some (deadFail 1 ((k.ring.map (·.addr)).getD k.sa))
  else match hit k.dstFoot with
    | some w => some (deadFail (bits k.dd[3] 16 3) w)
    | none => if k.stage = .started then (hit k.srcFoot).map (deadFail (bits k.ds[3] 16 3)) else none
/-- What the death of an arena does to a command: it fails if it was to reach the bytes that have gone, holds none of them
open, and gives up a claim on a ring that has gone (R44, R354). -/
def KCmd.bereave (gone : Nat → Bool) (k : KCmd) : KCmd :=
  let cut (k : KCmd) : KCmd := { k with
    srcFoot := cutSpans gone k.srcFoot, dstFoot := cutSpans gone k.dstFoot, held := k.held.filterMap (Pend.without gone)
    claim := if gone k.ringLoc then none else k.claim }
  match k.lost gone with
  | some f => { cut k with failed := some f, held := [], claim := none }
  | none => cut k

/-- An arena dies: its frames return to the pool and the generation advances; no write to it outlives it, and the lists of
waiters of its futures are gone with them (R38, R44, R354). -/
def State.arenaDeath (s : State) (h : Word) : State :=
  if h = 0 then s
  else
    let slot := bits h 0 16
    let a := Sparse.get Arena.none s.arenas slot
    -- the arena's lines are dropped without being written, exact form and poison with them (R44)
    let gone : Nat → Bool := fun l => a.frames.any fun f => decide (f ≤ l) && decide (l < f + 65536)
    { s with
      ctxs := s.ctxs.map fun (x : Ctx) => { x with
        pend := x.pend.filterMap (Pend.without gone)
        mfoot := x.mfoot.filter fun e => !gone e.2.loc
        xfoot := x.xfoot.map fun (f : XFoot) => { f with src := cutSpans gone f.src, dst := cutSpans gone f.dst }
        wait := match x.wait with
          | .future loc a d pc => .future (if gone loc then nowhere else loc) a d pc
          | w => w }
      waiters := s.waiters.map fun (w : Waiter) => if gone w.loc then { w with loc := nowhere } else w
      povfs := s.povfs.filter fun e => !gone e.1
      closing := s.closing.map fun (q : Closing) => { q with ops := q.ops.filterMap (Pend.without gone) }
      kcmds := s.kcmds.map (KCmd.bereave gone)
      accs := s.accs.filter (fun a => !gone a.loc)
      arenas := Sparse.set Arena.none s.arenas slot ⟨a.gen + 1, false, 0, []⟩,
      exact := s.exact.filter (fun e => !gone e.1),
      poison := s.poison.filter (fun l => !gone l),
      pool := s.pool ++ a.frames }

/-! ## Aborting a node, re-executing a step (R342 to R347) -/

/-- Engine commands of a node, or closes of its lanes, are still on their way (R343, R26). -/
def State.nodeBusy (s : State) (a : BitVec 12) (opb : Nat) : Bool :=
  (s.kcmds.any fun k => k.asid = a && k.opb = opb && k.stage ≠ .visible && !k.errored) ||
  (s.closing.any fun q => q.asid = a && q.opb = opb)

/-- A pre-emption command is done once every node it named is (R280, R303), and its intent has its mark (R360). -/
def State.settlePreempt (s : State) : State :=
  let done (i : Fin 16) (m : Mailbox) : Bool := m.go && (m.cmd = 3 || m.cmd = 4) && !(s.mbQueue.any fun q => q.2 = i) &&
    !(s.nodes.any fun n => n.preMb.contains i)
  { s with
    mail := Vector.ofFn fun i => if done i s.mail[i] then { s.mail[i] with go := false, status := 0 } else s.mail[i]
    journal := s.journal.filter fun j => !done j.mb s.mail[j.mb] }

/-- The end of an abort, once its records are written: the OPB state and outst, and the node is no longer held (R343,
step 5). -/
def State.endAbort (s : State) (a : BitVec 12) (opb : Nat) : State :=
  match s.node a opb with
  | none => s
  | some n =>
    let s := s.setOpb n 0x90 0 3 5
    let s := s.setOpb n 0xA8 0 32 0
    State.settlePreempt { s with
      nodes := s.nodes.filter fun m => !(m.asid = a && m.opb = opb)
      waiters := s.waiters.filter fun w => !(w.asid = a && w.opb = opb && w.dead) }
/-- The records of an abort, the last of which ends it. -/
def State.abortRecords (s : State) (a : BitVec 12) (opb : Nat) : List (List Word) → State
  | [] => s.endAbort a opb
  | [r] => s.devWith r (.endAbort a opb) fun t => t.endAbort a opb
  | r :: t => (s.devWith r .nothing id).abortRecords a opb t
/-- The last steps of an abort, once the node's commands have come to their end (R343, steps 4 and 5). -/
def State.finishAbort (s : State) (n : Node) (recs : List (List Word)) : State :=
  let s := s.arenaDeath (BitVec.ofNat 64 (s.opbField n 0xB8 0 64))
  (s.setOpb n 0xB8 0 64 0).abortRecords n.asid n.opb recs

/-- A node is aborted (R343). `recs` are the class-4 records of its cause; the record 0x45 follows them. -/
def State.abortNode (s : State) (a : BitVec 12) (opb : Nat) (cause core : Nat) (step : Word) (recs : List (List Word)) :
    State :=
  match s.node a opb with
  | none => s
  | some n =>
    if n.dying.isSome then s
    else
      let outst := s.opbField n 0xA8 0 32
      let mine := (s.runs.filter fun r => r.asid = a && r.opb = opb).map (·.id)
      let s := mine.foldl (fun s r => (s.stopRun r).endRun r) s
      let s := { s with waiters := s.waiters.map fun (w : Waiter) =>
        if w.asid = a && w.opb = opb then { w with dead := true } else w }
      let all := recs ++ [devWords 0x45 core step opb 0 cause outst]
      let s := s.modNode a opb fun n => { n with requeue := [], dying := some all }
      if s.nodeBusy a opb then s else s.finishAbort n all

/-- Aborts that waited for engine commands come to their end (R343, step 4). -/
def State.settleAborts (s : State) : State :=
  s.nodes.foldl (fun s n => match n.dying with
    | some recs => if s.nodeBusy n.asid n.opb || s.deciding (.endAbort n.asid n.opb) then s else s.finishAbort n recs
    | none => s) s

/-- The recovery rung of a code (R336, R342). -/
def rung (code : Nat) : Nat :=
  if code = 0x0C || code = 0x10 || code = 0x41 || code = 0x42 || code = 0x47 || (0x54 ≤ code && code ≤ 0x56) then 3 else 4

/-- Put a step among those to be dispatched again: by the time it became ready, then by its identifier (R269). -/
def insertStep (r : StepRec) : List StepRec → List StepRec
  | [] => [r]
  | a :: t => if r.since < a.since || (r.since = a.since && r.step.ult a.step) then r :: a :: t else a :: insertStep r t
/-- A step is re-enqueued at its node (R41, R347). -/
def State.requeueStep (s : State) (a : BitVec 12) (opb : Nat) (r : StepRec) : State :=
  s.modNode a opb fun n => { n with requeue := insertStep { r with since := s.time } n.requeue }

/-- A run that is squashed or restarted made no access (R257). -/
def State.forgetRun (s : State) (run : Nat) : State := { s with accs := s.accs.filter fun a => !(a.run = run) }
/-- A run whose step is to run again, so that it makes no access (R257). -/
def State.undone (s : State) (run : Nat) : Bool :=
  (s.nodes.any fun n => n.requeue.any fun r => r.after = some run) ||
  s.waiters.any fun w => match w.wake with
    | .step r => r.after = some run
    | _ => false

/-- A run leaves its cores and its step is enqueued again, to be placed elsewhere (R347, steps 2 to 4). -/
def State.restart (s : State) (run restarts : Nat) : State :=
  match s.getRun run with
  | none => s
  | some r => ((s.endRun run).forgetRun run).requeueStep r.asid r.opb
      ⟨r.step, r.carries, restarts, r.gang.map (·.core), some run, 0⟩
/-- A step is re-executed once its record 0x44 is written, with the count that the restart brings (R345, R347). -/
def State.reexecute (s : State) (r : Run) (core code restarts : Nat) : State :=
  s.devWith (devWords 0x44 core r.step r.opb 0 (code + 2 ^ 8 * restarts) 0) (.reexecute r.id restarts)
    fun t => t.restart r.id restarts

/-- Draw a free value (log entry 12). -/
def State.draw (s : State) : Nat × State := (Config.freeChoice s.free, { s with free := s.free + 1 })
/-- Draw a free word: an address or a check that the spec does not give (log entry 14). -/
def State.drawWord (s : State) : Nat × State := ((Config.freeWord s.free).toNat, { s with free := s.free + 1 })

/-- The recovery of a stopped run (R342, R344, R346). -/
def State.recover (s : State) (run core code : Nat) : State :=
  match s.getRun run with
  | none => s
  | some r =>
    let restartable := match s.node r.asid r.opb with
      | some n => s.opbField n 0x08 18 1 = 1
      | none => false
    if rung code = 3 && restartable && !r.once && decide (r.restarts < 2) then
      if r.snapBad then
        let (at', s) := s.drawWord
        let (check, s) := s.drawWord
        s.abortNode r.asid r.opb 0x42 core r.step [devWords 0x42 core r.step r.opb at' 0 (check % 2 ^ 32)]
      else s.reexecute r core code (r.restarts + 1)
    else s.abortNode r.asid r.opb code core r.step []

/-- Every run with a lane on a fenced core is recovered (R418). -/
def State.recoverCore (s : State) (a : Fin 128) : State :=
  ([0, 1] : List (Fin 2)).foldl (fun s b =>
    if (s.ctx ⟨a, b⟩).stat = .empty then s else s.recover (s.ctx ⟨a, b⟩).run a.val 0x47) s
/-- A pre-empted node's state, and what its pre-emption commands were waiting for (R280). -/
def State.setPre (s : State) (a : BitVec 12) (opb : Nat) (p : PreState) : State :=
  (s.modNode a opb fun m => { m with pre := p, preMb := [] }).settlePreempt
/-- The rest of a decision, once its class-4 or class-5 record is written (R339). -/
def State.decided (s : State) : DevAfter → State
  | .nothing => s
  | .endAbort a opb => s.endAbort a opb
  | .reexecute run restarts => s.restart run restarts
  | .recover run core code => (s.stopRun run).recover run core code
  | .redispatch run core => match s.getRun run with
    | some r => s.reexecute r core 0x41 r.restarts
    | none => s
  | .unpreempt a opb => s.setPre a opb .no
  | .keep a opb => s.setPre a opb .kept
  | .fence a => s.recoverCore a
  | .passTrace cb ri => s.setNum (cb + 20) ri 4
  | .free a => if (s.core a).self = .normal then { s with fenced := setBit s.fenced a.val false } else s
/-- A class-4 or class-5 record and the decision that it belongs to (R339). -/
def State.devRecord (s : State) (ws : List Word) (a : DevAfter) : State := s.devWith ws a fun t => t.decided a

/-- What follows a record once it is written. -/
def State.after (s : State) (core code : Nat) : After → State
  | .nothing => s
  | .recover run => s.recover run core code
  | .recoverAs run by' worst => s.recover run by' worst
  | .abort run => match s.getRun run with
    | some r => s.abortNode r.asid r.opb 0x00 core r.step []
    | none => s
  | .errorWords id => { s with kcmds := s.kcmds.map fun (k : KCmd) => if k.id = id then { k with record := some true } else k }

/-- A class-0, class-1 or class-2 record of a context: written, or its producer stalls (R339). -/
def State.ctxRecord (s : State) (c : CtxId) (ws : List Word) (a : After) : State :=
  let cb := s.ringOf c
  let (n, s) := s.ringSeq cb
  if (s.ctx c).ringQ.isEmpty && s.ringSpace cb then
    (s.ringPut cb (ws ++ [n])).after c.core.val (bits (ws.headD 0) 0 8) a
  else (s.setField (cb + 0x18) 1 1 1).modCtx c fun (x : Ctx) =>
    let y : Ctx := { x with ringQ := x.ringQ ++ [⟨ws, n, a⟩] }
    if y.ringQ.any RingRec.byLane then y.wdPause s.time else y

/-- The words of a precise record (R337): w5 [31:0] is the index address at which the lane stopped. -/
def preciseWords (c : CtxId) (sl : Slot) (others : Nat) (pc stop : W32) (step : Word) (opb : Nat) (f : Fail) : List Word :=
  [recWord0 f.code.toNat 1 sl.code c.core.val c.bank.val others, BitVec.ofNat 64 pc.toNat, step, BitVec.ofNat 64 opb,
   f.faddr, BitVec.ofNat 64 (bits f.d0 32 32 * 2 ^ 32 + stop.toNat), f.d1]

/-! ## Fetch addresses (R57, R128, R153) -/

/-- The sequential successor of index address `a` (R57, R129). -/
def Ctx.succ (c : Ctx) (a : W32) : W32 := if c.stream[a.toNat]? = some 0xFFFF then a + 25 else a + 1
/-- Where a bundle at `pc` with successor `next` goes under the loop stack, and the stack after it (R153). -/
def loopNext (pc next : W32) : List LoopEnt → W32 × List LoopEnt
  | [] => (next, [])
  | t :: r =>
    if pc = t.stop then (if 1 < t.left.toNat then (t.start, { t with left := t.left - 1 } :: r) else loopNext pc next r)
    else (next, t :: r)
/-- The index address after the current bundle, and the loop stack (R57, R153): a branch wins, then a LOOP of count 0. -/
def Ctx.follow (c : Ctx) : W32 × List LoopEnt :=
  match c.redir.find? fun r => r.1 = c.n + 1 with
  | some r => (r.2, c.loops)
  | none => match c.skip with
    | some a => (a, c.loops)
    | none => loopNext c.pc (c.succ c.pc) c.loops

/-- A KST that found its reed pool exhausted sets povf at the head's home (R407); the write is never discarded. -/
def State.setPovf (s : State) (a : BitVec 12) (hcb : Word) : State :=
  match s.gate1 a (hcb.toNat + 0x40) 8 ⟨true, false⟩ with
  | .ok ls =>
    let l := ls.headD 0
    if bitAt (s.byte l) 0 then s else { s.setByte l (s.byte l ||| 1) with povfs := s.povfs ++ [(l, s.time)] }
  | _ => s

/-- What a failure leaves beside its record: the core's health counts (R411) and povf (R407). -/
def State.failSide (s : State) (c : CtxId) (a : BitVec 12) (f : Fail) : State :=
  if f.code = 0x0C then s.modCore c.core fun k => { k with residues := if k.residues = 15 then 15 else k.residues + 1 }
  else if f.code = 0x10 then s.modCore c.core fun k =>
    { k with uncorrectables := if k.uncorrectables = 15 then 15 else k.uncorrectables + 1 }
  else if f.code = 0x35 then s.setPovf a f.faddr
  else s

/-- TAKING AN EXCEPTION: the precise trap (R334). Context `c` stops at index address `stop` for failure `f` of slot `sl`
of the bundle at `pc`; `others` marks the other failing slots (R335). Every lane of the step stops, the open phase is
discarded, the record is written, and the recovery `a` follows. -/
def State.trapAs (s : State) (c : CtxId) (sl : Slot) (others : Nat) (pc stop : W32) (f : Fail) (a : After) : State :=
  let x := s.ctx c
  let s := s.stopRun x.run
  let s := if (s.ctx c).stat = .stopped then s else s.stopLane c
  let s := s.failSide c x.asid f
  s.ctxRecord c (preciseWords c sl others pc stop x.step x.opb f) a
/-- The precise trap whose recovery is that of its own code's rung (R334, R342). -/
def State.trap (s : State) (c : CtxId) (sl : Slot) (others : Nat) (pc stop : W32) (f : Fail) : State :=
  s.trapAs c sl others pc stop f (.recover (s.ctx c).run)

/-- A slot operation of the current context: without its predicate it has no effect (R47); a failure is a precise trap
before its bundle (R334). -/
def State.slotOp (s : State) (sl : Slot) (p : Fin 64) (r : Res) : Out :=
  if s.me.pget p then
    match r with
    | .done t => .next { t with verdict := .ok }
    | .fail f => .next { s.trap s.cur sl 0 s.me.pc s.me.pc f with verdict := .failed sl f }
    | .hold t => .next { t with verdict := .held }
    | .refused t f => .next { t.trap s.cur sl 0 s.me.pc s.me.follow.1 f with verdict := .closed sl f }
  else .next { s with verdict := .ok }

/-- A closing and opening event made by a slot of the current bundle (R35). -/
def State.closeOpen (s : State) (sl : Slot) (once : Bool) : Res :=
  match s.closePhase s.cur sl s.me.pc once with
  | .ok t => .done (t.openPhase s.cur)
  | .error f => .refused s f

end Sys2Proof.Machine
end

