-- ==== Sys2Proof/Machine/Operands.lean ====
section
/-!
DEFINITION. Operand forms: destinations and latches of scalar results, the effective address of the M slot, descriptor
fields, element positions and element storage (R83, R95, R117, R121, R127).
-/
namespace Sys2Proof.Machine

/-! ## Scalar and predicate results (R50 to R52) -/

/-- The register write of a scalar result; nowb keeps it from the register (R52). -/
def dstS (d : Dst 64) (v : Word) : List RegWrite := if d.nowb then [] else [.s d.reg (SVal.of v)]
/-- The register write of a predicate result. -/
def dstP (d : Dst 64) (b : Bool) : List RegWrite := if d.nowb then [] else [.p d.reg b]
/-- The register write of a vector result. -/
def dstV (d : Dst 32) (x : VReg) : List RegWrite := if d.nowb then [] else [.v d.reg x]
/-- The register write of a mask result. -/
def dstK (d : Dst 8) (m : Mask) : List RegWrite := if d.nowb then [] else [.k d.reg m]
/-- The latch value of a scalar result (R51). -/
def latchS (v : Word) : Option Latch := some (.scalar (SVal.of v))
/-- Land a scalar result. -/
def State.landS (s : State) (sl : Slot) (lat : Nat) (d : Dst 64) (v : Word) (f : Flags) : State :=
  s.land sl lat (dstS d v) (latchS v) f
/-- Land a predicate result. -/
def State.landP (s : State) (sl : Slot) (lat : Nat) (d : Dst 64) (b : Bool) (f : Flags) : State :=
  s.land sl lat (dstP d b) (some (.pred b)) f

/-- A Boolean as a word. -/
def boolWord (b : Bool) : Word := if b then 1 else 0

/-! ## Check words (R251) -/

/-- One bit of the reflected CRC-32. -/
def crcBit (c : Nat) : Nat := if c % 2 = 1 then c / 2 ^^^ 0xEDB88320 else c / 2
/-- One byte of it. -/
def crcByte (c : Nat) (b : Byte) : Nat :=
  crcBit (crcBit (crcBit (crcBit (crcBit (crcBit (crcBit (crcBit (c ^^^ b.toNat))))))))
/-- CRC-32: polynomial 0x04C11DB7 reflected, initial value all ones, result complemented (R251). -/
def crc32 (bs : List Byte) : Nat := bs.foldl crcByte 0xFFFFFFFF ^^^ 0xFFFFFFFF

/-! ## Latencies (R54, R59) -/

/-- Latency of a load from a scratchpad under latency class `k`. -/
def latLoad (k : BitVec 4) : Nat := if k = 1 then 3 else 4
/-- Latency of a vector multiplication. -/
def latVMul (k : BitVec 4) : Nat := if k = 1 then 4 else 5
/-- Latency of VSIG. -/
def latVSig (k : BitVec 4) : Nat := if k = 1 then 9 else 10

/-! ## Effective addresses (R121) -/

/-- The effective address, with base and index checked for their residue (R369). -/
def Ctx.ea (c : Ctx) (base : Fin 64) (off : MOff) : Except Fail Word :=
  match c.checked base with
  | .error f => .error f
  | .ok b => match off with
    | .imm o => .ok (b + o.signExtend 64)
    | .index r sc => match c.checked r with
      | .error f => .error f
      | .ok i => .ok (b + i <<< sc.toNat)

/-- The offset alone, as the pitch of a strided access (R166). -/
def Ctx.offset (c : Ctx) (off : MOff) : Except Fail Word :=
  match off with
  | .imm o => .ok (o.signExtend 64)
  | .index r sc => match c.checked r with
    | .error f => .error f
    | .ok i => .ok (i <<< sc.toNat)

/-! ## Step identifier fields (R27) -/

/-- Field `i` of step identifier `x` under field widths `ws`; 0 beyond the fields. -/
def stepField (ws : List Nat) (x : Word) (i : Nat) : Nat :=
  match ws[i]? with
  | some w => bits x ((ws.take i).foldl (· + ·) 0) w
  | none => 0

/-! ## Descriptors (R82, R83) -/

/-- f0 -/
def Desc.base (d : Desc) : Word := d[0]
/-- f1.rows -/
def Desc.rows (d : Desc) : Nat := bits d[1] 0 32
/-- f1.cols -/
def Desc.cols (d : Desc) : Nat := bits d[1] 32 32
/-- f2.pitch -/
def Desc.pitch (d : Desc) : Nat := bits d[2] 0 40
/-- f2.trans -/
def Desc.trans (d : Desc) : Bool := bitAt d[2] 40
/-- f3.tag -/
def Desc.tag (d : Desc) : Half := d[3].truncate 16
/-- The format code of the tag. -/
def Desc.fmt (d : Desc) : Nat := bits d[3] 0 4
/-- f3.tag.scl -/
def Desc.scl (d : Desc) : Bool := bitAt d[3] 4
/-- f3.space -/
def Desc.space (d : Desc) : Nat := bits d[3] 16 3
/-- f3.layout -/
def Desc.layout (d : Desc) : Nat := bits d[3] 19 3
/-- f4.scale -/
def Desc.scaleAddr (d : Desc) : Word := d[4]
/-- f5.row0 -/
def Desc.row0 (d : Desc) : Nat := bits d[5] 0 32
/-- f5.col0 -/
def Desc.col0 (d : Desc) : Nat := bits d[5] 32 32
/-- f6.rstride, signed -/
def Desc.rstride (d : Desc) : Int := sextNat (bits d[6] 0 16) 16
/-- f6.cstride, signed -/
def Desc.cstride (d : Desc) : Int := sextNat (bits d[6] 16 16) 16
/-- f6.rfld -/
def Desc.rfld (d : Desc) : Nat := bits d[6] 32 3
/-- f6.cfld -/
def Desc.cfld (d : Desc) : Nat := bits d[6] 35 3
/-- f7.ring -/
def Desc.ring (d : Desc) : Fin 8 := Fin.ofNat 8 (bits d[7] 0 3)
/-- f7.dlevel -/
def Desc.dlevel (d : Desc) : BitVec 2 := BitVec.ofNat 2 (bits d[7] 3 2)
/-- f7.dsc -/
def Desc.dsc (d : Desc) : Nat := bits d[7] 5 6
/-- Rows of the tile as stored: trans exchanges them (R83). -/
def Desc.storedRows (d : Desc) : Nat := if d.trans then d.cols else d.rows
/-- Columns as stored. -/
def Desc.storedCols (d : Desc) : Nat := if d.trans then d.rows else d.cols
/-- Bytes a group of elements takes at one address: three for E3M2 (R83, R95). -/
def groupBytes (f : Nat) : Nat := if f = 6 then 3 else fmtBits f / 8

/-- Row and column in the address space of element (i, j) of the logical tile (R83). -/
def Desc.pos (d : Desc) (ws : List Nat) (step : Word) (i j : Nat) : Int × Int :=
  let (i', j') := if d.trans then (j, i) else (i, j)
  let row : Int := (d.row0 : Int) + i'
  let col : Int := (d.col0 : Int) + j'
  let row := if d.rfld = 7 then row else row + d.rstride * stepField ws step d.rfld
  let col := if d.cfld = 7 then col else col + d.cstride * stepField ws step d.cfld
  (row, col)

/-- Byte offset from the base of the space of the element at (row, col) of format `f` (R83, layout 0). -/
def Desc.offset (d : Desc) (f : Nat) (row col : Int) : Int :=
  row * d.pitch + (if f = 6 then 3 * (col / 4) else col * (fmtBits f / 8 : Nat))

/-- Who reads or writes a tile: its core, ASID, tensor table, and step fields. -/
structure Actor where
  core : Fin 128
  asid : BitVec 12
  tenstab : Word
  fields : List Nat
  step : Word

/-- A descriptor whose f7 a command does not use (R370). -/
def Desc.sans7 (d : Desc) : Desc := d.set 7 0
/-- A descriptor of a linear buffer, whose f2, f5 and f6 a command does not use (R69, R184, R370). -/
def Desc.linear (d : Desc) : Desc := ((d.set 2 0).set 5 0).set 6 0

/-- The actor of a context. -/
def Ctx.actor (c : Ctx) (k : Fin 128) : Actor := ⟨k, c.asid, c.cr.tenstab, c.fields, c.step⟩

/-- The bytes of `n` bytes at address `addr` of space `sp` with handle or base `h` (R69, R395). -/
def State.spaceGate (s : State) (a : Actor) (sp : Nat) (h : Word) (addr : Int) (n : Nat) (w : Want) : Gate (List Nat) :=
  match sp with
  | 0 => gate0 a.core addr n
  | 1 => if addr < 0 then .fail { code := 0x20, faddr := wrapInt 64 addr } else s.gate1 a.asid addr.toNat n w
  | 2 => s.gate2 a.asid h addr n w
  | _ => gate4 a.core addr n

/-- The address a descriptor's space gives an offset: the offset itself in an arena. -/
def spaceAddr (sp : Nat) (base : Word) (off : Int) : Int := if sp = 2 then off else (base.toNat : Int) + off

/-- The locations of the group that holds element (i, j) of a descriptor's tile read in format `f` (R83, R84, R395).
DESIGN CHOICE (log entry 62): no rule gives bits [63:24] of f0 in space 3 a meaning or a check; they are ignored. -/
def State.elemGate (s : State) (a : Actor) (d : Desc) (f i j : Nat) (w : Want) : Gate (List Nat) :=
  let (row, col) := d.pos a.fields a.step i j
  if d.space = 3 then s.gate3 a.asid a.tenstab (bits d.base 0 24) d.layout f row col (groupBytes f) w
  else s.spaceGate a d.space d.base (spaceAddr d.space d.base (d.offset f row col)) (groupBytes f) w

/-- The position of element (i, j) in its E3M2 group: by its column, under layout 2 by its row (R83, R84). -/
def Desc.sub (d : Desc) (a : Actor) (i j : Nat) : Nat :=
  let p := d.pos a.fields a.step i j
  ((if d.space = 3 && d.layout = 2 then p.1 else p.2) % 4).toNat

/-- The pattern of an element in the bytes of its group (R95). -/
def elemOf (f sub : Nat) (bs : List Byte) : Nat :=
  if f = 6 then (leNat bs >>> (6 * sub)) % 64 else leNat bs % 2 ^ fmtBits f

/-- The bytes of a group with an element put in (R95). -/
def putElem (f sub : Nat) (bs : List Byte) (p : Nat) : List Byte :=
  if f = 6 then
    let g := leNat bs
    leBytes (g - (g >>> (6 * sub)) % 64 * 2 ^ (6 * sub) + p % 64 * 2 ^ (6 * sub)) 3
  else leBytes p (fmtBits f / 8)

/-- E3M2 to E4M3, exactly (R95). -/
def widen6 (p : Nat) : Nat := (e4m3.round 0 false (e3m2.dec p)).1

/-- The bytes that a write of E3M2 data counts as: every byte of its 32-byte bank words (R259). -/
def widenFoot (f : Nat) (ls : List Nat) : List Nat :=
  if f = 6 then (ls.map fun l => l / 32 * 32).eraseDups.flatMap fun b => (List.range 32).map (b + ·) else ls

/-- Run a gate for each item of a list: the failure that comes first in the order of R395, of the first item that has
it (R399). -/
def gateAll {α β : Type} (g : α → Gate β) : List α → Gate (List β)
  | [] => .ok []
  | x :: t => (g x).both (gateAll g t) (· :: ·)

/-- Every position of a logical tile of `r` rows and `c` columns, row by row. -/
def positions (r c : Nat) : List (Nat × Nat) := (List.range r).flatMap fun i => (List.range c).map fun j => (i, j)

/-! ## Descriptor checks (R370) -/

/-- The failure of descriptor `n` in field `f` (R370). -/
def descFail (n f : Nat) : Fail := { code := 0x0B, d1 := BitVec.ofNat 64 (n + 16 * f) }

/-- What a command accepts of a descriptor: its rows and columns at most, its formats and spaces, and whether it is a
destination. -/
structure DescUse where
  maxRows : Nat
  maxCols : Nat
  useShape : Bool
  fmts    : List Nat
  spaces  : List Nat
  dest    : Bool

/-- The first invalid field of a descriptor, if any (R370). -/
def Desc.bad (d : Desc) (u : DescUse) : Option Nat :=
  let rows := d.rows
  let cols := d.cols
  let es := groupBytes d.fmt
  let f1 := u.useShape && (rows = 0 || cols = 0 || u.maxRows < rows || u.maxCols < cols)
  let e3 := d.fmt = 6
  let f1e := e3 && u.useShape && d.cols % 4 ≠ 0
  let rowLen := if e3 then 3 * ((d.storedCols + 3) / 4) else d.storedCols * es
  let f2 := bits d[2] 41 23 ≠ 0 ||
    (u.dest && u.useShape && d.layout = 0 && 2 ≤ d.storedRows && d.pitch < rowLen)
  let f3 := bits d[3] 10 6 ≠ 0 || bits d[3] 24 40 ≠ 0 || !u.fmts.contains d.fmt || !u.spaces.contains d.space ||
    4 ≤ d.layout || (d.layout ≠ 0 && d.space ≠ 3) || (d.layout = 0 && d.space = 3)
  let f5 := e3 && d.col0 % 4 ≠ 0
  let f6 := d.rfld = 6 || d.cfld = 6 || bits d[6] 38 26 ≠ 0
  let f7 := bits d[7] 11 53 ≠ 0
  if f1 || f1e then some 1 else if f2 then some 2 else if f3 then some 3 else if f5 then some 5
  else if f6 then some 6 else if f7 then some 7 else none

end Sys2Proof.Machine
end

