-- ==== Sys2Proof/Machine/Scalar.lean ====
section
/-!
DEFINITION. The S-slot instructions (R137 to R148).
-/
namespace Sys2Proof.Machine

/-! ## Shared forms -/

/-- A scalar result from a and b (R139). -/
def sop2 (u : SUnit) (p : Fin 64) (d : Dst 64) (a : SSrc) (b : SBSrc) (lat : Nat) (f : Word → Word → Word × Flags)
    (s : State) : Out :=
  s.slotOp u.slot p <|
    .need (s.me.readS a) fun x => .need (s.me.readSB b) fun y =>
      .done (s.landS u.slot lat d (f x.val y.val).1 (f x.val y.val).2)

/-- A scalar result from a alone. -/
def sop1 (u : SUnit) (p : Fin 64) (d : Dst 64) (a : SSrc) (lat : Nat) (f : Word → Word × Flags) (s : State) : Out :=
  s.slotOp u.slot p <| .need (s.me.readS a) fun x => .done (s.landS u.slot lat d (f x.val).1 (f x.val).2)

/-- A predicate from a comparison of a and b (R143). -/
def scmp (u : SUnit) (p : Fin 64) (d : Dst 64) (a : SSrc) (b : SBSrc) (f : Word → Word → Bool) (s : State) : Out :=
  s.slotOp u.slot p <|
    .need (s.me.readS a) fun x => .need (s.me.readSB b) fun y => .done (s.landP u.slot 1 d (f x.val y.val) 0)

/-- A predicate from two predicates (R144). -/
def pop2 (u : SUnit) (p : Fin 64) (d : Dst 64) (a b : SSrc) (f : Bool → Bool → Bool) (s : State) : Out :=
  s.slotOp u.slot p <|
    .need (s.me.readP a) fun x => .need (s.me.readP b) fun y => .done (s.landP u.slot 1 d (f x y) 0)

/-- A result with no flag. -/
def plain (f : Word → Word → Word) (x y : Word) : Word × Flags := (f x y, 0)

/-! ## Integer and address arithmetic (R139, R140) -/

/-- The shift count: bits [5:0] of b (R139). -/
def shiftCount (y : Word) : Nat := bits y 0 6

/-- Quotient, remainder and flags (R140). -/
def divide (signed : Bool) (x y : Word) : Word × Word × Flags :=
  if y = 0 then (BitVec.allOnes 64, x, fDz)
  else if signed then
    if x = BitVec.intMin 64 && y = BitVec.allOnes 64 then (BitVec.intMin 64, 0, fOvf)
    else (x.sdiv y, x.srem y, 0)
  else (x / y, x % y, 0)

/-- ADD (R139). -/
def execAdd (u : SUnit) (p : Fin 64) (d : Dst 64) (a : SSrc) (b : SBSrc) (s : State) : Out := sop2 u p d a b 1 (plain (· + ·)) s
/-- SUB (R139). -/
def execSub (u : SUnit) (p : Fin 64) (d : Dst 64) (a : SSrc) (b : SBSrc) (s : State) : Out := sop2 u p d a b 1 (plain (· - ·)) s
/-- MUL (R139). -/
def execMul (u : SUnit) (p : Fin 64) (d : Dst 64) (a : SSrc) (b : SBSrc) (s : State) : Out := sop2 u p d a b 3 (plain (· * ·)) s
/-- MULH: the high half of the signed product (R139). -/
def execMulh (u : SUnit) (p : Fin 64) (d : Dst 64) (a : SSrc) (b : SBSrc) (s : State) : Out :=
  sop2 u p d a b 3 (plain fun x y => BitVec.ofInt 64 (x.toInt * y.toInt / 2 ^ 64)) s
/-- MULHN: the high half of the unsigned product (R139). -/
def execMulhn (u : SUnit) (p : Fin 64) (d : Dst 64) (a : SSrc) (b : SBSrc) (s : State) : Out :=
  sop2 u p d a b 3 (plain fun x y => BitVec.ofNat 64 (x.toNat * y.toNat / 2 ^ 64)) s
/-- DIVS (R140). -/
def execDivs (u : SUnit) (p : Fin 64) (d : Dst 64) (a : SSrc) (b : SBSrc) (s : State) : Out :=
  sop2 u p d a b 18 (fun x y => ((divide true x y).1, (divide true x y).2.2)) s
/-- DIVN (R140). -/
def execDivn (u : SUnit) (p : Fin 64) (d : Dst 64) (a : SSrc) (b : SBSrc) (s : State) : Out :=
  sop2 u p d a b 18 (fun x y => ((divide false x y).1, (divide false x y).2.2)) s
/-- REMS (R140). -/
def execRems (u : SUnit) (p : Fin 64) (d : Dst 64) (a : SSrc) (b : SBSrc) (s : State) : Out :=
  sop2 u p d a b 18 (fun x y => ((divide true x y).2.1, (divide true x y).2.2)) s
/-- REMN (R140). -/
def execRemn (u : SUnit) (p : Fin 64) (d : Dst 64) (a : SSrc) (b : SBSrc) (s : State) : Out :=
  sop2 u p d a b 18 (fun x y => ((divide false x y).2.1, (divide false x y).2.2)) s
/-- AND (R139). -/
def execAnd (u : SUnit) (p : Fin 64) (d : Dst 64) (a : SSrc) (b : SBSrc) (s : State) : Out := sop2 u p d a b 1 (plain (· &&& ·)) s
/-- OR (R139). -/
def execOr (u : SUnit) (p : Fin 64) (d : Dst 64) (a : SSrc) (b : SBSrc) (s : State) : Out := sop2 u p d a b 1 (plain (· ||| ·)) s
/-- XOR (R139). -/
def execXor (u : SUnit) (p : Fin 64) (d : Dst 64) (a : SSrc) (b : SBSrc) (s : State) : Out := sop2 u p d a b 1 (plain (· ^^^ ·)) s
/-- ANDN (R139). -/
def execAndn (u : SUnit) (p : Fin 64) (d : Dst 64) (a : SSrc) (b : SBSrc) (s : State) : Out :=
  sop2 u p d a b 1 (plain fun x y => x &&& ~~~y) s
/-- SHL (R139). -/
def execShl (u : SUnit) (p : Fin 64) (d : Dst 64) (a : SSrc) (b : SBSrc) (s : State) : Out :=
  sop2 u p d a b 1 (plain fun x y => x <<< shiftCount y) s
/-- SHR (R139). -/
def execShr (u : SUnit) (p : Fin 64) (d : Dst 64) (a : SSrc) (b : SBSrc) (s : State) : Out :=
  sop2 u p d a b 1 (plain fun x y => x >>> shiftCount y) s
/-- SRA (R139). -/
def execSra (u : SUnit) (p : Fin 64) (d : Dst 64) (a : SSrc) (b : SBSrc) (s : State) : Out :=
  sop2 u p d a b 1 (plain fun x y => x.sshiftRight (shiftCount y)) s
/-- MIN, signed (R139). -/
def execMin (u : SUnit) (p : Fin 64) (d : Dst 64) (a : SSrc) (b : SBSrc) (s : State) : Out :=
  sop2 u p d a b 1 (plain fun x y => if x.sle y then x else y) s
/-- MAX, signed (R139). -/
def execMax (u : SUnit) (p : Fin 64) (d : Dst 64) (a : SSrc) (b : SBSrc) (s : State) : Out :=
  sop2 u p d a b 1 (plain fun x y => if x.sle y then y else x) s
/-- MINN, unsigned (R139). -/
def execMinn (u : SUnit) (p : Fin 64) (d : Dst 64) (a : SSrc) (b : SBSrc) (s : State) : Out :=
  sop2 u p d a b 1 (plain fun x y => if x.ule y then x else y) s
/-- MAXN, unsigned (R139). -/
def execMaxn (u : SUnit) (p : Fin 64) (d : Dst 64) (a : SSrc) (b : SBSrc) (s : State) : Out :=
  sop2 u p d a b 1 (plain fun x y => if x.ule y then y else x) s
/-- LEA: the sum modulo 2^56 (R139). -/
def execLea (u : SUnit) (p : Fin 64) (d : Dst 64) (a : SSrc) (b : SBSrc) (s : State) : Out :=
  sop2 u p d a b 1 (plain fun x y => BitVec.ofNat 64 ((x.toNat + y.toNat) % 2 ^ 56)) s

/-! ## Immediates and bit fields (R141, R142) -/

/-- MOVI (R141). -/
def execMovi (u : SUnit) (p : Fin 64) (d : Dst 64) (imm : BitVec 20) (s : State) : Out :=
  s.slotOp u.slot p (.done (s.landS u.slot 1 d (imm.signExtend 64) 0))
/-- Replace bits [lo+w-1:lo] of a word. -/
def insertBits (old v : Word) (lo w : Nat) : Word :=
  let m : Word := BitVec.ofNat 64 ((2 ^ w - 1) <<< lo)
  (old &&& ~~~m) ||| ((v <<< lo) &&& m)
/-- MOVK (R141). -/
def execMovk (u : SUnit) (p : Fin 64) (d : Dst 64) (v : Half) (h : BitVec 2) (s : State) : Out :=
  s.slotOp u.slot p (.done (s.landS u.slot 1 d (insertBits (s.me.sget d.reg).val (v.zeroExtend 64) (16 * h.toNat) 16) 0))
/-- SEXT (R142). -/
def execSext (u : SUnit) (p : Fin 64) (d : Dst 64) (a : SSrc) (w : BitVec 12) (s : State) : Out :=
  sop1 u p d a 1 (fun x => (BitVec.ofInt 64 (sextNat x.toNat w.toNat), 0)) s
/-- ZEXT (R142). -/
def execZext (u : SUnit) (p : Fin 64) (d : Dst 64) (a : SSrc) (w : BitVec 12) (s : State) : Out :=
  sop1 u p d a 1 (fun x => (BitVec.ofNat 64 (x.toNat % 2 ^ w.toNat), 0)) s
/-- The number of 1 bits among the low `n`. -/
def popCount {m : Nat} (x : BitVec m) (n : Nat) : Nat := ((List.range n).filter fun i => x.getLsbD i).length
/-- POPC (R142). -/
def execPopc (u : SUnit) (p : Fin 64) (d : Dst 64) (a : SSrc) (s : State) : Out :=
  sop1 u p d a 1 (fun x => (BitVec.ofNat 64 (popCount x 64), 0)) s
/-- CLZ (R142). -/
def execClz (u : SUnit) (p : Fin 64) (d : Dst 64) (a : SSrc) (s : State) : Out :=
  sop1 u p d a 1 (fun x => (BitVec.ofNat 64 (64 - natLen x.toNat), 0)) s
/-- CTZ (R142). -/
def execCtz (u : SUnit) (p : Fin 64) (d : Dst 64) (a : SSrc) (s : State) : Out :=
  sop1 u p d a 1 (fun x => (BitVec.ofNat 64 (((List.range 64).find? fun i => x.getLsbD i).getD 64), 0)) s
/-- BEXT (R142). -/
def execBext (u : SUnit) (p : Fin 64) (d : Dst 64) (a : SSrc) (b : SBSrc) (s : State) : Out :=
  sop2 u p d a b 1 (plain fun x y => BitVec.ofNat 64 (bits x (bits y 0 6) (bits y 6 6 + 1))) s
/-- BINS (R142). -/
def execBins (u : SUnit) (p : Fin 64) (d : Dst 64) (a : SSrc) (b : SBSrc) (s : State) : Out :=
  sop2 u p d a b 1 (plain fun x y => insertBits (s.me.sget d.reg).val x (bits y 0 6) (bits y 6 6 + 1)) s

/-! ## Compares, predicates and selection (R143, R144) -/

/-- CMPEQ -/
def execCmpeq (u : SUnit) (p : Fin 64) (d : Dst 64) (a : SSrc) (b : SBSrc) (s : State) : Out := scmp u p d a b (fun x y => x == y) s
/-- CMPNE -/
def execCmpne (u : SUnit) (p : Fin 64) (d : Dst 64) (a : SSrc) (b : SBSrc) (s : State) : Out := scmp u p d a b (fun x y => x != y) s
/-- CMPLT, signed -/
def execCmplt (u : SUnit) (p : Fin 64) (d : Dst 64) (a : SSrc) (b : SBSrc) (s : State) : Out := scmp u p d a b BitVec.slt s
/-- CMPLE, signed -/
def execCmple (u : SUnit) (p : Fin 64) (d : Dst 64) (a : SSrc) (b : SBSrc) (s : State) : Out := scmp u p d a b BitVec.sle s
/-- CMPLTN, unsigned -/
def execCmpltn (u : SUnit) (p : Fin 64) (d : Dst 64) (a : SSrc) (b : SBSrc) (s : State) : Out := scmp u p d a b BitVec.ult s
/-- CMPLEN, unsigned -/
def execCmplen (u : SUnit) (p : Fin 64) (d : Dst 64) (a : SSrc) (b : SBSrc) (s : State) : Out := scmp u p d a b BitVec.ule s
/-- SEL: b where the predicate holds, else the old destination; it always lands a result (R144). -/
def execSel (u : SUnit) (p : Fin 64) (d : Dst 64) (a : SSrc) (b : SBSrc) (s : State) : Out :=
  s.slotOp u.slot p <|
    .need (s.me.readP a) fun x => .need (s.me.readSB b) fun y =>
      .done (s.landS u.slot 1 d (if x then y.val else (s.me.sget d.reg).val) 0)
/-- PAND -/
def execPand (u : SUnit) (p : Fin 64) (d : Dst 64) (a b : SSrc) (s : State) : Out := pop2 u p d a b (· && ·) s
/-- POR -/
def execPor (u : SUnit) (p : Fin 64) (d : Dst 64) (a b : SSrc) (s : State) : Out := pop2 u p d a b (· || ·) s
/-- PXOR -/
def execPxor (u : SUnit) (p : Fin 64) (d : Dst 64) (a b : SSrc) (s : State) : Out := pop2 u p d a b (fun x y => x != y) s
/-- PANDN -/
def execPandn (u : SUnit) (p : Fin 64) (d : Dst 64) (a b : SSrc) (s : State) : Out := pop2 u p d a b (fun x y => x && !y) s
/-- PMOV -/
def execPmov (u : SUnit) (p : Fin 64) (d : Dst 64) (a : SSrc) (s : State) : Out :=
  s.slotOp u.slot p <| .need (s.me.readP a) fun x => .done (s.landP u.slot 1 d x 0)
/-- PTOS -/
def execPtos (u : SUnit) (p : Fin 64) (d : Dst 64) (a : SSrc) (s : State) : Out :=
  s.slotOp u.slot p <| .need (s.me.readP a) fun x => .done (s.landS u.slot 1 d (boolWord x) 0)

/-! ## Descriptors, control registers and step fields (R145 to R147) -/

/-- DSET: its scalar leaves the scalar file at a check point (R369). -/
def execDset (u : SUnit) (p : Fin 64) (d : Dst 16) (a : SSrc) (f : Fin 8) (s : State) : Out :=
  s.slotOp u.slot p <|
    .need (s.me.checkedS a) fun x => .done (s.land u.slot 1 (if d.nowb then [] else [.df d.reg f x]) (latchS x) 0)
/-- DGET -/
def execDget (u : SUnit) (p : Fin 64) (d : Dst 64) (a : Fin 16) (f : Fin 8) (s : State) : Out :=
  s.slotOp u.slot p (.done (s.landS u.slot 1 d (s.me.dreg[a].get f) 0))

/-- The watchdog count of a context (R276). -/
def State.wdCount (s : State) (c : Ctx) : Nat := c.wdAcc + (match c.wdSince with
  | some t => s.time - t
  | none => 0)

/-- A wait in which a bank sleeps (R67, R68). -/
def Wait.sleeps : Wait → Bool
  | .word .. => true
  | .ring .. => true
  | .future .. => true
  | .fault .. => true
  | _ => false

/-- The value a CRRD of number `num` returns to context `c` (R61, R63, R68, R111, R162, R163, R276). -/
def State.crRead (s : State) (c : CtxId) (num : Nat) : Word :=
  let x := s.ctx c
  let r := x.cr
  let w (v : W32) : Word := v.zeroExtend 64
  let other := s.ctx (otherBank c)
  if num = 0x000 then x.step
  else if num = 0x001 then BitVec.ofNat 64 x.lane.val
  else if num = 0x002 then BitVec.ofNat 64 s.time
  else if num = 0x003 then
    BitVec.ofNat 64 (Config.nativeClass + x.kclass.toNat * 2 ^ 4 +
      (if x.kclass.toNat ≠ Config.nativeClass then 2 ^ 8 else 0) + Config.acceptedClasses.toNat * 2 ^ 16)
  else if num = 0x004 then (s.core c.core).slotmap
  else if num = 0x005 then
    BitVec.ofNat 64 (c.bank.val + (if other.stat = .empty then 0 else 2) + (if other.wait.sleeps then 4 else 0))
  else if num = 0x006 then r.tenstab
  else if num = 0x007 then BitVec.ofNat 64 (s.wdCount x % 2 ^ 32 + x.wdLimit.toNat * 2 ^ 32)
  else if num = 0x008 then w r.lscale
  else if h : 0x010 ≤ num ∧ num ≤ 0x017 then
    let f := r.fx[num - 0x010]
    BitVec.ofNat 64 (f.flags.toNat + f.first.toNat * 2 ^ 16)
  else if num = 0x020 then w r.pivtol
  else if num = 0x021 then w r.growth
  else if num = 0x022 then w r.growthmax
  else if num = 0x023 then r.solvest
  else if num = 0x024 then w r.solres
  else if num = 0x025 then w r.soltol
  else if num = 0x026 then r.deadline
  else if num = 0x027 then boolWord r.maskbrk
  else if num = 0x028 then r.mxretry.zeroExtend 64
  else if num = 0x029 then r.maxit.zeroExtend 64
  else if num = 0x02A then w r.nrmmax
  else if num = 0x02B then w r.nrmfro
  else if h : 0x030 ≤ num ∧ num ≤ 0x037 then r.mseq[num - 0x030]
  else if num = 0x040 then w s.cfg.hbperiod
  else if num = 0x041 then s.cfg.appealmax.zeroExtend 64
  else 0

/-- CRRD: the value at its issue (R146). -/
def execCrrd (u : SUnit) (p : Fin 64) (d : Dst 64) (num : BitVec 12) (s : State) : Out :=
  s.slotOp u.slot p (.done (s.landS u.slot 1 d (s.crRead s.cur num.toNat) 0))
/-- CRWR: seen from the next bundle on (R146); it returns nothing. -/
def execCrwr (u : SUnit) (p : Fin 64) (a : SSrc) (num : BitVec 12) (s : State) : Out :=
  s.slotOp u.slot p <| .need (s.me.checkedS a) fun x => .done (s.land u.slot 1 [.cr num.toNat x] none 0)
/-- SFLD (R147). -/
def execSfld (u : SUnit) (p : Fin 64) (d : Dst 64) (a : SSrc) (i : BitVec 12) (s : State) : Out :=
  sop1 u p d a 1 (fun x => (BitVec.ofNat 64 (stepField s.me.fields x i.toNat), 0)) s

/-! ## Scalar FP32 (R148) -/

/-- The FP32 operand of a scalar: its low half (R148). -/
def lo32 (x : Word) : W32 := x.truncate 32
/-- FADDS -/
def execFadds (u : SUnit) (p : Fin 64) (d : Dst 64) (a b : SSrc) (s : State) : Out :=
  s.slotOp u.slot p <|
    .need (s.me.readS a) fun x => .need (s.me.readS b) fun y =>
      .done (s.landS u.slot 4 d ((add32 (lo32 x.val) (lo32 y.val)).1.zeroExtend 64) (add32 (lo32 x.val) (lo32 y.val)).2)
/-- FMULS -/
def execFmuls (u : SUnit) (p : Fin 64) (d : Dst 64) (a b : SSrc) (s : State) : Out :=
  s.slotOp u.slot p <|
    .need (s.me.readS a) fun x => .need (s.me.readS b) fun y =>
      .done (s.landS u.slot 4 d ((mul32 (lo32 x.val) (lo32 y.val)).1.zeroExtend 64) (mul32 (lo32 x.val) (lo32 y.val)).2)
/-- FCMPLT: false with a NaN, which raises invalid (R148). -/
def execFcmplt (u : SUnit) (p : Fin 64) (d : Dst 64) (a b : SSrc) (s : State) : Out :=
  s.slotOp u.slot p <|
    .need (s.me.readS a) fun x => .need (s.me.readS b) fun y =>
      let fx := f32 (lo32 x.val)
      let fy := f32 (lo32 y.val)
      .done (s.landP u.slot 2 d (fx.lt fy) (flagIf (fx.isNan || fy.isNan) fInv))
/-- FCVTIS: i64 to FP32 (R104, R148). -/
def execFcvtis (u : SUnit) (p : Fin 64) (d : Dst 64) (a : SSrc) (rm : BitVec 2) (s : State) : Out :=
  sop1 u p d a 3 (fun x =>
    let r := fp32.round rm.toNat false (XV.ofInt x.toInt)
    (BitVec.ofNat 64 r.1, r.2)) s
/-- FCVTSI: FP32 to i64 (R104, R148). -/
def execFcvtsi (u : SUnit) (p : Fin 64) (d : Dst 64) (a : SSrc) (rm : BitVec 2) (sat : Bool) (s : State) : Out :=
  sop1 u p d a 3 (fun x =>
    let r := floatToInt true 64 rm.toNat sat (f32 (lo32 x))
    (BitVec.ofNat 64 r.1, r.2)) s

end Sys2Proof.Machine
end

