-- ==== Sys2Proof/Machine/Control.lean ====
section
/-!
DEFINITION. The C-slot instructions (R149 to R161) and what satisfies their waits.
-/
namespace Sys2Proof.Machine

/-! ## Fetch addresses (R57, R128, R151 to R153) -/

/-- A taken branch: the third bundle from here comes from `t` (R57). -/
def Ctx.redirect (c : Ctx) (t : W32) : Ctx := { c with redir := c.redir ++ [(c.n + 3, t)] }

/-- Count a taken branch (R319). -/
def State.countBranch (s : State) (ret : Bool) : State :=
  s.modCore s.cur.core fun k => { k with perf :=
    if ret then { k.perf with returns := k.perf.returns + 1 } else { k.perf with branches := k.perf.branches + 1 } }

/-- BR (R151). -/
def execBr (p : Fin 64) (off : BitVec 20) (s : State) : Out :=
  s.slotOp .c p (.done ((s.modMe fun c => c.redirect (c.pc + off.signExtend 32)).countBranch false))
/-- BRS (R151). -/
def execBrs (p : Fin 64) (a : Fin 64) (s : State) : Out :=
  s.slotOp .c p <| .need (s.me.checked a) fun t => .done ((s.modMe fun c => c.redirect (lo32 t)).countBranch false)
/-- CALL: the link value reaches q6 (R152). -/
def execCall (p : Fin 64) (off : BitVec 20) (s : State) : Out :=
  let link := s.me.succ (s.me.succ (s.me.succ s.me.pc))
  s.slotOp .c p (.done (((s.land .c 1 [] (latchS (link.zeroExtend 64)) 0).modMe fun c =>
    c.redirect (c.pc + off.signExtend 32)).countBranch false))
/-- RET (R151). -/
def execRet (p : Fin 64) (a : Fin 64) (s : State) : Out :=
  s.slotOp .c p <| .need (s.me.checked a) fun t => .done ((s.modMe fun c => c.redirect (lo32 t)).countBranch true)

/-- Push a loop entry; a full stack loses its outermost; a count of 0 pushes nothing (R153). -/
def Ctx.loopPush (c : Ctx) (left : W32) (e : Byte) : Ctx :=
  let stop := c.pc + e.zeroExtend 32
  if left = 0 then { c with skip := some (c.succ stop) }
  else { c with loops := (⟨c.succ c.pc, stop, left⟩ :: c.loops).take 4 }
/-- LOOP (R153). -/
def execLoop (p : Fin 64) (a : Fin 64) (e : Byte) (s : State) : Out :=
  s.slotOp .c p <| .need (s.me.checked a) fun v => .done (s.modMe fun c => c.loopPush (lo32 v) e)
/-- LOOPI (R153). -/
def execLoopi (p : Fin 64) (n : BitVec 12) (e : Byte) (s : State) : Out :=
  s.slotOp .c p (.done (s.modMe fun c => c.loopPush (n.zeroExtend 32) e))

/-- TAIL: collected until the step's end (R154). -/
def execTail (p : Fin 64) (a : Fin 64) (s : State) : Out :=
  s.slotOp .c p <| .need (s.me.checked a) fun v =>
    if v.toNat % 256 ≠ 0 || v.toNat >>> 56 ≠ 0 then .fail { code := 0x27, faddr := v }
    else .done (s.modMe fun c => { c with tails := c.tails ++ [v] })

/-- PHASE closes and opens (R155). -/
def execPhase (p : Fin 64) (s : State) : Out := s.slotOp .c p (s.closeOpen .c false)

/-! ## Fences (R156) -/

/-- A command has taken all the effect it will have (R156). -/
def KCmd.settled (k : KCmd) : Bool := k.stage = .visible || k.errored || k.dead

/-- The FENCE mask bit of a command's path; a load block is the M slot's (R253). -/
def KCmd.bit (k : KCmd) : Nat := match k.path with
  | none => 0
  | some .copy => 1
  | some .gather => 3
  | some .collective => 4

/-- The results that a fence of mask `m` waits for and lands: loads of the M slot, and O operations (R156). -/
def Landing.fenced (m : BitVec 5) (l : Landing) : Bool :=
  (bitAt m 0 && l.slot = .m) || (bitAt m 2 && l.slot = .o)

/-- Every access of the paths in mask `m` has taken effect, or takes it as the fence ends: what loads and O operations
deliver is there, and the M-slot writes of closes have been applied at their homes (R75, R156). -/
def State.fenceDone (s : State) (c : CtxId) (m : BitVec 5) : Bool :=
  let x := s.ctx c
  (x.pipe.all fun l => !l.fenced m || (l.due.isSome && decide (l.t ≤ s.time))) &&
  (!bitAt m 2 || x.xq.isEmpty) &&
  (!bitAt m 0 || !(s.closing.any fun q => q.owner = c && q.run = x.run)) &&
  (s.kcmds.all fun k => !(k.owner = c && k.run = x.run && bitAt m k.bit) || k.settled)

/-- A held write that the paths of mask `m` made is ordered before all that follows (R156, R254). -/
def Pend.ordered (m : BitVec 5) (p : Pend) : Pend := match p.path with
  | some b => if bitAt m b then { p with path := none } else p
  | none => p

/-- A completed fence: the loads and O operations of its paths land although its stall keeps the bundle count, which R56
alone would not let them (DEDUCED, log entry 27), in a bank that does not issue all but their latches, which they reach
when it issues again (R53); the commands of its paths no longer hold their bytes open (R178, R213), and accesses of the M
slot are ordered before later engine commands (R254). -/
def State.fenceEnd (s : State) (c : CtxId) (m : BitVec 5) : State :=
  let x := s.ctx c
  let (now, later) := x.pipe.partition (Landing.fenced m)
  let here := (s.core c.core).cur = c.bank
  let latches := if here then [] else now.filterMap fun l => l.latch.map fun _ =>
    { l with writes := [], flags := 0, due := some x.n, opens := false }
  let s := now.foldl (fun s l => s.landOne c (if here then l else { l with latch := none }))
    (s.modCtx c fun x => { x with pipe := latches ++ later })
  let s := { s with kcmds := s.kcmds.map fun (k : KCmd) =>
    if k.owner = c && k.run = x.run && bitAt m k.bit then { k with seenSrc := true, seenVis := true } else k }
  s.modCtx c fun x => { x with
    wait := .none
    pend := x.pend.map (Pend.ordered m)
    mfoot := if bitAt m 0 then [] else x.mfoot
    xfoot := if bitAt m 2 then [] else x.xfoot }

/-- End a fence whose paths have settled. -/
def State.settleFence (s : State) (c : CtxId) : State :=
  match (s.ctx c).wait with
  | .fence m => if s.fenceDone c m then s.fenceEnd c m else s
  | _ => s

/-- FENCE stalls issue after its bundle (R156). -/
def execFence (p : Fin 64) (m : BitVec 5) (s : State) : Out :=
  s.slotOp .c p (.done ((s.modMe fun c => { c with wait := .fence m }).settleFence s.cur))

/-! ## Waits on scratchpad words (R157, R374) -/

/-- The location of an 8-byte word of the context's scratchpad, or its failure (R374). -/
def spadWord (c : CtxId) (a : Word) : Except Fail Nat :=
  if a.toNat % 8 ≠ 0 then .error { code := 0x27, faddr := a }
  else if 0x400000 ≤ a.toNat then .error { code := 0x28, faddr := a }
  else .ok (spadLoc c.core a.toNat)

/-- An error completion word (R340). -/
def errWord (code : BitVec 8) : Word := 0x8000000000000000 ||| code.zeroExtend 64

/-- A close of another lane is on its way to the word that a lane waits on (R37, R75). -/
def State.wordWaits (s : State) (c : CtxId) (loc : Nat) : Bool := (List.range 8).any fun i => s.inTransit c (loc + i)
/-- The condition of a wait, from the device time after the write on (R157, R256). -/
def State.wordHolds (s : State) (ge : Bool) (loc : Nat) (v : Word) : Bool :=
  let w := BitVec.ofNat 64 (s.num loc 8)
  (if ge then v.ule w else w == v) && !s.fresh loc 8
/-- A router writes an error word: what sleeps on it is released, a WAITEQ or WAITGE (which from now on waits for any
value) and the barrier of the X command at the head of its queue (R417). -/
def Ctx.releaseWord (x : Ctx) (loc : Nat) : Ctx := { x with
  wait := match x.wait with
    | .word ge l v => if l = loc then .word true l 0 else .word ge l v
    | w => w
  xq := match x.xq with
    | q :: t => { q with barFree := q.barFree || ((q.bar.map Prod.fst) = some loc && !q.barOk) } :: t
    | [] => [] }

/-- A completion word holds the command's value, or its error (R177, R178). -/
def KCmd.shows (k : KCmd) (loc : Nat) (w : Word) (p : Option (Nat × Word)) (done : Bool) : Bool := match p with
  | some (l, v) => l = loc && done && (w == v || (k.errored && bitAt w 63))
  | none => false
/-- What a satisfied wait on a word observes: the commands that wrote it and whose value it holds (R178). Their writes are
ordered before what the lane issues from then on (R254). -/
def State.observe (s : State) (c : CtxId) (loc : Nat) : State :=
  let x := s.ctx c
  let w := BitVec.ofNat 64 (s.num loc 8)
  let ours (k : KCmd) : Bool := k.owner = c && k.run = x.run
  let seen := (s.kcmds.filter fun k => ours k && k.shows loc w k.visWord k.visDoneWord).map KCmd.bit
  let see (k : KCmd) : KCmd :=
    let vis := k.shows loc w k.visWord k.visDoneWord
    { k with seenSrc := k.seenSrc || vis || k.shows loc w k.srcWord k.srcDoneWord, seenVis := k.seenVis || vis }
  let s := { s with kcmds := s.kcmds.map fun (k : KCmd) => if ours k then see k else k }
  s.modCtx c fun x => { x with pend := x.pend.map fun p => if seen.any fun b => p.path = some b then { p with path := none } else p }

/-- A satisfied wait opens a phase and observes (R35, R157, R178). -/
def State.waitEnd (s : State) (c : CtxId) (loc : Nat) : Except Fail State :=
  match s.touch c .observe s.time ((List.range 8).map (loc + ·)) (BitVec.ofNat 64 ((loc - 2 ^ 52) % 2 ^ 22)) with
  | .error f => .error f
  | .ok s => .ok (((s.observe c loc).modCtx c fun x => { x with wait := .none }).openPhase c)

/-- WAITEQ and WAITGE (R157). -/
def waitWord (ge : Bool) (p : Fin 64) (a b : Fin 64) (s : State) : Out :=
  s.slotOp .c p <|
    .need (s.me.checked a) fun addr => .need (s.me.checked b) fun v => .need (spadWord s.cur addr) fun loc =>
      if s.wordWaits s.cur loc then .hold s
      else if (s.poisonIn loc 8).isSome then .fail { code := 0x23, faddr := BitVec.ofNat 64 (addr.toNat / 32 * 32) }
      else if s.wordHolds ge loc v then .need (s.waitEnd s.cur loc) .done
      else .done (s.modMe fun c => { c with wait := .word ge loc v })
/-- WAITEQ (R157). -/
def execWaiteq (p : Fin 64) (a b : Fin 64) (s : State) : Out := waitWord false p a b s
/-- WAITGE (R157). -/
def execWaitge (p : Fin 64) (a b : Fin 64) (s : State) : Out := waitWord true p a b s

/-! ## Rings (R91, R158, R159, R408) -/

/-- A ring object as read (R91). -/
structure RingObj where
  base : Nat
  space : Nat
  slotsz : Nat
  nslot : Nat
  nprod : Nat
  eosseen : Nat
  wp : Nat
  rp : Nat
  resv : Bool
  deriving DecidableEq, Repr

/-- Read a ring object whose 64 bytes stand at `ls`. -/
def State.ringObj (s : State) (ls : List Nat) : RingObj :=
  let g (o n : Nat) : Nat := leNat ((ls.drop o).take n |>.map s.byte)
  let w0 := g 0 8
  let w1 := g 8 8
  { base := w0 % 2 ^ 56, space := (w0 >>> 56) % 8, slotsz := w1 % 2 ^ 16, nslot := (w1 >>> 16) % 2 ^ 9,
    nprod := (w1 >>> 25) % 16, eosseen := w1 >>> 32, wp := g 16 4, rp := g 20 4,
    resv := w0 >>> 59 ≠ 0 || (w1 >>> 29) % 8 ≠ 0 || g 24 8 ≠ 0 }

/-- The filled count (R91). -/
def RingObj.filled (r : RingObj) : Nat := (r.wp + 2 ^ 32 - r.rp) % 2 ^ 32
/-- The stream has ended (R91). -/
def RingObj.over (r : RingObj) : Bool := r.eosseen = r.nprod

/-- A ring failure of the given case, at the address of the object (R408). -/
def ringFail (case : Nat) (addr : Word) : Fail := { code := 0x33, faddr := addr, d1 := BitVec.ofNat 64 case }

/-- The locations of a ring object (R158, R395). -/
def State.ringGate (s : State) (c : CtxId) (b : RingBind) (w : Want) : Gate (List Nat) :=
  s.spaceGate ((s.ctx c).actor c.core) b.space.toNat 0 (b.addr.toNat : Int) 64 w

/-- The object is malformed (R408, case 2). -/
def RingObj.malformed (r : RingObj) (b : RingBind) : Bool :=
  r.slotsz = 0 || 2048 < r.slotsz || r.nslot = 0 || 256 < r.nslot || r.nprod = 0 ||
    !(r.space = 0 || r.space = 1 || r.space = 4) || (r.space = 0 && b.space = 1) || r.resv

/-- The bytes of a ring object that synchronisation accesses touch: eosseen, wp and rp, and eos (R91, R256). -/
def ringSpans (ls : List Nat) (addr : Word) : List Span :=
  spansOf [(addr + 12, (ls.drop 12).take 12), (addr + 32, ls.drop 32)]
/-- A synchronisation access of a context's step to a ring object: HWAIT observes, HREL writes (R256). -/
def State.ringTouch (s : State) (c : CtxId) (k : AKind) (opn : Nat) (ls : List Nat) (addr : Word) : Except Fail State :=
  s.touchAs c (s.ctx c).run (s.ctx c).step k opn none (ringSpans ls addr)
/-- Poison that a read of a ring object meets, by the first byte of its unit (R337, R401). -/
def State.objPoison (s : State) (ls : List Nat) (addr : Word) : Option Fail :=
  (ls.find? s.poisoned).map fun l => { code := 0x23, faddr := addr + BitVec.ofNat 64 (ls.idxOf l) - BitVec.ofNat 64 (l - unitBase l) }

/-- What a C-slot ring operation finds, or why it stops: a fault waits for Zenhel (R396, R397); a close of another lane
that is on its way to the object is waited for (R75). -/
def State.ringUse (s : State) (h : Fin 8) (w : Want) (k : List Nat → RingBind → RingObj → Res) : Res :=
  match s.me.hreg[h] with
  | none => .fail (ringFail 1 0)
  | some b => match s.ringGate s.cur b w with
    | .fail f => .fail f
    | .fault f => .hold (s.modMe fun c => { (c.wdPause s.time) with wait := .fault .c f })
    | .ok ls =>
      if ls.any (s.inTransit s.cur) then .hold s
      else match s.objPoison ls b.addr with
        | some f => .fail f
        | none => if (s.ringObj ls).malformed b then .fail (ringFail 2 b.addr) else k ls b (s.ringObj ls)

/-- The value a satisfied HWAIT returns (R159). -/
def RingObj.hwaitValue (r : RingObj) : Word :=
  BitVec.ofNat 64 (r.rp % r.nslot + r.filled % 2 ^ 16 * 2 ^ 32 + (if r.over then 2 ^ 63 else 0))

/-- A satisfied HWAIT opens its phase and its value reaches q6 before bundle `n` reads (R159). -/
def State.hwaitEnd (s : State) (c : CtxId) (ls : List Nat) (addr : Word) (n : Nat) (pc : W32) : Except Fail State :=
  match s.ringTouch c .observe s.time ls addr with
  | .error f => .error f
  | .ok t => .ok ((t.modCtx c fun x => { x with
      wait := .none
      pipe := x.pipe ++ [⟨.c, x.n, pc, some n, [], latchS (t.ringObj ls).hwaitValue, 0, [], s.time + 1, false⟩] }).openPhase c)

/-- HWAIT (R159). -/
def execHwait (p : Fin 64) (h : Fin 8) (b : Fin 64) (s : State) : Out :=
  s.slotOp .c p <| .need (s.me.checked b) fun n =>
    s.ringUse h ⟨false, false⟩ fun ls rb r =>
      if n = 0 || r.nslot < n.toNat then .fail (ringFail 3 rb.addr)
      else if (n.toNat ≤ r.filled || r.over) && !s.fresh (ls.headD 0) 64 then .need (s.hwaitEnd s.cur ls rb.addr (s.me.n + 1) s.me.pc) .done
      else .done (s.modMe fun c => { c with wait := .ring h n })

/-- Release slots: eosseen, eos and rp after it (R159). -/
def releaseGo (eos : Nat) (r : RingObj) : Nat → Nat → Nat → Nat × Nat
  | 0, _, seen => (eos, seen)
  | n + 1, j, seen =>
    let slot := (r.rp + j) % r.nslot
    if eos.testBit slot then releaseGo (eos - 2 ^ slot) r n (j + 1) (seen + 1) else releaseGo eos r n (j + 1) seen

/-- HREL: one synchronisation write, which closes and opens the phase (R159, R256). -/
def execHrel (p : Fin 64) (h : Fin 8) (b : Fin 64) (s : State) : Out :=
  s.slotOp .c p <| .need (s.me.checked b) fun n =>
    s.ringUse h ⟨true, false⟩ fun ls rb r =>
      if n = 0 || r.filled < n.toNat then .fail (ringFail 4 rb.addr)
      else
        let eos := leNat ((ls.drop 32).map s.byte)
        let (eos', seen) := releaseGo eos r n.toNat 0 r.eosseen
        if r.nprod < seen then .fail (ringFail 5 rb.addr)
        else .need (s.ringTouch s.cur .sync s.time ls rb.addr) fun t =>
          let write (u : State) : State := u.setCells
            ((ls.drop 12).zip (leBytes seen 4) ++ (ls.drop 20).zip (leBytes ((r.rp + n.toNat) % 2 ^ 32) 4) ++
              (ls.drop 32).zip (leBytes eos' 32))
          match t.closePhase s.cur .c s.me.pc true with
          | .ok u => .done ((write u).openPhase s.cur)
          | .error f => .refused (if Config.freeApplied t.free then write { t with free := t.free + 1 } else { t with free := t.free + 1 }) f

/-- HSET (R158). -/
def execHset (p : Fin 64) (h : Fin 8) (a : Fin 64) (sp : BitVec 3) (s : State) : Out :=
  s.slotOp .c p <| .need (s.me.checked a) fun v =>
    if v.toNat % 64 ≠ 0 then .fail { code := 0x27, faddr := v }
    else .done (s.modMe fun c => { c with hreg := c.hreg.set h (some ⟨v, sp⟩) })

/-! ## Trap and breakpoint (R160, R161) -/

/-- The words of a software record (R160). -/
def softWords (c : CtxId) (x : Ctx) (code : Byte) (v : Word) : List Word :=
  [recWord0 0 0 Slot.c.code c.core.val c.bank.val 0, BitVec.ofNat 64 x.pc.toNat, x.step, BitVec.ofNat 64 x.opb, 0,
   code.zeroExtend 64, v]

/-- TRAP (R160). -/
def execTrap (p : Fin 64) (c : Byte) (a : Fin 64) (s : State) : Out :=
  s.slotOp .c p <| .need (s.me.checked a) fun v =>
    let x := s.me
    if bitAt c 7 then .done ((s.stopRun x.run).ctxRecord s.cur (softWords s.cur x c v) (.abort x.run))
    else .done (s.ctxRecord s.cur (softWords s.cur x c v) .nothing)

/-- BKPT: no effect unless Zenhel enabled debugging (R161); the save engine takes the bank (R356). -/
def execBkpt (p : Fin 64) (c : Byte) (s : State) : Out :=
  s.slotOp .c p <|
    if s.me.debug then
      .done ((s.modMe fun x => { x.wdPause s.time with wait := .bkpt, save := some (2, s.time), dump := none }).ctxRecord s.cur
        (softWords s.cur s.me c 0) .nothing)
    else .done s

/-! ## What satisfies a wait (R67, R157, R159) -/

/-- A failure found while a lane sleeps stops it at its next bundle boundary (R334). -/
def State.trapLate (s : State) (c : CtxId) (sl : Slot) (f : Fail) : State :=
  let x := s.ctx c
  s.trap c sl 0 x.lastPc x.pc f

/-- The bank's wait is satisfied: it asks for the core (R67). -/
def State.wantCore (s : State) (c : CtxId) : State :=
  s.modCore c.core fun k => if k.ready.any fun q => q.2 = c.bank then k else { k with ready := k.ready ++ [(s.time, c.bank)] }

/-- WAIT_SATISFIED (R157): a sleeping WAITEQ or WAITGE whose word holds. -/
def execWaitSatisfied (c : CtxId) (s : State) : Out :=
  match (s.ctx c).wait with
  | .word ge loc v =>
    if s.wordHolds ge loc v && !s.poisoned loc && !s.wordWaits c loc then
      match s.waitEnd c loc with
      | .ok t => .next (t.wantCore c)
      | .error f => .next (s.trapLate c .c f)
    else .next s
  | _ => .next s

/-- HWAIT_SATISFIED (R159): a sleeping HWAIT whose ring has filled or ended, or whose object it reads poisoned (R401). -/
def execHwaitSatisfied (c : CtxId) (s : State) : Out :=
  let x := s.ctx c
  match x.wait with
  | .ring h n =>
    match x.hreg[h] with
    | some b => match s.ringGate c b ⟨false, false⟩ with
      | .ok ls =>
        let r := s.ringObj ls
        if ls.any (s.inTransit c) then .next s
        else match s.objPoison ls b.addr with
        | some f => .next (s.trapLate c .c f)
        | none =>
        if (n.toNat ≤ r.filled || r.over) && !s.fresh (ls.headD 0) 64 then
          match s.hwaitEnd c ls b.addr x.n x.lastPc with
          | .ok t => .next (t.wantCore c)
          | .error f => .next (s.trapLate c .c f)
        else .next s
      | _ => .next s
    | none => .next s
  | _ => .next s

/-- The dump of a bank's registers; `check` stands for its CRC-32 word, which the spec computes over a layout that it does
not give (log entry 14). -/
def Ctx.dumped (x : Ctx) (check : W32) : Dump where
  sreg := x.sreg
  preg := x.preg
  vreg := x.vreg
  kreg := x.kreg
  dreg := x.dreg
  zreg := x.zreg
  pvreg := x.pvreg
  hreg := x.hreg
  oreg := x.oreg
  cr := x.cr
  check := check
  good := true
/-- The bank's registers as a dump holds them (R356). -/
def Ctx.restored (x : Ctx) (d : Dump) : Ctx := { x with
  sreg := d.sreg, preg := d.preg, vreg := d.vreg, kreg := d.kreg, dreg := d.dreg, zreg := d.zreg, pvreg := d.pvreg,
  hreg := d.hreg, oreg := d.oreg, cr := d.cr }

/-- RELEASE of a breakpoint's hold (R161): the bank is restored from its dump. A dump that fails its check ends the step
at rung 3 (R356, R357); a release that comes before the dump stands ends the save and restores nothing. A lane whose dump
is lost and whose record waits for its ring is not released. -/
def State.bkptEnd (s : State) (c : CtxId) : State :=
  let x := s.ctx c
  match x.wait with
  | .bkpt =>
    if s.deciding (.recover x.run c.core.val 0x41) || s.deciding (.recover x.run c.core.val 0x42) then s
    else if (x.dump.map (·.good)) = some false then
      let (at', s) := s.drawWord
      let (check, s) := s.drawWord
      (s.modCtx c fun x => { x with save := none }).devRecord
        (devWords 0x42 c.core.val x.step x.opb at' 2 (check % 2 ^ 32)) (.recover x.run c.core.val 0x42)
    else
      s.modCtx c fun x => ({ (match x.dump with
        | some d => x.restored d
        | none => x) with wait := .none, save := none, dump := none } : Ctx).wdResume s.time
  | _ => s

end Sys2Proof.Machine
end

