-- ==== Sys2Proof/Machine/MemoryOps.lean ====
section
/-!
DEFINITION. The M-slot loads, stores, descriptor moves, load blocks and commutative updates (R164 to R172).
-/
namespace Sys2Proof.Machine

/-! ## Shared checks (R363, R374) -/

/-- An address is no multiple of its natural alignment. -/
def misaligned (a : Word) (n : Nat) : Bool := a.toNat % n ≠ 0
/-- Misaligned at `a`. -/
def alignFail (a : Word) : Fail := { code := 0x27, faddr := a }

/-- Units of a scratchpad access: addresses and lengths. -/
abbrev Units := List (Word × Nat)

/-- The first unit that breaks alignment `al` (R374). -/
def Units.misaligned (us : Units) (al : Nat) : Option Word := (us.find? fun u => u.1.toNat % al ≠ 0).map Prod.fst
/-- The first byte outside the scratchpad (R374). -/
def Units.outside (us : Units) : Option Word :=
  us.findSome? fun u => ((List.range u.2).map fun i => u.1 + BitVec.ofNat 64 i).find? fun a => 0x400000 ≤ a.toNat
/-- The lowest-numbered unit that meets a bank in another of its words (R71, R374). -/
def bankGo : Units → List (Nat × Nat) → Option Word
  | [], _ => none
  | (a, n) :: t, seen =>
    let ws := (List.range n).map fun i => (a.toNat + i) / 32
    if ws.any fun w => seen.any fun q => q.1 = w % 128 && q.2 ≠ w / 128 then some a
    else bankGo t (ws.eraseDups.map (fun w => (w % 128, w / 128)) ++ seen)
/-- Alignment, range and banks of a scratchpad access, in that order (R363). -/
def Units.check (us : Units) (al : Nat) : Except Fail Unit :=
  match us.misaligned al with
  | some a => .error (alignFail a)
  | none => match us.outside with
    | some a => .error { code := 0x28, faddr := a }
    | none => match bankGo us [] with
      | some a => .error { code := 0x06, faddr := a }
      | none => .ok ()

/-- The locations of the units in the scratchpad of core `c`. -/
def Units.locs (us : Units) (c : Fin 128) : List Nat :=
  us.flatMap fun u => (List.range u.2).map fun i => spadLoc c (u.1.toNat + i)

/-- Touch the units of a scratchpad access, each named by its own address (R337). -/
def State.touchUnits (s : State) (k : AKind) (f : Nat) (us : Units) : Except Fail State :=
  s.mTouchAll k (spansOf (us.map fun u =>
    (if f = 6 then BitVec.ofNat 64 (u.1.toNat / 32 * 32) else u.1, widenFoot f (Units.locs [u] s.cur.core))))

/-- A poisoned unit that a scratchpad read meets, named by its first byte (R337, R341). -/
def State.spadPoison (s : State) (us : Units) : Option Fail :=
  us.findSome? fun u => ((s.poisonIn (spadLoc s.cur.core u.1.toNat) u.2).map fun l =>
    { code := 0x23, faddr := BitVec.ofNat 64 ((l - spadLoc s.cur.core 0) / 32 * 32) })

/-- Bytes wait for a close of another lane that is on its way to them (R37, R75). -/
def State.waits (s : State) (ls : List Nat) : Bool := ls.any (s.inTransit s.cur)

/-- Read units of the scratchpad: the checks, closes of cluster peers on their way (R37), the access, the bytes. -/
def State.spadRead (s : State) (us : Units) (al : Nat) (k : List Byte → State → Res) : Res :=
  .need (us.check al) fun _ => if s.waits (us.locs s.cur.core) then .hold s else match s.spadPoison us with
    | some f => .fail f
    | none => .need (s.touchUnits .read 0 us) fun t => k ((us.locs s.cur.core).map s.byte) t

/-- Write cells of the scratchpad: as a read, then the bytes in order. `al` is the alignment, `f` the format
that widens the footprint (R259). -/
def State.spadStore (s : State) (us : Units) (al f : Nat) (cs : List Host.Cell) : Res :=
  .need (us.check al) fun _ => if s.waits (us.locs s.cur.core) then .hold s else match s.poisonWrite cs with
    | some l => .fail { code := 0x23, faddr := BitVec.ofNat 64 ((l - spadLoc s.cur.core 0) / 32 * 32) }
    | none => .need (s.touchUnits .write f us) fun t => .done (t.spadWrite t.cur cs)

/-- The bundle waits for Zenhel (R396, R397). -/
def State.faultHold (s : State) (sl : Slot) (f : Fail) : Res :=
  .hold (s.modMe fun c => { (c.wdPause s.time) with wait := .fault sl f })

/-- An M-slot access to space 1: translated at issue (R398), held while a close that touches it travels (R75). -/
def State.globalUse (s : State) (va : Word) (n : Nat) (w : Want) (k : List Nat → Res) : Res :=
  match s.gate1 s.me.asid va.toNat n w with
  | .fail f => .fail f
  | .fault f => s.faultHold .m f
  | .ok ls => if s.waits ls then .hold s else k ls
/-- The address of the first byte of the poison unit of `l`, among the bytes `ls` that an access at `a` names (R337). -/
def unitName (a : Word) (ls : List Nat) (l : Nat) : Word :=
  a + BitVec.ofNat 64 (ls.idxOf l) - BitVec.ofNat 64 (l - unitBase l)

/-! ## Scalar forms (R164, R165) -/

/-- Bytes a scalar access moves (R164). -/
def scalarBytes (ty : BitVec 4) : Nat := if ty = 0 then 8 else fmtBits ty.toNat / 8
/-- The value a scalar load delivers (R165). -/
def scalarValue (ty : BitVec 4) (bs : List Byte) : Word :=
  let v := leNat bs
  if fmtSigned ty.toNat then BitVec.ofInt 64 (sextNat v (fmtBits ty.toNat)) else BitVec.ofNat 64 v

/-- LD (R165). -/
def execLd (p : Fin 64) (d : Dst 64) (base : Fin 64) (off : MOff) (ty : BitVec 4) (s : State) : Out :=
  s.slotOp .m p <| .need (s.me.ea base off) fun a =>
    s.spadRead [(a, scalarBytes ty)] (scalarBytes ty) fun bs t =>
      .done (t.landS .m (latLoad s.me.kclass) d (scalarValue ty bs) 0)
/-- ST (R165). -/
def execSt (p : Fin 64) (d : Fin 64) (base : Fin 64) (off : MOff) (ty : BitVec 4) (s : State) : Out :=
  s.slotOp .m p <| .need (s.me.ea base off) fun a => .need (s.me.checked d) fun v =>
    let n := scalarBytes ty
    s.spadStore [(a, n)] n 0 (cellsAt (spadLoc s.cur.core a.toNat) (leBytes v.toNat n))

/-- An interlocked result joins the pipeline; it lands at RESULT_LAND (R55). -/
def State.landLater (s : State) (ws : List RegWrite) (q : Latch) (src : List Span) (opens : Bool) : State :=
  s.modMe fun c => { c with pipe := c.pipe ++ [⟨.m, c.n, c.pc, none, ws, some q, 0, src, s.time, opens⟩] }

/-- A global read of the M slot: alignment, translation, poison, conflicts, bytes (R165, R363, R395). -/
def State.globalRead (s : State) (a : Word) (n al : Nat) (k : List Nat → List Byte → State → Res) : Res :=
  if misaligned a al then .fail (alignFail a)
  else s.globalUse a n ⟨false, false⟩ fun ls =>
    match ls.find? s.poisoned with
    | some l => .fail { code := 0x23, faddr := a - BitVec.ofNat 64 ((ls.headD l) - unitBase l) }
    | none => .need (s.mTouch .read ls a) fun t =>
      let r := t.plainRead t.cur ls
      k ls r.1 r.2

/-- A global plain write of the M slot, held to its close (R165, R341, R401). -/
def State.globalWrite (s : State) (a : Word) (bs : List Byte) (al : Nat) : Res :=
  if misaligned a al then .fail (alignFail a)
  else s.globalUse a bs.length ⟨true, false⟩ fun ls =>
    let cs := ls.zip bs
    match s.poisonWrite cs with
    | some l => .fail { code := 0x23, faddr := unitName a ls l }
    | none => .need (s.mTouch .write ls a) fun t =>
      .done (t.modMe fun c => { c with pend := c.pend ++ [⟨.bytes cs, a, false, false, some 0⟩] })

/-- LDG: the value as published at the open time, interlocked (R55, R165). -/
def execLdg (p : Fin 64) (d : Dst 64) (base : Fin 64) (off : MOff) (ty : BitVec 4) (s : State) : Out :=
  s.slotOp .m p <| .need (s.me.ea base off) fun a =>
    s.globalRead a (scalarBytes ty) (scalarBytes ty) fun ls bs t =>
      .done (t.landLater (dstS d (scalarValue ty bs)) (.scalar (SVal.of (scalarValue ty bs))) (spansOf [(a, ls)]) false)
/-- STG: a plain write published at its close (R165). -/
def execStg (p : Fin 64) (d : Fin 64) (base : Fin 64) (off : MOff) (ty : BitVec 4) (s : State) : Out :=
  s.slotOp .m p <| .need (s.me.ea base off) fun a => .need (s.me.checked d) fun v =>
    s.globalWrite a (leBytes v.toNat (scalarBytes ty)) (scalarBytes ty)

/-! ## Vector forms (R166, R167) -/

/-- Summaries nonfin and allzero of 128 patterns of a format (R97). -/
def summary (f : Nat) (ps : List Nat) : Nat :=
  match fmtOf f with
  | some q =>
    let vs := ps.map q.dec
    (if vs.any (fun v => v.isNan || v.isInf) then 2 ^ 10 else 0) + (if vs.all XV.isZero then 2 ^ 11 else 0)
  | none => if ps.all (· = 0) then 2 ^ 11 else 0

/-- The tag of format `f`, scl, prov and ver bits `pv` (bits [9:5]) and the summaries of the lanes (R97, R98). -/
def mkTag (f : Nat) (scl : Bool) (pv : Nat) (ps : List Nat) : Half :=
  BitVec.ofNat 16 (f + (if scl then 2 ^ 4 else 0) + pv + summary f ps)

/-- A vector of patterns. -/
def lanesOf (ps : List Nat) : Vector W32 128 := tab 128 fun i => BitVec.ofNat 32 (ps.getD i 0)
/-- The patterns of a vector register in a width. -/
def VReg.pats (v : VReg) (w : Nat) : List Nat := v.lanes.toList.map fun x => x.toNat % 2 ^ w

/-- Elements of a unit's bytes: one, or the four of an E3M2 group widened to E4M3 (R95). -/
def unitElems (ty : Nat) (bs : List Byte) : List Nat :=
  if ty = 6 then (List.range 4).map fun j => widen6 (elemOf 6 j bs) else [leNat bs]

/-- Cut a list into pieces of `n`. -/
def chunks {α : Type} (n : Nat) : Nat → List α → List (List α)
  | 0, _ => []
  | k + 1, l => l.take n :: chunks n k (l.drop n)

/-- The register format of a load of type `t` (R98). -/
def loadFmt (t : Nat) : Nat := if t = 6 then 4 else t
/-- Bytes of one unit of a vector access: an element, or an E3M2 group of four. -/
def unitBytes (ty : BitVec 4) : Nat := if ty = 6 then 3 else fmtBits ty.toNat / 8
/-- The alignment of a vector access (R164). -/
def vecAlign (ty : BitVec 4) : Nat := if ty = 6 then 1 else fmtBits ty.toNat / 8
/-- Units of a contiguous access (R166). -/
def unitsVld (ty : BitVec 4) (a : Word) : Units :=
  (List.range (if ty = 6 then 32 else 128)).map fun i => (a + BitVec.ofNat 64 (i * unitBytes ty), unitBytes ty)
/-- Units of a strided access (R166). -/
def unitsVlds (ty : BitVec 4) (b pitch : Word) : Units :=
  (List.range 128).map fun i => (b + BitVec.ofNat 64 i * pitch, unitBytes ty)
/-- Units of an indexed access (R166). -/
def unitsVldx (ty : BitVec 4) (b : Word) (vi : VReg) (sc : BitVec 2) : Units :=
  vi.lanes.toList.map fun x => (b + ((x.zeroExtend 64 : Word) <<< sc.toNat), unitBytes ty)

/-- The register a vector load delivers (R98, R167). -/
def loadedV (ty : BitVec 4) (bs : List Byte) (n : Nat) : VReg :=
  let ps := (chunks (unitBytes ty) n bs).flatMap (unitElems ty.toNat)
  ⟨lanesOf ps, mkTag (loadFmt ty.toNat) false 0 ps, one32⟩

/-- A vector load from the units given (R167). -/
def State.vecLoad (s : State) (d : Dst 32) (ty : BitVec 4) (us : Units) : Res :=
  s.spadRead us (vecAlign ty) fun bs t =>
    .done (t.land .m (latLoad s.me.kclass) (dstV d (loadedV ty bs us.length)) (some (.vec (loadedV ty bs us.length))) 0)

/-- A format mismatch: the tag found and the tag expected (R372). -/
def tagFail (code : Nat) (found expected : Nat) : Fail :=
  { code := BitVec.ofNat 8 code, d1 := BitVec.ofNat 64 (found % 2 ^ 16 + expected % 2 ^ 16 * 2 ^ 16) }

/-- The format check of a store of type `f` (R99). That a register of format 0 may be stored as E3M2, its low 8 bits
taken as E4M3, is a DESIGN CHOICE: R95 accepts format 4 only and R99 exempts format 0 (log entry 44). -/
def storeFmt (v : VReg) (f : Nat) : Except Fail Unit :=
  let g := bits v.tag 0 4
  if g = 0 || g = f || (f = 6 && g = 4) then .ok () else .error (tagFail 0x07 v.tag.toNat f)

/-- E4M3 to E3M2 by nearest-even, with its flags (R95). -/
def narrow6 (p : Nat) : Nat × Flags := e3m2.round 0 false (e4m3.dec (p % 256))
/-- Four elements as a group of three bytes (R95). -/
def pack6 (l : List Nat) : List Byte :=
  leBytes ((l.getD 0 0) + (l.getD 1 0) * 2 ^ 6 + (l.getD 2 0) * 2 ^ 12 + (l.getD 3 0) * 2 ^ 18) 3

/-- The bytes a vector store writes at each unit, and its flags (R167). -/
def storedUnits (ty : BitVec 4) (v : VReg) : List (List Byte) × Flags :=
  if ty = 6 then
    let n := v.lanes.toList.map fun x => narrow6 x.toNat
    ((chunks 4 32 (n.map Prod.fst)).map pack6, n.foldl (fun f x => f ||| x.2) 0)
  else (v.lanes.toList.map fun x => leBytes x.toNat (unitBytes ty), 0)

/-- A vector store to the units given (R167); equal addresses keep the highest lane's value. -/
def State.vecStore (s : State) (v : VReg) (ty : BitVec 4) (us : Units) : Res :=
  .need (storeFmt v ty.toNat) fun _ =>
    let st := storedUnits ty v
    match s.spadStore us (vecAlign ty) ty.toNat
        ((us.zip st.1).flatMap fun u => cellsAt (spadLoc s.cur.core u.1.1.toNat) u.2) with
    | .done t => .done (t.modMe fun c => c.raise .m c.pc st.2)
    | r => r

/-- VLD (R167). -/
def execVld (p : Fin 64) (d : Dst 32) (base : Fin 64) (off : MOff) (ty : BitVec 4) (s : State) : Out :=
  s.slotOp .m p <| .need (s.me.ea base off) fun a => s.vecLoad d ty (unitsVld ty a)
/-- VST (R167). -/
def execVst (p : Fin 64) (d : Fin 32) (base : Fin 64) (off : MOff) (ty : BitVec 4) (s : State) : Out :=
  s.slotOp .m p <| .need (s.me.ea base off) fun a => s.vecStore s.me.vreg[d] ty (unitsVld ty a)
/-- VLDS (R166). -/
def execVlds (p : Fin 64) (d : Dst 32) (base : Fin 64) (pitch : MOff) (ty : BitVec 4) (s : State) : Out :=
  s.slotOp .m p <| .need (s.me.checked base) fun b => .need (s.me.offset pitch) fun q => s.vecLoad d ty (unitsVlds ty b q)
/-- VSTS (R166). -/
def execVsts (p : Fin 64) (d : Fin 32) (base : Fin 64) (pitch : MOff) (ty : BitVec 4) (s : State) : Out :=
  s.slotOp .m p <| .need (s.me.checked base) fun b => .need (s.me.offset pitch) fun q =>
    s.vecStore s.me.vreg[d] ty (unitsVlds ty b q)
/-- VLDX (R166). -/
def execVldx (p : Fin 64) (d : Dst 32) (base : Fin 64) (vi : Fin 32) (sc : BitVec 2) (ty : BitVec 4) (s : State) : Out :=
  s.slotOp .m p <| .need (s.me.checked base) fun b => s.vecLoad d ty (unitsVldx ty b s.me.vreg[vi] sc)
/-- VSTX (R166). -/
def execVstx (p : Fin 64) (d : Fin 32) (base : Fin 64) (vi : Fin 32) (sc : BitVec 2) (ty : BitVec 4) (s : State) : Out :=
  s.slotOp .m p <| .need (s.me.checked base) fun b => s.vecStore s.me.vreg[d] ty (unitsVldx ty b s.me.vreg[vi] sc)

/-- VLDSC: 128 elements and the FP32 scale after them; scl is set (R98, R167). -/
def execVldsc (p : Fin 64) (d : Dst 32) (base : Fin 64) (off : MOff) (ty : BitVec 4) (s : State) : Out :=
  s.slotOp .m p <| .need (s.me.ea base off) fun a =>
    let us := unitsVld ty a
    let b := us.length * unitBytes ty
    .need (us.check (vecAlign ty)) fun _ => s.spadRead (us ++ [(a + BitVec.ofNat 64 b, 4)]) 1 fun bs t =>
      let v := loadedV ty bs us.length
      let v' : VReg := ⟨v.lanes, v.tag ||| 0x10, BitVec.ofNat 32 (leNat (bs.drop b))⟩
      .done (t.land .m (latLoad s.me.kclass) (dstV d v') (some (.vec v')) 0)

/-! ## Descriptor rows (R168) -/

/-- What VLDT and VSTT accept of a descriptor. -/
def rowUse (dest : Bool) : DescUse := ⟨2 ^ 32, 2 ^ 32, true, [0, 1, 2, 3, 4, 5, 6, 7, 8, 9, 10, 11, 12], [0, 1, 2, 3, 4], dest⟩

/-- The descriptor and row of VLDT or VSTT, checked (R168, R370, R379). -/
def Ctx.rowDesc (c : Ctx) (dn : Fin 16) (base : Fin 64) (dest : Bool) : Except Fail (Desc × Nat) :=
  match c.checked base with
  | .error f => .error f
  | .ok i =>
    let d := c.dreg[dn]
    -- f7 is not read (R168)
    match (Desc.bad (d.set 7 0) (rowUse dest)) with
    | some f => .error (descFail dn.val f)
    | none => if d.rows ≤ i.toNat then .error (descFail dn.val 1) else .ok (d, i.toNat)

/-- The address of element (i, j) as the access names it: the offset of an arena access as its window address (R403). -/
def Desc.addr (d : Desc) (a : Actor) (i j : Nat) : Int :=
  let (row, col) := d.pos a.fields a.step i j
  let o := d.offset d.fmt row col
  if d.space = 2 then ((0xF0000000000000 + bits d.base 0 16 * 2 ^ 32 : Nat) : Int) + o else (d.base.toNat : Int) + o

/-- The first misaligned element among columns 0 to n-1 of row `i` (R168). -/
def Desc.rowMisaligned (d : Desc) (a : Actor) (i n : Nat) : Option Int :=
  if d.fmt = 6 || d.space = 3 then none
  else ((List.range n).map (d.addr a i)).find? fun x => x % (groupBytes d.fmt : Int) ≠ 0

/-- The units of a row in the core's own scratchpad for its bank and range checks: the elements, and the scale that a
load reads with them (R71, R374). -/
def Desc.rowUnits (d : Desc) (a : Actor) (i n : Nat) (write : Bool) : Units :=
  (List.range n).map (fun j => (wrapInt 64 (d.addr a i j), groupBytes d.fmt)) ++
    if d.scl && !write then [(d.scaleAddr + BitVec.ofNat 64 (4 * i), 4)] else []

/-- The bytes of row `i` of a descriptor's tile: checks, translation, locations by element. -/
def State.rowUse (s : State) (d : Desc) (i n : Nat) (w : Want) (k : List (List Nat) → Res) : Res :=
  let a := s.me.actor s.cur.core
  match d.rowMisaligned a i n with
  | some x => .fail (alignFail (wrapInt 64 x))
  | none =>
    .need (if d.space = 0 then (d.rowUnits a i n w.write).check 1 else .ok ()) fun _ =>
      match gateAll (fun j => s.elemGate a d d.fmt i j w) (List.range n) with
      | .fail f => .fail f
      | .fault f => s.faultHold .m f
      | .ok ls => if s.waits ls.flatten then .hold s else k ls

/-- The address by which an access names a location that it reached at address `a` (R403): in space 3 the physical
address. -/
def spaceName (sp : Nat) (a : Int) (l : Nat) : Word := if sp = 3 then BitVec.ofNat 64 l else wrapInt 64 a
/-- The bytes of element (i, j), named (R403). -/
def Desc.named (d : Desc) (a : Actor) (i j : Nat) (ls : List Nat) : Word × List Nat :=
  (spaceName d.space (d.addr a i j) (ls.headD 0), ls)
/-- Named bytes with the widening of E3M2 data (R259). -/
def widenNamed (f : Nat) (x : Word × List Nat) : Word × List Nat :=
  if f = 6 then (x.1 - BitVec.ofNat 64 (x.2.headD 0 % 32), widenFoot 6 x.2) else x
/-- The first poisoned unit that named bytes meet, by the address of its first byte (R337, R341). -/
def State.namedPoison (s : State) (l : List (Word × List Nat)) : Option Fail :=
  l.findSome? fun x => (((List.range x.2.length).zip x.2).find? fun q => s.poisoned q.2).map fun q =>
    { code := 0x23, faddr := x.1 + BitVec.ofNat 64 q.1 - BitVec.ofNat 64 (q.2 - unitBase q.2) }
/-- Touch the elements of a row in turn. -/
def State.touchRow (s : State) (k : AKind) : List (Word × List Nat) → Except Fail State
  | [] => .ok s
  | x :: t =>
    match s.mTouch k x.2 x.1 with
    | .error e => .error e
    | .ok s' => s'.touchRow k t

/-- The name of address `x` in a descriptor's flat space: in an arena, its window address (R87, R403). -/
def Desc.flatName (d : Desc) (x : Int) : Word :=
  wrapInt 64 (if d.space = 2 then ((0xF0000000000000 + bits d.base 0 16 * 2 ^ 32 : Nat) : Int) + x else x)
/-- The space of addresses that a descriptor gives beside its tile: space 3 takes them from space 1 (log entry 7). -/
def Desc.flatSpace (d : Desc) : Nat := if d.space = 3 then 1 else d.space
/-- The scale of row `i` at f4 + 4i, in f0's space (R82, R168): in space 2 an offset under f0's handle, in space 3 an
address of space 1 (log entry 7). -/
def State.rowScale (s : State) (a : Actor) (d : Desc) (i : Nat) : Gate (List Nat) :=
  if d.scl then s.spaceGate a d.flatSpace d.base ((d.scaleAddr.toNat + 4 * i : Nat) : Int) 4 ⟨false, false⟩
  else .ok []

/-- VLDT (R168): latency 4 from space 0, interlocked otherwise (R55). -/
def execVldt (p : Fin 64) (d : Dst 32) (base : Fin 64) (dn : Fin 16) (s : State) : Out :=
  s.slotOp .m p <| .need (s.me.rowDesc dn base false) fun r =>
    let (q, i) := r
    let n := min q.cols 128
    let a := s.me.actor s.cur.core
    s.rowUse q i n ⟨false, false⟩ fun ls =>
      match s.rowScale a q i with
      | .fail f => .fail f
      | .fault f => s.faultHold .m f
      | .ok sl =>
        if s.waits sl then .hold s else
        let named := (List.range n).zipWith (fun j l => q.named a i j l) ls ++
          [(q.flatName ((q.scaleAddr.toNat + 4 * i : Nat) : Int), sl)]
        match s.namedPoison named with
        | some f => .fail f
        | none => .need (s.touchRow .read named) fun t =>
          let rd := t.plainRead t.cur (ls.flatten ++ sl)
          let gs := chunks (groupBytes q.fmt) n rd.1
          let ps := (List.range n).map fun j =>
            let e := elemOf q.fmt (q.sub a i j) (gs.getD j [])
            if q.fmt = 6 then widen6 e else e
          let sc := if q.scl then BitVec.ofNat 32 (leNat (rd.1.drop (n * groupBytes q.fmt))) else one32
          let v : VReg := ⟨lanesOf ps, mkTag (loadFmt q.fmt) q.scl (bits q.tag 5 5 * 2 ^ 5)
            (ps ++ List.replicate (128 - n) 0), sc⟩
          if q.space = 0 then .done (rd.2.land .m (latLoad s.me.kclass) (dstV d v) (some (.vec v)) 0)
          else .done (rd.2.landLater (dstV d v) (.vec v) (spansOf named) false)

/-- Put elements into the groups they lie in, one after another, from bytes as a view shows them. -/
def putAll (f : Nat) (look : Nat → Byte) : List (List Nat × Nat × Nat) → Sparse (Option Byte) → Sparse (Option Byte)
  | [], acc => acc
  | (ls, sub, pat) :: t, acc =>
    let old := ls.map fun l => (Sparse.get none acc l).getD (look l)
    putAll f look t ((ls.zip (putElem f sub old pat)).foldl (fun m c => Sparse.set none m c.1 (some c.2)) acc)

/-- The cells of a sparse byte map. -/
def cellsOf (m : Sparse (Option Byte)) : List Host.Cell := m.filterMap fun e => e.2.map fun b => (e.1, b)

/-- A location lies in the scratchpad of core `c`. -/
def ownSpad (c : Fin 128) (l : Nat) : Bool := decide (spadLoc c 0 ≤ l) && decide (l < spadLoc c 0 + 0x400000)

/-- VSTT (R168). -/
def execVstt (p : Fin 64) (d : Fin 32) (base : Fin 64) (dn : Fin 16) (s : State) : Out :=
  s.slotOp .m p <| .need (s.me.rowDesc dn base true) fun r =>
    let (q, i) := r
    let n := min q.cols 128
    let a := s.me.actor s.cur.core
    let v := s.me.vreg[d]
    .need (storeFmt v q.fmt) fun _ => s.rowUse q i n ⟨true, false⟩ fun ls =>
      let es := (List.range n).map fun j =>
        let x := (v.lanes[j]?).getD 0
        if q.fmt = 6 then narrow6 x.toNat else (x.toNat, 0)
      let view := s.view s.cur
      let cs := cellsOf (putAll q.fmt view.plainByte
        ((List.range n).map fun j => (ls.getD j [], q.sub a i j, (es.getD j (0, 0)).1)) [])
      let named := (List.range n).zipWith (fun j l => q.named a i j l) ls
      match s.poisonWrite cs with
      | some l => .fail ((s.namedPoison (named.filter fun x => x.2.any fun y => unitBase y = unitBase l)).getD { code := 0x23 })
      | none => .need (s.touchRow .write (named.map (widenNamed q.fmt))) fun t =>
        -- the own scratchpad takes its bytes at once (R47), by its peer form in space 4 too (R69)
        let (own, far) := cs.partition fun x => ownSpad s.cur.core x.1
        let t := t.spadWrite t.cur own
        let t := if far.isEmpty then t
          else t.modMe fun c => { c with pend := c.pend ++ [⟨.bytes far, BitVec.ofInt 64 (q.addr a i 0), false, false, some 0⟩] }
        .done (t.modMe fun c => c.raise .m c.pc (es.foldl (fun f e => f ||| e.2) 0))

/-! ## Descriptors, load blocks, updates (R169 to R172) -/

/-- DLD: all eight fields, latency 4, no latch (R164, R169). -/
def execDld (p : Fin 64) (d : Fin 16) (base : Fin 64) (off : MOff) (s : State) : Out :=
  s.slotOp .m p <| .need (s.me.ea base off) fun a => s.spadRead [(a, 64)] 8 fun bs t =>
    .done (t.land .m (latLoad s.me.kclass) [.d d (tab 8 fun i => BitVec.ofNat 64 (leNat ((bs.drop (8 * i)).take 8)))] none 0)
/-- DST (R169). -/
def execDst (p : Fin 64) (d : Fin 16) (base : Fin 64) (off : MOff) (s : State) : Out :=
  s.slotOp .m p <| .need (s.me.ea base off) fun a =>
    s.spadStore [(a, 64)] 8 0 (cellsAt (spadLoc s.cur.core a.toNat) (s.me.dreg[d].toList.flatMap fun w => leBytes w.toNat 8))

/-- A new engine command of the current context, with nothing done yet. -/
def State.newK (s : State) (op : Instr) (path : Option KPath) : KCmd where
  id := s.nextId
  owner := s.cur
  run := s.me.run
  step := s.me.step
  asid := s.me.asid
  opb := s.me.opb
  op := op
  path := path
  pc := s.me.pc
  t := s.time
  opn := s.me.phaseOpen
  wopn := s.me.phaseOpen
  fields := s.me.fields
  tenstab := s.me.cr.tenstab
  dd := Vector.replicate 8 0
  ds := Vector.replicate 8 0
  sa := 0
  sb := 0
  lvl := 0
  srcWord := none
  visWord := none
  ring := none
  unord := (s.kcmds.filter fun k => k.owner = s.cur && k.run = s.me.run && k.path ≠ path && !k.seenVis).map
      (fun k => (k.id, !k.seenSrc)) ++ s.me.xfoot.map fun x => (x.seq, true)
  loose := s.me.mfoot
  closeAt := none
  snap := .empty
  far := []
  homes := []
  stage := .queued
  held := []
  srcFoot := []
  dstFoot := []
  area := []
  whole := true
  idx := []
  accepted := false
  claim := none
  ringLoc := 0
  posted := false
  sent := []
  round := 0
  parties := 0
  failed := none
  record := none
  errored := false
  waitFault := none
  dead := false
  seenSrc := false
  seenVis := false
  srcDoneWord := false
  visDoneWord := false

/-- Put a command in flight. -/
def State.addK (s : State) (k : KCmd) : State := { s with kcmds := s.kcmds ++ [k], nextId := s.nextId + 1 }

/-- The register after `r`. -/
def nextReg (r : Fin 64) (k : Nat) : Fin 64 := Fin.ofNat 64 (r.val + k)

/-- LDB (R170): its effects are a command's (R379). -/
def execLdb (p : Fin 64) (d : Fin 64) (base : Fin 64) (off : MOff) (s : State) : Out :=
  s.slotOp .m p <|
    let w := (s.me.sget d).val
    if bits w 22 36 ≠ 0 then .fail { code := 0x04, d1 := BitVec.ofNat 64 (6 * 2 ^ 16) }
    else .need (s.me.ea base off) fun a => .need (s.me.checked d) fun w =>
      .need (s.me.checked (nextReg d 1)) fun v =>
        let n := 128 * (bits w 58 6 + 1)
        if 65536 < a.toNat % 65536 + n then .fail { code := 0x0B, faddr := a }
        else if misaligned a 128 then .fail (alignFail a)
        else .need (spadWord s.cur (BitVec.ofNat 64 (bits w 0 22))) fun loc =>
          .done (s.addK { s.newK (.ldb p d base off) none with
            sa := a, sb := BitVec.ofNat 64 n, visWord := some (loc, v), lvl := 2 })

/-- A commutative update, held to its close (R171, R172). -/
def commUpdate (u : UKind) (p : Fin 64) (d : Fin 64) (base : Fin 64) (off : MOff) (ty : BitVec 4) (s : State) : Out :=
  s.slotOp .m p <| .need (s.me.ea base off) fun a => .need (s.me.checked d) fun v =>
    let n := updBytes ty
    if misaligned a n then .fail (alignFail a)
    else s.globalUse a n ⟨true, false⟩ fun ls =>
      match ls.find? s.poisoned with
      | some l => .fail { code := 0x23, faddr := unitName a ls l }
      | none => .need (s.mTouch .update ls a) fun t =>
        .done (t.modMe fun c => { c with pend := c.pend ++ [⟨.upd (ls.headD 0) u ty v, a, true, false, some 0⟩] })
/-- AMADD -/
def execAmadd (p : Fin 64) (d : Fin 64) (base : Fin 64) (off : MOff) (ty : BitVec 4) (s : State) : Out := commUpdate .sum p d base off ty s
/-- AMMAX -/
def execAmmax (p : Fin 64) (d : Fin 64) (base : Fin 64) (off : MOff) (ty : BitVec 4) (s : State) : Out := commUpdate .max p d base off ty s
/-- AMMIN -/
def execAmmin (p : Fin 64) (d : Fin 64) (base : Fin 64) (off : MOff) (ty : BitVec 4) (s : State) : Out := commUpdate .min p d base off ty s
/-- AMAND -/
def execAmand (p : Fin 64) (d : Fin 64) (base : Fin 64) (off : MOff) (ty : BitVec 4) (s : State) : Out := commUpdate .and p d base off ty s
/-- AMOR -/
def execAmor (p : Fin 64) (d : Fin 64) (base : Fin 64) (off : MOff) (ty : BitVec 4) (s : State) : Out := commUpdate .or p d base off ty s

end Sys2Proof.Machine
end

