-- ==== Sys2Proof/Machine/Futures.lean ====
section
/-!
DEFINITION. Futures (R38 to R41, R173, R348 to R351), on this device and on another (R311).
-/
namespace Sys2Proof.Machine

/-! ## Flits on a port (R307, R308, R312) -/

/-- Change a virtual lane of a port. -/
def State.modLane (s : State) (p : Fin 16) (vl : Fin 4) (f : VLane → VLane) : State :=
  let port := s.ports[p]
  { s with ports := s.ports.set p { port with lanes := port.lanes.set vl (f port.lanes[vl]) } }
/-- The sender may start `n` flits of a lane (R308). -/
def VLane.canSend (l : VLane) (n : Nat) : Bool := !l.paused || decide (n ≤ l.grace)
/-- A flit starts; the sender keeps it until it is acknowledged (R307, R308, R312). -/
def VLane.start (l : VLane) (x : Nat × FlitUse) : VLane := { l with
  nextSeq := l.nextSeq + 1
  grace := if l.paused then l.grace - 1 else l.grace
  sent := l.sent ++ [⟨l.nextSeq, x.1, 0, x.2⟩] }
/-- Flits start in their order, as far as a pause lets them; the rest wait for the resume (R308). -/
def VLane.startAll (l : VLane) : List (Nat × FlitUse) → VLane
  | [] => { l with queue := [] }
  | x :: t => if l.canSend 1 then (l.start x).startAll t else { l with queue := x :: t }
/-- `n` flits for device `dev` are sent, behind those that already wait (R307, R308). -/
def VLane.send (l : VLane) (dev n : Nat) (u : FlitUse) : VLane := l.startAll (l.queue ++ List.replicate n (dev, u))
/-- Flits leave for a device by the port that carries its route (R309). -/
def State.sendFlits (s : State) (dev : Nat) (vl : Fin 4) (n : Nat) (u : FlitUse) : State :=
  match s.route dev with
  | some p => s.modLane p vl (·.send dev n u)
  | none => s
/-- Flits are acknowledged (R312). -/
def State.ackFlits (s : State) (u : FlitUse) : State :=
  { s with ports := s.ports.map fun p => { p with lanes := p.lanes.map fun l =>
    { l with sent := l.sent.filter fun (x : TxFlit) => x.use ≠ u } } }
/-- A flit of link management leaves on lane 3 (R307). -/
def State.sendLink (s : State) (port : Fin 16) : State := s.modLane port 3 (·.send s.ports[port].far.toNat 1 .link)
/-- The receiver tells the sender what its skid buffer asks for: a pause or a resume flit on lane 3 where that changes
(R308). -/
def State.tellSkid (s t : State) (port : Fin 16) (vl : Fin 4) : State :=
  if s.ports[port].lanes[vl].pauseSent = t.ports[port].lanes[vl].pauseSent then t else t.sendLink port
/-- Delivered flits leave the skid buffer; at 96 free the receiver sends a resume (R308). -/
def VLane.drain (l : VLane) (n : Nat) : VLane :=
  let free := min 128 (l.free + n)
  { l with
    free := free
    pauseSent := l.pauseSent && decide (free < 96) }
/-- `n` flits leave the skid buffer of a port (R308). -/
def State.drainPort (s : State) (port : Fin 16) (vl : Fin 4) (n : Nat) : State :=
  s.tellSkid (s.modLane port vl (·.drain n)) port vl
/-- What a device sent leaves the skid buffer of the port it came through. -/
def State.drainFlits (s : State) (dev : Nat) (vl : Fin 4) (n : Nat) : State :=
  match s.route dev with
  | some p => s.drainPort p vl n
  | none => s
/-- The device in whose window an address lies (R309). -/
def windowDevice (loc : Nat) : Nat := match remoteWindow loc with
  | some w => w.1
  | none => 0

/-! ## Waiter records (R38, R40, R351) -/

/-- Records of die `d` in use. -/
def State.usedWaiters (s : State) (d : Fin 4) : List Nat := (s.waiters.filter fun w => w.die = d).map (·.idx)
/-- A free record of die `d`: the choice is timing's (R38; log entry 12). -/
def State.freeWaiter (s : State) (d : Fin 4) : Option Nat :=
  let used := s.usedWaiters d
  let k := s.draw.1
  ((List.range (used.length + 1)).map fun i => 1 + (k + i) % Config.waiterRecords).find? fun i => !used.contains i
/-- The future at `loc` has a list of waiters: whead is not 0 (R38). -/
def State.listed (s : State) (loc : Nat) : Bool := decide (s.num (loc + 12) 4 ≠ 0)
/-- The waiters that a future which software has zeroed does not name are in no list any more (R38). -/
def State.unlist (s : State) (loc : Nat) : State :=
  if s.listed loc then s
  else { s with waiters := s.waiters.map fun (w : Waiter) => if w.loc = loc then { w with loc := nowhere } else w }
/-- Chain a waiter on the future at `loc` (R40): whead names the newest record. -/
def State.chain (s : State) (d : Fin 4) (a : BitVec 12) (opb loc : Nat) (w : Wake) (here : Bool) : State :=
  match s.freeWaiter d with
  | none => s
  | some i =>
    let t := { (if here then s.unlist loc else s) with free := s.draw.2.free }
    let t := { t with waiters := ⟨d, i, a, opb, w, 1, false, loc⟩ :: t.waiters }
    if here then t.setNum (loc + 12) i 4 else t

/-- A sleeping FUTRD gets its value (R39, R53): it reaches q4 and the register before the bank's next bundle reads, and
the phase opens at the first device time at which the fill can be observed (R256). -/
def State.wakeLane (s : State) (c : CtxId) (v : Word) : State :=
  match (s.ctx c).wait with
  | .future _ _ d pc =>
    (s.modCtx c fun x => { x with
      wait := x.next.headD .none
      next := x.next.tail
      pipe := x.pipe ++ [⟨.m, x.n, pc, some x.n, dstS d v, latchS v, 0, [], s.time + 1, false⟩]
      phaseOpen := s.time + 1
      nextIssue := max x.nextIssue (s.time + 1) }).wantCore c
  | _ => s

/-- What a fill does to one waiter record (R41, R343, R348). -/
def State.wakeOne (s : State) (v : Word) (w : Waiter) : State :=
  if w.dead then s
  else match w.wake with
    | .step r => s.requeueStep w.asid w.opb r
    | .lane c run => if (s.ctx c).run = run then s.wakeLane c v else s
    -- a proxy's wake-up leaves on lane 2 for the reading device (R311)
    | .proxy dev _ => s.sendFlits dev 2 1 .reply

/-- The contexts that sleep on the future at `loc`: those whose record its list names, and those that have none for want
of a free one (R351). -/
def State.sleepers (s : State) (loc : Nat) : List CtxId :=
  ((List.range 256).map fun i => (⟨Fin.ofNat 128 (i / 2), Fin.ofNat 2 i⟩ : CtxId)).filter fun c =>
    match (s.ctx c).wait with
    | .future l _ _ _ => l = loc && (s.waiters.filter fun w => w.wake = .lane c (s.ctx c).run).all fun w => w.loc = loc
    | _ => false

/-- A list of waiters is emptied (R41). -/
def State.dropList (s : State) (loc : Nat) : State := { s with waiters := s.waiters.filter fun w => w.loc ≠ loc }
/-- A fill empties the waiter list and wakes every waiter in it (R41). -/
def State.wakeAll (s : State) (loc : Nat) (v : Word) : State :=
  let ws := s.waiters.filter fun w => w.loc = loc
  let cs := s.sleepers loc
  let s := ws.reverse.foldl (fun s w => s.wakeOne v w) (s.dropList loc)
  cs.foldl (fun s c => s.wakeLane c v) s

/-- The bytes of a future whose list is empty (R38). -/
def futureCells (loc : Nat) (v : Word) (st : Nat) : List Host.Cell :=
  cellsAt loc (leBytes v.toNat 8) ++ [(loc + 8, BitVec.ofNat 8 st)] ++ cellsAt (loc + 12) [0, 0, 0, 0]
/-- FUTURE FILL at its home: value, state, waiters (R41). `st` is 1, or 2 where the future is poisoned (R348). -/
def State.fillFuture (s : State) (loc : Nat) (v : Word) (st : Nat) : State :=
  ((s.unlist loc).setCells (futureCells loc v st)).wakeAll loc v

/-! ## Squash and sleep (R39, R40) -/

/-- SQUASH (R40): the step of context `c` stops, its effects are discarded, a waiter record is taken and chained. -/
def State.squash (s : State) (c : CtxId) (d : Fin 4) (loc : Nat) (here : Bool) : State :=
  let x := s.ctx c
  match s.getRun x.run with
  | none => s
  | some r =>
    let s := (s.stopRun r.id).chain d x.asid x.opb loc (.step ⟨r.step, r.carries, r.restarts, [], some r.id, 0⟩) here
    (s.endRun r.id).forgetRun r.id

/-- An empty future: the step is squashed if no lane of it has closed a phase and a record is free, else the lane sleeps
(R39, R351). -/
def State.emptyFuture (s : State) (d : Dst 64) (die : Fin 4) (loc : Nat) (a : Word) (here : Bool) : State :=
  let x := s.me
  let closed := match s.getRun x.run with
    | some r => r.closed
    | none => true
  if !closed && (s.freeWaiter die).isSome then s.squash s.cur die loc here
  else (s.chain die x.asid x.opb loc (.lane s.cur x.run) here).modMe fun c => { c with wait := .future loc a d c.pc }

/-! ## The accesses (R173, R348) -/

/-- The 16 bytes of a future, checked (R173, R379, R395, R401). -/
def State.futureUse (s : State) (a : Word) (w : Bool) (k : List Nat → Res) : Res :=
  if misaligned a 16 then .fail (alignFail a)
  else s.globalUse a 16 ⟨w, true⟩ fun ls =>
    if ls.any s.poisoned then .fail { code := 0x23, faddr := BitVec.ofNat 64 (a.toNat / 128 * 128) } else k ls

/-- The failure of an access to a future that a remote device reports (R313, R348). -/
def replyFail (a : Word) (code : BitVec 8) : Fail := { code := code, faddr := a }

/-- A future access leaves for another device; its bundle holds until the answer (R311, R313). -/
def State.futureSend (s : State) (fill : Bool) (loc dev : Nat) (v a : Word) : Res :=
  match s.route dev with
  | none => .fail (replyFail a 0x56)
  | some p =>
    let port := s.ports[p]
    if !port.trained then .fail (replyFail a 0x56)
    else if !port.lanes[2].canSend 1 then .hold s
    else .hold ((s.modLane p 2 (·.send dev 1 (.future s.cur))).modMe fun c => { c with wait := .remote fill loc v })

/-- FUTRD (R39, R173, R311). -/
def execFutrd (p : Fin 64) (d : Dst 64) (base : Fin 64) (off : MOff) (s : State) : Out :=
  s.slotOp .m p <| .need (s.me.ea base off) fun a => s.futureUse a false fun ls =>
    let loc := ls.headD 0
    let take (v : Word) (t : State) : Res := .done (t.landLater (dstS d v) (.scalar (SVal.of v)) [] true)
    match remoteWindow loc with
    | some (dev, _) =>
      let t := s.modMe fun c => { c with answer := none }
      match s.me.answer with
      | none => s.futureSend false loc dev 0 a
      -- the answer's arrival opened the phase (R311)
      | some (.value v) => .done (t.land .m 1 (dstS d v) (latchS v) 0)
      | some .empty => .done (t.emptyFuture d (coreDie s.cur.core) loc a false)
      | some (.linkError code) => .fail (replyFail a code)
      | some .filled => .fail (replyFail a 0x32)
      | some .mismatch => .fail (replyFail a 0x32)
      | some .poisoned => .fail (replyFail a 0x32)
    | none =>
      .need (s.mTouch .observe ls a) fun t =>
        if s.byte (loc + 8) = 1 then take (BitVec.ofNat 64 (s.num loc 8)) t
        else if s.byte (loc + 8) = 0 then .done (t.emptyFuture d (s.home loc) loc a true)
        else .fail (replyFail a 0x32)

/-- FUTFILL: one synchronisation write, which closes and opens the phase (R41, R173, R256). -/
def execFutfill (p : Fin 64) (d : Fin 64) (base : Fin 64) (off : MOff) (s : State) : Out :=
  s.slotOp .m p <| .need (s.me.ea base off) fun a => .need (s.me.checked d) fun v => s.futureUse a true fun ls =>
    let loc := ls.headD 0
    match remoteWindow loc with
    | some (dev, _) =>
      let t := s.modMe fun c => { c with answer := none }
      match s.me.answer with
      | none => s.futureSend true loc dev v a
      -- the answer's arrival closed and opened the phase (R311)
      | some .filled => .done t
      | some (.linkError code) => .fail (replyFail a code)
      | some .mismatch => .fail (replyFail a 0x31)
      | some .poisoned => .fail (replyFail a 0x32)
      | some .empty => .fail (replyFail a 0x31)
      | some (.value _) => .fail (replyFail a 0x31)
    | none =>
      .need (s.mTouch .sync ls a) fun t =>
        if s.byte (loc + 8) = 0 then
          match t.closePhase s.cur .m s.me.pc false with
          | .ok u => .done ((u.fillFuture loc v 1).openPhase s.cur)
          | .error f => .refused (if Config.freeApplied t.free then { t with free := t.free + 1 }.fillFuture loc v 1
              else { t with free := t.free + 1 }) f
        else if s.byte (loc + 8) = 1 then
          if s.num loc 8 = v.toNat then t.closeOpen .m false else .fail (replyFail a 0x31)
        else .fail (replyFail a 0x32)

/-! ## Other devices (R311) -/

/-- The arrival of an answer for context `c`: a value opens its phase; the acknowledgement of a fill closes and opens it,
or the close is refused, which stops the lane before the bundle that still waits to issue (R311, R334). -/
def State.answerPhase (s : State) (c : CtxId) (r : FutureReply) : State :=
  match r with
  | .value _ => s.openPhase c
  | .filled => match s.closePhase c .m (s.ctx c).pc false with
    | .ok t => t.openPhase c
    | .error f => s.trap c .m 0 (s.ctx c).pc (s.ctx c).pc f
  | _ => s
/-- REMOTE_FUTURE_ANSWER (R311): the held bundle issues with the answer. -/
def execRemoteFutureAnswer (c : CtxId) (r : FutureReply) (s : State) : Out :=
  match (s.ctx c).wait with
  | .remote _ loc _ =>
    let s := (s.ackFlits (.future c)).drainFlits (windowDevice loc) 2 1
    let s := s.modCtx c fun x => { x with wait := .none, answer := some r }
    .next (s.answerPhase c r)
  | _ => .next s

/-- REMOTE_WAKE_UP (R311): a fill on another device wakes a record of this one, as R41. -/
def execRemoteWakeUp (die : Fin 4) (record : Nat) (v : Word) (s : State) : Out :=
  match s.waiters.find? fun w => w.die = die && w.idx = record with
  | some w =>
    let s := s.drainFlits (windowDevice w.loc) 2 1
    .next ({ s with waiters := s.waiters.filter fun u => !(u.die = die && u.idx = record) }.wakeOne v w)
  | none => .next s

/-- The context under which accesses of other devices are logged; their runs are numbers that no step has. -/
def nobody : CtxId := ⟨0, 0⟩
/-- The device that makes an access. -/
def RemoteAccess.device : RemoteAccess → Nat
  | .read dev _ => dev
  | .fill dev _ => dev
/-- How it touches the future (R256). -/
def RemoteAccess.kind : RemoteAccess → AKind
  | .read .. => .observe
  | .fill .. => .sync
/-- REMOTE_FUTURE_ACCESS (R311, R348): another device reads or fills a future homed here, at physical address `addr`. It is
a synchronisation access of a step of that device, and plain accesses here are checked against it (R256); one that
conflicts with them applies nothing. The answer leaves on lane 2. -/
def execRemoteFutureAccess (_asid : BitVec 12) (addr : Nat) (a : RemoteAccess) (s : State) : Out :=
  let s := (s.drainFlits (RemoteAccess.device a) 2 1).sendFlits (RemoteAccess.device a) 2 1 .reply
  let clash := s.lateClash nobody s.nextRun (RemoteAccess.kind a) s.time [⟨BitVec.ofNat 64 addr, addr, 16⟩]
  let t : State := { s with
    nextRun := s.nextRun + 1
    accs := s.accs ++ [⟨nobody, s.nextRun, 0, BitVec.ofNat 64 addr, addr, 16, (RemoteAccess.kind a), s.time, some s.time⟩] }
  let empty := decide (s.byte (addr + 8) = 0) && !(s.poisonIn addr 16).isSome
  .next (if clash.isSome then s
    else if !empty then t
    else match a with
      | .read dev rec => t.chain (s.home addr) 0 0 addr (.proxy dev rec) true
      | .fill _ v => t.fillFuture addr v 1)

end Sys2Proof.Machine
end

