-- ==== Sys2Proof/Machine/Transcend.lean ====
section
/-!
DEFINITION. The transcendental functions of R201: 2^a, log2 a and tanh a, each rounded once from its exact value.
An exact value that is no rational number is enclosed between two fixed-point numbers, at growing precision, until both
have one floor at the place wanted; the floor then decides every rounding. The bounds are DEDUCED (log entry 8).
-/
namespace Sys2Proof.Machine

/-- An enclosure: lo ≤ x * 2^w ≤ hi for the precision w at hand. -/
abbrev Encl := Nat × Nat

/-- Σ z^(2k+1)/(2k+1), z = p/q ≤ 1/3, from the term t = z^(2k+1) * 2^w. -/
def atanhGo (p q : Nat) : Nat → Nat → Nat → Nat
  | 0, _, _ => 0
  | n + 1, k, t => t / (2 * k + 1) + atanhGo p q n (k + 1) (t * (p * p) / (q * q))
/-- atanh (p/q) for 0 ≤ p/q ≤ 1/3: each of the w/3 + 2 terms loses less than three units, and the tail one. -/
def atanhEncl (w p q : Nat) : Encl :=
  let n := w / 3 + 2
  let lo := atanhGo p q n 0 (2 ^ w * p / q)
  (lo, lo + 3 * n + 4)
/-- ln 2 = 2 atanh (1/3). -/
def ln2Encl (w : Nat) : Encl := let (a, b) := atanhEncl w 1 3; (2 * a, 2 * b)

/-- Σ y^k/k! from the term t, y = v/2^w < 1. -/
def expGo (w v : Nat) : Nat → Nat → Nat → Nat
  | 0, _, _ => 0
  | n + 1, k, t => t + expGo w v n (k + 1) (t * v / 2 ^ w / (k + 1))
/-- e^y for y within an enclosure below 3/4. -/
def expEncl (w : Nat) (y : Encl) : Encl :=
  let n := w / 4 + 20
  (expGo w y.1 n 0 (2 ^ w), expGo w y.2 n 0 (2 ^ w) + 3 * n + 4)

/-- Seek the floor at `k` fractional bits of a value that `f` encloses at any precision. -/
def zivGo (f : Nat → Encl) (k : Nat) : Nat → Nat → Nat
  | 0, w => (f w).1 >>> (w - k)
  | n + 1, w =>
    let (lo, hi) := f w
    if lo >>> (w - k) = hi >>> (w - k) then lo >>> (w - k) else zivGo f k n (2 * w)
/-- The magnitude of an irrational value with `k` fractional bits. -/
def ziv (f : Nat → Encl) (k : Nat) : Mag := ⟨zivGo f k 6 (k + 64), -(k : Int), true⟩

/-- The magnitude x.q * 2^(x.sh + n). -/
def Mag.scale (x : Mag) (n : Int) : Mag := { x with sh := x.sh + n }

/-- The integer part of a finite value, toward -∞, and the fraction left as num/2^s. -/
def floorFrac (neg : Bool) (num : Nat) (e : Int) : Int × Nat × Nat :=
  let s := (-e).toNat
  let v : Int := if neg then -((shiftUp num e : Nat) : Int) else (shiftUp num e : Nat)
  (v / ((2 ^ s : Nat) : Int), (v % ((2 ^ s : Nat) : Int)).toNat, s)

/-- 2^a rounded (R201). Beyond ±2^20 the result over- or underflows in every format, however large a is. -/
def Fmt.exp2 (f : Fmt) (rm : Nat) (sat : Bool) (a : XV) : Nat × Flags :=
  match a with
  | .nan => (f.nan, 0)
  | .inf true => (f.signed false 0, 0)
  | .inf false => f.round rm sat (.inf false)
  | .fin neg num _ e =>
    if num ≠ 0 && 20 ≤ (natLen num : Int) + e then f.roundMag rm sat false ⟨1, if neg then -(2 ^ 20) else 2 ^ 20, false⟩
    else
      let (n, r, s) := floorFrac neg num e
      if r = 0 then f.roundMag rm sat false ⟨1, n, false⟩
      else
        let y (w : Nat) : Encl := let (a, b) := ln2Encl w; (a * r / 2 ^ s, b * r / 2 ^ s + 1)
        f.roundMag rm sat false ((ziv (fun w => expEncl w (y w)) 96).scale n)

/-- log2 a rounded (R201). -/
def Fmt.log2 (f : Fmt) (rm : Nat) (sat : Bool) (a : XV) : Nat × Flags :=
  match a with
  | .nan => (f.nan, 0)
  | .inf true => (f.nan, fInv)
  | .inf false => f.round rm sat (.inf false)
  | .fin neg num _ e =>
    if num = 0 then (f.infp true, fDz)
    else if neg then (f.nan, fInv)
    else
      -- a = m * 2^x with m = num/q from 1 to 2
      let q := 2 ^ (natLen num - 1)
      let x : Int := e + (natLen num - 1 : Nat)
      if num = q then f.round rm sat (XV.ofInt x)
      else
        let lg (w : Nat) : Encl :=
          let (a, b) := atanhEncl w (num - q) (num + q)
          let (c, d) := ln2Encl w
          (2 * a * 2 ^ w / d, 2 * b * 2 ^ w / c + 1)
        if 0 ≤ x then f.roundMag rm sat false (ziv (fun w => let (a, b) := lg w; (x.toNat * 2 ^ w + a, x.toNat * 2 ^ w + b)) 160)
        else f.roundMag rm sat true (ziv (fun w => let (a, b) := lg w; ((-x).toNat * 2 ^ w - b, (-x).toNat * 2 ^ w - a)) 160)

/-- tanh of a positive finite value below 64, num * 2^e, at precision w: (E - 1)/(E + 1) with E = e^(2a). -/
def tanhEncl (num : Nat) (e : Int) (w : Nat) : Encl :=
  let y := shiftUp (2 * num) (e + w)
  let (c, d) := ln2Encl w
  let j := y / d
  let x := expEncl w (y - j * d, y - j * c)
  let t (v : Nat) : Nat := (v * 2 ^ j - 2 ^ w) * 2 ^ w / (v * 2 ^ j + 2 ^ w)
  (t x.1, t x.2 + 1)

/-- tanh a rounded (R201). From 64 on the value lies within 2^-180 of 1. -/
def Fmt.tanh (f : Fmt) (rm : Nat) (sat : Bool) (a : XV) : Nat × Flags :=
  match a with
  | .nan => (f.nan, 0)
  | .inf neg => f.round rm sat (.fin neg 1 1 0)
  | .fin neg num _ e =>
    if num = 0 then (f.signed neg 0, 0)
    else if 7 ≤ (natLen num : Int) + e then f.roundMag rm sat neg ⟨2 ^ 160 - 1, -160, true⟩
    else f.roundMag rm sat neg (ziv (tanhEncl num e) (96 + (-(natLen num : Int) - e).toNat))

/-- 1/a rounded (R201). -/
def Fmt.recip (f : Fmt) (rm : Nat) (sat : Bool) (a : XV) : Nat × Flags :=
  let (v, g) := XV.div (.fin false 1 1 0) a
  let (r, h) := f.round rm sat v
  (r, g ||| h)

/-- 1/√a rounded (R201). -/
def Fmt.rsqrt (f : Fmt) (rm : Nat) (sat : Bool) (a : XV) : Nat × Flags :=
  match a with
  | .nan => (f.nan, 0)
  | .inf true => (f.nan, fInv)
  | .inf false => (f.signed false 0, 0)
  | .fin neg num den e =>
    if num = 0 then (f.infp neg, fDz)
    else if neg then (f.nan, fInv)
    else f.roundMag rm sat false (sqrtMag den num (-e))

end Sys2Proof.Machine
end

