-- ==== Sys2Proof/Machine/Vector.lean ====
section
/-!
DEFINITION. The V-slot instructions but VSIG (R188 to R209).
-/
namespace Sys2Proof
open Machine

/-! ## Element types (R188, R194 to R196, R203) -/

/-- Is the element type floating. -/
def VMods.float (m : VMods) : Option Fmt := if m.ety = 1 || m.ety = 2 || m.ety = 3 then fmtOf m.ety.toNat else none
/-- The integer of a pattern of the element type; type 0 is n32 (R188). -/
def VMods.int (m : VMods) (p : Nat) : Int := intOf (fmtSigned m.ety.toNat) (fmtBits m.ety.toNat) p
/-- An exact integer in the element type (R104, R195). -/
def VMods.ofInt (m : VMods) (sat : Bool) (x : Int) : Nat × Flags :=
  intToInt (fmtSigned m.ety.toNat) (fmtBits m.ety.toNat) sat x
/-- Round an exact value with the flags that formed it. -/
def VMods.fin (m : VMods) (f : Fmt) (v : XV × Flags) : Nat × Flags :=
  let (r, g) := f.round m.rnd.toNat m.sat v.1
  (r, g ||| v.2)
/-- a + b, a - b or a * b on patterns of the element type (R194, R195). -/
def VMods.bin (m : VMods) (ff : XV → XV → XV × Flags) (fi : Int → Int → Int) (a b : Nat) : Nat × Flags :=
  match m.float with
  | some f => m.fin f (ff (f.dec a) (f.dec b))
  | none => m.ofInt m.sat (fi (m.int a) (m.int b))
/-- The sum of two patterns. -/
def VMods.sum (m : VMods) (a b : Nat) : Nat × Flags := m.bin (XV.add m.rnd.toNat) (· + ·) a b
/-- ±(a*b) ± c with one rounding; a NaN operand raises no flag (R194). -/
def VMods.fused (m : VMods) (np nc : Bool) (l : List Nat) : Nat × Flags :=
  match m.float with
  | some f =>
    let a := f.dec (l.getD 0 0)
    let b := f.dec (l.getD 1 0)
    let c := f.dec (l.getD 2 0)
    if a.isNan || b.isNan || c.isNan then (f.nan, 0)
    else
      let (q, g) := XV.mul a b
      let (v, h) := XV.add m.rnd.toNat (if np then q.negate else q) (if nc then c.negate else c)
      m.fin f (v, g ||| h)
  | none => (0, 0)
/-- The lesser or greater of two patterns (R195, R196). -/
def VMods.pick (m : VMods) (gt : Bool) (a b : Nat) : Nat × Flags :=
  match m.float with
  | some f => (fpPick f gt a b, 0)
  | none => (if (if gt then decide (m.int b ≤ m.int a) else decide (m.int a ≤ m.int b)) then a else b, 0)
/-- a * 2^n rounded (R203). -/
def VMods.scaled (m : VMods) (a : Nat) (n : Int) : Nat × Flags :=
  match m.float with
  | some f => match f.dec a with
    | .fin neg v q e => f.round m.rnd.toNat m.sat (.fin neg v q (e + n))
    | .inf neg => (f.infp neg, 0)
    | .nan => (f.nan, 0)
  | none => (0, 0)
/-- The identity of a sum: -0, or 0 (R108). -/
def VMods.zero (m : VMods) : Nat := match m.float with
  | some f => f.signed true 0
  | none => 0
/-- The identity of a maximum or minimum (R108). -/
def VMods.extreme (m : VMods) (gt : Bool) : Nat :=
  let e := m.ety.toNat
  match m.float with
  | some f => f.infp gt
  | none => wrapNat (fmtBits e) (if gt then intLo (fmtSigned e) (fmtBits e) else intHi (fmtSigned e) (fmtBits e))

end Sys2Proof

namespace Sys2Proof.Machine

/-! ## Sources (R127, R190) -/

/-- A vector source as read: a register's or latch's value, or a broadcast scalar. -/
inductive VIn
  | reg (x : VReg)
  | bcast (v : Word)
  deriving DecidableEq, Repr

/-- The low `w` bits of vector lane `i` (R190). -/
def VIn.lane (x : VIn) (w i : Nat) : Nat := match x with
  | .reg v => ((v.lanes[i]?).getD 0).toNat % 2 ^ w
  | .bcast v => v.toNat % 2 ^ w
/-- The tag; a broadcast has none. -/
def VIn.tag : VIn → Half
  | .reg v => v.tag
  | .bcast _ => 0
/-- The scale; +1.0 for a broadcast (R127). -/
def VIn.scale : VIn → W32
  | .reg v => v.scale
  | .bcast _ => one32
/-- The format of a tag. -/
def tagFmt (t : Half) : Nat := bits t 0 4
/-- The version of a tag; 0 is untracked. -/
def tagVer (t : Half) : Nat := bits t 6 4

/-- A vector source, class first (R127, R368). -/
def Ctx.readV (c : Ctx) : VSrc → Except Fail VIn
  | .reg r => .ok (.reg c.vreg[r])
  | .latch q => match c.qreg[q] with
    | .vec v => .ok (.reg v)
    | .empty => .ok (.reg VReg.zero)
    | _ => .error (classFail q)
  | .bcast r => .ok (.bcast (c.sget ⟨r.val, by omega⟩).val)
/-- The residue of a broadcast scalar (R369). -/
def Ctx.bcastOk (c : Ctx) : VSrc → Except Fail Unit
  | .bcast r => (c.checked ⟨r.val, by omega⟩).map fun _ => ()
  | _ => .ok ()
/-- The sources of an operation: every class is checked before any residue (R363). -/
def Ctx.readVs (c : Ctx) (l : List VSrc) : Except Fail (List VIn) :=
  match l.mapM c.readV with
  | .error f => .error f
  | .ok xs => match l.mapM c.bcastOk with
    | .error f => .error f
    | .ok _ => .ok xs

/-! ## Tag checks (R99, R191, R192, R372) -/

/-- The first mismatch of a property among tracked tags: the later tag is found, the first expected. -/
def disagree (code : Nat) (f : Half → Nat) : List Half → Except Fail Unit
  | [] => .ok ()
  | t :: r => match r.find? (fun u => f u ≠ f t) with
    | some u => .error (tagFail code u.toNat t.toNat)
    | none => .ok ()
/-- Tracked sources agree in version, then in provenance (R99). -/
def trackOk (ts : List Half) : Except Fail Unit :=
  let tr := ts.filter fun t => tagVer t ≠ 0
  match disagree 0x08 tagVer tr with
  | .error f => .error f
  | .ok _ => disagree 0x09 (fun t => bits t 5 1) tr
/-- The prov and ver bits the tracked sources have in common, in place (R98). -/
def commonPv (ts : List Half) : Nat := match ts.find? (fun t => tagVer t ≠ 0) with
  | some t => bits t 5 5 * 2 ^ 5
  | none => 0

/-- A source of arithmetic: its format is `e` or 0, and it is not scaled (R99). That a source of format 0 may be scaled,
its scale then ignored, is a DESIGN CHOICE: R99 exempts it from the check, R100 accepts no scaled source (log entry 45). -/
def arithOk (e : Nat) (x : VIn) : Except Fail Unit :=
  if tagFmt x.tag = 0 then .ok ()
  else if tagFmt x.tag ≠ e || bitAt x.tag 4 then .error (tagFail 0x07 x.tag.toNat e)
  else .ok ()
/-- A source whose format must be `e` or 0 (R191, R192). -/
def fmtOk (e : Nat) (x : VIn) : Except Fail Unit :=
  if tagFmt x.tag = 0 || tagFmt x.tag = e then .ok () else .error (tagFail 0x07 x.tag.toNat e)
/-- The sources that supply data agree in format (R99). -/
def dataOk (xs : List VIn) : Except Fail Unit :=
  disagree 0x07 tagFmt ((xs.map VIn.tag).filter fun t => tagFmt t ≠ 0)
/-- All checks of a list. -/
def allOk (l : List (Except Fail Unit)) : Except Fail Unit := (l.mapM id).map fun _ => ()

/-! ## Results (R98, R192, R193) -/

/-- What an operation gives: the result's format, its scl, prov and ver bits, its scale, and each vector lane. -/
structure VRes where
  fmt   : Nat
  head  : Nat
  scale : W32
  lane  : Nat → Nat × Flags

/-- The register an operation delivers over old value `old`, with vector lanes `m` taken from the result (R98, R192). -/
def VRes.reg (r : VRes) (old : VReg) (m : Mask) : VReg × Flags :=
  let w := fmtBits r.fmt
  let ls := (List.range 128).map fun i =>
    if bitAt m i then r.lane i else (((old.lanes[i]?).getD 0).toNat % 2 ^ w, (0 : Flags))
  let v := lanesOf (ls.map Prod.fst)
  (⟨v, BitVec.ofNat 16 (r.fmt + r.head + summary r.fmt (v.toList.map BitVec.toNat)), r.scale⟩, ls.foldl (fun f x => f ||| x.2) 0)

/-- A V-slot operation with a vector result. `chk` is its format check; with a mask other than k0 the destination is one
more source, which `merge` checks against the result's format (R99, R192). -/
def vop (u : VUnit) (p : Fin 64) (d : Dst 32) (mask : Fin 8) (merge : Option (Nat → VIn → Except Fail Unit)) (lat : Nat) (srcs : List VSrc)
    (chk : List VIn → Except Fail Unit) (f : List VIn → Nat → VRes) (s : State) : Out :=
  s.slotOp u.slot p <| .need (s.me.readVs srcs) fun xs =>
    let old := s.me.vreg[d.reg]
    let mg := merge.isSome && mask ≠ 0
    let ts := xs.map VIn.tag ++ (if mg then [old.tag] else [])
    let r := f xs (commonPv ts)
    .need (chk xs) fun _ => .need (if mg then merge.getD fmtOk r.fmt (.reg old) else .ok ()) fun _ =>
      .need (trackOk ts) fun _ =>
        let m := if mg then s.me.kget mask else BitVec.allOnes 128
        let v := r.reg old m
        .done (s.land u.slot lat (dstV d v.1) (some (.vec v.1)) v.2)

/-- The source at a place. -/
def nth (xs : List VIn) (k : Nat) : VIn := xs.getD k (.bcast 0)

/-- An arithmetic operation of element type `m.ety` (R192, R193): the result is unscaled. -/
def varith (u : VUnit) (p : Fin 64) (d : Dst 32) (srcs : List VSrc) (m : VMods) (lat : Nat)
    (g : List Nat → Nat × Flags) (s : State) : Out :=
  let e := m.ety.toNat
  vop u p d m.mask (some arithOk) lat srcs (fun xs => allOk (xs.map (arithOk e)))
    (fun xs pv => ⟨e, pv, one32, fun i => g (xs.map fun x => x.lane (fmtBits e) i)⟩) s

/-! ## Arithmetic (R194 to R196) -/

/-- The first two patterns of a list. -/
def two {α : Type} (g : Nat → Nat → α) (l : List Nat) : α := g (l.getD 0 0) (l.getD 1 0)
/-- The first pattern. -/
def one {α : Type} (g : Nat → α) (l : List Nat) : α := g (l.getD 0 0)

/-- VADD (R194, R195). -/
def execVadd (u : VUnit) (p : Fin 64) (d : Dst 32) (a b : VSrc) (m : VMods) (s : State) : Out := varith u p d [a, b] m 2 (two m.sum) s
/-- VSUB (R194, R195). -/
def execVsub (u : VUnit) (p : Fin 64) (d : Dst 32) (a b : VSrc) (m : VMods) (s : State) : Out :=
  varith u p d [a, b] m 2 (two (m.bin (fun x y => XV.add m.rnd.toNat x y.negate) (· - ·))) s
/-- VMUL (R194, R195). -/
def execVmul (u : VUnit) (p : Fin 64) (d : Dst 32) (a b : VSrc) (m : VMods) (s : State) : Out :=
  varith u p d [a, b] m (latVMul s.me.kclass) (two (m.bin XV.mul (· * ·))) s

/-- VFMA (R194). -/
def execVfma (u : VUnit) (p : Fin 64) (d : Dst 32) (a b c : VSrc) (m : VMods) (s : State) : Out :=
  varith u p d [a, b, c] m (latVMul s.me.kclass) (m.fused false false) s
/-- VFMS (R194). -/
def execVfms (u : VUnit) (p : Fin 64) (d : Dst 32) (a b c : VSrc) (m : VMods) (s : State) : Out :=
  varith u p d [a, b, c] m (latVMul s.me.kclass) (m.fused false true) s
/-- VFNMA (R194). -/
def execVfnma (u : VUnit) (p : Fin 64) (d : Dst 32) (a b c : VSrc) (m : VMods) (s : State) : Out :=
  varith u p d [a, b, c] m (latVMul s.me.kclass) (m.fused true false) s

/-- VMIN (R195, R196). -/
def execVmin (u : VUnit) (p : Fin 64) (d : Dst 32) (a b : VSrc) (m : VMods) (s : State) : Out :=
  varith u p d [a, b] m 2 (two (m.pick false)) s
/-- VMAX (R195, R196). -/
def execVmax (u : VUnit) (p : Fin 64) (d : Dst 32) (a b : VSrc) (m : VMods) (s : State) : Out :=
  varith u p d [a, b] m 2 (two (m.pick true)) s
/-- The sign bit of a floating pattern set to `n`; NaN gives the default NaN (R196). -/
def signTo (f : Fmt) (n : Bool) (a : Nat) : Nat × Flags :=
  if (f.dec a).isNan then (f.nan, 0) else (f.signed n (a % 2 ^ (f.e + f.m)), 0)
/-- VABS (R195, R196). -/
def execVabs (u : VUnit) (p : Fin 64) (d : Dst 32) (a : VSrc) (m : VMods) (s : State) : Out :=
  varith u p d [a] m 2 (one fun x => match m.float with
    | some f => signTo f false x
    | none => m.ofInt m.sat (m.int x).natAbs) s
/-- VNEG (R195, R196). -/
def execVneg (u : VUnit) (p : Fin 64) (d : Dst 32) (a : VSrc) (m : VMods) (s : State) : Out :=
  varith u p d [a] m 2 (one fun x => match m.float with
    | some f => signTo f (!x.testBit (f.e + f.m)) x
    | none => m.ofInt m.sat (-m.int x)) s
/-- VCPYS (R196). -/
def execVcpys (u : VUnit) (p : Fin 64) (d : Dst 32) (a b : VSrc) (m : VMods) (s : State) : Out :=
  varith u p d [a, b] m 2 (two fun x y => match m.float with
    | some f => signTo f (y.testBit (f.e + f.m)) x
    | none => (0, 0)) s

/-! ## Logic and shifts (R197) -/

/-- Bit operations: no format check (R99). -/
def vlogic (u : VUnit) (p : Fin 64) (d : Dst 32) (a b : VSrc) (m : VMods) (g : Nat → Nat → Nat) (s : State) : Out :=
  let w := fmtBits m.ety.toNat
  vop u p d m.mask (some fmtOk) 2 [a, b] (fun _ => .ok ())
    (fun xs pv => ⟨m.ety.toNat, pv, one32, fun i => (g ((nth xs 0).lane w i) ((nth xs 1).lane w i) % 2 ^ w, 0)⟩) s
/-- VAND -/
def execVand (u : VUnit) (p : Fin 64) (d : Dst 32) (a b : VSrc) (m : VMods) (s : State) : Out := vlogic u p d a b m (· &&& ·) s
/-- VOR -/
def execVor (u : VUnit) (p : Fin 64) (d : Dst 32) (a b : VSrc) (m : VMods) (s : State) : Out := vlogic u p d a b m (· ||| ·) s
/-- VXOR -/
def execVxor (u : VUnit) (p : Fin 64) (d : Dst 32) (a b : VSrc) (m : VMods) (s : State) : Out := vlogic u p d a b m (· ^^^ ·) s
/-- VSHL -/
def execVshl (u : VUnit) (p : Fin 64) (d : Dst 32) (a b : VSrc) (m : VMods) (s : State) : Out :=
  vlogic u p d a b m (fun x y => x <<< (y % 64)) s
/-- VSHR -/
def execVshr (u : VUnit) (p : Fin 64) (d : Dst 32) (a b : VSrc) (m : VMods) (s : State) : Out :=
  vlogic u p d a b m (fun x y => x >>> (y % 64)) s
/-- VSRA: the signed value whatever the type. -/
def execVsra (u : VUnit) (p : Fin 64) (d : Dst 32) (a b : VSrc) (m : VMods) (s : State) : Out :=
  let w := fmtBits m.ety.toNat
  vlogic u p d a b m (fun x y => wrapNat w (sextNat x w / ((2 ^ (y % 64) : Nat) : Int))) s

/-! ## Compares, classes, selection (R198 to R200) -/

/-- A comparison into a mask register; `ff` answers whether the relation holds and whether a NaN raises invalid. -/
def vcmp (u : VUnit) (p : Fin 64) (d : Dst 8) (a b : VSrc) (m : VMods) (nanInv : Bool) (ff : XV → XV → Bool)
    (fi : Int → Int → Bool) (s : State) : Out :=
  s.slotOp u.slot p <| .need (s.me.readVs [a, b]) fun xs =>
    let e := m.ety.toNat
    let w := fmtBits e
    .need (allOk (xs.map (arithOk e))) fun _ => .need (trackOk (xs.map VIn.tag)) fun _ =>
      let rel (i : Nat) : Bool × Flags :=
        let x := (nth xs 0).lane w i
        let y := (nth xs 1).lane w i
        match m.float with
        | some f => (ff (f.dec x) (f.dec y), flagIf (nanInv && ((f.dec x).isNan || (f.dec y).isNan)) fInv)
        | none => (fi (m.int x) (m.int y), 0)
      let act := s.me.kget m.mask
      let old := s.me.kget d.reg
      let rs := (List.range 128).map fun i => if bitAt act i then rel i else (bitAt old i, (0 : Flags))
      let k : Mask := BitVec.ofNat 128 (rs.foldr (fun b n => (if b.1 then 1 else 0) + 2 * n) 0)
      .done (s.land u.slot 2 (dstK d k) (some (.mask k)) (rs.foldl (fun f x => f ||| x.2) 0))
/-- VCMPEQ -/
def execVcmpeq (u : VUnit) (p : Fin 64) (d : Dst 8) (a b : VSrc) (m : VMods) (s : State) : Out :=
  vcmp u p d a b m false XV.eqv (fun x y => decide (x = y)) s
/-- VCMPLT -/
def execVcmplt (u : VUnit) (p : Fin 64) (d : Dst 8) (a b : VSrc) (m : VMods) (s : State) : Out :=
  vcmp u p d a b m true XV.lt (fun x y => decide (x < y)) s
/-- VCMPLE -/
def execVcmple (u : VUnit) (p : Fin 64) (d : Dst 8) (a b : VSrc) (m : VMods) (s : State) : Out :=
  vcmp u p d a b m true XV.le (fun x y => decide (x ≤ y)) s
/-- VCMPNE -/
def execVcmpne (u : VUnit) (p : Fin 64) (d : Dst 8) (a b : VSrc) (m : VMods) (s : State) : Out :=
  vcmp u p d a b m false (fun x y => !XV.eqv x y) (fun x y => decide (x ≠ y)) s

/-- The class bit set of a floating pattern (R199). -/
def classBits (f : Fmt) (p : Nat) : Nat :=
  let neg := p.testBit (f.e + f.m)
  match f.dec p with
  | .nan => 2 ^ 8
  | .inf _ => if neg then 2 ^ 0 else 2 ^ 7
  | .fin _ n _ _ =>
    if n = 0 then (if neg then 2 ^ 3 else 2 ^ 4)
    else if (p >>> f.m) % 2 ^ f.e = 0 then (if neg then 2 ^ 2 else 2 ^ 5)
    else if neg then 2 ^ 1 else 2 ^ 6
/-- VCLASS (R199). -/
def execVclass (u : VUnit) (p : Fin 64) (d : Dst 32) (a : VSrc) (m : VMods) (s : State) : Out :=
  let e := m.ety.toNat
  vop u p d m.mask (some arithOk) 2 [a] (fun xs => allOk (xs.map (arithOk e)))
    (fun xs pv => ⟨12, pv, one32, fun i => (match fmtOf e with
      | some f => classBits f ((nth xs 0).lane (fmtBits e) i)
      | none => 0, 0)⟩) s

/-- The scl, prov and ver bits of a tag, in place. -/
def headOf (x : VIn) : Nat := bits x.tag 4 6 * 2 ^ 4

/-- An operation that moves vector lanes: format, scl, scale, prov and ver come from va (R98, R207), and a lane holds the
bits of that format (R96). -/
def vmove (u : VUnit) (p : Fin 64) (d : Dst 32) (mask : Fin 8) (merge : Option (Nat → VIn → Except Fail Unit)) (lat : Nat) (srcs : List VSrc)
    (chk : List VIn → Except Fail Unit) (g : List VIn → Nat → Nat) (s : State) : Out :=
  vop u p d mask merge lat srcs chk (fun xs _ =>
    ⟨tagFmt (nth xs 0).tag, headOf (nth xs 0), (nth xs 0).scale,
      fun i => (g xs i % 2 ^ fmtBits (tagFmt (nth xs 0).tag), 0)⟩) s

/-- VSEL (R200). -/
def execVsel (u : VUnit) (p : Fin 64) (d : Dst 32) (a b : VSrc) (ks : Fin 8) (s : State) : Out :=
  vmove u p d 0 none 2 [a, b] dataOk
    (fun xs i => if bitAt (s.me.kget ks) i then (nth xs 0).lane 32 i else (nth xs 1).lane 32 i) s

/-! ## Transcendental functions (R201) -/

/-- A function of one operand. -/
def vfun (u : VUnit) (p : Fin 64) (d : Dst 32) (a : VSrc) (m : VMods) (g : Fmt → Nat → Bool → XV → Nat × Flags)
    (s : State) : Out :=
  varith u p d [a] m 8 (one fun x => match m.float with
    | some f => g f m.rnd.toNat m.sat (f.dec x)
    | none => (0, 0)) s
/-- VRCP -/
def execVrcp (u : VUnit) (p : Fin 64) (d : Dst 32) (a : VSrc) (m : VMods) (s : State) : Out := vfun u p d a m Fmt.recip s
/-- VRSQRT -/
def execVrsqrt (u : VUnit) (p : Fin 64) (d : Dst 32) (a : VSrc) (m : VMods) (s : State) : Out := vfun u p d a m Fmt.rsqrt s
/-- VSQRT -/
def execVsqrt (u : VUnit) (p : Fin 64) (d : Dst 32) (a : VSrc) (m : VMods) (s : State) : Out := vfun u p d a m Fmt.sqrt s
/-- VEXP2 -/
def execVexp2 (u : VUnit) (p : Fin 64) (d : Dst 32) (a : VSrc) (m : VMods) (s : State) : Out := vfun u p d a m Fmt.exp2 s
/-- VLOG2 -/
def execVlog2 (u : VUnit) (p : Fin 64) (d : Dst 32) (a : VSrc) (m : VMods) (s : State) : Out := vfun u p d a m Fmt.log2 s
/-- VTANH -/
def execVtanh (u : VUnit) (p : Fin 64) (d : Dst 32) (a : VSrc) (m : VMods) (s : State) : Out := vfun u p d a m Fmt.tanh s

/-! ## Conversion, scaling, quantisation (R202 to R204) -/

/-- The exact value of a pattern in a format (R96). -/
def patVal (f p : Nat) : XV := match fmtOf f with
  | some q => q.dec p
  | none => XV.ofInt (intOf (fmtSigned f) (fmtBits f) p)
/-- An exact value in a format, floating or integer (R103, R104). -/
def intoFmt (e rm : Nat) (sat : Bool) (v : XV) : Nat × Flags := match fmtOf e with
  | some f => f.round rm sat v
  | none => floatToInt (fmtSigned e) (fmtBits e) rm sat v
/-- The value of lane `i` of a source under its scale; NaN operands raise nothing (R202). -/
def VIn.value (x : VIn) (i : Nat) : XV × Flags :=
  let f := tagFmt x.tag
  let v := patVal f (x.lane (fmtBits f) i)
  if bitAt x.tag 4 then XV.mul v (f32 x.scale) else (v, 0)

/-- One vector lane of VCVT (R202). An integer under a scale converts as a real number (log entry 9). -/
def cvtLane (e rm : Nat) (sat : Bool) (x : VIn) (i : Nat) : Nat × Flags :=
  let f := tagFmt x.tag
  if fmtInt f && fmtInt e && !bitAt x.tag 4 then
    intToInt (fmtSigned e) (fmtBits e) sat (intOf (fmtSigned f) (fmtBits f) (x.lane (fmtBits f) i))
  else
    let (v, g) := x.value i
    let (r, h) := intoFmt e rm sat v
    (r, g ||| h)
/-- VCVT (R202): a source with no format is refused (R99). -/
def execVcvt (u : VUnit) (p : Fin 64) (d : Dst 32) (a : VSrc) (m : VMods) (s : State) : Out :=
  let e := m.ety.toNat
  vop u p d m.mask (some fmtOk) 3 [a]
    (fun xs => if tagFmt (nth xs 0).tag = 0 then .error (tagFail 0x07 (nth xs 0).tag.toNat e) else .ok ())
    (fun xs pv => ⟨e, pv, one32, cvtLane e m.rnd.toNat m.sat (nth xs 0)⟩) s

/-- VSCALE (R190, R203). -/
def execVscale (u : VUnit) (p : Fin 64) (d : Dst 32) (a b : VSrc) (m : VMods) (s : State) : Out :=
  let e := m.ety.toNat
  vop u p d m.mask (some arithOk) (latVMul s.me.kclass) [a, b] (fun xs => allOk [arithOk e (nth xs 0), arithOk 11 (nth xs 1)])
    (fun xs pv => ⟨e, pv, one32, fun i =>
      m.scaled ((nth xs 0).lane (fmtBits e) i) (sextNat ((nth xs 1).lane 32 i) 32)⟩) s

/-- One vector lane of VQUANT (R204). -/
def quantLane (e rm : Nat) (sat : Bool) (x : VIn) (sc : W32) (i : Nat) : Nat × Flags :=
  let (v, g) := x.value i
  let (q, h) := XV.div v (f32 sc)
  let (r, k) := intoFmt e rm sat q
  (r, quiet [f32 sc] (g ||| h) ||| k)
/-- VQUANT (R190, R204): prov and ver come from va. -/
def execVquant (u : VUnit) (p : Fin 64) (d : Dst 32) (a b : VSrc) (m : VMods) (s : State) : Out :=
  let e := m.ety.toNat
  vop u p d m.mask (some fmtOk) 3 [a, b]
    (fun xs =>
      let t := (nth xs 0).tag
      if 1 ≤ tagFmt t && tagFmt t ≤ 3 then fmtOk 1 (nth xs 1) else .error (tagFail 0x07 t.toNat 1))
    (fun xs _ =>
      let sc : W32 := BitVec.ofNat 32 ((nth xs 1).lane 32 0)
      ⟨e, 2 ^ 4 + bits (nth xs 0).tag 5 5 * 2 ^ 5, sc, quantLane e m.rnd.toNat m.sat (nth xs 0) sc⟩) s

/-! ## Reductions and scan (R108, R205, R206) -/

/-- An operation on patterns as one on words. -/
def onW32 (g : Nat → Nat → Nat × Flags) (x y : W32) : W32 × Flags := let r := g x.toNat y.toNat; (BitVec.ofNat 32 r.1, r.2)
/-- The patterns of a source with the vector lanes a mask leaves out replaced by an identity (R108). -/
def masked (x : VIn) (w : Nat) (k : Mask) (z : Nat) : List W32 :=
  (List.range 128).map fun i => BitVec.ofNat 32 (if bitAt k i then x.lane w i else z)
/-- A reduction whose result fills every vector lane (R205). -/
def vreduce (u : VUnit) (p : Fin 64) (d : Dst 32) (a : VSrc) (m : VMods) (z : Nat) (g : Nat → Nat → Nat × Flags)
    (s : State) : Out :=
  let e := m.ety.toNat
  vop u p d 0 none 6 [a] (fun xs => allOk (xs.map (arithOk e)))
    (fun xs pv =>
      let r := treeReduce (onW32 g) (masked (nth xs 0) (fmtBits e) (s.me.kget m.mask) z)
      ⟨e, pv, one32, fun _ => (r.1.toNat, r.2)⟩) s
/-- VRADD -/
def execVradd (u : VUnit) (p : Fin 64) (d : Dst 32) (a : VSrc) (m : VMods) (s : State) : Out := vreduce u p d a m m.zero m.sum s
/-- VRMAX -/
def execVrmax (u : VUnit) (p : Fin 64) (d : Dst 32) (a : VSrc) (m : VMods) (s : State) : Out :=
  vreduce u p d a m (m.extreme true) (m.pick true) s
/-- VRMIN -/
def execVrmin (u : VUnit) (p : Fin 64) (d : Dst 32) (a : VSrc) (m : VMods) (s : State) : Out :=
  vreduce u p d a m (m.extreme false) (m.pick false) s

/-- One doubling level of the scan (R108). -/
def scanLevel (g : W32 → W32 → W32 × Flags) (k : Nat) (l : List W32) : List (W32 × Flags) :=
  (l.take k).map (fun x => (x, (0 : Flags))) ++ List.zipWith g l (l.drop k)
/-- The levels of the scan. -/
def scanGo (g : W32 → W32 → W32 × Flags) : Nat → Nat → List W32 → Flags → List W32 × Flags
  | 0, _, l, f => (l, f)
  | n + 1, k, l, f =>
    let r := scanLevel g k l
    scanGo g n (2 * k) (r.map Prod.fst) (r.foldl (fun a x => a ||| x.2) f)
/-- VSCAN (R206). -/
def execVscan (u : VUnit) (p : Fin 64) (d : Dst 32) (a : VSrc) (m : VMods) (s : State) : Out :=
  let e := m.ety.toNat
  vop u p d 0 none 6 [a] (fun xs => allOk (xs.map (arithOk e)))
    (fun xs pv =>
      let r := scanGo (onW32 m.sum) 7 1 (masked (nth xs 0) (fmtBits e) (s.me.kget m.mask) m.zero) 0
      ⟨e, pv, one32, fun i => ((r.1.getD i 0).toNat, r.2)⟩) s

/-! ## Lane movement (R207) -/

/-- The lane number of a source: bits [6:0] of its vector lane 0 (R190). -/
def laneNo (x : VIn) : Nat := x.lane 7 0
/-- VBCAST -/
def execVbcast (u : VUnit) (p : Fin 64) (d : Dst 32) (a b : VSrc) (mask : Fin 8) (s : State) : Out :=
  vmove u p d mask (some fmtOk) 2 [a, b] (fun _ => .ok ()) (fun xs _ => (nth xs 0).lane 32 (laneNo (nth xs 1))) s
/-- VPERM -/
def execVperm (u : VUnit) (p : Fin 64) (d : Dst 32) (a b c : VSrc) (mask : Fin 8) (s : State) : Out :=
  vmove u p d mask (some fmtOk) 3 [a, b, c] (fun xs => dataOk [nth xs 0, nth xs 2]) (fun xs i =>
    let t := (nth xs 1).lane 8 i
    (if t < 128 then nth xs 0 else nth xs 2).lane 32 (t % 128)) s
/-- VROTL -/
def execVrotl (u : VUnit) (p : Fin 64) (d : Dst 32) (a b : VSrc) (mask : Fin 8) (s : State) : Out :=
  vmove u p d mask (some fmtOk) 3 [a, b] (fun _ => .ok ()) (fun xs i => (nth xs 0).lane 32 ((i + laneNo (nth xs 1)) % 128)) s
/-- VIOTA: the result format is the element type. -/
def execViota (u : VUnit) (p : Fin 64) (d : Dst 32) (a : VSrc) (m : VMods) (s : State) : Out :=
  let w := fmtBits m.ety.toNat
  vop u p d m.mask (some fmtOk) 2 [a] (fun _ => .ok ())
    (fun xs _ => ⟨m.ety.toNat, headOf (nth xs 0), (nth xs 0).scale, fun i => (((nth xs 0).lane w i + i) % 2 ^ w, 0)⟩) s
/-- VMOV -/
def execVmov (u : VUnit) (p : Fin 64) (d : Dst 32) (a : VSrc) (mask : Fin 8) (s : State) : Out :=
  vmove u p d mask (some fmtOk) 2 [a] (fun _ => .ok ()) (fun xs i => (nth xs 0).lane 32 i) s
/-- VINS -/
def execVins (u : VUnit) (p : Fin 64) (d : Dst 32) (a b c : VSrc) (s : State) : Out :=
  vmove u p d 0 none 3 [a, b, c] (fun xs => dataOk [nth xs 0, nth xs 1]) (fun xs i =>
    (if i = laneNo (nth xs 2) then nth xs 1 else nth xs 0).lane 32 i) s

/-- A scalar destination s0 to s31 of the V slot (R188). -/
def dstVS (d : Dst 32) : Dst 64 := ⟨⟨d.reg.val, by omega⟩, d.nowb⟩
/-- VEXTR: extended by the format of va; no format check. -/
def execVextr (u : VUnit) (p : Fin 64) (d : Dst 32) (a b : VSrc) (s : State) : Out :=
  s.slotOp u.slot p <| .need (s.me.readVs [a, b]) fun xs => .need (trackOk (xs.map VIn.tag)) fun _ =>
    let f := tagFmt (nth xs 0).tag
    let x := (nth xs 0).lane (fmtBits f) (laneNo (nth xs 1))
    .done (s.landS u.slot 3 (dstVS d) (BitVec.ofInt 64 (intOf (fmtSigned f) (fmtBits f) x)) 0)

/-! ## Masks (R208, R209) -/

/-- The lowest set bit of a mask, or zero. -/
def lowestBit (m : Mask) : Mask := match (List.range 128).find? fun i => bitAt m i with
  | some i => 1#128 <<< i
  | none => 0
/-- VMOVK (R208). -/
def execVmovk (u : VUnit) (p : Fin 64) (d : Dst 8) (a b : Fin 8) (op : BitVec 5) (s : State) : Out :=
  let x := s.me.kget a
  let y := s.me.kget b
  let k : Mask := match op.toNat with
    | 0 => x &&& y | 1 => x ||| y | 2 => x ^^^ y | 3 => x &&& ~~~y | 4 => ~~~x | 5 => x | _ => lowestBit x
  s.slotOp u.slot p (.done (s.land u.slot 2 (dstK d k) (some (.mask k)) 0))
/-- KPOPC (R209). -/
def execKpopc (u : VUnit) (p : Fin 64) (d : Dst 32) (a : Fin 8) (mask : Fin 8) (s : State) : Out :=
  s.slotOp u.slot p (.done (s.landS u.slot 2 (dstVS d) (BitVec.ofNat 64 (popCount (s.me.kget a &&& s.me.kget mask) 128)) 0))

end Sys2Proof.Machine
end

