-- ==== Sys2Proof/Machine/Heads.lean ====
section
/-!
DEFINITION. Heads: the key signature of VSIG and KST, the append of KST, and the projection cache (R88 to R90, R174,
R210, R406, R407).
-/
namespace Sys2Proof.Machine

/-! ## Head-control blocks (R88, R406) -/

/-- A head-control block as read. -/
structure Hcb where
  proj : Nat
  b : Nat
  tables : Nat
  probe : Bool
  kbase : Nat
  vbase : Nat
  heads : Nat
  pool : Nat
  plimit : Nat
  bump : Nat
  ntok : Nat
  gcap : Nat
  povf : Bool
  deriving DecidableEq, Repr

/-- Bytes at a virtual address as `v` shows them, with their locations; poison fails the read (R401). -/
def State.vaBytes (s : State) (v : Nat → Byte) (a : BitVec 12) (va n : Nat) : Gate (List Nat × List Byte) :=
  (s.gate1 a va n ⟨false, false⟩).bind fun ls =>
    match ls.find? s.poisoned with
    | some l => .fail { code := 0x23, faddr := unitName (BitVec.ofNat 64 va) ls l }
    | none => .ok (ls, ls.map v)

/-- Parse the 256 bytes of a head-control block, with the checks of R406. That bits [63:56] of the words at 0x00, 0x10,
0x18, 0x20 and 0x28, which R88 does not list, are reserved and must be zero is a DESIGN CHOICE (log entry 61). -/
def parseHcb (va : Nat) (bs : List Byte) : Gate Hcb :=
  let w (o : Nat) : Nat := leNat ((bs.drop o).take 8)
  let h : Hcb := {
    proj := w 0 % 2 ^ 56, b := w 8 % 32, tables := (w 8 >>> 5) % 8, probe := (w 8 >>> 8) % 2 = 1,
    kbase := w 16 % 2 ^ 56, vbase := w 24 % 2 ^ 56, heads := w 32 % 2 ^ 56, pool := w 40 % 2 ^ 56,
    plimit := w 48 % 2 ^ 32, bump := w 48 >>> 32, ntok := w 56 % 2 ^ 32, gcap := w 56 >>> 32, povf := w 64 % 2 = 1 }
  let resv := w 8 >>> 9 ≠ 0 || w 64 >>> 1 ≠ 0 || ([0, 16, 24, 32, 40].any fun o => w o >>> 56 ≠ 0) ||
    (bs.drop 72).any (· ≠ 0)
  if h.b = 0 || 16 < h.b || h.tables = 0 || 4 < h.tables || 64 < h.tables * h.b || resv ||
      h.proj % 256 ≠ 0 || h.kbase % 256 ≠ 0 || h.vbase % 256 ≠ 0 || h.heads % 8 ≠ 0 || h.pool % 64 ≠ 0 then
    .fail (mkFail 0x0B va 0)
  else .ok h

/-- Read a head-control block: its alignment, its bytes, its fields (R406). -/
def State.readHcb (s : State) (v : Nat → Byte) (a : BitVec 12) (va : Nat) : Gate (List Nat × Hcb) :=
  if va % 256 ≠ 0 then .fail (mkFail 0x27 va 0)
  else (s.vaBytes v a va 256).bind fun r => (parseHcb va r.2).bind fun h => .ok (r.1, h)

/-! ## Signatures (R174, R210) -/

/-- One signature bit: products rounded to FP32, then the tree; only a positive sum gives 1. -/
def sigBit (q : List XV) (row : List Byte) : Bool :=
  let ps := (List.range 128).map fun j =>
    (r32 (XV.mul (q.getD j XV.zero) (bf16.dec (leNat ((row.drop (2 * j)).take 2)))).1).1
  let t := f32 (treeReduce add32 ps).1
  !t.isNan && !t.isZero && !t.neg
/-- The signature of a vector under a head: bit 16t + i for hyperplane t*b + i. -/
def signature (h : Hcb) (rows : List Byte) (q : List XV) : Nat :=
  (List.range (h.tables * h.b)).foldl (fun n r =>
    if sigBit q ((rows.drop (256 * r)).take 256) then n + 2 ^ (16 * (r / h.b) + r % h.b) else n) 0

/-- The cached projection of a head. -/
def CoreSt.projOf (k : CoreSt) (a : BitVec 12) (hcb : Nat) : Option ProjEnt := k.proj.find? fun e => e.asid = a && e.hcb = hcb
/-- The entry becomes the most recently used of the four (R88, R210). -/
def CoreSt.useProj (k : CoreSt) (e : ProjEnt) : CoreSt :=
  { k with proj := (e :: k.proj.filter fun x => !(x.asid = e.asid && x.hcb = e.hcb)).take 4 }

/-- The projection matrix of a head, as published at the lane's open time (R210). The cache decides only whether the
lane stalls: software changes a matrix only while no active node uses its head (R88), and a cached matrix that has been
changed since is no longer held. -/
def State.projection (s : State) (v : Nat → Byte) (c : CtxId) (h : Hcb) : Gate (List Nat × List Byte) :=
  s.vaBytes v (s.ctx c).asid h.proj (256 * h.tables * h.b)
/-- A use of a projection with these rows: most recent, or the lane stalls after its bundle until it is loaded (R210). -/
def State.projUsed (s : State) (hcb : Nat) (rows : List Byte) : State :=
  match (s.core s.cur.core).projOf s.me.asid hcb with
  | some e => if e.rows = rows then s.modCore s.cur.core fun k => k.useProj e
    else s.modMe fun c => { c with wait := .projection hcb }
  | none => s.modMe fun c => { c with wait := .projection hcb }

/-- Continue a slot operation past a gate; a fault waits for Zenhel (R397, R398). -/
def State.past {α : Type} (s : State) (sl : Slot) (g : Gate α) (k : α → Res) : Res :=
  match g with
  | .ok a => k a
  | .fail f => .fail f
  | .fault f => s.faultHold sl f

/-- The plain reads of stretches of memory, each named by its virtual address: they are logged, and the lines leave exact
form (R85). -/
def State.touchReads (s : State) : List (Nat × List Nat) → Except Fail State
  | [] => .ok s
  | (va, ls) :: t => match s.mTouch .read ls (BitVec.ofNat 64 va) with
    | .error f => .error f
    | .ok s' => (s'.flushLocs ls).touchReads t

/-- VSIG (R210): no sticky flag, latency 10. -/
def execVsig (u : VUnit) (p : Fin 64) (d : Dst 32) (a : VSrc) (h : Fin 16) (ety : BitVec 4) (s : State) : Out :=
  s.slotOp u.slot p <| .need (s.me.readVs [a, .bcast h]) fun xs =>
    let q := nth xs 0
    let e := ety.toNat
    .need (arithOk e q) fun _ => .need (trackOk [q.tag]) fun _ =>
      let va := (s.me.sget ⟨h.val, by omega⟩).val.toNat
      let w := s.settled s.cur
      let v := (w.view s.cur).plainByte
      s.past u.slot (w.readHcb v s.me.asid va) fun hc => s.past u.slot (w.projection v s.cur hc.2) fun pr =>
        if s.waits (hc.1 ++ pr.1) then .hold s
        else .need (s.touchReads [(va, hc.1), (hc.2.proj, pr.1)]) fun t =>
          let sig := signature hc.2 pr.2 ((List.range 128).map fun i => patVal e (q.lane (fmtBits e) i))
          .done ((t.landS u.slot (latVSig s.me.kclass) (dstVS d) (BitVec.ofNat 64 sig) 0).projUsed va pr.2)

/-! ## Key store (R89, R90, R174, R407) -/

/-- A reed: the next index, and the tokens it holds. -/
structure Reed where
  next : Nat
  toks : List Nat
  deriving DecidableEq, Repr
/-- The reed that 64 bytes hold. -/
def parseReed (bs : List Byte) : Reed :=
  let w := leNat (bs.take 8)
  ⟨w % 2 ^ 32, (List.range (min 14 ((w >>> 32) % 16))).map fun i => leNat ((bs.drop (8 + 4 * i)).take 4)⟩
/-- The 64 bytes of a reed. -/
def Reed.bytes (r : Reed) : List Byte :=
  leBytes (r.next + r.toks.length * 2 ^ 32) 8 ++ (List.range 14).flatMap fun i => leBytes (r.toks.getD i 0) 4

/-- What a KST has read and changed so far. -/
structure KstAcc where
  bump  : Nat
  heads : Sparse (Option Nat)
  reeds : Sparse (Option Reed)
  reads : List (Nat × List Nat)

/-- The marker of an empty bucket and of the end of a chain (R89). -/
def noReed : Nat := 0xFFFFFFFF

/-- The head entry at virtual address `hv`. -/
def KstAcc.head (k : KstAcc) (s : State) (v : Nat → Byte) (a : BitVec 12) (hv : Nat) : Gate (Nat × KstAcc) :=
  match Sparse.get none k.heads hv with
  | some e => .ok (e, k)
  | none => (s.vaBytes v a hv 8).bind fun r => .ok (leNat r.2, { k with reads := k.reads ++ [(hv, r.1)] })
/-- Reed `n`. -/
def KstAcc.reed (k : KstAcc) (s : State) (v : Nat → Byte) (a : BitVec 12) (h : Hcb) (n : Nat) : Gate (Reed × KstAcc) :=
  match Sparse.get none k.reeds n with
  | some e => .ok (e, k)
  | none => (s.vaBytes v a (h.pool + 64 * n) 64).bind fun r =>
    .ok (parseReed r.2, { k with reads := k.reads ++ [(h.pool + 64 * n, r.1)] })
/-- Take a new reed, or find the pool exhausted (R407). -/
def KstAcc.newReed (k : KstAcc) (hcb : Nat) (h : Hcb) : Gate (Nat × KstAcc) :=
  if k.bump = h.plimit then .fail (mkFail 0x35 hcb 0) else .ok (k.bump, { k with bump := k.bump + 1 })
/-- Append a token to bucket `kb` of table `t` (R174). -/
def KstAcc.append (k : KstAcc) (s : State) (v : Nat → Byte) (a : BitVec 12) (hcb : Nat) (h : Hcb) (t kb : Nat) : Gate KstAcc :=
  let hv := h.heads + 8 * (t * 2 ^ h.b + kb)
  let put (k : KstAcc) (n : Nat) (r : Reed) (e : Nat) : KstAcc :=
    { k with reeds := Sparse.set none k.reeds n (some { r with toks := r.toks ++ [h.ntok] }), heads := Sparse.set none k.heads hv (some e) }
  (k.head s v a hv).bind fun (e, k) =>
    if e = 2 ^ 64 - 1 then (k.newReed hcb h).bind fun (n, k) => .ok (put k n ⟨noReed, []⟩ (n + n * 2 ^ 32))
    else (k.reed s v a h (e >>> 32)).bind fun (r, k) =>
      if r.toks.length = 14 then
        (k.newReed hcb h).bind fun (n, k) =>
          .ok (put { k with reeds := Sparse.set none k.reeds (e >>> 32) (some { r with next := n }) } n ⟨noReed, []⟩ (e % 2 ^ 32 + n * 2 ^ 32))
      else .ok (put k (e >>> 32) r e)
/-- Append to every table. -/
def KstAcc.appendAll (s : State) (v : Nat → Byte) (a : BitVec 12) (hcb : Nat) (h : Hcb) (sig : Nat) : List Nat → KstAcc → Gate KstAcc
  | [], k => .ok k
  | t :: r, k => (k.append s v a hcb h t ((sig >>> (16 * t)) % 2 ^ h.b)).bind (KstAcc.appendAll s v a hcb h sig r)

/-- What a KST writes: virtual addresses and bytes (R90, R174). -/
def KstAcc.writes (k : KstAcc) (hcb : Nat) (h : Hcb) (key : List Byte) : List (Nat × List Byte) :=
  [(h.kbase + 256 * h.ntok, key), (hcb + 0x34, leBytes k.bump 4), (hcb + 0x38, leBytes (h.ntok + 1) 4)] ++
    (k.heads.filterMap fun e => e.2.map fun v => (e.1, leBytes v 8)) ++
    (k.reeds.filterMap fun e => e.2.map fun r => (h.pool + 64 * e.1, r.bytes))

/-- Translate every write before any is made (R399). -/
def State.gateWrites (s : State) (a : BitVec 12) (ws : List (Nat × List Byte)) : Gate (List (Nat × List Host.Cell)) :=
  gateAll (fun w => (s.gate1 a w.1 w.2.length ⟨true, false⟩).bind fun ls =>
    let cs := ls.zip w.2
    match s.poisonWrite cs with
    | some l => .fail { code := 0x23, faddr := unitName (BitVec.ofNat 64 w.1) ls l }
    | none => .ok (w.1, cs)) ws

/-- Hold writes of the M slot to their close, logging each (R36, R255). -/
def State.holdWrites (s : State) (once : Bool) : List (Nat × List Host.Cell) → Except Fail State
  | [] => .ok s
  | (va, cs) :: t => match s.mTouch .write (cs.map Prod.fst) (BitVec.ofNat 64 va) with
    | .error f => .error f
    | .ok s' => (s'.modMe fun c => { c with pend := c.pend ++ [⟨.bytes cs, BitVec.ofNat 64 va, once, false, some 0⟩] }).holdWrites once t

/-- KST (R174): everything it writes is published together at the close (R90). -/
def execKst (p : Fin 64) (d : Fin 64) (base : Fin 64) (off : MOff) (s : State) : Out :=
  s.slotOp .m p <| .need (s.me.ea base off) fun ka => .need (s.me.checked d) fun ha =>
    if misaligned ka 32 then .fail (alignFail ka)
    else if misaligned ha 256 then .fail (alignFail ha)
    else s.spadRead [(ka, 256)] 32 fun key t =>
      let hcb := ha.toNat
      let w := s.settled s.cur
      let v := (w.view s.cur).plainByte
      let a := s.me.asid
      s.past .m (w.readHcb v a hcb) fun hc => s.past .m (w.projection v s.cur hc.2) fun pr =>
        let q := (List.range 128).map fun j => bf16.dec (leNat ((key.drop (2 * j)).take 2))
        let h := hc.2
        let k0 : KstAcc := ⟨h.bump, [], [], [(hcb, hc.1), (h.proj, pr.1)]⟩
        s.past .m (KstAcc.appendAll w v a hcb h (signature h pr.2 q) (List.range h.tables) k0) fun k =>
          s.past .m (w.gateWrites a (k.writes hcb h key)) fun ws =>
            if s.waits (k.reads.flatMap Prod.snd ++ ws.flatMap fun x => x.2.map Prod.fst) then .hold s
            else .need (t.touchReads k.reads) fun t => .need (t.holdWrites true ws) fun t => .done (t.projUsed hcb pr.2)

/-- PROJECTION_CACHE_FILL (R88, R210): the unit has loaded a head's projection; the lanes that wait for it go on. -/
def execProjectionCacheFill (core : Fin 128) (hcb : Nat) (s : State) : Out :=
  let waits : List CtxId := [⟨core, 0⟩, ⟨core, 1⟩].filter fun c => (s.ctx c).wait = .projection hcb
  .next (waits.foldl (fun s c =>
    let v := (s.view c).plainByte
    let a := (s.ctx c).asid
    let s := s.modCtx c fun x => { x with wait := x.next.headD .none, next := x.next.tail }
    match (s.readHcb v a hcb).bind fun hc => s.vaBytes v a hc.2.proj (256 * hc.2.tables * hc.2.b) with
    | .ok r => s.modCore core fun k => k.useProj ⟨a, hcb, r.2⟩
    | _ => s) s)

end Sys2Proof.Machine
end

