-- ==== Sys2Proof/Machine/Engines.lean ====
section
/-!
DEFINITION. What the engine commands of a lane share: footprints, order between paths, bank locks, source bytes as of the
open time, synchronisation writes, and failures found after issue (R36, R72, R176 to R178, R254 to R258, R334).
-/
namespace Sys2Proof.Machine

/-! ## Commands -/

/-- The command of a number. -/
def State.getK (s : State) (id : Nat) : Option KCmd := s.kcmds.find? (·.id = id)
/-- Change a command. -/
def State.modK (s : State) (id : Nat) (f : KCmd → KCmd) : State :=
  { s with kcmds := s.kcmds.map fun k => if k.id = id then f k else k }
/-- The step of run `run` still occupies context `c`, and has not stopped. -/
def State.runLive (s : State) (c : CtxId) (run : Nat) : Bool :=
  (s.ctx c).run = run && (s.ctx c).stat ≠ .empty && (s.ctx c).stat ≠ .stopped
/-- The step of a command is still running (R177). -/
def State.live (s : State) (k : KCmd) : Bool := s.runLive k.owner k.run
/-- A fence of the core has been sealed: its engine commands have ended (R416). -/
def State.severed (s : State) (c : Fin 128) : Bool := !(s.core c).cut.isEmpty
/-- The slot that issued a command: LDB is the M slot's (R253). -/
def KCmd.slot (k : KCmd) : Slot := if k.path.isNone then .m else .k
/-- A failure has been found in a command. -/
def State.failK (s : State) (id : Nat) (f : Fail) : State := s.modK id fun k => { k with failed := some f, held := [], claim := none }

/-! ## Tiles (R83, R399) -/

/-- Elements of a descriptor's tile, each translated and named, the first failure stopping the rest (R399). -/
def State.tileGate (s : State) (a : Actor) (d : Desc) (w : Want) (ps : List (Nat × Nat)) : Gate (List (Word × List Nat)) :=
  gateAll (fun p => (s.elemGate a d d.fmt p.1 p.2 w).bind fun ls => .ok (d.named a p.1 p.2 ls)) ps
/-- Bytes at address `x` of a descriptor's flat space (R84, R101; log entry 7). -/
def State.flatGate (s : State) (a : Actor) (d : Desc) (x : Int) (n : Nat) (w : Want) : Gate (Word × List Nat) :=
  (s.spaceGate a d.flatSpace d.base x n w).bind fun ls => .ok (d.flatName x, ls)
/-- The patterns of elements read through `look`. -/
def tilePats (a : Actor) (d : Desc) (look : Nat → Byte) (ps : List (Nat × Nat)) (ls : List (Word × List Nat)) : List Nat :=
  List.zipWith (fun p l => elemOf d.fmt (d.sub a p.1 p.2) (l.2.map look)) ps ls
/-- The bytes that put patterns into elements, later ones over earlier ones. -/
def tileCells (a : Actor) (d : Desc) (look : Nat → Byte) (ps : List (Nat × Nat)) (ls : List (Word × List Nat))
    (pats : List Nat) : List Host.Cell :=
  cellsOf (putAll d.fmt look
    (List.zipWith (fun (p : Nat × Nat) (x : (Word × List Nat) × Nat) => (x.1.2, d.sub a p.1 p.2, x.2)) ps (ls.zip pats)) [])
/-- The spans of a destination, with the widening of E3M2 data (R259). -/
def dstSpans (f : Nat) (ls : List (Word × List Nat)) : List Span := spansOf (ls.map (widenNamed f))

/-! ## Scratchpad banks (R71, R72) -/

/-- The banks that spans occupy, in the scratchpads of a core and its cluster peers: 128 numbers for each scratchpad. -/
def spanBanks (l : List Span) : List Nat :=
  (l.flatMap fun x =>
    if isSpad x.loc then
      (List.range (min 128 ((x.loc % 32 + x.len + 31) / 32))).map fun i =>
        (x.loc - 2 ^ 52) / 2 ^ 22 * 128 + (x.loc / 32 + i) % 128
    else []).eraseDups
/-- Scratchpad bytes that O operations in flight write: engine commands behind them read them (R72, R254). -/
def Ctx.portCells (x : Ctx) : List Host.Cell := x.pipe.flatMap fun l => l.writes.flatMap RegWrite.cells
/-- A byte as the engines of a core read it through the writes of O operations in flight (R72, R224). -/
def Ctx.throughPort (x : Ctx) (below : Nat → Byte) (l : Nat) : Byte :=
  match x.portCells.reverse.find? (·.1 = l) with
  | some e => e.2
  | none => below l
/-- The rows that O operations of a core hold locked: those they have not delivered by device time (R72, R224). -/
def State.portLocks (s : State) (c : Fin 128) : List Span :=
  [(0 : Fin 2), 1].flatMap fun b =>
    ((s.ctx ⟨c, b⟩).pipe.filter fun l => decide (s.time < l.t)).flatMap fun l =>
      (l.writes.flatMap RegWrite.cells).map fun x => ⟨0, x.1, 1⟩
/-- The scratchpad bytes held by engine commands of core `c` issued before number `id` and not complete (R72): of a gather
or scatter the whole tile that its indices name rows of. -/
def State.lockedBefore (s : State) (c : Fin 128) (id : Nat) : List Span :=
  ((s.kcmds.filter fun k => k.owner.core = c && decide (k.id < id) && k.stage ≠ .visible && !k.errored).flatMap fun k =>
    k.srcFoot ++ k.dstFoot ++ k.area) ++
  ([(0 : Fin 2), 1].flatMap fun b =>
    let x := s.ctx ⟨c, b⟩
    (x.xfoot.filter fun q => decide (q.seq < id) && x.xq.any (·.seq = q.seq)).flatMap fun q => q.src ++ q.dst) ++
  s.portLocks c
/-- A command that touches `l` waits for the bank locks of earlier ones (R72). -/
def State.banksLocked (s : State) (c : Fin 128) (id : Nat) (l : List Span) : Bool :=
  let held := spanBanks (s.lockedBefore c id)
  (spanBanks l).any held.contains

/-! ## Order between two commands (R176, R254) -/

/-- The lowest byte two lists of spans share, as the first names it. -/
def spanMeet (a b : List Span) : Option Word :=
  ((a.flatMap fun x => b.filterMap fun y =>
    if x.loc < y.loc + y.len && y.loc < x.loc + x.len then some (x.name + BitVec.ofNat 64 (y.loc - x.loc)) else none).foldl
    (fun (m : Option Word) w => match m with
      | some v => some (if w.ult v then w else v)
      | none => some w) none)
/-- Spans outside the scratchpads, where bank locks order nothing (R254). -/
def offSpad (l : List Span) : List Span := l.filter fun x => !isSpad x.loc
/-- What one engine command reads, writes and merely updates, in one's own naming. -/
structure Foot where
  src : List Span
  dst : List Span
  upd : Bool
/-- The footprint of a K command. -/
def KCmd.foot (k : KCmd) : Foot := ⟨k.srcFoot, k.dstFoot, k.updates⟩
/-- What it may reach: where indices are still to come, any row of the tile that they name rows of (R176, R181). -/
def KCmd.reach (k : KCmd) : Foot :=
  if k.waitsIdx then match k.op with
    | .ksct .. => { k.foot with dst := k.dstFoot ++ k.area }
    | _ => { k.foot with src := k.srcFoot ++ k.area }
  else k.foot
/-- The access of an earlier path that a command conflicts with: its address and kind. At least one of the two is a plain
write (R254). -/
def Foot.meet (later : Foot) (k : AKind) (l : List Span) : Option (Word × AKind) :=
  match (if k = .write then spanMeet (offSpad later.src) l else none) with
  | some w => some (w, k)
  | none => (if k = .write || !later.upd then spanMeet (offSpad later.dst) l else none).map fun w => (w, k)
/-- An earlier command of another path conflicts with a later one (R254): `reads` says that its reads are not ordered
before the later command. -/
def Foot.clash (later earlier : Foot) (reads : Bool) : Option (Word × AKind) :=
  match later.meet (if earlier.upd then .update else .write) earlier.dst with
  | some w => some w
  | none => if reads then later.meet .read earlier.src else none
/-- The report of a conflict of an engine command with an earlier access of its lane on another path (R254, R403). -/
def State.laneFail (s : State) (c : CtxId) (x : Word × AKind) : Fail := s.ownFail c x.2 x.1
/-- The conflict of a command with M-slot accesses that nothing has ordered before it (R254). -/
def State.looseClash (s : State) (c : CtxId) (f : Foot) (loose : List (AKind × Span)) : Option Fail :=
  loose.findSome? fun e => (f.meet e.1 [e.2]).map (s.laneFail c)
/-- The footprint of an earlier engine command of a lane: a K command's, or what the matrix path keeps open. -/
def State.footOf (s : State) (c : CtxId) (id : Nat) : Option Foot :=
  match s.kcmds.find? (fun k => k.id = id && !k.errored && k.failed.isNone) with
  | some k => some k.foot
  | none => ((s.ctx c).xfoot.find? (·.seq = id)).map fun x => ⟨x.src, x.dst, x.upd⟩
/-- The conflict of a command with the earlier ones it is not ordered after (R254). -/
def State.unordClash (s : State) (c : CtxId) (f : Foot) (unord : List (Nat × Bool)) : Option Fail :=
  unord.findSome? fun u => (s.footOf c u.1).bind fun e => (f.clash e u.2).map (s.laneFail c)

/-- Later K commands of the lane that are not ordered after a command and meet its bytes, known only now, fail (R254). -/
def State.failLater (s : State) (c : CtxId) (run id : Nat) (f : Foot) : State :=
  { s with kcmds := s.kcmds.map fun (q : KCmd) =>
    match (if q.owner = c && q.run = run && q.stage ≠ .visible && q.failed.isNone then q.unord.find? (·.1 = id) else none) with
    | some u => match q.foot.clash f u.2 with
      | some w => { q with failed := some (s.laneFail c w), held := [] }
      | none => q
    | none => q }

/-! ## Source bytes as of the open time (R36, R213) -/

/-- What a command on the path of bit `b` sees: published memory with those unpublished writes of its step that its own
path made or that something has ordered before it (R36, R213). -/
def State.pathView (s : State) (c : CtxId) (b : Nat) : State :=
  (s.modCtx c fun x => { x with pend := x.pend.filter fun p => p.path = none || p.path = some b }).view c
/-- The blocks of eight bytes that a span touches: an element of a commutative update lies whole in one (R172). -/
def Span.blocks (x : Span) : List Nat :=
  (List.range ((x.loc + x.len + 7) / 8 * 8 - x.loc / 8 * 8)).map (x.loc / 8 * 8 + ·)
/-- The bytes of spans as the path of bit `b` sees them, with the elements in exact form of their lines. -/
def State.snapshot (s : State) (c : CtxId) (b : Nat) (l : List Span) : Snap :=
  let v := s.pathView c b
  ⟨(l.flatMap Span.blocks).map fun x => (x, (s.ctx c).throughPort v.byte x),
   v.exact.filter fun e => l.any fun x => decide (x.loc / 128 ≤ e.1 / 128) && decide (e.1 / 128 ≤ (x.loc + x.len - 1) / 128)⟩
/-- A snapshot as storage of its own. -/
def Snap.store (p : Snap) : State := { State.reset with
  mem := p.cells.foldl (fun m c => Sparse.set unwritten m c.1 c.2) []
  exact := p.exact }
/-- A byte as a snapshot shows it, an element in exact form by its rounded value (R85). -/
def Snap.byte (p : Snap) : Nat → Option Byte :=
  let v := p.store
  fun l => if p.cells.any (·.1 = l) then some (v.plainByte l) else none
/-- Writes that the command of a snapshot is ordered after (R176, R254). -/
def Snap.put (p : Snap) (ops : List PendOp) : Snap :=
  if ops.isEmpty then p
  else
    let t := ops.foldl (fun s o => s.applyPend ⟨o, 0, false, true, none⟩) p.store
    ⟨p.cells.map fun c => (c.1, t.byte c.1), t.exact⟩
/-- A snapshot with bytes that could not be named before. -/
def Snap.grown (p q : Snap) : Snap := ⟨q.cells ++ p.cells, p.exact.foldl (fun m e => Sparse.set none m e.1 e.2) q.exact⟩
/-- A byte as a command reads it: as of its open time; one that could not be named then, as the lane sees it now. -/
def State.look (s : State) (c : CtxId) (snap : Snap) : Nat → Byte :=
  let v := s.view c
  let b := snap.byte
  fun l => (b l).getD ((s.ctx c).throughPort v.plainByte l)
/-- A landing without its writes to locations `ls`. -/
def Landing.dropCells (l : Landing) (ls : List Nat) : Landing := { l with writes := l.writes.map fun w => match w with
  | .spad cs => .spad (cs.filter fun x => !ls.contains x.1)
  | w => w }
/-- Writes of command `id` have taken effect: later commands of its lane read them (R176, R213, R254), and they stand over
those of earlier O operations. -/
def State.putSnap (s : State) (c : CtxId) (run id : Nat) (ops : List PendOp) : State :=
  let s := { s with kcmds := s.kcmds.map fun (k : KCmd) =>
    if k.owner = c && k.run = run && id < k.id then { k with snap := k.snap.put ops } else k }
  if (s.ctx c).run = run then s.modCtx c fun x => { x with
    xq := x.xq.map fun (q : XCmd) => if id < q.seq then { q with snap := q.snap.put ops } else q
    pipe := x.pipe.map fun l => l.dropCells (ops.flatMap PendOp.locs) }
  else s
/-- Lines in exact form that a plain access touches are rounded first (R85). -/
def State.flushSpans (s : State) (l : List Span) : State := s.flushLocs (spanLocs l)
/-- The poison that spans meet (R337, R341). -/
def State.spanPoison (s : State) (l : List Span) : Option Fail :=
  l.findSome? fun x => (s.poisonIn x.loc x.len).map fun p =>
    { code := 0x23, faddr := x.name + BitVec.ofNat 64 (p - x.loc) - BitVec.ofNat 64 (p - unitBase p) }

/-! ## Failures that stop the step (R334, R344) -/

/-- A failure found in the work of an engine command after its bundle at `pc` has issued: a precise trap at that bundle,
or, where the step has ended, the abort of the node (R258, R334, R344). -/
def State.engineTrap (s : State) (k : KCmd) (f : Fail) : State :=
  if s.live k then s.trap k.owner k.slot 0 k.pc (s.ctx k.owner).pc f
  else s.abortNode k.asid k.opb f.code.toNat k.owner.core k.step []

/-! ## Synchronisation writes (R177, R256) -/

/-- A synchronisation write of a lane at this device time: it closes the phase, `write` is made, and a phase opens. The
error is the state after the trap that the close or a conflict brings. -/
def State.syncWrite (s : State) (k : KCmd) (l : List Span) (once : Bool) (write : State → State) : Except State State :=
  match s.touchAs k.owner k.run k.step .sync s.time none l with
  | .error f => .error (s.engineTrap k f)
  | .ok s => match s.closePhase k.owner k.slot k.pc once with
    | .error f => .error (s.engineTrap k f)
    | .ok s => .ok ((write s).openPhase k.owner)
/-- A completion word (R125, R177): written only while the step runs. One of code 0x36 or 0x37 is a router's, and releases
what sleeps on it (R417). -/
def State.completion (s : State) (k : KCmd) (w : Option (Nat × Word)) (err : Option (BitVec 8)) : Except State State :=
  match w with
  | none => .ok s
  | some (loc, v) =>
    if s.live k then
      s.syncWrite k [⟨BitVec.ofNat 64 ((loc - 2 ^ 52) % 2 ^ 22), loc, 8⟩] false fun s => match err with
        | none => s.setNum loc v.toNat 8
        | some c =>
          let s := s.setNum loc (errWord c).toNat 8
          if c = 0x36 || c = 0x37 then
            (s.modCtx k.owner fun x => x.releaseWord loc).modCtx (otherBank k.owner) fun x => x.releaseWord loc
          else s
    else .ok s
/-- The state of either outcome. -/
def settle (r : Except State State) : State := match r with
  | .ok s => s
  | .error s => s
/-- Continue unless the step has stopped. -/
def andThen (r : Except State State) (f : State → Except State State) : Except State State := match r with
  | .ok s => f s
  | .error s => .error s

end Sys2Proof.Machine
end

