-- ==== Sys2Proof/Machine/CopyEngine.lean ====
section
/-!
DEFINITION. The K slot, the copy engine, the gather unit, the collective unit and load blocks (R170, R175 to R187, R310,
R340, R402 to R408).
-/
namespace Sys2Proof.Machine

/-! ## Issue (R125, R175, R176, R380) -/

/-- The words of a command at issue, or why it fails (R125, R369, R374). -/
structure KWords where
  lvl : BitVec 2
  src : Option (Nat × Word)
  vis : Option (Nat × Word)

/-- The completion level and register in force: the default stands in the descriptor `d`, number `n` (R175, R370). -/
def doneOf (d : Desc) (n : Fin 16) (k : KDone) : Except Fail (BitVec 2 × Nat) :=
  if k.lvl = 0 && k.sc = 0 then
    let top := if d.dlevel = 3 then 60 else 62
    if d.dlevel ≠ 0 && (d.dsc = 0 || top < d.dsc) then .error (descFail n.val 7)
    else .ok (d.dlevel, d.dsc)
  else .ok (k.lvl, k.sc.val)
/-- One completion pair: both registers are checked, the word after all of them. -/
def Ctx.pairOf (c : Ctx) (r : Nat) : Except Fail (Word × Word) :=
  match c.checked (Fin.ofNat 64 r) with
  | .error f => .error f
  | .ok a => (c.checked (Fin.ofNat 64 (r + 1))).map fun v => (a, v)
/-- The completion words a command names (R125). -/
def kWords (c : CtxId) (x : Ctx) (lvl : BitVec 2) (sc : Nat) : Except Fail KWords :=
  let place (p : Word × Word) : Except Fail (Option (Nat × Word)) := (spadWord c p.1).map fun l => some (l, p.2)
  if lvl = 0 then .ok ⟨0, none, none⟩
  else match x.pairOf sc with
    | .error f => .error f
    | .ok p =>
      if lvl = 1 then (place p).map fun w => ⟨1, w, none⟩
      else if lvl = 2 then (place p).map fun w => ⟨2, none, w⟩
      else match x.pairOf (sc + 2) with
        | .error f => .error f
        | .ok q => match place p with
          | .error f => .error f
          | .ok w => (place q).map fun v => ⟨3, w, v⟩

/-- What a command has on its way on its path (R176). -/
def State.pathFull (s : State) (c : CtxId) (p : KPath) : Bool :=
  decide (Config.kPathDepth ≤ (s.kcmds.filter fun k => k.owner = c && k.run = (s.ctx c).run && k.path = some p &&
    k.stage ≠ .visible && !k.errored).length)

/-! ## What a command reads and writes -/

/-- Who a command reads and writes for, as it issued (R34). -/
def KCmd.actor (k : KCmd) : Actor := ⟨k.owner.core, k.asid, k.tenstab, k.fields, k.step⟩

/-- A command's accesses: spans read, spans written, and what the writes are. -/
structure KPlan where
  reads : List Span
  dst   : List Span
  ops   : List PendOp

/-- An operand out of its limits, in no field of a descriptor (R380; log entry 16). -/
def operandFail : Fail := { code := 0x0B }

/-- Formats and spaces a tile command accepts (R370). -/
def tileUse (spaces : List Nat) (dest : Bool) : DescUse := ⟨2 ^ 32, 2 ^ 32, true, List.range 13, spaces, dest⟩
/-- A descriptor that only names a linear block (R182, R184, R185). -/
def blockUse : DescUse := ⟨2 ^ 32, 2 ^ 32, false, List.range 13, [0, 1, 2], true⟩
/-- Check a descriptor. -/
def useDesc (d : Desc) (n : Fin 16) (u : DescUse) : Except Fail Unit :=
  match d.bad u with
  | some f => .error (descFail n.val f)
  | none => .ok ()
/-- Source and destination of a copy agree (R180, R370, R372); `ok` is the command's own check of an operand, which comes
before formats are looked at (R363). -/
def pairOk (dd ds : Desc) (dn sn : Fin 16) (spaces : List Nat) (fmts : List Nat) (track ok : Bool) : Except Fail Unit :=
  match useDesc ds sn (tileUse [0, 1, 2, 3, 4] false) with
  | .error f => .error f
  | .ok _ => match useDesc dd dn (tileUse spaces true) with
    | .error f => .error f
    | .ok _ =>
      let mis (code : Nat) : Except Fail Unit := .error (tagFail code ds.tag.toNat dd.tag.toNat)
      if ds.rows ≠ dd.rows || ds.cols ≠ dd.cols then .error (descFail dn.val 1)
      else if !ok then .error operandFail
      else if ds.fmt ≠ dd.fmt || !fmts.contains dd.fmt then mis 0x07
      else if track && tagVer ds.tag ≠ 0 && tagVer dd.tag ≠ 0 && tagVer ds.tag ≠ tagVer dd.tag then mis 0x08
      else if track && ds.space = 3 && dd.space = 3 && bits ds.base 0 24 = bits dd.base 0 24 &&
          bitAt ds.tag 5 ≠ bitAt dd.tag 5 then mis 0x09
      else .ok ()
/-- Tables of rows agree (R181, R370, R372): `n` rows are moved between the table of descriptor number `tn`, which rows
`idx` name once all are known, and the other. -/
def rowsOk (dd ds : Desc) (dn sn : Fin 16) (n : Nat) (idx : List W32) (gather : Bool) : Except Fail Unit :=
  match useDesc ds sn (tileUse [0, 1, 2, 3, 4] false) with
  | .error f => .error f
  | .ok _ => match useDesc dd dn (tileUse [0, 1, 2, 3, 4] true) with
    | .error f => .error f
    | .ok _ =>
      let (list, ln) := if gather then (dd, dn) else (ds, sn)
      let (table, tn) := if gather then (ds, sn) else (dd, dn)
      if ds.cols ≠ dd.cols then .error (descFail dn.val 1)
      else if list.rows < n then .error (descFail ln.val 1)
      else if idx.length = n && idx.any fun i => decide (table.rows ≤ i.toNat) then .error (descFail tn.val 1)
      else if ds.fmt ≠ dd.fmt then .error (tagFail 0x07 ds.tag.toNat dd.tag.toNat)
      else .ok ()

/-- The lanes of a command's gang, by lane number (R29). -/
def State.gangOf (s : State) (run : Nat) : List CtxId := match s.getRun run with
  | some r => r.gang
  | none => []

/-- The completion that a command names in its slot (R125). -/
def KCmd.done (k : KCmd) : KDone := match k.op with
  | .kcpy _ _ _ d => d | .kmcst _ _ _ _ d => d | .kred _ _ _ d => d | .kfill _ _ _ d => d | .kgth _ _ _ _ d => d
  | .ksct _ _ _ _ d => d | .kroute _ _ _ _ _ d => d | .ka2a _ _ _ _ _ d => d | .kgat _ _ _ _ d => d
  | .kring _ _ _ d => d | _ => ⟨0, 0⟩
/-- A command whose f7 holds nothing in the descriptors that do not use it: only the default completion, in dD, and the
ring of a KRING, in dS, do (R175, R186, R370). -/
def KCmd.used (k : KCmd) : KCmd := { k with
  dd := if k.done.lvl = 0 && k.done.sc = 0 then k.dd else k.dd.sans7
  ds := if k.ringing then k.ds else k.ds.sans7 }

/-- The checks of a command that need no memory (R180 to R185, R363, R370, R372, R380). -/
def State.kstatic (s : State) (k : KCmd) : Except Fail Unit :=
  let k := k.used
  let n := k.sa.toNat
  match k.op with
  | .kcpy _ dd ds _ => pairOk k.dd k.ds dd ds [0, 1, 2, 3, 4] (List.range 13) true true
  | .kmcst _ dd ds _ _ =>
    pairOk k.dd k.ds dd ds [0] (List.range 13) true (decide (bits k.sa 0 4 >>> (s.gangOf k.run).length = 0))
  | .kred _ dd ds _ => pairOk k.dd k.ds dd ds [1, 2, 3] [1, 2, 3, 11, 12] false true
  | .kfill _ dd _ _ => useDesc k.dd dd (tileUse [0, 1, 2, 3, 4] true)
  | .kgth _ dd ds _ _ =>
    if n = 0 || 65536 < n then .error operandFail
    else rowsOk k.dd k.ds dd ds n k.idx true
  | .ksct _ dd ds _ _ =>
    if n = 0 || 65536 < n then .error operandFail
    else rowsOk k.dd k.ds dd ds n k.idx false
  | .kroute _ dd ds _ _ _ =>
    match useDesc k.ds ds ⟨65536, 8, true, [10], [0, 1, 2, 3, 4], false⟩ with
    | .error f => .error f
    | .ok _ => match useDesc k.dd.linear dd blockUse with
      | .error f => .error f
      | .ok _ => if n = 0 || 4096 < n then .error operandFail else .ok ()
  | .ka2a _ dd ds _ _ _ =>
    match useDesc k.ds.linear ds blockUse with
    | .error f => .error f
    | .ok _ => match useDesc k.dd.linear dd ⟨2 ^ 32, 2 ^ 32, true, [8], [1, 2], false⟩ with
      | .error f => .error f
      | .ok _ => if k.sa.toNat % 64 ≠ 0 then .error (alignFail k.sa) else .ok ()
  | .kgat _ dd _ _ _ =>
    match useDesc k.dd.linear dd blockUse with
    | .error f => .error f
    | .ok _ => if k.sa.toNat % 256 ≠ 0 then .error (alignFail k.sa) else .ok ()
  | .kring _ ds _ _ =>
    match useDesc k.ds ds (tileUse [0, 1, 2, 3, 4] false) with
    | .error f => .error f
    | .ok _ => if k.ring.isNone then .error (ringFail 1 0) else .ok ()
  | _ => .ok ()

/-- Elements moved from `src` positions to `dst` positions (R180, R181). -/
def State.movePlan (s : State) (a : Actor) (dd ds : Desc) (look : Nat → Byte) (remote : Bool) (src dst : List (Nat × Nat)) :
    Gate KPlan :=
  (s.tileGate a ds ⟨false, remote⟩ src).bind fun sl => (s.tileGate a dd ⟨true, remote⟩ dst).bind fun dl =>
    .ok ⟨spansOf sl, dstSpans dd.fmt dl, [.bytes (tileCells a dd look dst dl (tilePats a ds look src sl))]⟩

/-- KMCST: one reading, one tile in each named lane's core (R180). -/
def State.mcstPlan (s : State) (a : Actor) (k : KCmd) (look : Nat → Byte) : Gate KPlan :=
  let ps := positions k.ds.rows k.ds.cols
  let cores := ((List.range 4).zip (s.gangOf k.run)).filterMap fun x => if bitAt k.sa x.1 then some x.2.core else none
  (s.tileGate a k.ds ⟨false, false⟩ ps).bind fun sl =>
    let pats := tilePats a k.ds look ps sl
    (gateAll (fun c => (s.tileGate { a with core := c } k.dd ⟨true, false⟩ ps)) cores).bind fun dls =>
      .ok ⟨spansOf sl, dls.flatMap (dstSpans k.dd.fmt), [.bytes (dls.flatMap fun dl => tileCells a k.dd look ps dl pats)]⟩

/-- KRED: one contribution for each element (R180). -/
def State.redPlan (s : State) (a : Actor) (k : KCmd) (look : Nat → Byte) : Gate KPlan :=
  let ps := positions k.ds.rows k.ds.cols
  (s.tileGate a k.ds ⟨false, false⟩ ps).bind fun sl => (s.tileGate a k.dd ⟨true, false⟩ ps).bind fun dl =>
    .ok ⟨spansOf sl, spansOf dl, List.zipWith (fun (d : Word × List Nat) v =>
      .upd (d.2.headD 0) .sum (BitVec.ofNat 4 k.dd.fmt) (BitVec.ofNat 64 v)) dl (tilePats a k.ds look ps sl)⟩

/-- KFILL (R180). -/
def State.fillPlan (s : State) (a : Actor) (k : KCmd) (look : Nat → Byte) : Gate KPlan :=
  let ps := positions k.dd.rows k.dd.cols
  (s.tileGate a k.dd ⟨true, false⟩ ps).bind fun dl =>
    .ok ⟨[], dstSpans k.dd.fmt dl, [.bytes (tileCells a k.dd look ps dl
      (ps.map fun _ => k.sa.toNat % 2 ^ fmtBits k.dd.fmt))]⟩

/-- The location of bytes at offset `o` of the result block at f0 of a descriptor (R182, R185). -/
def State.blockGate (s : State) (a : Actor) (d : Desc) (o n : Nat) (w : Want) : Gate (Word × List Nat) :=
  let x : Int := spaceAddr d.space d.base (o : Int)
  (s.spaceGate a d.space d.base x n w).bind fun ls => .ok (d.flatName x, ls)
/-- A result block made of parts, each at its offset: every part is translated before any is written (R399, R404). -/
def State.blockPlan (s : State) (a : Actor) (d : Desc) (reads : List Span) (parts : List (Nat × List Byte)) : Gate KPlan :=
  let parts := parts.filter fun p => !p.2.isEmpty
  (gateAll (fun (p : Nat × List Byte) => s.blockGate a d p.1 p.2.length ⟨true, false⟩) parts).bind fun ls =>
    .ok ⟨reads, spansOf ls,
      [.bytes ((List.zipWith (fun (l : Word × List Nat) (p : Nat × List Byte) => l.2.zip p.2) ls parts).flatten)]⟩

/-- Poison fails a gate. -/
def State.cleanGate (s : State) (l : List (Word × List Nat)) : Gate Unit := match s.namedPoison l with
  | some f => .fail f
  | none => .ok ()

/-- KROUTE: counts, offsets, permutation, weights (R182). -/
def State.routePlan (s : State) (a : Actor) (k : KCmd) (look : Nat → Byte) : Gate KPlan :=
  let kk := k.ds.cols
  let ps := positions k.ds.rows kk
  let ne := k.sa.toNat
  (s.tileGate a k.ds ⟨false, false⟩ ps).bind fun sl => (s.cleanGate sl).bind fun _ =>
    let ents := ((List.zipWith (fun (p : Nat × Nat) e => (e, p)) ps (tilePats a k.ds look ps sl)).filter fun e => e.1 ≠ 0xFFFF)
    if ents.any fun e => decide (ne ≤ e.1) then .fail operandFail
    else
      let sorted := (List.range ne).flatMap fun e => ents.filter fun x => x.1 = e
      let counts := (List.range ne).map fun e => (ents.filter fun x => x.1 = e).length
      let offs := (List.range ne).map fun e => (ents.filter fun x => decide (x.1 < e)).length
      let code (p : Nat × Nat) : Nat := p.1 * 8 + p.2
      (if k.sb = 0 then .ok [] else
        gateAll (fun (x : Nat × Nat × Nat) => s.flatGate a k.ds ((k.sb.toNat + 4 * (x.2.1 * kk + x.2.2) : Nat) : Int) 4
          ⟨false, false⟩) sorted).bind fun gl => (s.cleanGate gl).bind fun _ =>
        let w4 (l : List Nat) : List Byte := l.flatMap fun v => leBytes v 4
        s.blockPlan a k.dd (spansOf (sl ++ gl))
          [(0, w4 counts), (4 * ne, w4 offs), (8 * ne, w4 (sorted.map fun x => code x.2)),
           (8 * ne + 4 * k.ds.rows * kk, gl.flatMap fun g => g.2.map look)]

/-- A chain of reeds from reed `n`: its tokens and what was read, or the malformed chain's failure (R185, R406). -/
def State.walkChain (s : State) (k : KCmd) (h : Hcb) (look : Nat → Byte) (bucket : Nat) :
    Nat → Nat → Gate (List Nat × List (Word × List Nat))
  | fuel, n =>
    if n = noReed then .ok ([], [])
    else match fuel with
      | 0 => .fail { code := 0x0B, d1 := BitVec.ofNat 64 (bucket * 2 ^ 32) }
      | fuel + 1 =>
        if h.plimit ≤ n then .fail { code := 0x0B, d1 := BitVec.ofNat 64 (bucket * 2 ^ 32) }
        else (s.vaBytes look k.asid (h.pool + 64 * n) 64).bind fun r =>
          let reed := parseReed r.2
          (s.walkChain k h look bucket fuel reed.next).bind fun t =>
            .ok (reed.toks ++ t.1, (BitVec.ofNat 64 (h.pool + 64 * n), r.1) :: t.2)

/-- The buckets that a signature selects in every table (R185). -/
def Hcb.buckets (h : Hcb) (sig : Word) : List Nat := (List.range h.tables).flatMap fun t =>
  let q := bits sig (16 * t) h.b
  (q :: if h.probe then (List.range h.b).map fun i => q ^^^ 2 ^ i else []).map fun x => t * 2 ^ h.b + x

/-- KGAT (R185, R406, R407). -/
def State.gatPlan (s : State) (a : Actor) (k : KCmd) (look : Nat → Byte) : Gate KPlan :=
  let hcb := k.sa.toNat
  (s.readHcb look k.asid hcb).bind fun hr =>
    let h := hr.2
    (gateAll (fun b => (s.vaBytes look k.asid (h.heads + 8 * b) 8).bind fun e =>
      let here := (BitVec.ofNat 64 (h.heads + 8 * b), e.1)
      if leNat e.2 = 2 ^ 64 - 1 then .ok ([], [here])
      -- a bucket that is not empty names a first reed
      else if leNat e.2 % 2 ^ 32 = noReed then .fail { code := 0x0B, d1 := BitVec.ofNat 64 (b * 2 ^ 32) }
      else (s.walkChain k h look b h.plimit (leNat e.2 % 2 ^ 32)).bind fun c => .ok (c.1, here :: c.2)) (h.buckets k.sb)).bind fun cs =>
      let toks := (cs.flatMap Prod.fst).foldl (fun l t => insertNat t l) []
      let n := toks.length
      let flag := hr.1.getD 64 0
      -- a bit set after the open time is not seen (R185, R407)
      if h.povf && !(s.povfs.any fun e => e.1 = flag && decide (k.opn < e.2)) then .fail { code := 0x34, d1 := 0xFFFFFFFF }
      else if h.gcap < n then .fail { code := 0x34, d1 := BitVec.ofNat 64 n }
      else
        let rows (base : Nat) : Gate (List (List Nat × List Byte)) :=
          gateAll (fun t => s.vaBytes look k.asid (base + 256 * t) 256) toks
        (rows h.kbase).bind fun ks => (rows h.vbase).bind fun vs =>
          let named (base : Nat) (l : List (List Nat × List Byte)) : List (Word × List Nat) :=
            List.zipWith (fun t (r : List Nat × List Byte) => (BitVec.ofNat 64 (base + 256 * t), r.1)) toks l
          let p := roundUp (64 + 4 * h.gcap) 256
          s.blockPlan a k.dd
            (spansOf ((BitVec.ofNat 64 hcb, hr.1) :: cs.flatMap Prod.snd ++ named h.kbase ks ++ named h.vbase vs))
            [(0, leBytes n 8 ++ List.replicate 56 0 ++ toks.flatMap fun t => leBytes t 4),
             (p, ks.flatMap Prod.snd), (p + 256 * h.gcap, vs.flatMap Prod.snd)]

/-- Bytes of a tile packed row by row (R186). -/
def packedBytes (d : Desc) : Nat := d.rows * (if d.fmt = 6 then 3 * (d.cols / 4) else d.cols * groupBytes d.fmt)
/-- The packed payload of patterns. -/
def packed (f : Nat) (pats : List Nat) : List Byte :=
  if f = 6 then (chunks 4 (pats.length / 4) pats).flatMap pack6 else pats.flatMap fun v => leBytes v (groupBytes f)
/-- The ring object of a KRING, checked (R408). -/
def State.kringObj (s : State) (k : KCmd) : Gate (List Nat × RingBind × RingObj) :=
  match k.ring with
  | none => .fail (ringFail 1 0)
  | some b => (s.spaceGate k.actor b.space.toNat 0 (b.addr.toNat : Int) 64 ⟨true, false⟩).bind fun ls =>
    match s.objPoison ls b.addr with
    | some f => .fail f
    | none => if (s.ringObj ls).malformed b then .fail (ringFail 2 b.addr) else .ok (ls, b, s.ringObj ls)
/-- KRING: its payload, and once it has a slot, the slot (R186, R408). -/
def State.ringPlan (s : State) (a : Actor) (k : KCmd) (look : Nat → Byte) : Gate KPlan :=
  let ps := positions k.ds.rows k.ds.cols
  (s.kringObj k).bind fun (ls, b, r) =>
    if r.slotsz * 128 < packedBytes k.ds then .fail (ringFail 6 b.addr)
    else (s.tileGate a k.ds ⟨false, false⟩ ps).bind fun sl =>
      match k.claim with
      | none => .ok ⟨spansOf sl, [], []⟩
      | some (_, j) =>
        -- space 0 of an object in a scratchpad is that scratchpad
        let l0 := ls.headD 0
        let core := if isSpad l0 then Fin.ofNat 128 ((l0 - 2 ^ 52) / 2 ^ 22) else a.core
        let addr : Nat := r.base + j * r.slotsz * 128
        (s.spaceGate { a with core := core } r.space 0 (addr : Int) (packedBytes k.ds) ⟨true, false⟩).bind fun dl =>
          .ok ⟨spansOf sl, dstSpans k.ds.fmt [(BitVec.ofNat 64 addr, dl)], [.bytes (dl.zip (packed k.ds.fmt (tilePats a k.ds look ps sl)))]⟩

/-! ### All-to-all (R183, R184, R405) -/

/-- The rank of a KA2A party. -/
def KCmd.rank (k : KCmd) : Nat := bits k.sb 0 16
/-- The location of `n` bytes at offset `o` of the group record. -/
def State.a2aLoc (s : State) (k : KCmd) (o n : Nat) : Gate Nat :=
  (s.gate1 k.asid (k.sa.toNat + o) n ⟨true, false⟩).bind fun ls =>
    match s.objPoison ls (k.sa + BitVec.ofNat 64 o) with
    | some f => .fail f
    | none => .ok (ls.headD 0)
/-- Bytes at offset `o` of the send buffer. -/
def State.sendGate (s : State) (a : Actor) (k : KCmd) (o n : Nat) : Gate (Word × List Nat) := s.blockGate a k.ds o n ⟨false, false⟩
/-- The counts of a party's send buffer, for `g` parties. -/
def State.sendCounts (s : State) (a : Actor) (k : KCmd) (look : Nat → Byte) (g : Nat) : Gate (List Nat) :=
  (s.sendGate a k 0 (8 * g)).bind fun l => (s.cleanGate [l]).bind fun _ =>
    .ok ((List.range g).map fun j => leNat (((l.2.drop (8 * j)).take 8).map look))
/-- KA2A: the whole send buffer is read, and the receive buffer is open for writes (R184; log entry 17). -/
def State.a2aPlan (s : State) (a : Actor) (k : KCmd) (look : Nat → Byte) : Gate KPlan :=
  (s.a2aLoc k 0 8).bind fun l =>
    let g := s.num l 2
    if g = 0 || 1024 < g then .fail operandFail
    else (s.a2aLoc k 8 8).bind fun _ => (s.a2aLoc k (0x40 + 16 * k.rank) 16).bind fun _ =>
      (s.sendCounts a k look g).bind fun cs =>
        (s.sendGate a k 0 (8 * g + cs.foldl (· + ·) 0)).bind fun sl =>
          (s.blockGate a k.dd 0 (k.dd.rows * k.dd.cols) ⟨true, false⟩).bind fun dl => .ok ⟨spansOf [sl], spansOf [dl], []⟩

/-- Everything a command reads and writes, with its bytes as `look` shows them. -/
def State.kplan (s : State) (k : KCmd) (look : Nat → Byte) : Gate KPlan :=
  let a := k.actor
  let row (d : Desc) (i : Nat) : List (Nat × Nat) := (List.range d.cols).map fun j => (i, j)
  let seqRows (d : Desc) : List (Nat × Nat) := (List.range k.idx.length).flatMap (row d)
  let idxRows (d : Desc) : List (Nat × Nat) := k.idx.flatMap fun i => row d i.toNat
  match k.op with
  | .kcpy .. =>
    let ps := positions k.ds.rows k.ds.cols
    s.movePlan a k.dd k.ds look true ps ps
  | .kmcst .. => s.mcstPlan a k look
  | .kred .. => s.redPlan a k look
  | .kfill .. => s.fillPlan a k look
  | .kgth .. => s.movePlan a k.dd k.ds look false (idxRows k.ds) (seqRows k.dd)
  | .ksct .. => s.movePlan a k.dd k.ds look false (seqRows k.ds) (idxRows k.dd)
  | .kroute .. => s.routePlan a k look
  | .ka2a .. => s.a2aPlan a k look
  | .kgat .. => s.gatPlan a k look
  | .kring .. => s.ringPlan a k look
  | _ => .ok ⟨[], [], []⟩

/-- Bytes a command reads: as of its open time (R36), those of another device as they came (R310). -/
def State.lookK (s : State) (k : KCmd) : Nat → Byte :=
  let b := k.snap.byte
  let now := if s.live k then s.look k.owner k.snap else fun l => (b l).getD (s.plainByte l)
  fun l => match k.far.find? (·.1 = l) with
    | some x => x.2
    | none => now l

/-! ### Bytes that can be named already (R177, R178, R396) -/

/-- The named elements of a tile that can be translated already; a descriptor that no command accepts names none. -/
def State.knownElems (s : State) (a : Actor) (d : Desc) (w : Want) (ps : List (Nat × Nat)) :
    List ((Nat × Nat) × Word × List Nat) :=
  if (Desc.bad d.sans7 (tileUse [0, 1, 2, 3, 4] false)).isSome then [] else ps.filterMap fun p =>
    match s.elemGate a d d.fmt p.1 p.2 w with
    | .ok ls => some (p, d.named a p.1 p.2 ls)
    | _ => none
/-- `n` bytes from address `x` cut at the pages: offsets and lengths. -/
def pageCuts (x n : Nat) : List (Nat × Nat) :=
  let first := 65536 - x % 65536
  ((0, min n first) :: (List.range ((n - first + 65535) / 65536)).map fun i =>
    (first + 65536 * i, min 65536 (n - first - 65536 * i))).filter fun p => p.2 ≠ 0
/-- The first `n` bytes of the block at f0 of a descriptor, as far as their pages can be translated already. -/
def State.knownBlock (s : State) (a : Actor) (d : Desc) (n : Nat) (w : Want) : List Span :=
  spansOf ((pageCuts (spaceAddr d.space d.base 0).toNat n).filterMap fun p => match s.blockGate a d p.1 p.2 w with
    | .ok l => some l
    | _ => none)
/-- Bytes at a virtual address that can be read already. -/
def State.knownVa (s : State) (k : KCmd) (look : Nat → Byte) (va n : Nat) : Option ((Word × List Nat) × List Byte) :=
  match s.vaBytes look k.asid va n with
  | .ok r => some ((BitVec.ofNat 64 va, r.1), r.2)
  | _ => none
/-- What can be read of a chain from reed `n`: its tokens, and the reeds (R185). -/
def State.knownChain (s : State) (k : KCmd) (h : Hcb) (look : Nat → Byte) : Nat → Nat → List Nat × List (Word × List Nat)
  | 0, _ => ([], [])
  | fuel + 1, n =>
    if n = noReed || h.plimit ≤ n then ([], [])
    else match s.knownVa k look (h.pool + 64 * n) 64 with
      | none => ([], [])
      | some r =>
        let reed := parseReed r.2
        let t := s.knownChain k h look fuel reed.next
        (reed.toks ++ t.1, r.1 :: t.2)
/-- What a KGAT reads, as far as it can be read: heads, reeds and rows (R185). -/
def State.knownGat (s : State) (k : KCmd) (h : Hcb) (look : Nat → Byte) : List (Word × List Nat) :=
  let cs := (h.buckets k.sb).filterMap fun b => (s.knownVa k look (h.heads + 8 * b) 8).map fun e =>
    let c := if leNat e.2 = 2 ^ 64 - 1 then ([], []) else s.knownChain k h look h.plimit (leNat e.2 % 2 ^ 32)
    (c.1, e.1 :: c.2)
  let toks := (cs.flatMap Prod.fst).foldl (fun l t => insertNat t l) []
  cs.flatMap Prod.snd ++ [h.kbase, h.vbase].flatMap fun base => toks.filterMap fun t =>
    (s.knownVa k look (base + 256 * t) 256).map Prod.fst
/-- The gate weights of a KROUTE, as far as its entries can be read (R182). -/
def State.knownGates (s : State) (k : KCmd) (look : Nat → Byte) (ents : List ((Nat × Nat) × Word × List Nat)) :
    List (Word × List Nat) :=
  if k.sb = 0 then []
  else ents.filterMap fun e =>
    if k.sa.toNat ≤ elemOf k.ds.fmt (k.ds.sub k.actor e.1.1 e.1.2) (e.2.2.map look) then none
    else match s.flatGate k.actor k.ds ((k.sb.toNat + 4 * (e.1.1 * k.ds.cols + e.1.2) : Nat) : Int) 4 ⟨false, false⟩ with
      | .ok l => some l
      | _ => none
/-- Positions of the rows of a tile that a gather's indices name, as far as they are known. -/
def KCmd.idxRows (k : KCmd) (d : Desc) : List (Nat × Nat) :=
  (k.idx.filter fun i => decide (i.toNat < d.rows)).flatMap fun i => (List.range d.cols).map fun j => (i.toNat, j)
/-- The bytes of a command that can be named already, where its whole plan cannot: towards the M slot they are open from
its issue (R177, R178, R396). -/
def State.knownFeet (s : State) (k : KCmd) : List Span × List Span :=
  let a := k.actor
  let look := s.lookK k
  let src (ps : List (Nat × Nat)) : List Span := spansOf ((s.knownElems a k.ds ⟨false, true⟩ ps).map Prod.snd)
  let dst (ps : List (Nat × Nat)) : List Span := dstSpans k.dd.fmt ((s.knownElems a k.dd ⟨true, true⟩ ps).map Prod.snd)
  let tile (d : Desc) : List (Nat × Nat) := positions d.rows d.cols
  match k.op with
  | .kcpy .. => (src (tile k.ds), dst (tile k.dd))
  | .kred .. => (src (tile k.ds), spansOf ((s.knownElems a k.dd ⟨true, false⟩ (tile k.dd)).map Prod.snd))
  | .kmcst .. =>
    let cores := ((List.range 4).zip (s.gangOf k.run)).filterMap fun x => if bitAt k.sa x.1 then some x.2.core else none
    (src (tile k.ds), cores.flatMap fun c =>
      dstSpans k.dd.fmt ((s.knownElems { a with core := c } k.dd ⟨true, false⟩ (tile k.dd)).map Prod.snd))
  | .kroute .. =>
    let ents := s.knownElems a k.ds ⟨false, false⟩ (tile k.ds)
    (spansOf (ents.map Prod.snd ++ s.knownGates k look ents),
      s.knownBlock a k.dd (8 * k.sa.toNat + (if k.sb = 0 then 4 else 8) * k.ds.rows * k.ds.cols) ⟨true, false⟩)
  | .ka2a .. =>
    let g := match s.a2aLoc k 0 8 with
      | .ok l => s.num l 2
      | _ => 0
    let n := match s.sendCounts a k look g with
      | .ok cs => cs.foldl (· + ·) 0
      | _ => 0
    (s.knownBlock a k.ds (8 * g + n) ⟨false, false⟩, s.knownBlock a k.dd (k.dd.rows * k.dd.cols) ⟨true, false⟩)
  | .kgat .. =>
    let own : List (Word × List Nat) := match s.gate1 k.asid k.sa.toNat 256 ⟨false, false⟩ with
      | .ok ls => [(k.sa, ls)]
      | _ => []
    match s.readHcb look k.asid k.sa.toNat with
    | .ok h => (spansOf (own ++ s.knownGat k h.2 look),
        s.knownBlock a k.dd (roundUp (64 + 4 * h.2.gcap) 256 + 512 * h.2.gcap) ⟨true, false⟩)
    | _ => (spansOf own, s.knownBlock a k.dd 64 ⟨true, false⟩)
  -- the slot of a KRING is known once it is claimed (R186)
  | .kring .. => (src (tile k.ds), [])
  | .kfill .. => ([], dst (tile k.dd))
  | .kgth .. => (src (k.idxRows k.ds), dst (positions k.sa.toNat k.dd.cols))
  | .ksct .. => (src (positions k.sa.toNat k.ds.cols), dst (k.idxRows k.dd))
  | _ => ([], [])
/-- The tile that a gather's indices name rows of, as far as it can be named (R72, R181). -/
def State.tableOf (s : State) (k : KCmd) : List Span := match k.op with
  | .kgth .. => spansOf ((s.knownElems k.actor k.ds ⟨false, false⟩ (positions k.ds.rows k.ds.cols)).map Prod.snd)
  | .ksct .. => dstSpans k.dd.fmt ((s.knownElems k.actor k.dd ⟨true, false⟩ (positions k.dd.rows k.dd.cols)).map Prod.snd)
  | _ => []
/-- All bytes that a command may read, the tile of a KGTH among them, whose indices may come later (R36, R181). -/
def KCmd.sources (k : KCmd) : List Span := match k.op with
  | .kgth .. => k.srcFoot ++ k.area
  | _ => k.srcFoot

/-- A command with the footprint that can be named now (R178, R396). A gather's indices are those its place in the queue
gives it, as far as they have been pushed (R181). -/
def State.footK (s : State) (k : KCmd) : KCmd :=
  let ahead := (s.kcmds.filter fun q => q.owner = k.owner && q.run = k.run && q.gathers && q.stage = .queued &&
    q.idx.isEmpty && decide (q.id < k.id)).foldl (fun n q => n + q.sa.toNat) 0
  let q := if k.gathers && k.idx.isEmpty then
      { k with idx := if k.sa.toNat ≤ 65536 then (((s.ctx k.owner).idxq.drop ahead).take k.sa.toNat) else [] } else k
  match (if (s.kstatic q).isOk && !q.waitsIdx then s.kplan q (s.lookK q) else .fail operandFail) with
  | .ok p => { k with srcFoot := p.reads, dstFoot := p.dst, area := s.tableOf k, whole := true }
  | _ =>
    let feet := s.knownFeet q
    { k with srcFoot := feet.1, dstFoot := feet.2, area := s.tableOf k, whole := !(s.kstatic q).isOk && !q.waitsIdx }
/-- Footprint and source bytes of a command as it issues (R36, R178). -/
def State.placeK (s : State) (k : KCmd) : KCmd :=
  let q := s.footK k
  { q with snap := s.snapshot k.owner k.bit q.sources }
/-- The footprint of a command that waits in its queue, with the bytes that can be named only now (R178, R396). -/
def State.regrowK (s : State) (k : KCmd) : KCmd :=
  let q := s.footK k
  { q with snap := k.snap.grown (s.snapshot k.owner k.bit (cutSpans (fun l => k.snap.cells.any (·.1 = l)) q.sources)) }

/-- Bytes that a command would take as it issues wait for a close of another lane that is on its way to them (R75). -/
def State.sourceWaits (s : State) (c : CtxId) (l : List Span) : Bool := (spanLocs l).any (s.inTransit c)
/-- A command's conflicts with commands and M-slot accesses of its lane that nothing has ordered before it (R254). -/
def State.laneClash (s : State) (k : KCmd) : Option Fail :=
  match s.unordClash k.owner k.foot k.unord with
  | some f => some f
  | none => s.looseClash k.owner k.foot k.loose

/-- A K command issues: its words, its place on its path, its conflicts with what it is not ordered after (R175, R176,
R178, R254). -/
def State.issueK (s : State) (p : KPath) (d : Desc) (n : Fin 16) (done : KDone) (k : KCmd) : Res :=
  .need (doneOf d n done) fun (lvl, sc) => .need (kWords s.cur s.me lvl sc) fun w =>
    if s.pathFull s.cur p then .hold s
    else
      let k := s.placeK { k with lvl := w.lvl, srcWord := w.src, visWord := w.vis }
      if s.sourceWaits k.owner k.sources then .hold s
      else .done (s.addK { k with failed := s.laneClash k })

/-- A tile command of the copy engine issues. -/
def State.issuePair (s : State) (op : Instr) (p : KPath) (dd ds : Fin 16) (sa sb : Word) (done : KDone) : Res :=
  s.issueK p s.me.dreg[dd] dd done { s.newK op (some p) with dd := s.me.dreg[dd], ds := s.me.dreg[ds], sa := sa, sb := sb }

/-- KCPY (R180) -/
def execKcpy (p : Fin 64) (dd ds : Fin 16) (k : KDone) (s : State) : Out :=
  s.slotOp .k p (s.issuePair (.kcpy p dd ds k) .copy dd ds 0 0 k)
/-- KMCST (R180) -/
def execKmcst (p : Fin 64) (dd ds : Fin 16) (sa : Fin 64) (k : KDone) (s : State) : Out :=
  s.slotOp .k p <| .need (s.me.checked sa) fun a => s.issuePair (.kmcst p dd ds sa k) .copy dd ds a 0 k
/-- KRED (R180) -/
def execKred (p : Fin 64) (dd ds : Fin 16) (k : KDone) (s : State) : Out :=
  s.slotOp .k p (s.issuePair (.kred p dd ds k) .copy dd ds 0 0 k)
/-- KGTH (R181) -/
def execKgth (p : Fin 64) (dd ds : Fin 16) (sa : Fin 64) (k : KDone) (s : State) : Out :=
  s.slotOp .k p <| .need (s.me.checked sa) fun a => s.issuePair (.kgth p dd ds sa k) .gather dd ds a 0 k
/-- KSCT (R181) -/
def execKsct (p : Fin 64) (dd ds : Fin 16) (sa : Fin 64) (k : KDone) (s : State) : Out :=
  s.slotOp .k p <| .need (s.me.checked sa) fun a => s.issuePair (.ksct p dd ds sa k) .gather dd ds a 0 k
/-- KROUTE (R182) -/
def execKroute (p : Fin 64) (dd ds : Fin 16) (sa sb : Fin 64) (k : KDone) (s : State) : Out :=
  s.slotOp .k p <| .need (s.me.checked sa) fun a => .need (s.me.checked sb) fun b =>
    s.issuePair (.kroute p dd ds sa sb k) .collective dd ds a b k
/-- KA2A (R183) -/
def execKa2a (p : Fin 64) (dd ds : Fin 16) (sa sb : Fin 64) (k : KDone) (s : State) : Out :=
  s.slotOp .k p <| .need (s.me.checked sa) fun a => .need (s.me.checked sb) fun b =>
    s.issuePair (.ka2a p dd ds sa sb k) .collective dd ds a b k
/-- KGAT (R185) -/
def execKgat (p : Fin 64) (dd : Fin 16) (sa sb : Fin 64) (k : KDone) (s : State) : Out :=
  s.slotOp .k p <| .need (s.me.checked sa) fun a => .need (s.me.checked sb) fun b =>
    s.issueK .gather s.me.dreg[dd] dd k { s.newK (.kgat p dd sa sb k) (some .gather) with dd := s.me.dreg[dd], sa := a, sb := b }
/-- KRING (R186): the ring is the one bound at issue, and its default completion stands in dS (R175). -/
def execKring (p : Fin 64) (ds : Fin 16) (e : Bool) (k : KDone) (s : State) : Out :=
  s.slotOp .k p (s.issueK .copy s.me.dreg[ds] ds k
    { s.newK (.kring p ds e k) (some .copy) with ds := s.me.dreg[ds], ring := s.me.hreg[s.me.dreg[ds].ring] })
/-- KFILL (R180) -/
def execKfill (p : Fin 64) (dd : Fin 16) (sa : Fin 64) (k : KDone) (s : State) : Out :=
  s.slotOp .k p <| .need (s.me.checked sa) fun a =>
    s.issueK .copy s.me.dreg[dd] dd k { s.newK (.kfill p dd sa k) (some .copy) with dd := s.me.dreg[dd], sa := a }

/-- Footprints of gathers that wait for indices grow as these are pushed (R178, R181). -/
def State.placeGathers (s : State) (c : CtxId) : State :=
  { s with kcmds := s.kcmds.map fun k => if k.owner = c && k.run = (s.ctx c).run && k.waitsIdx then s.footK k else k }
/-- A gather that has started takes pushed indices as they come, for it may need more than the queue holds (R181). -/
def State.feedIdx (s : State) (c : CtxId) : State :=
  let x := s.ctx c
  match s.kcmds.find? fun k => k.owner = c && k.run = x.run && k.waitsIdx && k.stage ≠ .queued with
  | none => s
  | some k =>
    let n := k.sa.toNat - k.idx.length
    (s.modK k.id fun k => { k with idx := k.idx ++ x.idxq.take n }).modCtx c fun x => { x with idxq := x.idxq.drop n }
/-- KIDX: the push, and the free entries to q7 at latency 1 (R175, R181). -/
def execKidx (p : Fin 64) (sa : Fin 64) (s : State) : Out :=
  s.slotOp .k p <| .need (s.me.checked sa) fun a =>
    if Config.indexQueueDepth ≤ s.me.idxq.length then .hold s
    else
      let t := (s.modMe fun c => { c with idxq := c.idxq ++ [a.truncate 32] }).feedIdx s.cur
      .done ((t.placeGathers s.cur).land .k 1 [] (latchS (BitVec.ofNat 64 (Config.indexQueueDepth - t.me.idxq.length))) 0)

/-! ## Start (R72, R176, R254, R370) -/

/-- Earlier commands of a command's path and lane (R176). -/
def State.ahead (s : State) (k : KCmd) : List KCmd :=
  s.kcmds.filter fun q => q.owner = k.owner && q.run = k.run && q.path = k.path && decide (q.id < k.id)
/-- A command has started, as its path sees it: a KRING once it has its slot (R176, R334). -/
def KCmd.begun (k : KCmd) : Bool :=
  k.errored || k.failed.isSome || k.stage = .visible || (k.stage ≠ .queued && (!k.ringing || k.claim.isSome))
/-- Both touch a byte, one of them writing (R176). -/
def Foot.meets (a b : Foot) : Bool := (spanMeet a.src b.dst).isSome || (spanMeet a.dst b.src).isSome || (spanMeet a.dst b.dst).isSome
/-- A command may start. -/
def State.mayStart (s : State) (k : KCmd) : Bool :=
  k.path.isSome && k.stage = .queued && k.failed.isNone && k.waitFault.isNone && !k.errored && !s.severed k.owner.core &&
  (s.ahead k).all (fun q => q.begun && (q.stage = .visible || q.errored || q.failed.isSome || !(q.reach.meets k.reach))) &&
  (!k.gathers || !k.idx.isEmpty || !(s.kstatic k).isOk ||
    ((s.ahead k).all (fun q => !q.waitsIdx || q.errored || q.failed.isSome) &&
      decide (min k.sa.toNat Config.indexQueueDepth ≤ (s.ctx k.owner).idxq.length))) &&
  !(s.banksLocked k.owner.core k.id (k.srcFoot ++ k.dstFoot ++ k.area))

/-- A gather takes its indices from the queue, as many as stand there; one whose descriptors or count fail takes none
(R181, R370). -/
def State.takeIdx (s : State) (k : KCmd) : KCmd × State :=
  if k.gathers && k.idx.isEmpty && (s.kstatic k).isOk then
    let q := (s.ctx k.owner).idxq
    let k := { k with idx := q.take k.sa.toNat }
    (k, (s.modK k.id fun _ => k).modCtx k.owner fun x => { x with idxq := q.drop k.sa.toNat })
  else (k, s)

/-- The parties of a KA2A round here that have posted. -/
def State.a2aParties (s : State) (rec round : Nat) : List KCmd :=
  s.kcmds.filter fun k => k.posted && k.ringLoc = rec && k.round = round
/-- Its parties on other devices that have posted (R183). -/
def State.farParties (s : State) (rec round : Nat) : List FarParty :=
  s.parties.filter fun f => f.loc = rec && f.round = round
/-- Parties posted, here and elsewhere. -/
def State.a2aCount (s : State) (rec round : Nat) : Nat := (s.a2aParties rec round).length + (s.farParties rec round).length
/-- Flits of the collective unit leave on lane 0 for every other device: which of them have parties, no rule says (R183,
R307; log entry 15). -/
def State.tellAll (s : State) (n : Nat) (u : FlitUse) : State := s.routes.foldl (fun s r => s.sendFlits r.1 0 n u) s
/-- A round fails: every party here with `code`, nothing delivered, posted returns to 0 (R405). -/
def State.a2aDrop (s : State) (rec round : Nat) (code : BitVec 8) : State :=
  let s := s.setNum (rec + 8) 0 4
  { s with
    parties := s.parties.filter fun f => !(f.loc = rec && f.round = round)
    kcmds := s.kcmds.map fun (k : KCmd) => if k.posted && k.ringLoc = rec && k.round = round then
      { k with
        posted := false
        held := []
        failed := if k.failed.isSome || k.stage = .visible then k.failed else some { code := code } } else k }
/-- A round fails with `code`, and the other devices are told (R405). -/
def State.a2aFail (s : State) (rec round : Nat) (code : BitVec 8) : State := (s.a2aDrop rec round code).tellAll 1 .reply
/-- The code with which a party's failure reaches the others of its round: a link failure's own, else 0x38 (R313, R405). -/
def Fail.forRound (f : Fail) : BitVec 8 := if 0x54 ≤ f.code.toNat && f.code.toNat ≤ 0x56 then f.code else 0x38
/-- A command fails; a party that has posted fails its round for every party (R405). One that has not posted yet does so as
its error is reported, when its earlier command on the record has come to its end (R184). -/
def State.failAll (s : State) (k : KCmd) (f : Fail) : State :=
  let s := s.failK k.id f
  match k.op with
  | .ka2a .. => if k.posted then s.a2aFail k.ringLoc k.round f.forRound else s
  | _ => s
/-- A party's earlier KA2A on the record is visible and its round has not advanced: the command joins the next round
(R184). -/
def State.a2aLater (s : State) (k : KCmd) : Bool := match k.op, s.a2aLoc k 0 0x40 with
  | .ka2a .., .ok l => (s.a2aParties l (s.num (l + 12) 4)).any fun q => q.rank = k.rank && q.stage = .visible
  | _, _ => false
/-- KA2A_POST: a party posts its receive address (R183, R184, R405). -/
def State.a2aPost (s : State) (k : KCmd) : State :=
  match s.a2aLoc k 0 0x40, s.a2aLoc k (0x40 + 16 * k.rank) 16 with
  | .ok l, .ok e =>
    let g := s.num l 2
    let round := s.num (l + 12) 4
    let others := s.a2aParties l round
    let fars := s.farParties l round
    if g ≤ k.rank || others.any (fun q => q.rank = k.rank || q.parties ≠ g) ||
        fars.any (fun f => f.rank = k.rank || f.parties ≠ g) then
      (s.failK k.id { code := 0x38 }).a2aFail l round 0x38
    else
      let s := s.setNum (l + 8) (s.num (l + 8) 4 + 1) 4
      let s := s.setNum e (bits (k.dd.flatName (spaceAddr k.dd.space k.dd.base 0)) 0 56) 8
      let s := s.setNum (e + 8) s.device.toNat 8
      (s.modK k.id fun q => { q with stage := .started, posted := true, round := round, parties := g, ringLoc := l }).tellAll 1
        (.command k.id)
  | _, _ => s

/-- A device cannot be reached: no trained port leads to it (R309, R313). -/
def State.cutOff (s : State) (dev : Nat) : Bool := match s.route dev with
  | some p => !s.ports[p].trained
  | none => true
/-- The remote bytes among spans lie behind a port that is down, or behind none (R309, R313). -/
def State.unreached (s : State) (l : List Span) : Option Fail :=
  l.findSome? fun x => match remoteWindow x.loc with
    | some (dev, _) => if s.cutOff dev then some { code := 0x56, faddr := x.name } else none
    | none => none

/-- The devices and the counts of flits that carry a command's remote bytes (R307, R310). -/
def flitsOf (l : List Span) : List (Nat × Nat) :=
  let far := l.filter fun x => (remoteWindow x.loc).isSome
  (far.map fun x => windowDevice x.loc).eraseDups.map fun dev =>
    (dev, ((far.filter fun x => windowDevice x.loc = dev).foldl (fun n y => n + y.len) 0 + 223) / 224)
/-- The flits of a remote KCPY: one request to each device it reads, and its payload for each it writes (R310). -/
def copyFlits (p : KPlan) : List (Nat × Nat) := (flitsOf p.reads).map (fun x => (x.1, 1)) ++ flitsOf p.dst
/-- A paused lane takes no more of a command's flits (R308). -/
def State.linkPaused (s : State) (p : KPlan) : Bool :=
  (copyFlits p).any fun x => match s.route x.1 with
    | some q => !s.ports[q].lanes[(1 : Fin 4)].canSend x.2
    | none => false
/-- The flits of a remote KCPY start on virtual lane 1 (R310). -/
def State.sendCopy (s : State) (id : Nat) (p : KPlan) : State :=
  (copyFlits p).foldl (fun s x => s.sendFlits x.1 1 x.2 (.command id)) s
/-- Nothing of a command is on its way on a port any more (R310). -/
def State.acked (s : State) (id : Nat) : Bool := s.ports.toList.all fun p => p.lanes.toList.all fun l =>
  (l.sent.all fun x => x.use ≠ .command id) && l.queue.all fun x => x.2 ≠ .command id

/-! ## Commands that meet a fence (R417) -/

/-- A command of another core that meets a fenced core: 0x36 where it writes there, 0x37 where it reads there. -/
def State.fenceFail (s : State) (k : KCmd) (f : Foot) : Option Fail :=
  let on (l : Nat) : Bool := isSpad l && (let c := Fin.ofNat 128 ((l - 2 ^ 52) / 2 ^ 22)
    (s.fenced.getLsbD c.val || s.severed c) && decide (c ≠ k.owner.core))
  let ring : Option Nat := if k.ringing then match s.kringObj k with
      | .ok r => some (r.1.headD 0)
      | _ => none
    else none
  match f.dst.find? (fun x => on x.loc) with
  | some x => some { code := 0x36, faddr := x.name }
  | none => match ring with
    | some l => if on l then some { code := 0x36, faddr := (k.ring.map (·.addr)).getD 0 }
      else (f.src.find? (fun x => on x.loc)).map fun x => { code := 0x37, faddr := x.name }
    | none => (f.src.find? (fun x => on x.loc)).map fun x => { code := 0x37, faddr := x.name }

/-- K_COMMAND_START (R176): the checks of R370 and R380, the translation of the whole footprint (R404), the conflicts
within the lane (R254); KA2A posts. -/
def execKCommandStart (id : Nat) (s : State) : Out :=
  .next (match s.getK id with
    | none => s
    | some k =>
      if !s.mayStart k then s
      else
        let (k, s) := s.takeIdx k
        match s.kstatic k with
        | .error f => s.failAll k f
        | .ok _ =>
          let feet := s.knownFeet k
          -- closes on their way to the bytes arrive first, the lane's own among them (R75, R254)
          if (spanLocs (feet.1 ++ feet.2 ++ k.area)).any s.onItsWay || s.a2aLater k then s
          -- the rows of a gather are translated once all its indices are known to lie in the table (R181)
          else match (if k.waitsIdx then .ok ⟨feet.1, feet.2, []⟩ else s.kplan k (s.lookK k)) with
          | .fail f => s.failAll k f
          | .fault f => s.modK id fun q => { q with waitFault := some f }
          | .ok p =>
            let k := { k with srcFoot := p.reads, dstFoot := p.dst }
            match s.laneClash k with
            | some f => s.failAll k f
            | none => match s.unreached (p.reads ++ p.dst) with
              | some f => s.failAll k f
              | none =>
                match s.fenceFail k ⟨p.reads, p.dst, false⟩ with
                | some f => s.failAll k f
                | none =>
                if s.linkPaused p then s
                else
                let s := (s.modK id fun q => { q with stage := .started, srcFoot := p.reads, dstFoot := p.dst }).failLater k.owner k.run id k.foot
                let s := s.sendCopy id p
                match k.op with
                | .ka2a .. => s.a2aPost k
                | _ => s)

/-! ## Reading the source (R36, R177, R404) -/

/-- Local spans: bytes behind another device's window are that device's to judge (R310). -/
def localSpans (l : List Span) : List Span := l.filter fun x => (remoteWindow x.loc).isNone

/-- The bytes of writes. -/
def PendOp.cells : PendOp → List Host.Cell
  | .bytes cs => cs
  | .upd _ _ _ _ => []
/-- What another device takes as flits is not held here (R310). -/
def PendOp.near : PendOp → PendOp
  | .bytes cs => .bytes (cs.filter fun c => (remoteWindow c.1).isNone)
  | o => o
/-- A gather's plan, its last indices perhaps come after its start: that they lie in the table is checked before a row is
translated (R181, R363). -/
def State.latePlan (s : State) (k : KCmd) : Gate KPlan := match (if k.gathers then s.kstatic k else .ok ()) with
  | .error f => .fail f
  | .ok _ => s.kplan k (s.lookK k)
/-- The conflicts of a gather with the rows that it knows only now, within its lane and with a fence (R254, R417). -/
def State.lateClashK (s : State) (k : KCmd) : Option Fail :=
  if k.gathers then (s.laneClash k).or (s.fenceFail k k.foot) else none
/-- Every source byte is read and the destination writes are made ready, held until visible level (R404). A page that has
gone since the start is asked of Zenhel (R396). -/
def State.fetch (s : State) (k : KCmd) : Except State State :=
  match s.latePlan k with
  | .fail f => .error (s.failAll k f)
  | .fault f => .error (s.modK k.id fun q => { q with waitFault := some f })
  | .ok p =>
    let k := { k with srcFoot := p.reads, dstFoot := p.dst }
    match (s.lateClashK k).or (s.spanPoison (localSpans p.reads)) with
    | some f => .error (s.failAll k f)
    | none => match s.touchAs k.owner k.run k.step .read k.opn k.closeAt (localSpans p.reads) k.id with
      | .error f => .error (s.engineTrap k f)
      | .ok s =>
        let held := p.ops.map fun o =>
          (⟨o.near, (p.dst.headD ⟨0, 0, 0⟩).name, k.updates, true, some k.bit⟩ : Pend)
        .ok (((s.flushSpans (localSpans p.reads)).modK k.id fun q =>
          { q with held := held, srcFoot := p.reads, dstFoot := p.dst }).failLater k.owner k.run k.id k.foot)

/-- A contribution's failure at its home, named by its element (R402, R404). The home has taken the writes of the command's
own step that are visible, whether or not a close has published them (R176, R177). -/
def State.refuseRed (s : State) (k : KCmd) (p : Pend) : Option Fail :=
  let own := if s.live k then (s.ctx k.owner).pend.filter (·.sure) else []
  ((own.foldl State.applyPend s).refusePend { p with sure := false }).map fun f =>
    let l := p.locs.headD 0
    let w := match k.dstFoot.find? (fun x => x.loc ≤ l && l < x.loc + x.len) with
      | some x => x.name + BitVec.ofNat 64 (l - x.loc)
      | none => p.name
    { f with faddr := if f.code = 0x23 then w - BitVec.ofNat 64 (l - unitBase l) else w }
/-- KRED_ACCEPT (R404): the homes accept every contribution, or the first refusal fails the command. -/
def execKredAccept (id : Nat) (s : State) : Out :=
  .next (match s.getK id with
    | none => s
    | some k =>
      if !(k.updates && k.stage = .started && k.failed.isNone && k.waitFault.isNone && !k.accepted) ||
          s.severed k.owner.core then s
      else if k.dead then s.modK id fun q => { q with accepted := true }
      else settle (andThen (s.fetch k) fun s => match s.getK id with
        | none => .ok s
        | some k => match k.held.findSome? (s.refuseRed k) with
          | some f => .ok (s.failK id f)
          | none => .ok (s.modK id fun q => { q with accepted := true })))

/-- Every source byte on another device has arrived (R310). -/
def KCmd.farHere (k : KCmd) : Bool :=
  (spanLocs (k.srcFoot.filter fun x => (remoteWindow x.loc).isSome)).all fun l => k.far.any (·.1 = l)
/-- Every party of a round has sent to every party, and none has failed: from here on the round does not fail (R184,
R405). -/
def State.sealed (s : State) (rec round parties : Nat) : Bool :=
  let ps := s.a2aParties rec round
  s.a2aCount rec round = parties && ps.all (fun q => q.failed.isNone && q.sent.length = q.parties) &&
    (s.farParties rec round).all fun f => ps.all fun q => f.sent.contains q.rank
/-- The exchange of a KA2A is done (R184). Source-read-done waits for it too, since a command that fails writes no
source-read-done (R404; log entry 19). -/
def State.exchanged (s : State) (k : KCmd) : Bool := match k.op with
  | .ka2a .. => k.posted && s.sealed k.ringLoc k.round k.parties
  | _ => true
/-- A command may reach source-read-done (R176, R177). -/
def State.mayRead (s : State) (k : KCmd) : Bool :=
  k.stage = .started && k.failed.isNone && !s.severed k.owner.core && s.exchanged k &&
  (k.dead || (k.waitFault.isNone && !k.waitsIdx && k.farHere &&
  (s.ahead k).all (fun q => q.stage = .srcDone || q.stage = .visible || q.errored) &&
  (!k.updates || k.accepted) && (!k.ringing || k.claim.isSome)))
/-- The partly covered poisoned unit that a command's writes meet (R341). -/
def State.heldPoison (s : State) (k : KCmd) : Option Fail :=
  (s.poisonWrite (k.held.flatMap fun p => p.op.cells)).map fun l =>
    match k.dstFoot.find? (fun x => x.loc ≤ l && l < x.loc + x.len) with
    | some x => { code := 0x23, faddr := x.name + BitVec.ofNat 64 (l - x.loc) - BitVec.ofNat 64 (l - unitBase l) }
    | none => { code := 0x23 }
/-- The advance of a KRING reads the ring object: poison in it fails the command, before its source-read-done (R401,
R404). -/
def State.ringPoison (s : State) (k : KCmd) : Option Fail :=
  if k.ringing then s.objPoison ((List.range 64).map (k.ringLoc + ·)) ((k.ring.map (·.addr)).getD 0) else none
/-- What a command has written when it becomes visible: a KA2A the bytes delivered into its buffer (R184). -/
def KCmd.written (k : KCmd) : List Span := match k.op with
  | .ka2a .. => spansOf (k.held.map fun p => (p.name, p.locs))
  | _ => localSpans k.dstFoot
/-- The party of a KA2A round whose buffer cannot take what has been delivered into it, found before the first of them
reaches source-read-done (R258, R341, R404). -/
def State.roundPoison (s : State) (k : KCmd) : Option (KCmd × Fail) :=
  let ps := s.a2aParties k.ringLoc k.round
  match k.op with
  | .ka2a .. => if ps.any (·.stage ≠ .started) then none
    else ps.findSome? fun q => ((s.heldPoison q).or
      (if s.live q then none else s.lateClash q.owner q.run .write q.wopn q.written q.id)).map fun f => (q, f)
  | _ => none
/-- What keeps the destination of a command from being written (R341, R401). -/
def State.dstPoison (s : State) (k : KCmd) : Option Fail := match k.op with
  | .ka2a .. => none
  | _ => (s.heldPoison k).or (s.ringPoison k)
/-- SOURCE_READ_DONE (R177): the word is written once the destination has been found sound too, for a command that fails
writes none (R404). -/
def execSourceReadDone (id : Nat) (s : State) : Out :=
  .next (match s.getK id with
    | none => s
    | some k =>
      if !s.mayRead k then s
      else match s.roundPoison k with
      | some (q, f) => s.failAll q f
      | none =>
      if k.dead then s.modK id fun q => { q with stage := .srcDone }
      else
        let read : Except State State := match k.op with
          | .kred .. => .ok s
          | .ka2a .. => .ok s
          | _ => s.fetch k
        settle (andThen read fun s => match (s.getK id).bind s.dstPoison with
          | some f => .ok (s.failAll k f)
          | none =>
            (s.modK id fun q => { q with stage := .srcDone, srcDoneWord := q.srcWord.isSome && s.live k }).completion k k.srcWord none))

/-! ## Rings (R186, R187, R408) -/

/-- The live claims on the ring object at `loc`. -/
def State.claims (s : State) (loc : Nat) : List KCmd := s.kcmds.filter fun k => k.claim.isSome && k.ringLoc = loc
/-- The least position that no claim holds. -/
def freePos (held : List Nat) : Nat := ((List.range (held.length + 1)).find? fun u => !held.contains u).getD 0
/-- Commands that ask the same ring at this device time and go first: those of lower core numbers (R186). -/
def State.ringFirst (s : State) (k : KCmd) (loc : Nat) : Bool :=
  !(s.kcmds.any fun q => q.ringing && q.stage = .started && q.claim.isNone && q.failed.isNone && !q.dead &&
    decide (q.owner.core.val < k.owner.core.val) &&
    (match s.kringObj q with
      | .ok r => r.1.headD 0 = loc
      | _ => false))
/-- KRING_CLAIM (R186, R408): the next slot of the ring is claimed once there is room. -/
def execKringClaim (id : Nat) (s : State) : Out :=
  .next (match s.getK id with
    | none => s
    | some k =>
      if !(k.ringing && k.stage = .started && k.claim.isNone && k.failed.isNone && k.waitFault.isNone && !k.dead) ||
          s.severed k.owner.core then s
      else match s.kringObj k with
        | .fail f => s.failK id f
        | .fault f => s.modK id fun q => { q with waitFault := some f }
        | .ok (ls, b, r) =>
          let loc := ls.headD 0
          let live := s.claims loc
          if s.fresh loc 64 || ls.any (s.inTransit k.owner) || !s.ringFirst k loc then s
          else if r.over then s.failK id (ringFail 7 b.addr)
          else if r.nslot ≤ r.filled + live.length then s
          else
            let u := freePos (live.filterMap fun q => q.claim.map Prod.fst)
            -- the writes open with the claim; the reads keep the times of the issue (R36, R186)
            let k' := { k with claim := some (u, (r.wp + u) % r.nslot), ringLoc := loc, wopn := s.time }
            match s.kplan k' (s.lookK k') with
            | .fail f => s.failK id f
            | .fault f => s.modK id fun q => { q with waitFault := some f }
            | .ok p =>
              if (spanLocs p.dst).any s.onItsWay then s
              else match s.fenceFail k' ⟨[], p.dst, false⟩ with
              | some f => s.failK id f
              | none => s.modK id fun _ => { k' with dstFoot := p.dst })

/-- The address of the ring object of a KRING. -/
def KCmd.ringName (k : KCmd) : Word := (k.ring.map (·.addr)).getD 0
/-- A visible claim at position 0 advances the ring: eos and wp, one synchronisation write; the later claims move up
(R91, R186). -/
def State.advanceOne (s : State) (k : KCmd) (u : Nat × Nat) : Except State State :=
  let e := match k.op with
    | .kring _ _ e _ => e
    | _ => false
  let write (s : State) : State :=
    let byte := k.ringLoc + 32 + u.2 / 8
    let s := s.setNum (k.ringLoc + 16) ((s.num (k.ringLoc + 16) 4 + 1) % 2 ^ 32) 4
    let s := s.setByte byte (setBit (s.byte byte) (u.2 % 8) e)
    { s with kcmds := s.kcmds.map fun (q : KCmd) =>
      if q.id = k.id then { q with claim := none }
      else if q.ringLoc = k.ringLoc then { q with claim := q.claim.map fun c => (c.1 - 1, c.2) } else q }
  let sync := ringSpans ((List.range 64).map (k.ringLoc + ·)) k.ringName
  if s.live k then s.syncWrite k sync true write
  -- after its step's end the write is a synchronisation access all the same, observed from the next device time on; no
  -- close follows that would report a read made first, and a conflict gives up the claim and aborts the node (R256, R258,
  -- R344)
  else match s.lateClash k.owner k.run .sync s.time sync with
    | some f => .error ((s.modK k.id fun q => { q with claim := none }).abortNode k.asid k.opb f.code.toNat k.owner.core k.step [])
    | none => .ok (write { s with accs := s.accs ++ sync.map fun x =>
        ⟨k.owner, k.run, k.step, x.name, x.loc, x.len, .sync, s.time, some s.time⟩ })
/-- Advance while the claim at position 0 is visible. -/
def State.advance (loc : Nat) : Nat → State → Except State State
  | 0, s => .ok s
  | n + 1, s =>
    match (s.claims loc).find? (fun k => k.stage = .visible && (k.claim.map Prod.fst) = some 0) with
    | none => .ok s
    | some k => andThen (s.advanceOne k (k.claim.getD (0, 0))) (State.advance loc n)

/-! ## Visible level (R177, R255, R404) -/

/-- Commands that are over and whose step is gone are forgotten. -/
def State.reap (s : State) : State :=
  { s with kcmds := s.kcmds.filter fun k => !(k.over && !s.live k) }.settleAborts
/-- The held writes of a command are committed: in the core's own scratchpad at once, elsewhere with the lane's next
close, or at this moment where the step has ended (R255). -/
def State.commit (s : State) (k : KCmd) : State :=
  let own (l : Nat) : Bool := spadLoc k.owner.core 0 ≤ l && l < spadLoc k.owner.core 0 + 2 ^ 22
  if s.live k then
    let cs := (k.held.flatMap fun p => p.op.cells).filter fun c => own c.1
    let rest := k.held.map fun (p : Pend) => match p.op with
      | .bytes cs => { p with op := .bytes (cs.filter fun c => !own c.1) }
      | _ => p
    (s.spadWrite k.owner cs).modCtx k.owner fun x => { x with pend := x.pend ++ rest.filter fun p => !p.locs.isEmpty }
  else k.held.foldl State.applyPend s
/-- The homes on other devices have acknowledged every byte that a command writes there (R310). -/
def KCmd.home (k : KCmd) : Bool := (flitsOf k.dstFoot).all fun x => k.homes.contains x.1
/-- A command may reach visible level (R176, R184, R310). -/
def State.mayShow (s : State) (k : KCmd) : Bool :=
  k.stage = .srcDone && k.failed.isNone && !s.severed k.owner.core && s.exchanged k &&
  (k.dead || ((s.ahead k).all (fun q => q.stage = .visible || q.errored) && k.home && s.acked k.id))
/-- The destination writes join the accesses that the conflict rule looks at. After the step's end no close follows, so
that earlier reads are looked at now, and a conflict fails the command (R258, R344). -/
def State.showWrites (s : State) (k : KCmd) : Except State State :=
  let kind : AKind := if k.updates then .update else .write
  if s.live k then match s.touchAs k.owner k.run k.step kind k.wopn none k.written k.id with
    | .error f => .error (s.engineTrap k f)
    | .ok s => .ok s
  else match s.lateClash k.owner k.run kind k.wopn k.written k.id with
    | some f => .error (s.failAll k f)
    | none => .ok { s with accs := s.accs ++ k.written.map fun x =>
        ⟨k.owner, k.run, k.step, x.name, x.loc, x.len, kind, k.wopn, some s.time⟩ }
/-- A copy-engine command's latency from issue to visible is a sample for the monitors (R316). -/
def State.noteCopy (s : State) (k : KCmd) : State :=
  if k.path = some .copy then s.modCore k.owner.core fun q => { q with copyLat := some (s.time - k.t) } else s
/-- The other parties of a KA2A learn that one is visible (R184). -/
def State.noteShown (s : State) (k : KCmd) : State := match k.op with
  | .ka2a .. => (s.farParties k.ringLoc k.round).foldl (fun s f => s.sendFlits f.device 0 1 .reply) s
  | _ => s
/-- VISIBLE_LEVEL (R177): the writes are committed, then the word is written and a ring advances. Poison that strikes a
destination or a ring object after source-read-done fails nothing any more: it stays with the bytes written into its unit
(R404; log entry 19). -/
def execVisibleLevel (id : Nat) (s : State) : Out :=
  .next (match s.getK id with
    | none => s
    | some k =>
      if !s.mayShow k then s
      else if k.dead then (s.modK id fun q => { q with stage := .visible }).reap
      else match s.showWrites k with
        | .error t => t
        | .ok s =>
          let s := (((s.commit k).putSnap k.owner k.run k.id (k.held.map (·.op))).noteCopy k).noteShown k
          let s := s.modK id fun q => { q with stage := .visible, held := [], visDoneWord := q.visWord.isSome && s.live k }
          let s := if s.live k then s else s.modRun k.run fun r => { r with once := r.once || k.updates }
          (settle (andThen (s.completion k k.visWord none) (State.advance k.ringLoc (s.claims k.ringLoc).length))).reap)

/-! ## All-to-all (R184, R405) -/

/-- What each party of a round sends to rank `party`: its rank and its count. -/
def State.a2aInto (s : State) (rec round g party : Nat) : Gate (List (Nat × Nat)) :=
  (gateAll (fun (p : KCmd) => (s.sendCounts p.actor p (s.lookK p) g).bind fun cs => .ok (p.rank, cs.getD party 0))
    (s.a2aParties rec round)).bind fun l =>
      .ok (l ++ (s.farParties rec round).map fun f => (f.rank, f.counts.getD party 0))
/-- A party's count and payload for rank `party`, in its send buffer, and all its counts, which tell where they stand. -/
def State.a2aTake (s : State) (k : KCmd) (party : Nat) : Gate (List (Word × List Nat)) :=
  (s.sendCounts k.actor k (s.lookK k) k.parties).bind fun cs =>
    (s.sendGate k.actor k (8 * party) 8).bind fun c =>
      (s.sendGate k.actor k (8 * k.parties + (cs.take party).foldl (· + ·) 0) (cs.getD party 0)).bind fun l =>
        (s.sendGate k.actor k 0 (8 * k.parties)).bind fun all =>
          (s.cleanGate [c, l]).bind fun _ => .ok [c, l, all]
/-- Where the count and the `n` bytes of rank `rank` go in the buffer of party `q`: after those of the lower ranks. -/
def State.a2aPlace (s : State) (q : KCmd) (rank n : Nat) (into : List (Nat × Nat)) : Gate (List (Word × List Nat)) :=
  (s.blockGate q.actor q.dd (8 * rank) 8 ⟨true, false⟩).bind fun dc =>
    (s.blockGate q.actor q.dd (8 * q.parties + (into.filter fun x => decide (x.1 < rank)).foldl (fun n x => n + x.2) 0) n
      ⟨true, false⟩).bind fun dl => .ok [dc, dl]
/-- What rank `party` is due exceeds its buffer (R405). -/
def KCmd.overfull (q : KCmd) (into : List (Nat × Nat)) : Bool :=
  decide (q.dd.rows * q.dd.cols < 8 * q.parties + into.foldl (fun n x => n + x.2) 0)
/-- Bytes delivered into a party's buffer, held until it is visible (R184). -/
def State.a2aGive (s : State) (q : KCmd) (at' : List (Word × List Nat)) (bs : List (List Byte)) : State :=
  s.modK q.id fun q => if q.dead then q else { q with
    held := q.held ++ List.zipWith (fun (d : Word × List Nat) b => ⟨.bytes (d.2.zip b), d.1, true, true, some q.bit⟩) at' bs }
/-- KA2A_SEND (R184): the party's count and payload for rank `party` go to that party's buffer, as writes of its own
command, or as flits to its device. Every party has posted by then. -/
def execKa2aSend (id : Nat) (party : Nat) (s : State) : Out :=
  .next (match s.getK id with
    | none => s
    | some k =>
      if !(k.posted && k.failed.isNone && k.waitFault.isNone && !k.sent.contains party &&
        s.a2aCount k.ringLoc k.round = k.parties) || s.severed k.owner.core then s
      else
        let local' := (s.a2aParties k.ringLoc k.round).find? (fun q => q.rank = party)
        let far := (s.farParties k.ringLoc k.round).find? (fun f => f.rank = party)
        let wait (f : Fail) : State := s.modK id fun q => { q with waitFault := some f }
        let sent (s : State) : State := s.modK id fun q => { q with sent := q.sent ++ [party] }
        match s.a2aTake k party, s.a2aInto k.ringLoc k.round k.parties party with
        | .fail f, _ => s.failAll k f
        | .fault f, _ => wait f
        | _, .fail f => s.failAll k f
        | _, .fault f => wait f
        | .ok src, .ok into =>
          -- a plain read: the lines leave exact form (R85)
          let read : Except Fail State :=
            if k.dead then .ok s
            else (s.touchAs k.owner k.run k.step .read k.opn k.closeAt (spansOf (src.take 2)) k.id).map fun t =>
              t.flushSpans (spansOf src)
          let bs := (src.take 2).map fun l => l.2.map (s.lookK k)
          match local', far, read with
          | some q, _, .ok t =>
            if q.overfull into then s.a2aFail k.ringLoc k.round 0x38
            else match s.a2aPlace q k.rank ((bs.getD 1 []).length) into with
              | .fail f => s.failAll k f
              | .fault f => wait f
              | .ok at' => (sent t).a2aGive q at' bs
          | none, some f, .ok t =>
            if s.cutOff f.device then s.failAll k { code := 0x56 }
            else (sent t).sendFlits f.device 0 (((bs.flatten).length + 223) / 224) (.command id)
          | none, none, _ => s
          | _, _, .error f => s.engineTrap k f)

/-! ### Flits of other devices' collective units (R183, R184, R307) -/

/-- The location of the group record that a flit names. -/
def State.farRecord (s : State) (asid : BitVec 12) (record : Nat) : Option Nat :=
  match s.gate1 asid record 0x40 ⟨true, false⟩ with
  | .ok ls => ls.head?
  | _ => none
/-- A post arrives: it joins the current round, or the next where its rank is already visible in this one. -/
def State.farPost (s : State) (device : Nat) (asid : BitVec 12) (record rank rbase g : Nat) (counts : List Nat) : State :=
  match s.farRecord asid record, s.gate1 asid (record + 0x40 + 16 * rank) 16 ⟨true, false⟩ with
  | some l, .ok e =>
    let now := s.num (l + 12) 4
    let round := if (s.farParties l now).any fun f => f.rank = rank && f.visible then (now + 1) % 2 ^ 32 else now
    let bad := g ≠ s.num l 2 || g ≤ rank || (s.a2aParties l round).any (fun q => q.rank = rank || q.parties ≠ g) ||
      (s.farParties l round).any (fun f => f.rank = rank || f.parties ≠ g)
    if bad then s.a2aFail l round 0x38
    else
      let s := if round = now then s.setNum (l + 8) (s.num (l + 8) 4 + 1) 4 else s
      let s := s.setNum (e.headD 0) rbase 8
      let s := s.setNum (e.headD 0 + 8) device 8
      { s with parties := s.parties ++ [⟨asid, l, round, rank, device, g, rbase, counts, [], [], false⟩] }
  | _, _ => s
/-- Change the party of a rank on another device in the current round. -/
def State.modFar (s : State) (l rank : Nat) (f : FarParty → FarParty) : State :=
  { s with parties := s.parties.map fun p => if p.loc = l && p.round = s.num (l + 12) 4 && p.rank = rank then f p else p }
/-- Its count and payload for rank `dest` are delivered into the record at `l`; where a page is absent they wait with the
receiving command for Zenhel's answer (R396). -/
def State.farGive (s : State) (l rank dest : Nat) (bytes : List Byte) : State :=
  let round := s.num (l + 12) 4
  match (s.a2aParties l round).find? (fun q => q.rank = dest) with
  | none => s
  | some q =>
    let wait (f : Fail) : State := (s.modFar l rank fun p => { p with stash := p.stash ++ [(dest, bytes)] }).modK q.id fun k =>
      { k with waitFault := some f }
    match s.a2aInto l round q.parties dest with
    | .fail f => s.failAll q f
    | .fault f => wait f
    | .ok into =>
      if q.overfull into then s.a2aFail l round 0x38
      else match s.a2aPlace q rank bytes.length into with
        | .fail f => s.failAll q f
        | .fault f => wait f
        | .ok at' => (s.modFar l rank fun f => { f with sent := f.sent ++ [dest] }).a2aGive q at'
            [leBytes bytes.length 8, bytes]
/-- They arrive. -/
def State.farData (s : State) (asid : BitVec 12) (record rank dest : Nat) (bytes : List Byte) : State :=
  match s.farRecord asid record with
  | none => s
  | some l => s.farGive l rank dest bytes
/-- What waits for Zenhel's answer to command `k` is tried again. -/
def State.unstash (s : State) (k : KCmd) : State :=
  (s.farParties k.ringLoc k.round).foldl (fun s p =>
    (p.stash.filter fun x => x.1 = k.rank).foldl (fun s x =>
      (s.modFar k.ringLoc p.rank fun p => { p with stash := p.stash.filter fun y => y.1 ≠ k.rank }).farGive k.ringLoc p.rank x.1 x.2)
      s) s

/-- KA2A_ROUND_ADVANCE (R184): every party has reached visible level. -/
def execKa2aRoundAdvance (asid : BitVec 12) (record : Nat) (s : State) : Out :=
  .next (match s.gate1 asid record 0x40 ⟨true, false⟩ with
    | .ok ls =>
      let l := ls.headD 0
      let round := s.num (l + 12) 4
      let ps := s.a2aParties l round
      if ps.isEmpty || ps.any (fun k => k.stage ≠ .visible || k.parties ≠ s.a2aCount l round) ||
          (s.farParties l round).any (fun f => !f.visible) then s
      else
        let next := (round + 1) % 2 ^ 32
        let s := (s.setNum (l + 8) (s.farParties l next).length 4).setNum (l + 12) next 4
        { s with
          parties := s.parties.filter fun f => !(f.loc = l && f.round = round)
          kcmds := s.kcmds.map fun (k : KCmd) =>
            if k.posted && k.ringLoc = l && k.round = round then { k with posted := false } else k }.reap
    | _ => s)

/-! ## Errors (R337, R340, R344, R404) -/

/-- The opcode of a command (R135). -/
def KCmd.opcode (k : KCmd) : Nat := match k.op with
  | .kcpy .. => 0x01 | .kmcst .. => 0x02 | .kred .. => 0x03 | .kidx .. => 0x04 | .kgth .. => 0x05 | .ksct .. => 0x06
  | .kroute .. => 0x07 | .ka2a .. => 0x08 | .kgat .. => 0x09 | .kring .. => 0x0A | .kfill .. => 0x0B | _ => 0x0D
/-- The path number of a class-2 record (R337). -/
def KCmd.pathCode (k : KCmd) : Nat := match k.path with
  | some .copy => 0
  | some .gather => 1
  | some .collective => 2
  | none => 3
/-- The words of a class-2 record (R337, R340). -/
def errorWords2 (k : KCmd) (f : Fail) : List Word :=
  let word := match k.srcWord, k.visWord with
    | some w, _ => (w.1 - 2 ^ 52) % 2 ^ 22
    | none, some w => (w.1 - 2 ^ 52) % 2 ^ 22
    | none, none => 0
  [recWord0 f.code.toNat 2 k.slot.code k.owner.core.val k.owner.bank.val 0, BitVec.ofNat 64 k.pc.toNat, k.step,
   BitVec.ofNat 64 k.opb, f.faddr,
   BitVec.ofNat 64 (bits f.d0 32 32 * 2 ^ 32 + word + k.lvl.toNat * 2 ^ 22 + k.opcode * 2 ^ 24 + k.pathCode * 2 ^ 30), f.d1]
/-- A KA2A that has failed on its own account fails its round for every party (R405): the one it has posted in, or if it
has never posted, the current one. -/
def State.roundError (s : State) (k : KCmd) (f : Fail) : State := match k.op with
  | .ka2a .. =>
    if k.posted then s.a2aFail k.ringLoc k.round f.forRound
    else if k.stage = .queued then match s.a2aLoc k 0 0x40 with
      | .ok l => s.a2aFail l (s.num (l + 12) 4) f.forRound
      | _ => s
    else s
  | _ => s
/-- COMMAND_ERROR (R340): the class-2 record, then the error words; where its step has stopped, no word (R334); where its
step has ended, the abort of the node (R344). -/
def execCommandError (id : Nat) (s : State) : Out :=
  .next (match s.getK id with
    | none => s
    | some k => match k.failed with
      | none => s
      | some f =>
        if k.errored || s.severed k.owner.core || (s.ahead k).any (fun q => !(q.stage = .visible || q.errored)) || s.a2aLater k then s
        else
          let s := if k.record.isNone then s.roundError k f else s
          -- a 0x37 record comes from outside the context (R417)
          let s := if k.record.isNone && f.code = 0x37 then
              (s.modK id fun q => { q with record := some true }).ringDrop (s.ringOf k.owner) (errorWords2 k f)
            else if k.record.isNone then
              (s.modK id fun q => { q with record := some false }).ctxRecord k.owner (errorWords2 k f) (.errorWords id)
            else s
          match s.getK id with
          | none => s
          | some q =>
            if q.record ≠ some true then s
            else if k.dead then (s.modK id fun q => { q with errored := true, claim := none, posted := false, held := [] }).reap
            else if !s.live k then
              ((s.modK id fun q => { q with errored := true, claim := none, posted := false, held := [] }).abortNode k.asid k.opb
                f.code.toNat k.owner.core k.step []).reap
            else
              let seen := k.lvl ≠ 0
              let s := s.modK id fun q => { q with
                errored := true, claim := none, posted := false, held := []
                srcDoneWord := q.srcWord.isSome, visDoneWord := q.visWord.isSome
                seenSrc := q.seenSrc || seen, seenVis := q.seenVis || seen }
              (settle (andThen (s.completion k k.srcWord (some f.code)) fun s => andThen (s.completion k k.visWord (some f.code))
                (State.advance k.ringLoc (s.claims k.ringLoc).length))).reap)

/-! ## Load blocks, closes (R75, R170, R255, R401) -/

/-- LOAD_BLOCK_RESIDENT (R76, R170): every line of the block is resident; the completion word is written. -/
def execLoadBlockResident (id : Nat) (s : State) : Out :=
  .next (match s.getK id with
    | none => s
    | some k =>
      if !(k.path.isNone && k.stage = .queued && k.failed.isNone && k.waitFault.isNone && !k.dead) ||
          s.severed k.owner.core then s
      else match s.gate1 k.asid k.sa.toNat k.sb.toNat ⟨false, false⟩ with
        | .fail f => s.failK id f
        | .fault f => s.modK id fun q => { q with waitFault := some f }
        | .ok _ => (settle ((s.modK id fun q => { q with stage := .visible, visDoneWord := true }).completion k k.visWord none)).reap)

/-- CLOSE_WRITE_ARRIVAL (R75, R255): the oldest close of a lane reaches the homes, which apply it whole or refuse it
(R334, item 2). -/
def execCloseWriteArrival (c : CtxId) (s : State) : Out :=
  .next (match s.closing.find? (·.owner = c) with
    | none => s
    | some q =>
      let s' := { s with closing := s.closing.erase q }
      match s'.applyAll q.ops with
      | .ok t => (t.settleFence c).settleAborts
      | .error f =>
        -- the stop puts back the phase's scratchpad bytes after those of the open phase (R334, items 2 and 5)
        if s.runLive c q.run then (s'.modCtx c fun x => { x with
            undo := x.undo ++ q.undo, unpoison := x.unpoison ++ q.unpoison }).trap c q.slot 0 q.pc (s.ctx c).pc f
        else s'.abortNode q.asid q.opb f.code.toNat c.core q.step [])

end Sys2Proof.Machine
end

