-- ==== Sys2Proof/Machine/Nodes.lean ====
section
/-!
DEFINITION. Nodes as the schedulers handle them: the checks of an OPB, the walker, the ready queues, the end of a step,
retirement (R20 to R28, R42, R154, R352, R378).
-/
namespace Sys2Proof.Machine

/-! ## The schedulers' own accesses -/

/-- What passed a gate; the schedulers wait for no fault answer. -/
def Gate.get {α : Type} : Gate α → Option α
  | .ok a => some a
  | .fault _ => none
  | .fail _ => none
/-- The locations of readable, unpoisoned bytes at a virtual address. -/
def State.vaLocs (s : State) (a : BitVec 12) (va n : Nat) : Option (List Nat) :=
  (s.gate1 a va n ⟨false, false⟩).get.filter fun ls => !ls.any s.poisoned
/-- A number at a virtual address. -/
def State.vaNum (s : State) (a : BitVec 12) (va n : Nat) : Option Nat := (s.vaLocs a va n).map fun ls => leNat (s.pubBytes ls)

/-! ## The OPB (R20, R21, R378) -/

/-- A node newly met, its OPB at physical address `p`. -/
def Node.fresh (a : BitVec 12) (opb p : Nat) (die : Fin 4) : Node where
  asid := a
  opb := opb
  phys := p
  die := die
  prio := 0
  requeue := []
  carries := []
  inherited := false
  rndDone := false
  ord := none
  pre := .no
  preMb := []
  preSince := 0
  dying := none

/-- The gang width of a node (R21). -/
def State.gangWidth (s : State) (n : Node) : Nat := 2 ^ s.opbField n 0x08 12 2
/-- Last value of step-identifier field `i` (R21). -/
def State.opbLast (s : State) (n : Node) (i : Nat) : Nat := s.opbField n (0x18 + 8 * (i / 2)) (32 * (i % 2)) 32
/-- One bit of OPB word 0x08. -/
def State.opbBit (s : State) (n : Node) (i : Nat) : Bool := s.opbField n 0x08 i 1 = 1
/-- OPB state (R23). -/
def State.nodeState (s : State) (n : Node) : Nat := s.opbField n 0x90 0 3

/-- The fields and alignments that R378 checks, addresses of unused random buffers apart. -/
def State.opbGood (s : State) (n : Node) : Bool :=
  let f := s.opbField n
  let nf := f 0x10 0 3
  let zero (off lo w : Nat) : Bool := f off lo w = 0
  let rnd := s.opbBit n 22
  f 0x00 0 56 % 256 = 0 && zero 0x00 56 8 && f 0x08 0 12 = n.asid.toNat && f 0x08 12 2 ≠ 3 && zero 0x08 24 40 &&
  !(s.opbBit n 19 && s.opbBit n 20) &&
  decide (1 ≤ nf) && decide (nf ≤ 6) && zero 0x10 3 5 && zero 0x10 44 20 &&
  ((List.range 6).all fun i =>
    let w := f 0x10 (8 + 6 * i) 6
    if i < nf then decide (1 ≤ w) && decide (w ≤ 32) && decide (s.opbLast n i < 2 ^ w) else w = 0 && s.opbLast n i = 0) &&
  decide ((s.opbWidths n).sum ≤ 64) &&
  decide (f 0x30 0 17 ≤ 65536) && zero 0x30 17 47 && zero 0x38 32 32 && f 0x40 0 56 % 8 = 0 &&
  f 0x48 0 56 % 256 = 0 && zero 0x48 56 8 &&
  (!rnd || (f 0x70 0 56 % 128 = 0 && f 0x78 0 32 % 128 = 0 && f 0x80 0 56 % 128 = 0 && f 0x88 0 32 % 128 = 0)) &&
  zero 0x90 3 61 && zero 0xA8 33 31 && zero 0xB0 58 6 &&
  ((List.range 8).all fun i => zero (0xC0 + 8 * i) 0 64) &&
  (f 0x40 56 8 = 0 || (s.vaLocs n.asid (f 0x40 0 56) (8 * f 0x40 56 8)).isSome) &&
  (s.vaLocs n.asid (f 0x48 0 56) 256).isSome

/-- The OPB at an address under an ASID, as the scheduler finds it (R20). -/
def State.findOpb (s : State) (a : BitVec 12) (opb : Nat) : Option Node :=
  if opb % 256 ≠ 0 then none
  else (s.vaLocs a opb 256).map fun ls =>
    let n := Node.fresh a opb (ls.headD 0) (s.home (ls.headD 0))
    { n with prio := s.opbField n 0x08 14 4 }
/-- The OPB at an address, if it passes the checks of R378. -/
def State.checkOpb (s : State) (a : BitVec 12) (opb : Nat) : Option Node := (s.findOpb a opb).filter s.opbGood
/-- An OPB that fails its checks is not enqueued: record 0x45 against it with cause 0x0B (R378). -/
def State.badOpb (s : State) (opb : Nat) : State := s.devRecord (devWords 0x45 0xFF 0 opb 0 0x0B 0) .nothing

/-! ## The walker (R27) -/

/-- The identifier after `id`, fields given with their last values; none when the last field overflows. -/
def walkNext : List (Nat × Nat) → Nat → Nat → Option Nat
  | [], _, _ => none
  | (w, last) :: t, off, id =>
    let f := (id >>> off) % 2 ^ w
    if f < last then some (id + 2 ^ off) else walkNext t (off + w) (id - f * 2 ^ off)
/-- The walker hands out the step OPB walk names and moves on (R27). -/
def State.walkOn (s : State) (n : Node) : Word × State :=
  let id := s.opbField n 0xA0 0 64
  let ws := s.opbWidths n
  (BitVec.ofNat 64 id, match walkNext (ws.zip ((List.range ws.length).map (s.opbLast n))) 0 id with
    | some k => s.setOpb n 0xA0 0 64 k
    | none => (s.setOpb n 0xA0 0 64 (2 ^ ws.sum % 2 ^ 64)).setOpb n 0xA8 32 1 1)

/-! ## Ready queues (R23, R24, R268) -/

/-- A node becomes ready with the given rseq, or with the counter's next value (R24). -/
def State.makeReady (s : State) (n : Node) (rseq : Option Nat) : State :=
  let s := if (s.node n.asid n.opb).isSome then s else { s with nodes := s.nodes ++ [n] }
  match rseq with
  | some r => (s.setOpb n 0x98 0 64 r).setOpb n 0x90 0 3 1
  | none => (({ s with rseq := s.rseq + 1 }).setOpb n 0x98 0 64 s.rseq.toNat).setOpb n 0x90 0 3 1

/-! ## The end of a step (R31, R34, R154, R352) -/

/-- An active node whose walker is exhausted and whose steps have ended: it retires, or is aborted for a second tail
(R23, R352). -/
def State.settleNode (s : State) (a : BitVec 12) (opb : Nat) : State :=
  match s.node a opb with
  | none => s
  | some n =>
    if s.nodeState n = 2 && s.opbField n 0xA8 32 1 = 1 && s.opbField n 0xA8 0 32 = 0 && n.dying.isNone then
      if s.opbField n 0xB0 56 2 = 2 then
        s.abortNode a opb 0x46 0xFF 0 [devWords 0x46 0xFF 0 opb (s.opbField n 0xB0 0 56) 0 0]
      else s.setOpb n 0x90 0 3 3
    else s

/-- A step records its tails in the OPB (R154). -/
def State.recordTails (s : State) (n : Node) : List Word → State
  | [] => s
  | t :: ts =>
    let k := s.opbField n 0xB0 56 2
    if k = 0 then (s.setOpb n 0xB0 0 56 t.toNat).setOpb n 0xB0 56 2 (if ts.all (· = t) then 1 else 2)
    else s.setOpb n 0xB0 56 2 2

/-- s60 to s63 of a lane (R28). -/
def Ctx.carry (x : Ctx) : Carry := #v[x.sreg[60].val, x.sreg[61].val, x.sreg[62].val, x.sreg[63].val]

/-- The step end closes the phase of every lane (R35); the lane whose close is refused. -/
def State.closeLanes (s : State) : List CtxId → Except (CtxId × Fail) State
  | [] => .ok s
  | c :: t => match s.closePhase c .none (s.ctx c).lastPc false with
    | .error f => .error (c, f)
    | .ok s => s.closeLanes t

/-- Every lane of a step has finished: the step ends (R31, R34). -/
def State.stepEnds (s : State) (r : Run) : State :=
  match s.closeLanes r.gang with
  | .error (c, f) => s.trapLate c .none f
  | .ok s => match s.node r.asid r.opb with
    | none => s.endRun r.id
    | some n =>
      let carries := r.gang.map fun c => (s.ctx c).carry
      let tails := r.gang.flatMap fun c => (s.ctx c).tails
      let s := if s.opbBit n 23 then s.modNode r.asid r.opb fun m => { m with carries := carries } else s
      let s := s.recordTails n tails
      let s := s.setOpb n 0xA8 0 32 (s.opbField n 0xA8 0 32 - 1)
      (s.endRun r.id).settleNode r.asid r.opb

/-! ## Retirement (R26, R42) -/

/-- One entry of a successor list (R26, step 3). -/
def State.signal (s : State) (a : BitVec 12) (opb : Nat) : State :=
  match (match s.node a opb with
    | some n => some n
    | none => s.findOpb a opb) with
  | none => s.badOpb opb
  | some n =>
    let d := s.opbField n 0x38 0 32
    if s.nodeState n ≠ 0 || d = 0 then s
    else
      let s := s.setOpb n 0x38 0 32 (d - 1)
      if d ≠ 1 then s
      else if (s.node a opb).isSome || s.opbGood n then s.makeReady n none
      else s.badOpb opb

/-- The retirement sequence of a node whose commands are all visible (R26). -/
def State.retire (s : State) (n : Node) : State :=
  let f := s.opbField n
  let h := f 0xB8 0 64
  let inh := s.opbBit n 21
  let prio := n.prio
  let rseq := f 0x98 0 64
  let named := f 0xB0 56 2 = 1
  let child := if named then s.checkOpb n.asid (f 0xB0 0 56) else none
  let succs := (List.range (f 0x40 56 8)).filterMap fun i => s.vaNum n.asid (f 0x40 0 56 + 8 * i) 8
  let s := (if inh && child.isSome then s else s.arenaDeath (BitVec.ofNat 64 h)).setOpb n 0xB8 0 64 0
  let s := succs.foldl (fun s o => s.signal n.asid o) s
  let s := match child with
    | some m =>
      let m := { m with prio := prio, inherited := inh }
      (if inh then s.setOpb m 0xB8 0 64 h else s).makeReady m (some rseq)
    | none => if named then s.badOpb (s.opbField n 0xB0 0 56) else s
  let s := s.setOpb n 0x90 0 3 4
  State.settlePreempt { s with
    nodes := s.nodes.filter fun m => !(m.asid = n.asid && m.opb = n.opb)
    waiters := s.waiters.filter fun w => !(w.asid = n.asid && w.opb = n.opb) }

/-- NODE_RETIREMENT (R26): the node retires once every command of it is visible. -/
def execNodeRetirement (a : BitVec 12) (opb : Nat) (s : State) : Out :=
  match s.node a opb with
  | none => .next s
  | some n => .next (if s.nodeState n = 3 && !s.nodeBusy a opb && n.dying.isNone then s.retire n else s)

end Sys2Proof.Machine
end

