-- ==== Sys2Proof/Machine/Lanes.lean ====
section
/-!
DEFINITION. The lanes of a gang between bundles: rendezvous, results that land late, context banks, the end of a step
(R30, R31, R34, R47, R67).
-/
namespace Sys2Proof.Machine

/-! ## Rendezvous (R30) -/

/-- SYNC_BUNDLE (R30): the lane has reached a sync bundle and stalls; in a gang of one the bundle is an ordinary one. -/
def execSyncBundle (c : CtxId) (s : State) : Out :=
  let x := s.ctx c
  .next (if x.stat = .running && x.wait = .none && decide (1 < x.width) && !x.synced then
    s.modCtx c fun x => { x with wait := .sync }
  else s)

/-- The lanes of the gang of a context. -/
def State.gang (s : State) (c : CtxId) : List CtxId := match s.getRun (s.ctx c).run with
  | some r => r.gang
  | none => []

/-- SYNC_RELEASE (R30, R35): every live lane of the gang is at a sync bundle; all go on together and open a phase. -/
def execSyncRelease (c : CtxId) (s : State) : Out :=
  let g := s.gang c
  .next (if g.all fun l => (s.ctx l).stat = .running && (s.ctx l).wait = .sync then
    g.foldl (fun s l => (s.modCtx l fun x => { x with wait := .none, synced := true }).openPhase l) s
  else s)

/-! ## Results that no bundle lands (R34, R47, R55) -/

/-- The earliest of numbered landings by the time their units deliver them; the earlier-issued where equal. -/
def earliest : List (Nat × Landing) → Option (Nat × Landing)
  | [] => none
  | x :: t => match earliest t with
    | some y => some (if y.2.t < x.2.t then y else x)
    | none => some x
/-- The result of a lane that lands next outside a bundle's issue: after the end-of-step bundle an exposed one that its
unit has delivered (R34), else an interlocked one, which of them memory decides (log entry 12). -/
def State.nextLanding (s : State) (c : CtxId) : Option (Nat × Landing) :=
  let x := s.ctx c
  let all := (List.range x.pipe.length).zip x.pipe
  let exposed := if x.stat = .ending then all.filter fun l => l.2.due.isSome && decide (l.2.t ≤ s.time) else []
  let late := if x.stat = .ending || x.stat = .running then
    all.filter fun l => l.2.due.isNone && !(l.2.opens && decide (s.time ≤ l.2.t)) else []
  match earliest exposed with
  | some l => some l
  | none => late[s.draw.1 % late.length]?

/-- An interlocked result of a running lane has arrived: the phase that it opens opens (R39), and it lands before the next
bundle reads, in issue order among the results that land there (R48, R51). -/
def State.deliver (s : State) (c : CtxId) (i : Nat) (l : Landing) : State :=
  s.modCtx c fun x => { x with
    pipe := x.pipe.set i { l with due := some x.n, t := s.time, opens := false }
    phaseOpen := if l.opens then s.time else x.phaseOpen }
/-- RESULT_LAND (R34, R47, R55). After the end-of-step bundle no bundle reads any more, and a result lands at once. -/
def execResultLand (c : CtxId) (s : State) : Out :=
  match s.nextLanding c with
  | none => .next s
  | some (i, l) => .next (
    if (s.ctx c).stat = .running then (s.draw.2.deliver c i l).settleFence c
    else ((s.draw.2.modCtx c fun x => { x with pipe := x.pipe.eraseIdx i }).landOne c l).settleFence c)

/-! ## Context banks (R53, R67) -/

/-- A bank sleeps (R67). -/
def Ctx.asleep (x : Ctx) : Bool := match x.wait with
  | .word .. => true
  | .ring .. => true
  | .future .. => true
  | .fault .. => true
  | _ => false
/-- A bank holds a step that can issue. -/
def Ctx.awake (x : Ctx) : Bool := x.stat = .running && x.wait = .none
/-- The units have delivered every result due before the next bundle by time `t` (R60). -/
def Ctx.delivered (x : Ctx) (t : Nat) : Bool := x.pipe.all fun l => !l.dueBy x.n || decide (l.t ≤ t)
/-- A bank stands at a bundle boundary at time `t`: its current bundle has issued and had its cycles (R67). A stall of the
bundle at pc and a rendezvous do not end it. -/
def Ctx.between (x : Ctx) (t : Nat) : Bool := match x.wait with
  | .none => x.stat ≠ .running || (!x.stalled && !x.synced && decide (x.nextIssue ≤ t) && x.delivered t)
  | .sync => false
  | .remote .. => false
  | _ => decide (x.nextIssue ≤ t)
/-- The first of the banks that were satisfied; bank 0 where two were at one device time (R67). -/
def firstReady (l : List (Nat × Fin 2)) : Option (Fin 2) :=
  (l.foldl (fun (b : Option (Nat × Fin 2)) q => match b with
    | some p => if q.1 < p.1 || (q.1 = p.1 && q.2 < p.2) then some q else some p
    | none => some q) none).map Prod.snd
/-- The bank of a core that issues next: the one satisfied first among those that have not issued since, else the one that
issues (R67). -/
def State.chosen (s : State) (core : Fin 128) : Fin 2 :=
  (firstReady ((s.core core).ready.filter fun q => (s.ctx ⟨core, q.2⟩).awake)).getD (s.core core).cur

/-- All latches empty (R53). -/
def Ctx.noLatches (x : Ctx) : Ctx := { x with qreg := Vector.replicate 16 .empty }

/-- The core issues from bank `b` after the switch (R53, R67). The results in flight of the bank that stops keep the
bundle count at which they land. -/
def State.switchTo (s : State) (core : Fin 128) (b : Fin 2) : State :=
  let dest : CtxId := ⟨core, b⟩
  let s := s.modCtx (otherBank dest) Ctx.noLatches
  let s := s.modCtx dest fun x => { x.noLatches with nextIssue := s.time + Config.switchCycles }
  s.modCore core fun k => { k with
    cur := b
    perf := { k.perf with switches := k.perf.switches + 1 } }

/-- BANK_SWITCH (R67): away from a bank that sleeps to one that can issue, or back to the bank satisfied first, at a
bundle boundary. -/
def execBankSwitch (core : Fin 128) (s : State) : Out :=
  let here := s.ctx ⟨core, (s.core core).cur⟩
  let o := otherBank ⟨core, (s.core core).cur⟩
  .next (if (s.ctx o).awake && decide ((s.ctx o).nextIssue ≤ s.time) && here.between s.time &&
      (here.asleep || s.chosen core = o.bank) then s.switchTo core o.bank
    else s)

/-! ## The end of a step (R31, R34) -/

/-- END_OF_STEP_BUNDLE (R34): no bundle of the lane issues any more. -/
def execEndOfStepBundle (c : CtxId) (s : State) : Out :=
  .next (if (s.ctx c).stat = .running then s.modCtx c fun x => { x with stat := .ending } else s)

/-- What still holds a lane after its end-of-step bundle: a value to come, Zenhel, or a full ring. Waits that only stall
issue do not (R34). -/
def Ctx.held (x : Ctx) : Bool := x.ringQ.any RingRec.byLane || (match x.wait with
  | .future .. => true
  | .remote .. => true
  | .bkpt => true
  | .fault .. => true
  | _ => false)
/-- The three events of R34 have happened. -/
def State.laneDone (s : State) (c : CtxId) : Bool :=
  let x := s.ctx c
  x.stat = .ending && !x.held && x.pipe.isEmpty && x.xq.isEmpty &&
  s.kcmds.all fun k => !(k.owner = c && k.run = x.run && k.path.isSome) || k.stage = .srcDone || k.stage = .visible || k.errored

/-- LANE_FINISH (R31, R34): the lane finishes, and with the last of the gang the step ends. -/
def execLaneFinish (c : CtxId) (s : State) : Out :=
  if s.laneDone c then
    let s := s.modCtx c fun x => { x with stat := .finished, wait := .none }
    .next (match s.getRun (s.ctx c).run with
      | some r => if r.gang.all fun l => (s.ctx l).stat = .finished then s.stepEnds r else s
      | none => s)
  else .next s

end Sys2Proof.Machine
end

