-- ==== Sys2Proof/Machine/Matrix.lean ====
section
/-!
DEFINITION. The tile commands of the matrix engine: what they read and write in memory, the checks they make, and the
arithmetic of their engine steps (R106, R107, R215 to R223).
-/
namespace Sys2Proof.Machine

/-! ## Accumulators (R216 to R218, R381) -/

/-- The visible tile of an accumulator, row by row. -/
abbrev Grid := List (List W32)
/-- The 128 by 128 visible elements. -/
def Acc.grid (a : Acc) : Grid := (a.el.toList.take 128).map fun r => r.toList.take 128
/-- An element of a tile. -/
def Grid.cell (g : Grid) (i j : Nat) : W32 := (g.getD i []).getD j 0
/-- Replace an element of a tile. -/
def Grid.put (g : Grid) (i j : Nat) (v : W32) : Grid := g.set i ((g.getD i []).set j v)
/-- A tile computed element by element, and the flags of all its elements. -/
def Grid.mapF (g : Grid) (f : Nat → Nat → W32 → W32 × Flags) : Grid × Flags :=
  let r := g.mapIdx fun i row => row.mapIdx fun j v => f i j v
  (r.map (·.map Prod.fst), r.foldl (fun a row => row.foldl (fun a x => a ||| x.2) a) 0)
/-- A sum of patterns modulo 2^32 (R381). -/
def sum32 (l : List W32) : W32 := l.foldl (· + ·) 0
/-- The stored words of a tile: its elements with their checksum row and column (R381). -/
def Grid.sealed (g : Grid) : Vector (Vector W32 129) 129 :=
  let rows := g.map fun r => r ++ [sum32 r]
  let all := rows ++ [(List.range 129).map fun j => sum32 (rows.map fun r => r.getD j 0)]
  tab 129 fun i =>
    let r := all.getD i []
    tab 129 fun j => r.getD j 0
/-- The tag of format, prov and ver bits `base` with the summaries of a tile (R97, R98). -/
def accTag (base : Nat) (g : Grid) : Half := BitVec.ofNat 16 (base % 2 ^ 10 + summary 1 (g.flatten.map BitVec.toNat))
/-- An accumulator written whole: checksums and parity are good (R381). -/
def Grid.acc (g : Grid) (base : Nat) (ls : Option W32) : Acc := ⟨g.sealed, accTag base g, ls, true, true⟩
/-- Write an accumulator of a context. -/
def Ctx.putZ (x : Ctx) (z : Fin 8) (a : Acc) : Ctx := { x with zreg := x.zreg.set z a }

/-! ## Operands in memory (R83, R101, R213, R222) -/

/-- Something a command names in memory: an element of a descriptor's tile, or an FP32 scale at an address of the
descriptor's space (R101). -/
inductive XItem
  | elem (d : Desc) (i j : Nat)
  | scale (d : Desc) (n : Nat)

/-- Its bytes. -/
def State.xitem (s : State) (a : Actor) (w : Want) : XItem → Gate (Word × List Nat)
  | .elem d i j => (s.elemGate a d d.fmt i j w).bind fun ls => .ok (d.named a i j ls)
  | .scale d n => s.flatGate a d ((d.scaleAddr.toNat + 4 * n : Nat) : Int) 4 w

/-- A product command: whether it is MOPA, whether it is `.set`, and zd. -/
def XCmd.product (q : XCmd) : Option (Bool × Bool × Fin 8) := match q.op with
  | .mmul _ zd _ _ _ st _ => some (false, st, zd)
  | .mopa _ zd _ _ _ st _ => some (true, st, zd)
  | _ => none
/-- The shape of a product: m, n and k (R215). -/
def XCmd.mnk (q : XCmd) : Nat × Nat × Nat := (bits q.shape 0 16, bits q.shape 16 16, bits q.shape 32 16)
/-- Positions of operand A's elements of depth lo to lo + kd - 1, output row by output row (R216). -/
def aPos (opa : Bool) (m lo kd : Nat) : List (Nat × Nat) :=
  (List.range m).flatMap fun i => (List.range kd).map fun t => if opa then (lo + t, i) else (i, lo + t)
/-- Positions of operand B's elements of that depth, output column by output column. -/
def bPos (n lo kd : Nat) : List (Nat × Nat) := (List.range n).flatMap fun j => (List.range kd).map fun t => (lo + t, j)

/-- Everything a command reads in memory. -/
def XCmd.readItems (q : XCmd) : List XItem :=
  match q.product with
  | some (opa, _, _) =>
    let (m, n, k) := q.mnk
    if m = 0 || n = 0 then []
    else
      let nkb := (k + 127) / 128
      (aPos opa m 0 k).map (fun p => .elem q.da p.1 p.2) ++ (bPos n 0 k).map (fun p => .elem q.db p.1 p.2) ++
      (if q.da.scl then (List.range (nkb * m)).map (.scale q.da) else []) ++
      (if q.db.scl then (List.range nkb).map (.scale q.db) else [])
  | none => match q.op with
    | .mdrn .. => if q.db.scl then [.scale q.db 0] else []
    | .mldz .. => (positions q.da.rows q.da.cols).map (fun p => .elem q.da p.1 p.2) ++ (if q.da.scl then [.scale q.da 0] else [])
    | _ => []
/-- Everything a command writes in memory. -/
def XCmd.writeItems (q : XCmd) : List XItem := match q.op with
  | .mdrn .. => (positions q.db.rows q.db.cols).map fun p => .elem q.db p.1 p.2
  | _ => []
/-- A command has operands or results in memory. -/
def XCmd.inMemory (q : XCmd) : Bool := !q.readItems.isEmpty || !q.writeItems.isEmpty

/-- The spans a command reads and writes, translated whole (R399). -/
def State.xplan (s : State) (a : Actor) (q : XCmd) : Gate (List Span × List Span) :=
  (gateAll (s.xitem a ⟨false, false⟩) q.readItems).bind fun r => (gateAll (s.xitem a ⟨true, false⟩) q.writeItems).bind fun w =>
    .ok (spansOf r, dstSpans q.db.fmt w)
/-- The spans that can be named already, where not all can (R213, R396). -/
def State.xknown (s : State) (a : Actor) (q : XCmd) : List Span × List Span :=
  let known (w : Want) (l : List XItem) : List (Word × List Nat) := l.filterMap fun i => match s.xitem a w i with
    | .ok x => some x
    | _ => none
  (spansOf (known ⟨false, false⟩ q.readItems), dstSpans q.db.fmt (known ⟨true, false⟩ q.writeItems))

/-! ## Checks made while a tile command executes (R99, R217, R372, R373) -/

/-- An accumulator is FP32 or untyped (R99). -/
def Acc.typed (a : Acc) : Except Fail Unit := if tagFmt a.tag ≤ 1 then .ok () else .error (tagFail 0x07 a.tag.toNat 1)
/-- The loss scales disagree: zd records one, and it is not `c` (R217, R373). -/
def lsCheck (zd c : Option W32) : Except Fail Unit := match zd with
  | none => .ok ()
  | some r =>
    if c = some r then .ok ()
    else .error { code := 0x0A, d0 := BitVec.ofNat 64 (r.toNat * 2 ^ 32),
                  d1 := match c with
                    | some v => BitVec.ofNat 64 v.toNat
                    | none => BitVec.ofNat 64 (2 ^ 32) }
/-- Formats of a product's operands may meet (R99). -/
def pairFmt (f g : Nat) : Bool := f = g || (decide (4 ≤ f) && decide (f ≤ 6) && decide (4 ≤ g) && decide (g ≤ 6))
/-- Tracked versions agree among `all`, and provenance among `ops` (R99). That the descriptor operands of a product enter
the provenance check whatever their tensor identifiers is a DESIGN CHOICE (log entry 47). -/
def trackAcc (ops all : List Half) : Except Fail Unit :=
  match disagree 0x08 tagVer (all.filter fun t => tagVer t ≠ 0) with
  | .error f => .error f
  | .ok _ => disagree 0x09 (fun t => bits t 5 1) (ops.filter fun t => tagVer t ≠ 0)
/-- Run checks in order. -/
def checkAll : List (Except Fail Unit) → Except Fail Unit
  | [] => .ok ()
  | .error f :: _ => .error f
  | .ok _ :: t => checkAll t

/-- The checks a tile command makes before it applies anything. -/
def XCmd.check (q : XCmd) (x : Ctx) : Except Fail Unit :=
  match q.product with
  | some (_, st, zd) =>
    let z := if st then Acc.zero else x.zreg[zd]
    checkAll [z.typed, lsCheck z.ls (some q.lscale),
      (if pairFmt q.da.fmt q.db.fmt then .ok () else .error (tagFail 0x07 q.da.tag.toNat q.db.tag.toNat)),
      trackAcc [q.da.tag, q.db.tag] [q.da.tag, q.db.tag, z.tag]]
  | none => match q.op with
    | .macc _ zd zs _ =>
      let d := x.zreg[zd]
      let z := x.zreg[zs]
      checkAll [d.typed, z.typed, lsCheck d.ls z.ls, trackAcc [d.tag, z.tag] [d.tag, z.tag]]
    | _ => .ok ()

/-! ## What an engine step delivers (R212) -/

/-- An engine step done: the context and the command after it, the accumulators and pivot vectors written, whether the
command is complete, what it writes in memory, and a breakdown that traps (R235). -/
structure XStep where
  x     : Ctx
  q     : XCmd
  wrote : List (Fin 8)
  pvs   : List (Fin 4)
  fin   : Bool
  cells : List Host.Cell
  trap  : Option Fail

/-- A whole command that writes one accumulator. -/
def oneStep (x : Ctx) (q : XCmd) (zd : Fin 8) (a : Acc) (f : Flags) : XStep :=
  ⟨x.putZ zd a, { q with flags := q.flags ||| f }, [zd], [], true, [], none⟩

/-! ## Products (R106, R107, R110, R216) -/

/-- The value of a pattern of a format. -/
def elemVal (f p : Nat) : XV := match fmtOf f with
  | some q => q.dec p
  | none => XV.ofInt (intOf (fmtSigned f) (fmtBits f) p)
/-- The exact sum of the products of a block: NaN with invalid where one is created, an infinity, or a finite value. -/
def blockSum (l : List (XV × XV)) : XV × Flags :=
  let ps := l.map fun p => XV.mul p.1 p.2
  let up := ps.any fun p => p.1.isInf && !p.1.neg
  let down := ps.any fun p => p.1.isInf && p.1.neg
  let made := ps.any (fun p => p.2 ≠ 0) || (up && down)
  if made || ps.any (fun p => p.1.isNan) then (.nan, flagIf made fInv)
  else if up then (.inf false, 0)
  else if down then (.inf true, 0)
  else (ps.foldl (fun a p => (XV.add 0 a p.1).1) XV.zero, 0)
/-- One block of R106 for one element. -/
def blockStep (sa sb : XV) (l : List (XV × XV)) (acc : W32) : W32 × Flags :=
  let (v, f) := blockSum l
  if v.isZero then (acc, 0)
  else
    let (t, g) :=
      if v.isNan then (nan32, f)
      else
        let (y, g1) := XV.mul v sa
        let (z, g2) := XV.mul y sb
        let (r, g3) := r32 z
        (r, quiet [sa, sb] (g1 ||| g2) ||| g3)
    let (r, h) := add32 acc t
    (r, g ||| h)
/-- One block of the fused chain of R107. -/
def chainStep (l : List (W32 × W32)) (acc : W32) : W32 × Flags :=
  l.foldl (fun a p =>
    let (v, f) := fma32 false p.1 p.2 a.1
    (v, a.2 ||| f)) (acc, 0)

/-- The FP32 scales a descriptor names from number `n0` on; 1.0 each where it has none (R101). -/
def State.scales (s : State) (a : Actor) (d : Desc) (look : Nat → Byte) (n0 n : Nat) : Gate (List Nat) :=
  if d.scl then
    (gateAll (fun i => s.xitem a ⟨false, false⟩ (.scale d (n0 + i))) (List.range n)).bind fun ls =>
      .ok (ls.map fun l => leNat (l.2.map look))
  else .ok (List.replicate n one32.toNat)
/-- The depth of the next k-block, from where it begins (R212). -/
def XCmd.depth (q : XCmd) : Nat := min 128 (q.mnk.2.2 - 128 * q.kb)
/-- What the next engine step of a command reads in memory, as it comes into the operand buffers (R384): of a product the
patterns of A's block, those of B's, the scales of A's rows and B's scale; of a load the patterns and the scale; of a
drain the scale. -/
def State.operands (s : State) (a : Actor) (look : Nat → Byte) (q : XCmd) : Gate (List Nat) :=
  let pats (d : Desc) (ps : List (Nat × Nat)) : Gate (List Nat) :=
    (s.tileGate a d ⟨false, false⟩ ps).bind fun ls => .ok (tilePats a d look ps ls)
  match q.product with
  | some (opa, _, _) =>
    let (m, n, _) := q.mnk
    let lo := 128 * q.kb
    if m = 0 || n = 0 then .ok []
    else
      (pats q.da (aPos opa m lo q.depth)).bind fun al => (pats q.db (bPos n lo q.depth)).bind fun bl =>
        (s.scales a q.da look (q.kb * m) m).bind fun sa => (s.scales a q.db look q.kb 1).bind fun sb =>
          .ok (al ++ bl ++ sa ++ sb)
  | none => match q.op with
    | .mdrn .. => s.scales a q.db look 0 1
    | .mldz .. => (pats q.da (positions q.da.rows q.da.cols)).bind fun al => (s.scales a q.da look 0 1).bind fun sc => .ok (al ++ sc)
    | _ => .ok []
/-- An FP32 scale among operands. -/
def scaleOf (vals : List Nat) (i : Nat) : XV := f32 (BitVec.ofNat 32 (vals.getD i 0))

/-- The next k-block of MMUL or MOPA on its operands. The result takes the prov and ver of the tracked descriptor operands:
that zd does not count among them, and that untracked operands clear both, is a DESIGN CHOICE (R98; log entry 46). -/
def productStep (x : Ctx) (q : XCmd) (st : Bool) (zd : Fin 8) (vals : List Nat) : XStep :=
  let (m, n, k) := q.mnk
  let z := if st && q.kb = 0 then Acc.zero else x.zreg[zd]
  if m = 0 || n = 0 then ⟨x.putZ zd z, q, if st then [zd] else [], [], true, [], none⟩
  else
    let kd := q.depth
    let rows := chunks kd m vals
    let cols := chunks kd n (vals.drop (m * kd))
    let scales := vals.drop ((m + n) * kd)
    let (g, f) := z.grid.mapF fun i j acc =>
      if m ≤ i || n ≤ j then (acc, 0)
      else
        let r := rows.getD i []
        let c := cols.getD j []
        if q.da.fmt = 1 then chainStep ((r.map (BitVec.ofNat 32)).zip (c.map (BitVec.ofNat 32))) acc
        else blockStep (scaleOf scales i) (scaleOf scales m) ((r.map (elemVal q.da.fmt)).zip (c.map (elemVal q.db.fmt))) acc
    let tag := 1 + commonPv [q.da.tag, q.db.tag]
    ⟨x.putZ zd (g.acc tag (some (z.ls.getD q.lscale))), { q with kb := q.kb + 1, flags := q.flags ||| f }, [zd], [],
      decide (k ≤ 128 * q.kb + 128), [], none⟩

/-! ## Maintenance, drain and load (R218 to R223) -/

/-- MSCL of one element: x times `u`, over `v` (R220). -/
def sclElem (u v : XV) (e : W32) : W32 × Flags :=
  let (y, f) := XV.mul (f32 e) u
  let (w, g) := XV.div y v
  let (r, h) := r32 w
  (r, quiet [f32 e, u, v] (f ||| g) ||| h)
/-- MDRN of one element (R221). -/
def drnElem (fmt : Fmt) (sat : Bool) (r sc : XV) (e : W32) : Nat × Flags :=
  let (y, f) := XV.div (f32 e) r
  let (w, g) := XV.div y sc
  let (p, h) := fmt.round 0 sat w
  (p, quiet [f32 e, r, sc] (f ||| g) ||| h)
/-- MLDZ of one element (R222). -/
def ldzElem (f : Nat) (sc : XV) (p : Nat) : W32 × Flags :=
  let (y, g) := XV.mul (elemVal f p) sc
  let (r, h) := r32 y
  (r, g ||| h)

/-- MDRN (R221). -/
def State.drainStep (s : State) (a : Actor) (look : Nat → Byte) (x : Ctx) (q : XCmd) (zs : Fin 8) (sat unscale : Bool)
    (vals : List Nat) : Gate XStep :=
  let ps := positions q.db.rows q.db.cols
  let z := x.zreg[zs]
  (s.tileGate a q.db ⟨true, false⟩ ps).bind fun ls =>
    let r := if unscale then f32 (z.ls.getD one32) else f32 one32
    let g := z.grid
    let fmt := (fmtOf q.db.fmt).getD fp32
    let vs := ps.map fun p => drnElem fmt sat r (scaleOf vals 0) (g.cell p.1 p.2)
    .ok ⟨x, { q with flags := vs.foldl (fun f v => f ||| v.2) q.flags }, [], [], true,
      tileCells a q.db look ps ls (vs.map Prod.fst), none⟩

/-- MLDZ on its operands (R222). -/
def loadStep (x : Ctx) (q : XCmd) (zd : Fin 8) (ls : Bool) (vals : List Nat) : XStep :=
  let n := q.da.rows * q.da.cols
  let rows := chunks q.da.cols q.da.rows ((vals.take n).map (ldzElem q.da.fmt (scaleOf vals n)))
  let (g, f) := Acc.zero.grid.mapF fun i j _ => (rows.getD i []).getD j (0, 0)
  oneStep x q zd (g.acc (1 + bits q.da.tag 5 5 * 2 ^ 5) (if ls then some q.lscale else none)) f

/-- The engine step of a tile command on its operands from memory. That MACC counts zd and zs both among the tracked
operands whose common prov and ver the result takes is a DESIGN CHOICE (R98, R219; log entry 46). -/
def State.tileStep (s : State) (a : Actor) (look : Nat → Byte) (x : Ctx) (q : XCmd) (vals : List Nat) : Gate XStep :=
  match q.product with
  | some (_, st, zd) => .ok (productStep x q st zd vals)
  | none => match q.op with
    | .mzero _ zd _ => .ok (oneStep x q zd Acc.zero 0)
    | .macc _ zd zs _ =>
      let d := x.zreg[zd]
      let z := x.zreg[zs]
      let gs := z.grid
      let (g, f) := d.grid.mapF fun i j e => add32 e (gs.cell i j)
      .ok (oneStep x q zd (g.acc (1 + commonPv [d.tag, z.tag]) (d.ls <|> z.ls)) f)
    | .mscl _ zd _ val _ =>
      let z := x.zreg[zd]
      let (g, f) :=
        if val then z.grid.mapF fun _ _ e => sclElem (f32 (q.shape.truncate 32)) (f32 one32) e
        else match z.ls with
          | some r => z.grid.mapF fun _ _ e => sclElem (f32 q.lscale) (f32 r) e
          | none => (z.grid, 0)
      .ok (oneStep x q zd (g.acc z.tag.toNat (if val then z.ls else some q.lscale)) f)
    | .mdrn _ _ zs sat unscale _ => s.drainStep a look x q zs sat unscale vals
    | .mldz _ zd _ ls _ => .ok (loadStep x q zd ls vals)
    | .mtrn _ zd zs _ =>
      let z := x.zreg[zs]
      let gs := z.grid
      let g := (gs.mapF fun i j _ => (gs.cell j i, 0)).1
      .ok (oneStep x q zd ⟨g.sealed, z.tag, z.ls, true, true⟩ 0)
    | .mcopy _ zd zs _ =>
      let z := x.zreg[zs]
      .ok (oneStep x q zd ⟨z.grid.sealed, z.tag, z.ls, true, true⟩ 0)
    | _ => .ok ⟨x, q, [], [], true, [], none⟩

end Sys2Proof.Machine
end

