-- ==== Sys2Proof/Machine/Solve.lean ====
section
/-!
DEFINITION. The solve routines: their shapes, their resumable state and the arithmetic of every sequencer step
(R231 to R252, R388, R392).
-/
namespace Sys2Proof.Machine

/-! ## Shapes (R231, R232, R371) -/

/-- n -/
def shapeN (w : Word) : Nat := bits w 0 16
/-- nr -/
def shapeNr (w : Word) : Nat := bits w 16 16
/-- m -/
def shapeM (w : Word) : Nat := bits w 32 16
/-- trans -/
def shapeTrans (w : Word) : Bool := bitAt w 48
/-- pmode -/
def shapePmode (w : Word) : Nat := bits w 49 2

/-- A shape word meets the limits of R232 for the routine of an opcode, and every field it does not use is zero. That trans
may be set for an MPERM that swaps nothing (pmode 1 or 2) is a DESIGN CHOICE (log entry 56). -/
def shapeOk (op : Nat) (w : Word) : Bool :=
  let n := shapeN w
  let q := shapeNr w
  let m := shapeM w
  let order := decide (1 ≤ n) && decide (n ≤ 128)
  let noNr := decide (q = 0)
  let noM := decide (m = 0)
  let plain := !shapeTrans w && shapePmode w = 0
  decide (bits w 51 13 = 0) &&
  match op with
  | 0x0A => order && noNr && noM && plain
  | 0x0B => order && noNr && noM && plain
  | 0x0C => order && decide (1 ≤ q) && decide (q ≤ 128) && noM && shapePmode w = 0
  | 0x0D => order && decide (n ≤ m) && decide (m ≤ 128) && decide (q ≤ 128) && plain
  | 0x0E => order && decide (1 ≤ q) && decide (q ≤ 42) && decide (n + 2 * q ≤ 128) && noM && plain
  | 0x10 => shapePmode w ≠ 3 && (if shapePmode w = 0 then order else n = 0) && noNr && noM
  | 0x11 => order && decide (1 ≤ m) && decide (m ≤ 128) && noNr && plain
  | _ => false

/-! ## Resumable state (R234, R251, R392) -/

/-- The state a routine starts from (R234, R251). -/
def freshSolve (q : XCmd) (op : BitVec 6) (var : BitVec 2) (zd zs : Fin 8) (shape : Word) : Solve where
  op := op
  var := var
  zd := zd
  zs := zs
  shape := shape
  step := 0
  rho := 0
  stage := if op = 0x0E then 0 else 1
  iter := 0
  best := 0
  zcol := 0xFF
  amax0 := 0
  gmax := 0
  bestn := 0
  pivtol := q.pivtol
  soltol := q.soltol
  maxit := q.maxit
  maskbrk := q.maskbrk
  gmaxthr := q.gmaxthr

/-- cr.mseq0 to cr.mseq7 (R251). -/
def Solve.pack (v : Solve) (valid : Bool) : Vector Word 8 :=
  let w (n : Nat) : Word := BitVec.ofNat 64 n
  let w0 := w (v.op.toNat + v.var.toNat * 2 ^ 6 + v.zd.val * 2 ^ 8 + v.zs.val * 2 ^ 11 + (if valid then 2 ^ 14 else 0) +
    v.step % 256 * 2 ^ 16 + v.rho % 256 * 2 ^ 24 + v.stage % 16 * 2 ^ 32 + v.iter % 256 * 2 ^ 36 + v.best % 256 * 2 ^ 44 +
    v.zcol.toNat * 2 ^ 52)
  let w2 := w (v.amax0.toNat + v.gmax.toNat * 2 ^ 32)
  let w3 := w (v.bestn.toNat + v.pivtol.toNat * 2 ^ 32)
  let w4 := w (v.soltol.toNat + v.maxit.toNat * 2 ^ 32 + (if v.maskbrk then 2 ^ 40 else 0))
  let w5 := w v.gmaxthr.toNat
  #v[w0, v.shape, w2, w3, w4, w5, w (crc32 ([w0, v.shape, w2, w3, w4, w5].flatMap fun x => leBytes x.toNat 8)), 0]

/-- The state that cr.mseq describes. -/
def unpackSolve (m : Vector Word 8) : Solve where
  op := m[0].truncate 6
  var := BitVec.ofNat 2 (bits m[0] 6 2)
  zd := Fin.ofNat 8 (bits m[0] 8 3)
  zs := Fin.ofNat 8 (bits m[0] 11 3)
  shape := m[1]
  step := bits m[0] 16 8
  rho := bits m[0] 24 8
  stage := bits m[0] 32 4
  iter := bits m[0] 36 8
  best := bits m[0] 44 8
  zcol := BitVec.ofNat 8 (bits m[0] 52 8)
  amax0 := m[2].truncate 32
  gmax := BitVec.ofNat 32 (bits m[2] 32 32)
  bestn := m[3].truncate 32
  pivtol := BitVec.ofNat 32 (bits m[3] 32 32)
  soltol := m[4].truncate 32
  maxit := BitVec.ofNat 8 (bits m[4] 32 8)
  maskbrk := bitAt m[4] 40
  gmaxthr := m[5].truncate 32

/-- The failing checks of R392, by bits 0 to 4. -/
def resumeMask (m : Vector Word 8) (stale : Bool) : Nat :=
  let v := unpackSolve m
  let crc := crc32 ((m.toList.take 6).flatMap fun x => leBytes x.toNat 8)
  let rout := decide (0x0A ≤ v.op.toNat) && decide (v.op.toNat ≤ 0x0E)
  let resv := !bitAt m[0] 15 && bits m[0] 60 4 = 0 && bits m[4] 41 23 = 0 && bits m[5] 32 32 = 0 && bits m[6] 32 32 = 0 && m[7] = 0
  (if bitAt m[0] 14 && !stale then 0 else 1) +
  (if bits m[6] 0 32 = crc then 0 else 2) +
  (if rout then 0 else 4) +
  (if rout && shapeOk v.op.toNat v.shape then 0 else 8) +
  (if v.step ≤ shapeN v.shape && v.stage ≤ 3 && v.rho ≤ v.step && v.iter ≤ v.maxit.toNat && v.best ≤ v.iter && resv then 0 else 16)

/-- The number of cycles of the next step (R252). -/
def Solve.cycles (v : Solve) : Nat :=
  let n := shapeN v.shape
  let q := shapeNr v.shape
  let k := v.step
  let up (x : Nat) : Nat := (x + 1023) / 1024
  match v.op.toNat with
  | 0x0A => 16 + up ((n - k - 1) ^ 2)
  | 0x0B => 16 + up ((n - k) * k)
  | 0x0C => 12 + up (n * q)
  | 0x0D => 12 + 6 * (shapeM v.shape - k - 1)
  | _ => if v.stage = 0 then 16 + up (n * n * q) else if v.stage = 1 then 16 + up ((n - k - 1) ^ 2) else 16 + 3 * up (n * n * q)

/-! ## Values -/

/-- The magnitude of a pattern. -/
def mag32 (w : W32) : W32 := w &&& 0x7FFFFFFF
/-- Infinite or NaN. -/
def nonfin (w : W32) : Bool := 0x7F800000 ≤ (mag32 w).toNat
/-- NaN. -/
def isNan32 (w : W32) : Bool := 0x7F800000 < (mag32 w).toNat
/-- A tolerance: negative, NaN and infinite count as +0 (R234). -/
def tolVal (w : W32) : XV := if nonfin w || bitAt w 31 then XV.zero else f32 w
/-- acc - a*b along a chain (R107). -/
def chainSub (l : List (W32 × W32)) (acc : W32) : W32 × Flags :=
  l.foldl (fun a p =>
    let (v, f) := fma32 true p.1 p.2 a.1
    (v, a.2 ||| f)) (acc, 0)
/-- Column `c` of rows 0 to n-1. -/
def Grid.col (g : Grid) (c n : Nat) : List W32 := (List.range n).map fun i => g.cell i c
/-- Write a column from row 0 on. -/
def Grid.putCol (g : Grid) (c : Nat) (vs : List W32) : Grid := g.mapIdx fun i r => match vs[i]? with
  | some v => r.set c v
  | none => r
/-- Exchange columns 0 to w-1 of two rows. -/
def Grid.swap (g : Grid) (a b w : Nat) : Grid :=
  let ra := g.getD a []
  let rb := g.getD b []
  if a = b then g else (g.set a (rb.take w ++ ra.drop w)).set b (ra.take w ++ rb.drop w)
/-- The greatest magnitude of finite values. -/
def maxMag (l : List W32) : W32 := l.foldl (fun m v => if nonfin v || (mag32 v).ule m then m else mag32 v) 0

/-- What a step of a routine comes to: the tiles and pivot vectors after it, the state after it, a breakdown with the value
found, or the end with its outcome and code. -/
structure Routine where
  x     : Ctx
  v     : Solve
  f     : Flags
  wrote : List (Fin 8)
  pvs   : List (Fin 4)
  brk   : Option (Nat × W32)
  fin   : Option (Nat × Nat)

/-- The pivot vector a routine names. -/
def Solve.pv (v : Solve) : Fin 4 := Fin.ofNat 4 v.var.toNat
/-- Write a pivot vector; its parity is good (R381). -/
def Ctx.putPv (x : Ctx) (i : Fin 4) (e : Vector Byte 128) : Ctx := { x with pvreg := x.pvreg.set i ⟨e, true⟩ }
/-- Set entries lo to 127 of a pivot vector to their index. -/
def pvIdentity (e : Vector Byte 128) (lo : Nat) : Vector Byte 128 := tab 128 fun i => if lo ≤ i then BitVec.ofNat 8 i else (e.toList.getD i 0)
/-- Replace one entry. -/
def pvSet (e : Vector Byte 128) (k p : Nat) : Vector Byte 128 := tab 128 fun i => if i = k then BitVec.ofNat 8 p else (e.toList.getD i 0)

/-- A step of a routine breaks down with nothing written (R235). -/
def broken (x : Ctx) (v : Solve) (f : Flags) (code : Nat) (val : W32) : Routine :=
  ⟨x, v, f, [], [], some (code, val), none⟩

/-- An accumulator a routine writes: FP32 with the common prov and ver of its sources; its recorded loss scale stays
(R233). -/
def Ctx.solved (x : Ctx) (z : Fin 8) (g : Grid) (srcs : List Half) : Ctx :=
  x.putZ z (g.acc (1 + commonPv srcs) x.zreg[z].ls)

/-! ## MLU and the factorisation of MSOLVE (R236, R245) -/

/-- The row of greatest magnitude in a column among rows lo to n-1, the lowest on a tie. -/
def pivotRow (g : Grid) (k lo n : Nat) : Nat :=
  ((List.range (n - lo)).foldl (fun (b : Nat × W32) d =>
    let m := mag32 (g.cell (lo + d) k)
    if b.2.ult m then (lo + d, m) else b) (lo, mag32 (g.cell lo k))).1

/-- A column that stops elimination: an infinite or NaN candidate, or none above pivtol * amax0. -/
inductive ColStop
  | nonfinite (v : W32)
  | small (m : W32)

/-- Choose the pivot of column `k` among rows r to n-1. -/
def choosePivot (g : Grid) (v : Solve) (k r n : Nat) : Except ColStop Nat :=
  match ((List.range (n - r)).map fun d => g.cell (r + d) k).find? nonfin with
  | some e => .error (.nonfinite e)
  | none =>
    let p := pivotRow g k r n
    let m := mag32 (g.cell p k)
    if XV.le (f32 m) (XV.mul (tolVal v.pivtol) (f32 v.amax0)).1 then .error (.small m) else .ok p

/-- Eliminate below row `r` in column `k`: the tile, gmax and flags. -/
def eliminate (g : Grid) (gmax : W32) (k r n : Nat) : Grid × W32 × Flags :=
  let piv := g.cell r k
  let row := g.getD r []
  let ms := (List.range 128).map fun i => if r < i && i < n then div32 (g.cell i k) piv else (0, 0)
  let (g, f) := g.mapF fun i j e =>
    if r < i && i < n then
      if j = k then ms.getD i (0, 0)
      else if k < j && j < n then fma32 true (ms.getD i (0, 0)).1 (row.getD j 0) e
      else (e, 0)
    else (e, 0)
  let trail := (List.range (n - r - 1)).flatMap fun a => (List.range (n - k - 1)).map fun b => g.cell (r + 1 + a) (k + 1 + b)
  (g, (let m := maxMag trail; if gmax.ult m then m else gmax), f)

/-- amax0 of the n by n corner, as step 0 finds it (R236). -/
def Solve.withAmax (v : Solve) (g : Grid) (n : Nat) : Solve :=
  if v.step = 0 then
    let a := maxMag ((g.take n).flatMap (·.take n))
    { v with amax0 := a, gmax := a }
  else v

/-- Step k of MLU (R236). -/
def mluStep (x : Ctx) (v : Solve) : Routine :=
  let n := shapeN v.shape
  let k := v.step
  let z := x.zreg[v.zd]
  let g := z.grid
  let v := v.withAmax g n
  match choosePivot g v k k n with
  | .error (.nonfinite e) => broken x v 0 0x13 e
  | .error (.small m) => broken x { v with zcol := BitVec.ofNat 8 k } 0 0x12 m
  | .ok p =>
    let (g, gm, f) := eliminate (g.swap k p 128) v.gmax k k n
    let e := x.pvreg[v.pv].e
    let e := pvSet (if k = 0 then pvIdentity e n else e) k p
    ⟨(x.solved v.zd g [z.tag]).putPv v.pv e, { v with step := k + 1, gmax := gm }, f, [v.zd], [v.pv], none,
      if k + 1 = n then some (0, 0) else none⟩

/-! ## MCHOL (R238) -/

/-- Step k of MCHOL. -/
def mcholStep (x : Ctx) (v : Solve) : Routine :=
  let n := shapeN v.shape
  let k := v.step
  let z := x.zreg[v.zd]
  let g := z.grid
  let prods (i : Nat) : List (W32 × W32) := (List.range k).map fun j => (g.cell i j, g.cell k j)
  let (acc, f) := chainSub (prods k) (g.cell k k)
  if isNan32 acc || XV.le (f32 acc) XV.zero then broken x { v with zcol := BitVec.ofNat 8 k } f 0x14 acc
  else if acc = 0x7F800000 then broken x v f 0x13 acc
  else
    let (d, f1) := sqrt32 acc
    let low := (List.range 128).map fun i =>
      if k < i && i < n then
        let (a, f2) := chainSub (prods i) (g.cell i k)
        let (q, f3) := div32 a d
        (q, f2 ||| f3)
      else (0, 0)
    let (g, f2) := g.mapF fun i j e =>
      if j ≠ k then (e, 0) else if i = k then (d, f1) else if k < i && i < n then low.getD i (0, 0) else (e, 0)
    ⟨x.solved v.zd g [z.tag], { v with step := k + 1 }, f ||| f2, [v.zd], [], none, if k + 1 = n then some (0, 0) else none⟩

/-! ## MTRS (R239) -/

/-- The row that step `k` of MTRS solves: ascending where E is lower, else descending. -/
def Solve.trsLower (v : Solve) : Bool := bitAt v.var 0 == shapeTrans v.shape
/-- One row of MTRS. That `step` counts the rows solved, also where they are solved from the last, is a DESIGN CHOICE
(R251; log entry 48). -/
def mtrsStep (x : Ctx) (v : Solve) : Routine :=
  let n := shapeN v.shape
  let k := v.step
  let lower := v.trsLower
  let i := if lower then k else n - 1 - k
  let zd := x.zreg[v.zd]
  let zs := x.zreg[v.zs]
  let t := zs.grid
  let g := zd.grid
  let e (a b : Nat) : W32 := if shapeTrans v.shape then t.cell b a else t.cell a b
  let unit := bitAt v.var 1
  let d := e i i
  if !unit && nonfin d then broken x v 0 0x13 d
  else if !unit && mag32 d = 0 then broken x { v with zcol := BitVec.ofNat 8 i } 0 0x12 d
  else
    let js := if lower then List.range i else (List.range (n - 1 - i)).map (i + 1 + ·)
    let (g', f) := g.mapF fun r c b =>
      if r ≠ i || shapeNr v.shape ≤ c then (b, 0)
      else
        let (a, f) := chainSub (js.map fun j => (e i j, g.cell j c)) b
        if unit then (a, f)
        else
          let (q, h) := div32 a d
          (q, f ||| h)
    ⟨x.solved v.zd g' [zd.tag, zs.tag], { v with step := k + 1 }, f, [v.zd], [], none, if k + 1 = n then some (0, 0) else none⟩

/-! ## MQR (R240) -/

/-- a over the exact root of h2, rounded once. -/
def overRoot (a h2 : XV) : W32 × Flags :=
  match a, h2 with
  | .fin s n d e, .fin _ m c g =>
    let (p, f) := fp32.divSqrt 0 (s, n, d, e) (m, c, g)
    (BitVec.ofNat 32 p, f)
  | _, .fin _ _ _ _ => r32 a
  | _, h =>
    let (q, f) := XV.div a h
    let (r, g) := r32 q
    (r, f ||| g)
/-- u*x + w*y, rounded once. -/
def plane (u x w y : W32) (sub : Bool) : W32 × Flags :=
  let (p, f) := XV.mul (f32 u) (f32 x)
  let (q, g) := XV.mul (f32 w) (f32 y)
  let (z, h) := XV.add 0 p (if sub then q.negate else q)
  let (r, k) := r32 z
  (r, quiet [f32 u, f32 x, f32 w, f32 y] (f ||| g ||| h) ||| k)
/-- The rotation of rows i-1 and i by column `k`, on zd and zs: the element below the diagonal becomes +0, also where it
was -0 and nothing is rotated (R240). -/
def rotate (n nr k i : Nat) (st : Grid × Grid × Flags) : Grid × Grid × Flags :=
  let (gd, gs, f) := st
  let a := gd.cell (i - 1) k
  let b := gd.cell i k
  if mag32 b = 0 then (gd.put i k 0, gs, f)
  else
    let h2 := (XV.add 0 (XV.mul (f32 a) (f32 a)).1 (XV.mul (f32 b) (f32 b)).1).1
    let (c, f1) := overRoot (f32 a) h2
    let (s, f2) := overRoot (f32 b) h2
    let (hp, f3) := fp32.sqrt 0 false h2
    let turn (g : Grid) (use : Nat → Bool) : Grid × Flags :=
      let up := g.getD (i - 1) []
      let lo := g.getD i []
      g.mapF fun r j e =>
        if !use j then (e, 0)
        else if r + 1 = i then plane c (up.getD j 0) s (lo.getD j 0) false
        else if r = i then plane c (lo.getD j 0) s (up.getD j 0) true
        else (e, 0)
    let (gd', f4) := turn gd fun j => decide (k < j) && decide (j < n)
    let (gs', f5) := turn gs fun j => decide (j < nr)
    ((gd'.put (i - 1) k (BitVec.ofNat 32 hp)).put i k 0, gs', f ||| f1 ||| f2 ||| f3 ||| f4 ||| f5)

/-- cr.solres of MQR: the worst squared residual (R240). That it is NaN where the chain of a column is NaN is a DESIGN
CHOICE (log entry 57). -/
def mqrResidual (gs : Grid) (n m nr : Nat) : W32 × Flags :=
  let cols := (List.range nr).map fun c =>
    chainStep ((List.range (m - n)).map fun d => (gs.cell (n + d) c, gs.cell (n + d) c)) 0
  (cols.foldl (fun (b : W32) v => if isNan32 b then b else if isNan32 v.1 then v.1 else if b.ult v.1 then v.1 else b) 0,
    cols.foldl (fun f v => f ||| v.2) 0)

/-- Step k of MQR. -/
def mqrStep (x : Ctx) (v : Solve) : Routine :=
  let n := shapeN v.shape
  let m := shapeM v.shape
  let nr := shapeNr v.shape
  let k := v.step
  let zd := x.zreg[v.zd]
  let zs := x.zreg[v.zs]
  let g := zd.grid
  match ((List.range (m - k)).map fun d => g.cell (k + d) k).find? nonfin with
  | some e => broken x v 0 0x13 e
  | none =>
    let (gd, gs, f) := (List.range (m - 1 - k)).foldl (fun st d => rotate n nr k (m - 1 - d) st) (g, zs.grid, 0)
    let tags := [zd.tag, zs.tag]
    let x := (x.solved v.zd gd tags).solved v.zs gs tags
    let akk := mag32 (gd.cell k k)
    if XV.le (f32 akk) (XV.mul (tolVal v.pivtol) (f32 (mag32 (gd.cell 0 0)))).1 then
      ⟨x, { v with zcol := BitVec.ofNat 8 k }, f, [v.zd, v.zs], [], some (0x15, akk), none⟩
    else if k + 1 = n then
      let (r, h) := mqrResidual gs n m nr
      ⟨{ x with cr := { x.cr with solres := r } }, { v with step := k + 1 }, f ||| h, [v.zd, v.zs], [], none, some (0, 0)⟩
    else ⟨x, { v with step := k + 1 }, f, [v.zd, v.zs], [], none, none⟩

/-! ## MSOLVE (R243 to R246) -/

/-- The factor accumulator (R231). -/
def Solve.zf (v : Solve) : Fin 8 := v.zs + 1
/-- Residuals of iterates `xs` for right-hand sides `bs`, and their flags (R243). -/
def residuals (a : Grid) (n : Nat) (xs bs : List (List W32)) : List (List W32) × Flags :=
  let cols := List.zipWith (fun x b => (List.range n).map fun i =>
    chainSub ((List.range n).map fun j => (a.cell i j, x.getD j 0)) (b.getD i 0)) xs bs
  (cols.map (·.map Prod.fst), cols.foldl (fun f c => c.foldl (fun f v => f ||| v.2) f) 0)
/-- The norm of residuals (R243). -/
def resNorm (l : List (List W32)) : W32 :=
  if l.flatten.any isNan32 then nan32 else l.flatten.foldl (fun m v => if m.ult (mag32 v) then mag32 v else m) 0
/-- The swaps of a pivot vector applied to a column, in ascending order (R244). -/
def permute (pv : Vector Byte 128) (n : Nat) (l : List W32) : List W32 :=
  (List.range n).foldl (fun l k =>
    let p := (pv.toList.getD k 0).toNat
    if p < n then (l.set k (l.getD p 0)).set p (l.getD k 0) else l) l
/-- The pivot columns of the echelon factor: those whose candidates exceed pivtol * amax0 (R245). -/
def pivotCols (g : Grid) (v : Solve) (n : Nat) : List Nat :=
  (List.range n).foldl (fun pc k =>
    let u := pc.length
    let m := maxMag ((List.range (n - u)).map fun d => g.cell (u + d) k)
    if v.rho ≤ u || XV.le (f32 m) (XV.mul (tolVal v.pivtol) (f32 v.amax0)).1 then pc else pc ++ [k]) []
/-- Forward unit-L, then backward over the pivot columns; free variables are +0 (R244). -/
def luSolve (g : Grid) (pc : List Nat) (n : Nat) (rhs : List W32) : List W32 × Flags :=
  let rho := pc.length
  let fwd := (List.range n).foldl (fun (y : List W32 × Flags) i =>
    let (a, f) := chainSub ((List.range (min i rho)).map fun u => (g.cell i (pc.getD u 0), y.1.getD u 0)) (rhs.getD i 0)
    (y.1 ++ [a], y.2 ||| f)) ([], 0)
  (List.range rho).foldl (fun (x : List W32 × Flags) d =>
    let u := rho - 1 - d
    let (a, f) := chainSub ((List.range (rho - 1 - u)).map fun w =>
      (g.cell u (pc.getD (u + 1 + w) 0), x.1.getD (pc.getD (u + 1 + w) 0) 0)) (fwd.1.getD u 0)
    let (q, h) := div32 a (g.cell u (pc.getD u 0))
    (x.1.set (pc.getD u 0) q, x.2 ||| f ||| h)) (List.replicate n 0, fwd.2)

/-- Columns from `c0` on replaced. -/
def Grid.putCols (g : Grid) (c0 : Nat) (cols : List (List W32)) : Grid :=
  (cols.zip (List.range cols.length)).foldl (fun g c => g.putCol (c0 + c.2) c.1) g
/-- Columns c0 to c0+q-1 of rows 0 to n-1. -/
def Grid.cols (g : Grid) (c0 q n : Nat) : List (List W32) := (List.range q).map fun c => g.col (c0 + c) n

/-- zd and zf after an iterate: it is written with its residual to zf, and to zd where it is the best (R243, R244). -/
def Solve.consider (v : Solve) (x : Ctx) (t : Nat) (xs res : List (List W32)) (tags : List Half) : Ctx × Solve :=
  let n := shapeN v.shape
  let q := shapeNr v.shape
  let nm := resNorm res
  let better := !isNan32 nm && (isNan32 v.bestn || nm.ult v.bestn)
  let x := x.solved v.zf ((x.zreg[v.zf].grid.putCols n xs).putCols (n + q) res) tags
  let v := { v with iter := t }
  if better then (x.solved v.zd (x.zreg[v.zd].grid.putCols 0 xs) tags, { v with bestn := nm, best := t }) else (x, v)

/-- E0 (R244). -/
def msolveE0 (x : Ctx) (v : Solve) : Routine :=
  let n := shapeN v.shape
  let q := shapeNr v.shape
  let g := x.zreg[v.zd].grid
  let (res, f) := residuals x.zreg[v.zs].grid n (g.cols 0 q n) (g.cols q q n)
  let nm := resNorm res
  let v := { v with bestn := nm, best := 0, iter := 0 }
  if XV.le (f32 nm) (tolVal v.soltol) then ⟨x, v, f, [], [], none, some (1, 0)⟩
  else if v.maxit = 0 then ⟨x, v, f, [], [], none, some (2, 0)⟩
  else ⟨x, { v with stage := 1, step := 0 }, f, [], [], none, none⟩

/-- F_k (R245). -/
def msolveF (x : Ctx) (v : Solve) : Routine :=
  let n := shapeN v.shape
  let q := shapeNr v.shape
  let k := v.step
  let zs := x.zreg[v.zs]
  let zd := x.zreg[v.zd]
  let (g, f0) :=
    if k = 0 then
      let xs := zd.grid.cols 0 q n
      let (res, f) := residuals zs.grid n xs (zd.grid.cols q q n)
      let (c, _) := Acc.zero.grid.mapF fun i j _ => (if i < n && j < n then zs.grid.cell i j else 0, 0)
      ((c.putCols n xs).putCols (n + q) res, f)
    else (x.zreg[v.zf].grid, 0)
  let tags := if k = 0 then [zd.tag, zs.tag] else [zd.tag, zs.tag, x.zreg[v.zf].tag]
  let x0 := x
  let x := if k = 0 then { x with zreg := x.zreg.set v.zf { x.zreg[v.zf] with ls := zs.ls } } else x
  let v := v.withAmax g n
  let e := x.pvreg[v.pv].e
  let e := if k = 0 then pvIdentity e n else e
  let next (v : Solve) (g : Grid) (e : Vector Byte 128) (f : Flags) : Routine :=
    let v := { v with step := k + 1 }
    let v := if k + 1 = n then { v with stage := if v.rho = n then 3 else 2 } else v
    let e := if k + 1 = n then pvIdentity e v.rho else e
    ⟨(x.solved v.zf g tags).putPv v.pv e, v, f, [v.zf], [v.pv], none, none⟩
  match choosePivot g v k v.rho n with
  | .error (.nonfinite _) => ⟨x0, v, 0, [], [], none, some (7, 0x13)⟩
  | .error (.small _) => next { v with zcol := if v.zcol = 0xFF then BitVec.ofNat 8 k else v.zcol } g e f0
  | .ok p =>
    let (g, gm, f) := eliminate (g.swap v.rho p n) v.gmax k v.rho n
    next { v with gmax := gm, rho := v.rho + 1 } g (pvSet e v.rho p) (f0 ||| f)

/-- C: the solution of a singular system (R244). -/
def msolveC (x : Ctx) (v : Solve) : Routine :=
  let n := shapeN v.shape
  let q := shapeNr v.shape
  let zd := x.zreg[v.zd]
  let a := x.zreg[v.zs]
  let zf := x.zreg[v.zf]
  let pc := pivotCols zf.grid v n
  let bs := zd.grid.cols q q n
  let sols := bs.map fun b => luSolve zf.grid pc n (permute x.pvreg[v.pv].e n b)
  let xs := sols.map Prod.fst
  let (res, f) := residuals a.grid n xs bs
  let (x, v) := v.consider x 1 xs res [zd.tag, a.tag, zf.tag]
  ⟨x, v, sols.foldl (fun f y => f ||| y.2) f, [v.zd, v.zf], [], none,
    some (if XV.le (f32 (resNorm res)) (tolVal v.soltol) then 5 else 6, 0)⟩

/-- I_t: one refinement (R244). -/
def msolveI (x : Ctx) (v : Solve) : Routine :=
  let n := shapeN v.shape
  let q := shapeNr v.shape
  let t := v.iter + 1
  let zd := x.zreg[v.zd]
  let a := x.zreg[v.zs]
  let zf := x.zreg[v.zf]
  let ds := (zf.grid.cols (n + q) q n).map fun r => luSolve zf.grid (List.range n) n (permute x.pvreg[v.pv].e n r)
  let adds := List.zipWith (fun xc d => List.zipWith add32 xc d) (zf.grid.cols n q n) (ds.map Prod.fst)
  let xs := adds.map (·.map Prod.fst)
  let (res, f) := residuals a.grid n xs (zd.grid.cols q q n)
  let f := adds.foldl (fun f c => c.foldl (fun f y => f ||| y.2) f) (ds.foldl (fun f y => f ||| y.2) f)
  let (x, v) := v.consider x t xs res [zd.tag, a.tag, zf.tag]
  ⟨x, v, f, [v.zd, v.zf], [], none,
    if XV.le (f32 (resNorm res)) (tolVal v.soltol) then some (1, 0) else if v.maxit.toNat ≤ t then some (2, 0) else none⟩

/-- The end of MSOLVE: the residual of the best iterate is written, and its norm (R244, R246). -/
def Solve.finish (v : Solve) (x : Ctx) : Ctx × Flags :=
  let n := shapeN v.shape
  let q := shapeNr v.shape
  let zd := x.zreg[v.zd]
  let g := zd.grid
  let (res, f) := residuals x.zreg[v.zs].grid n (g.cols 0 q n) (g.cols q q n)
  let x := x.solved v.zd (g.putCols (2 * q) res) [zd.tag, x.zreg[v.zs].tag]
  ({ x with cr := { x.cr with solres := v.bestn } }, f)

/-! ## A step of any routine -/

/-- The accumulators the next step reads (R233, R383). -/
def Solve.sources (v : Solve) : List (Fin 8) := match v.op.toNat with
  | 0x0A => [v.zd]
  | 0x0B => [v.zd]
  | 0x0C => [v.zd, v.zs]
  | 0x0D => [v.zd, v.zs]
  | _ => if v.stage ≤ 1 && v.step = 0 then [v.zd, v.zs] else [v.zd, v.zs, v.zf]
/-- The accumulators a routine writes. -/
def Solve.writes (v : Solve) : List (Fin 8) := match v.op.toNat with
  | 0x0D => [v.zd, v.zs]
  | 0x0E => [v.zd, v.zf]
  | _ => [v.zd]

/-- The next step. -/
def Solve.next (v : Solve) (x : Ctx) : Routine := match v.op.toNat with
  | 0x0A => mluStep x v
  | 0x0B => mcholStep x v
  | 0x0C => mtrsStep x v
  | 0x0D => mqrStep x v
  | _ => if v.stage = 0 then msolveE0 x v else if v.stage = 1 then msolveF x v
    else if v.stage = 2 then msolveC x v else msolveI x v

/-- The growth of a routine, and the flags of its rounding (R233, R237). -/
def Solve.grow (v : Solve) : W32 × Flags := if v.amax0 = 0 then (one32, 0) else div32 v.gmax v.amax0
/-- cr.growth and the growth flag (R237). -/
def Solve.growth (v : Solve) (c : CReg) : CReg :=
  let g := v.grow.1
  { c with growth := g, solvest := if XV.lt (f32 v.gmaxthr) (f32 g) then c.solvest ||| BitVec.ofNat 64 (2 ^ 36) else c.solvest }
/-- What a routine leaves in the control registers as it completes or stops (R249 to R251). -/
def Solve.leave (v : Solve) (c : CReg) (outcome code : Nat) (valid grown : Bool) : CReg :=
  let c := if grown then v.growth c else c
  let gflag := if bitAt c.solvest 36 then 2 ^ 36 else 0
  { c with
    mseq := v.pack valid
    solvest := BitVec.ofNat 64 (outcome + code * 2 ^ 4 + v.iter % 256 * 2 ^ 12 + v.best % 256 * 2 ^ 20 +
      v.zcol.toNat * 2 ^ 28 + gflag) }

/-- The trap of a breakdown (R389). -/
def Solve.breakFail (v : Solve) (code : Nat) (val : W32) (row : Nat) : Fail :=
  { code := BitVec.ofNat 8 code,
    d0 := BitVec.ofNat 64 (v.op.toNat * 2 ^ 32 + v.var.toNat * 2 ^ 38 + row * 2 ^ 40 + v.zd.val * 2 ^ 48),
    d1 := BitVec.ofNat 64 (val.toNat * 2 ^ 32) }
/-- Step k, or row i of MTRS (R389). -/
def Solve.place (v : Solve) : Nat :=
  if v.op = 0x0C && !v.trsLower then shapeN v.shape - 1 - v.step else v.step

/-- One sequencer step, ending at device time `now` (R234, R235, R244): its checks, its work, and the boundary after it.
DESIGN CHOICE (log entry 58): a deadline writes cr.growth for MSOLVE once its factors are complete and not for MLU, and
after a breakdown cr.mseq shows the stage of the step that broke down. -/
def Solve.run (v : Solve) (x : Ctx) (q : XCmd) (now : Nat) : Except Fail XStep :=
  let tags := v.sources.map fun z => x.zreg[z].tag
  match checkAll (v.sources.map (fun z => x.zreg[z].typed) ++ [trackOk tags]) with
  | .error f => .error f
  | .ok _ =>
    let r := v.next x
    let q := { q with flags := q.flags ||| r.f }
    let leaving (x : Ctx) (w : Solve) (f : Flags) (o : Nat × Nat) (valid : Bool) (stage : Nat) (grown : Bool) : XStep :=
      ⟨{ x with cr := ({ w with stage := stage } : Solve).leave x.cr o.1 o.2 valid grown },
        { q with flags := q.flags ||| f ||| if grown then w.grow.2 else 0 },
        if w.op = 0x0E then w.zd :: r.wrote else r.wrote, r.pvs, true, [], none⟩
    let close (w : Solve) : Ctx × Flags := if w.op = 0x0E then w.finish r.x else (r.x, 0)
    match r.brk with
    | some (code, val) =>
      let t := leaving r.x r.v 0 (7, code) false r.v.stage (v.op = 0x0A)
      .ok { t with trap := if v.maskbrk then none else some (v.breakFail code val v.place) }
    | none =>
      match r.fin with
      | some o =>
        let (x, f) := close r.v
        .ok (leaving x r.v f o false 4 (v.op = 0x0A || (v.op = 0x0E && (2 ≤ r.v.stage || o.1 = 7))))
      | none =>
        if 0 < q.deadline.toNat && decide (q.t + q.deadline.toNat ≤ now) then
          let (x, f) := close r.v
          .ok (leaving x r.v f (if v.op = 0x0E && r.v.stage ≤ 1 then 4 else 3, 0) true r.v.stage (v.op = 0x0E && 2 ≤ r.v.stage))
        else .ok ⟨{ r.x with cr := { r.x.cr with mseq := r.v.pack false } }, { q with solve := some r.v }, r.wrote, r.pvs, false, [], none⟩

/-! ## MPERM and MNORM (R241, R242) -/

/-- An FP32 element that is an integer from 0 to 127. -/
def smallInt (w : W32) : Option Nat := (List.range 128).find? fun i => XV.eqv (f32 w) (XV.ofInt i)
/-- A failing check of MPERM (R392). -/
def permFail (bit : Nat) : Fail := { code := 0x18, d0 := BitVec.ofNat 64 (0x10 * 2 ^ 32), d1 := BitVec.ofNat 64 (2 ^ bit) }
/-- MPERM (R241). -/
def mpermStep (x : Ctx) (q : XCmd) (zd : Fin 8) (pv : Fin 4) : Except Fail XStep :=
  let z := x.zreg[zd]
  let g := z.grid
  let e := x.pvreg[pv].e
  let w := q.shape
  match z.typed with
  | .error f => .error f
  | .ok _ =>
    let tile (g : Grid) : XStep := ⟨x.solved zd g [z.tag], q, [zd], [], true, [], none⟩
    match shapePmode w with
    | 0 =>
      if e.toList.any fun p => decide (127 < p.toNat) then .error (permFail 37)
      else
        let ks := if shapeTrans w then (List.range (shapeN w)).reverse else List.range (shapeN w)
        .ok (tile (ks.foldl (fun g k => g.swap k (e.toList.getD k 0).toNat 128) g))
    | 1 => .ok (tile (g.putCol 0 (e.toList.map fun p => (r32 (XV.ofInt p.toNat)).1)))
    | _ =>
      let vs := (g.col 0 128).map smallInt
      if vs.any Option.isNone then .error (permFail 38)
      else .ok ⟨x.putPv pv (tab 128 fun i => BitVec.ofNat 8 ((vs.getD i none).getD 0)), q, [], [pv], true, [], none⟩
/-- MNORM (R242). -/
def mnormStep (x : Ctx) (q : XCmd) (zs : Fin 8) : Except Fail XStep :=
  let z := x.zreg[zs]
  match z.typed with
  | .error f => .error f
  | .ok _ =>
    let es := (z.grid.take (shapeM q.shape)).flatMap (·.take (shapeN q.shape))
    let mx := if es.any isNan32 then nan32 else es.foldl (fun m v => if m.ult (mag32 v) then mag32 v else m) 0
    let (acc, f) := chainStep (es.map fun v => (v, v)) 0
    let (r, h) := sqrt32 acc
    .ok ⟨{ x with cr := { x.cr with nrmmax := mx, nrmfro := r } }, { q with flags := q.flags ||| f ||| h }, [], [], true, [], none⟩

end Sys2Proof.Machine
end

