-- ==== Sys2Proof/Machine/XSlot.lean ====
section
/-!
DEFINITION. The X slot: what a command captures at issue, its shape, its place in the lane's queue, and its start
(R122, R123, R211 to R215, R231 to R234, R370, R371).
-/
namespace Sys2Proof.Machine

/-! ## Issue (R123, R211, R212, R215, R370, R371) -/

/-- The shape word breaks its limits (R371). -/
def shapeFail : Fail := operandFail

/-- A command as it captures its operands at issue (R212). -/
def State.newX (s : State) (op : Instr) : XCmd where
  seq := s.nextId
  op := op
  pc := s.me.pc
  t := s.time
  opn := s.me.phaseOpen
  da := Vector.replicate 8 0
  db := Vector.replicate 8 0
  shape := 0
  bar := none
  lscale := s.me.cr.lscale
  pivtol := s.me.cr.pivtol
  soltol := s.me.cr.soltol
  gmaxthr := s.me.cr.growthmax
  maxit := s.me.cr.maxit
  maskbrk := s.me.cr.maskbrk
  deadline := s.me.cr.deadline
  retries := s.me.cr.mxretry.toNat
  mseq := s.me.cr.mseq
  unord := (s.kcmds.filter fun k => k.owner = s.cur && k.run = s.me.run && !k.seenVis).map fun k => (k.id, !k.seenSrc)
  loose := s.me.mfoot
  mops := (s.me.pend.filter fun p => p.path = some 0).map (·.op)
  closeAt := none
  snap := .empty
  whole := true
  barOk := false
  barFree := false
  kb := 0
  solve := none
  flags := 0
  busy := none
  replays := 0
  bad := none
  mended := none
  stale := false
  waitFault := none

/-- The routines that hold resumable state, MRESUME among them (R393). -/
def XCmd.resumable (q : XCmd) : Bool := match q.op with
  | .mlu .. => true
  | .mchol .. => true
  | .mtrs .. => true
  | .mqr .. => true
  | .msolve .. => true
  | .mresume .. => true
  | _ => false

/-- Replace the head of a lane's queue. -/
def State.putHead (s : State) (c : CtxId) (q : XCmd) : State := s.modCtx c fun x => { x with xq := match x.xq with
  | _ :: t => q :: t
  | [] => [] }
/-- Cycles of a command's next step (R252). -/
def XCmd.cycles (q : XCmd) : Nat :=
  match q.solve with
  | some v => v.cycles
  | none => match q.op with
    | .mperm .. => 8 + shapeN q.shape
    | .mnorm .. => 16 + (shapeM q.shape * shapeN q.shape + 1023) / 1024
    | _ => 0
/-- The engine starts the command at the head of the queue once its barrier is satisfied (R123, R212). A solve routine
comes to its first boundary, whose write of cr.mseq clears valid (R251, R393). -/
def State.startX (s : State) (c : CtxId) : State :=
  match (s.ctx c).xq with
  | [] => s
  | q :: _ =>
    if q.busy.isSome || !(q.bar.isNone || q.barOk) then s
    else
      let q := match q.op with
        | .mresume .. => if resumeMask q.mseq q.stale = 0 then { q with solve := some (unpackSolve q.mseq) } else q
        | _ => q
      let s := s.putHead c { q with busy := some (s.time + q.cycles) }
      match q.solve with
      | some v => s.modCtx c fun x => { x with cr := { x.cr with mseq := v.pack false } }
      | none => s

/-- The bytes that a command of context `c` reads and writes, as far as they can be named, and whether that is all of them
(R213, R396). -/
def State.xfeetOf (s : State) (c : CtxId) (q : XCmd) : (List Span × List Span) × Bool :=
  match s.xplan ((s.ctx c).actor c.core) q with
  | .ok f => (f, true)
  | _ => (s.xknown ((s.ctx c).actor c.core) q, false)
/-- Those of the current context's command. -/
def State.xfeet (s : State) (q : XCmd) : List Span × List Span := (s.xfeetOf s.cur q).1
/-- A command enters its lane's queue, with its open bytes `f` and its source bytes as of the open time (R36, R212,
R213). -/
def State.pushX (s : State) (q : XCmd) (f : List Span × List Span) : State :=
  let q := { q with
    stale := s.me.xq.any XCmd.resumable
    snap := s.snapshot s.cur 2 f.1
    whole := (s.xfeetOf s.cur q).2 }
  let s := { s with nextId := s.nextId + 1 }
  (s.modMe fun x => { x with
    xq := x.xq ++ [q]
    xfoot := if q.inMemory then x.xfoot ++ [⟨q.seq, f.1, f.2, false⟩] else x.xfoot }).startX s.cur

/-- The queued commands of lane `c` that wait for pages, with the bytes that can be named only now (R178, R213, R396). -/
def State.regrow (s : State) (c : CtxId) : State :=
  let x := s.ctx c
  let late (k : KCmd) : Bool := k.owner = c && k.run = x.run && k.stage = .queued && !k.whole && !k.errored
  let s := if s.kcmds.any late then { s with kcmds := s.kcmds.map fun k => if late k then s.regrowK k else k } else s
  (x.xq.filter fun q => !q.whole).foldl (fun s q =>
    let (f, all) := s.xfeetOf c q
    let more := s.snapshot c 2 (cutSpans (fun l => q.snap.cells.any (·.1 = l)) f.1)
    s.modCtx c fun y => { y with
      xq := y.xq.map fun (u : XCmd) => if u.seq = q.seq then { u with snap := u.snap.grown more, whole := all } else u
      xfoot := y.xfoot.map fun (u : XFoot) => if u.seq = q.seq then { u with src := f.1, dst := f.2 } else u }) s

/-- The words of an X command: its value or shape word, checked, and its barrier (R123, R369, R371, R374). -/
def Ctx.xwords (x : Ctx) (c : CtxId) (shp bar : Fin 64) (shape : Word → Except Fail Word) :
    Except Fail (Word × Option (Nat × Word)) :=
  match (if shp = 0 then .ok 0 else x.checked shp) with
  | .error f => .error f
  | .ok w => match (if bar = 0 then .ok none else (x.pairOf bar.val).map some) with
    | .error f => .error f
    | .ok b => match shape w with
      | .error f => .error f
      | .ok sh => match b with
        | none => .ok (sh, none)
        | some (a, v) => (spadWord c a).map fun l => (sh, some (l, v))

/-- An X command issues. `cmd` is what it captures beside its words. -/
def State.issueX (s : State) (shp bar : Fin 64) (shape : Word → Except Fail Word) (cmd : Word → XCmd) : Res :=
  .need (s.me.xwords s.cur shp bar shape) fun (sh, b) =>
    if Config.xQueueDepth ≤ s.me.xq.length then .hold s
    else
      let q : XCmd := { cmd sh with shape := sh, bar := b }
      if s.sourceWaits s.cur (s.xfeet q).1 then .hold s else .done (s.pushX q (s.xfeet q))

/-- No shape word. -/
def noShape (_ : Word) : Except Fail Word := .ok 0

/-- A descriptor with its format replaced. -/
def Desc.withFmt (d : Desc) (f : Nat) : Desc := d.set 3 ((d[3] &&& ~~~(0xF : Word)) ||| BitVec.ofNat 64 f)
/-- What MMUL and MOPA accept of a descriptor (R216). -/
def productUse (shp : Fin 64) : DescUse := ⟨2 ^ 32, 2 ^ 32, shp = 0, [0, 1, 2, 3, 4, 5, 6], [0, 1, 2, 3], false⟩
/-- The shape of a product, from its word or from its descriptors (R215, R371). -/
def productShape (opa : Bool) (shp : Fin 64) (a b : Desc) (da db : Fin 16) (w : Word) : Except Fail Word :=
  match useDesc a.sans7 da (productUse shp) with
  | .error f => .error f
  | .ok _ => match useDesc b.sans7 db (productUse shp) with
    | .error f => .error f
    | .ok _ =>
      let badK (k : Nat) : Bool := k % 16 ≠ 0 || k < 16 || 65520 < k
      if shp = 0 then
        let m := if opa then a.cols else a.rows
        let k := if opa then a.rows else a.cols
        if 128 < m || badK k then .error (descFail da.val 1)
        else if 128 < b.cols || b.rows ≠ k then .error (descFail db.val 1)
        else .ok (BitVec.ofNat 64 (m + b.cols * 2 ^ 16 + k * 2 ^ 32))
      else if 128 < bits w 0 16 || 128 < bits w 16 16 || badK (bits w 32 16) || bits w 48 16 ≠ 0 then .error shapeFail
      else .ok w
/-- MMUL and MOPA issue. An untyped operand is read in its partner's format, two of them as FP32 (R216). -/
def State.issueProduct (s : State) (op : Instr) (opa : Bool) (da db : Fin 16) (shp bar : Fin 64) : Res :=
  let a := s.me.dreg[da]
  let b := s.me.dreg[db]
  let f (x y : Nat) : Nat := if x ≠ 0 then x else if y ≠ 0 then y else 1
  s.issueX shp bar (productShape opa shp a b da db) fun _ =>
    { s.newX op with da := a.withFmt (f a.fmt b.fmt), db := b.withFmt (f b.fmt a.fmt) }

/-- MZERO (R218) -/
def execMzero (p : Fin 64) (zd : Fin 8) (bar : Fin 64) (s : State) : Out :=
  s.slotOp .x p (s.issueX 0 bar noShape fun _ => s.newX (.mzero p zd bar))
/-- MMUL (R216) -/
def execMmul (p : Fin 64) (zd : Fin 8) (da db : Fin 16) (shp : Fin 64) (set : Bool) (bar : Fin 64) (s : State) : Out :=
  s.slotOp .x p (s.issueProduct (.mmul p zd da db shp set bar) false da db shp bar)
/-- MOPA (R216) -/
def execMopa (p : Fin 64) (zd : Fin 8) (da db : Fin 16) (shp : Fin 64) (set : Bool) (bar : Fin 64) (s : State) : Out :=
  s.slotOp .x p (s.issueProduct (.mopa p zd da db shp set bar) true da db shp bar)
/-- MACC (R219) -/
def execMacc (p : Fin 64) (zd zs : Fin 8) (bar : Fin 64) (s : State) : Out :=
  s.slotOp .x p (s.issueX 0 bar noShape fun _ => s.newX (.macc p zd zs bar))
/-- MSCL (R220): the value word has 32 bits (R371). -/
def execMscl (p : Fin 64) (zd : Fin 8) (shp : Fin 64) (val : Bool) (bar : Fin 64) (s : State) : Out :=
  s.slotOp .x p (s.issueX shp bar (fun w => if bits w 32 32 ≠ 0 then .error shapeFail else .ok w) fun _ =>
    s.newX (.mscl p zd shp val bar))
/-- MDRN (R221) -/
def execMdrn (p : Fin 64) (db : Fin 16) (zs : Fin 8) (sat unscale : Bool) (bar : Fin 64) (s : State) : Out :=
  let b := s.me.dreg[db]
  s.slotOp .x p (s.issueX 0 bar (fun _ => (useDesc b.sans7 db ⟨128, 128, true, [1, 2, 3, 4, 5, 6], [0, 1, 2, 3], true⟩).map fun _ => 0)
    fun _ => { s.newX (.mdrn p db zs sat unscale bar) with db := b })
/-- MLDZ (R222) -/
def execMldz (p : Fin 64) (zd : Fin 8) (da : Fin 16) (ls : Bool) (bar : Fin 64) (s : State) : Out :=
  let a := s.me.dreg[da]
  s.slotOp .x p (s.issueX 0 bar (fun _ => (useDesc a.sans7 da ⟨128, 128, true,
      [1, 2, 3, 4, 5, 6, 7, 8, 9, 10, 11, 12], [0, 1, 2, 3], false⟩).map fun _ => 0)
    fun _ => { s.newX (.mldz p zd da ls bar) with da := a })
/-- MTRN (R223) -/
def execMtrn (p : Fin 64) (zd zs : Fin 8) (bar : Fin 64) (s : State) : Out :=
  s.slotOp .x p (s.issueX 0 bar noShape fun _ => s.newX (.mtrn p zd zs bar))
/-- MCOPY (R223) -/
def execMcopy (p : Fin 64) (zd zs : Fin 8) (bar : Fin 64) (s : State) : Out :=
  s.slotOp .x p (s.issueX 0 bar noShape fun _ => s.newX (.mcopy p zd zs bar))

/-! ## Solve routines (R231, R232, R371) -/

/-- The shape of a solve routine: the word s[shp], or the fields of its descriptors (R232, R371). -/
def solveShape (op : Nat) (sh : XShape) (a b : Desc) (w : Word) : Except Fail Word :=
  if sh.shp ≠ 0 then (if shapeOk op w then .ok w else .error shapeFail)
  else
    let twoD := op = 0x0C || op = 0x0D || op = 0x0E
    let useT := op = 0x0C || op = 0x10
    let tall := op = 0x0D || op = 0x11
    let v := BitVec.ofNat 64 (a.cols + (if twoD then b.cols * 2 ^ 16 else 0) + (if tall then a.rows * 2 ^ 32 else 0) +
      (if useT && a.trans then 2 ^ 48 else 0))
    let square := !tall && op ≠ 0x10
    if a.rows = 0 || a.cols = 0 || 128 < a.cols || (tall && 128 < a.rows) || (square && a.rows ≠ a.cols) ||
        (op = 0x0D && a.rows < a.cols) then .error (descFail sh.da.val 1)
    else if useT && bits a[2] 41 23 ≠ 0 then .error (descFail sh.da.val 2)
    else if shapeOk op v && (!twoD || (b.rows ≠ 0 && b.cols ≠ 0 && b.cols ≤ 128)) then .ok v
    else .error (descFail sh.db.val 1)

/-- A solve routine issues. -/
def State.issueSolve (s : State) (i : Instr) (op : BitVec 6) (var : BitVec 2) (zd zs : Fin 8) (sh : XShape) (bar : Fin 64) :
    Res :=
  let a := s.me.dreg[sh.da]
  let b := s.me.dreg[sh.db]
  s.issueX sh.shp bar (solveShape op.toNat sh a b) fun w =>
    let q := s.newX i
    { q with solve := if op.toNat ≤ 0x0E then some (freshSolve q op var zd zs w) else none }

/-- MLU (R236) -/
def execMlu (p : Fin 64) (zd : Fin 8) (pv : Fin 4) (sh : XShape) (bar : Fin 64) (s : State) : Out :=
  s.slotOp .x p (s.issueSolve (.mlu p zd pv sh bar) 0x0A (BitVec.ofNat 2 pv.val) zd 0 sh bar)
/-- MCHOL (R238) -/
def execMchol (p : Fin 64) (zd : Fin 8) (sh : XShape) (bar : Fin 64) (s : State) : Out :=
  s.slotOp .x p (s.issueSolve (.mchol p zd sh bar) 0x0B 0 zd 0 sh bar)
/-- MTRS (R239) -/
def execMtrs (p : Fin 64) (zd zs : Fin 8) (up unit : Bool) (sh : XShape) (bar : Fin 64) (s : State) : Out :=
  s.slotOp .x p (s.issueSolve (.mtrs p zd zs up unit sh bar) 0x0C
    (BitVec.ofNat 2 ((if up then 1 else 0) + (if unit then 2 else 0))) zd zs sh bar)
/-- MQR (R240) -/
def execMqr (p : Fin 64) (zd zs : Fin 8) (sh : XShape) (bar : Fin 64) (s : State) : Out :=
  s.slotOp .x p (s.issueSolve (.mqr p zd zs sh bar) 0x0D 0 zd zs sh bar)
/-- MSOLVE (R243) -/
def execMsolve (p : Fin 64) (zd zs : Fin 8) (pv : Fin 4) (sh : XShape) (bar : Fin 64) (s : State) : Out :=
  s.slotOp .x p (s.issueSolve (.msolve p zd zs pv sh bar) 0x0E (BitVec.ofNat 2 pv.val) zd zs sh bar)
/-- MRESUME (R247): it captures cr.mseq0 to cr.mseq7. -/
def execMresume (p : Fin 64) (bar : Fin 64) (s : State) : Out :=
  s.slotOp .x p (s.issueX 0 bar noShape fun _ => s.newX (.mresume p bar))
/-- MPERM (R241) -/
def execMperm (p : Fin 64) (zd : Fin 8) (pv : Fin 4) (sh : XShape) (bar : Fin 64) (s : State) : Out :=
  s.slotOp .x p (s.issueSolve (.mperm p zd pv sh bar) 0x10 (BitVec.ofNat 2 pv.val) zd 0 sh bar)
/-- MNORM (R242) -/
def execMnorm (p : Fin 64) (zs : Fin 8) (sh : XShape) (bar : Fin 64) (s : State) : Out :=
  s.slotOp .x p (s.issueSolve (.mnorm p zs sh bar) 0x11 0 0 zs sh bar)

end Sys2Proof.Machine
end

