-- ==== Sys2Proof/Machine/Faults.lean ====
section
/-!
DEFINITION. What Zenhel and failing storage do to running work: trap rings, poison, fault answers, changed translations
(R81, R338, R339, R341, R396, R397, R401).
-/
namespace Sys2Proof.Machine

/-! ## Writes from outside the cores -/

/-- The control blocks of the trap rings that have been named (R338). -/
def State.ringBlocks (s : State) : List Nat :=
  (s.devRing :: ((List.range 256).map fun i => s.ringOf ⟨Fin.ofNat 128 (i / 2), Fin.ofNat 2 i⟩)).filter (· ≠ 0)
/-- The trace control block of an ASID; 0 means none (R277). -/
def State.trcb (s : State) (a : BitVec 12) : Nat := s.asidWord a 0x10 % 2 ^ 52
/-- A trace control block that an ASID's entry names stands at `l`. -/
def State.traceBlock (s : State) (l : Nat) : Bool := l ≠ 0 && (List.range 4096).any fun a => s.trcb (BitVec.ofNat 12 a) = l
/-- A byte as Zenhel writes it: at `lost` of a trap ring and `full` of a trace control block, 1 clears the bit, 0 leaves it;
what hardware alone sets stays, the reserved bits beside them among it, but for the counts that Zenhel sets up (R4, R5,
R277, R338). -/
def State.extByte (s : State) (rings : List Nat) (c : Host.Cell) : Host.Cell :=
  let ring (o n : Nat) : Bool := rings.any fun cb => decide (cb + o ≤ c.1) && decide (c.1 < cb + o + n)
  let o := c.1 % 64
  let clear : Host.Cell := (c.1, s.byte c.1 &&& ~~~(c.2 &&& 1))
  if ring 0x18 1 then clear
  else if ring 0x19 7 || ring 0x28 8 then (c.1, s.byte c.1)
  else if 0x1C ≤ o && o < 0x20 && s.traceBlock (c.1 - o) then (if o = 0x1C then clear else (c.1, s.byte c.1))
  else c
/-- Zenhel's, the host's or a device's writes at physical addresses, as plain writes (R85, R341). A reserved field that a
map gives as RW, Zero in a structure in memory (an entry of a page table, an OPB, a ring object) keeps what is written there:
DESIGN CHOICE (R5; log entry 60). -/
def State.extWrite (s : State) (ws : List ExtWrite) : State :=
  ws.foldl (fun s w => s.plainWrite ((cellsAt w.addr w.bytes).map (s.extByte s.ringBlocks))) s

/-! ## Trap rings (R338, R339) -/

/-- Records that waited for space in a context's ring are written, the oldest first; what follows each happens
(R334, R339). -/
def State.drainRing (s : State) (c : CtxId) : List RingRec → State
  | [] => s
  | r :: t =>
    let cb := s.ringOf c
    if s.ringSpace cb then
      (((s.ringPut cb (r.words ++ [r.seq])).modCtx c fun x => { x with ringQ := t }).after c.core.val
        (bits (r.words.headD 0) 0 8) r.after).drainRing c t
    else s
/-- Records that the ring at `cb` can take. -/
def State.ringFree (s : State) (cb : Nat) : Nat :=
  2 ^ (s.field (cb + 8) 0 5) - (s.num (cb + 0x10) 4 + 2 ^ 32 - s.num (cb + 0x14) 4) % 2 ^ 32
/-- Up to `k` records that waited for space in the device ring are written, each with the rest of its decision (R339). -/
def State.drainDev : Nat → State → State
  | 0, s => s
  | k + 1, s => match s.devQ with
    | [] => s
    | r :: t =>
      if s.ringSpace s.devRing then
        State.drainDev k (({ s.ringPut s.devRing (r.words ++ [r.seq]) with devQ := t }).decided r.after)
      else s

/-- No producer of a ring waits any more. -/
def State.unstall (s : State) (cb : Nat) (idle : Bool) : State := if idle then s.setField (cb + 0x18) 1 1 0 else s

/-- TRAP_RING_CONSUME (R339): Zenhel advances cons; producers that waited write their records and go on. -/
def execTrapRingConsume (r : RingId) (cons : W32) (s : State) : Out :=
  match r with
  | .ctx c =>
    let cb := s.ringOf c
    let s := (s.setNum (cb + 0x14) cons.toNat 4).drainRing c (s.ctx c).ringQ
    let s := s.modCtx c fun x => if x.stat = .running || x.stat = .ending then x.wdResume s.time else x
    .next (s.unstall cb (s.ctx c).ringQ.isEmpty)
  | .device =>
    let s := s.setNum (s.devRing + 0x14) cons.toNat 4
    let s := State.drainDev (s.ringFree s.devRing) s
    .next (s.unstall s.devRing s.devQ.isEmpty)

/-! ## Poison (R341, R401) -/

/-- Storage exists at a location: a scratchpad, memory, the snapshot of a dispatched step or a debug dump (R346, R356). -/
def State.stored (s : State) (l : Nat) : Bool :=
  if isSpad l then
    decide (l < 2 ^ 52 + 128 * 2 ^ 22) || (decide (dumpLoc 0 ≤ l) && decide (l < dumpLoc 256)) ||
      s.runs.any fun r => decide (snapLoc r.id ≤ l) && decide (l < snapLoc (r.id + 1))
  else s.populated l
/-- All contexts, the lowest core first. -/
def allCtxs : List CtxId := (List.range 256).map fun i => ⟨Fin.ofNat 128 (i / 2), Fin.ofNat 2 i⟩
/-- Interlocked loads on their way that took bytes of a unit meet its poison: a precise trap (R401). -/
def State.poisonLoads (s : State) (u : Nat) : State :=
  allCtxs.foldl (fun s c =>
    let x := s.ctx c
    match x.pipe.findSome? fun l => if l.due.isSome then none else
        (l.src.find? fun p => decide (p.loc < u + unitLen u) && decide (u < p.loc + p.len)).map fun p => (l.pc, p) with
    | some (pc, p) => s.trap c .m 0 pc x.pc { code := 0x23, faddr := wrapInt 64 ((p.name.toNat : Int) + u - p.loc) }
    | none => s) s

/-- A snapshot or a dump that holds location `l` no longer reads back without error (R347, R356). -/
def State.spoilSaves (s : State) (l : Nat) : State :=
  let spoil (r : Run) : Run := if snapLoc r.id ≤ l && l < snapLoc (r.id + 1) then { r with snapBad := true } else r
  let s := { s with runs := s.runs.map spoil }
  if dumpLoc 0 ≤ l && l < dumpLoc 256 then
    let i := (l - dumpLoc 0) / 128
    s.modCtx ⟨Fin.ofNat 128 (i / 2), Fin.ofNat 2 i⟩ fun x => { x with dump := x.dump.map fun d => { d with good := false } }
  else s
/-- DATA_POISON (R341): an uncorrectable error in stored data poisons its unit. -/
def execDataPoison (loc : Nat) (s : State) : Out :=
  .next (if s.stored loc then
    (({ s with poison := insertNat (unitBase loc) s.poison }).poisonLoads (unitBase loc)).spoilSaves loc
  else s)

/-! ## Zenhel's answers (R396, R397) -/

/-- A lane goes on after Zenhel's answer, under the switching order of R67. -/
def State.answered (s : State) (c : CtxId) : State :=
  (s.modCtx c fun x => ({ x with wait := .none, nextIssue := max x.nextIssue (s.time + 1) } : Ctx).wdResume s.time).wantCore c

/-- FAULT_ANSWER (R396, R397): retry, or the code of the refusal. -/
def execFaultAnswer (who : FaultParty) (r : FaultReply) (s : State) : Out :=
  match who with
  | .lane c => match (s.ctx c).wait with
    | .fault sl f => .next (match r with
      | .retry ws => (s.extWrite ws).answered c
      | .refuse => s.trap c sl 0 (s.ctx c).pc (s.ctx c).pc f)
    | _ => .next s
  | .command id =>
    let s1 := match r with
      | .retry ws => s.extWrite ws
      | .refuse => s
    match s.getK id with
    | some k => .next (match k.waitFault, r with
      | none, _ => s
      | some _, .retry _ => (s1.modK id fun k => { k with waitFault := none }).unstash k
      | some f, .refuse => (s1.modK id fun k => { k with waitFault := none }).failAll k f)
    | none =>
      -- the head of a matrix-engine queue (R213): a refusal traps at the issuing bundle (R334)
      match allCtxs.find? fun c => ((s.ctx c).xq.head?).any fun q => q.seq = id && q.waitFault.isSome with
      | some c => .next (match (s.ctx c).xq, r with
        | q :: _, .retry _ => s1.putHead c { q with waitFault := none }
        | q :: _, .refuse => match q.waitFault with
          | some f => s.trap c .x 0 q.pc (s.ctx c).pc f
          | none => s
        | [], _ => s)
      | none => .next s

/-- TRANSLATION_INVALIDATION (R81): every core has dropped the translation of `va` under the ASID; Zenhel changes the
entries, and every later access sees them. -/
def execTranslationInvalidation (_a : BitVec 12) (_va : Nat) (ws : List ExtWrite) (s : State) : Out := .next (s.extWrite ws)

end Sys2Proof.Machine
end

