-- ==== Sys2Proof/Machine/Placement.lean ====
section
/-!
DEFINITION. Which step goes where: the slot table, eligibility, placement, the dispatch trace, arena birth, dispatch
(R25, R43, R268 to R279, R353, R358, R359).
-/
namespace Sys2Proof.Machine

/-! ## The slot table (R274, R275) -/

/-- The entry of the current slot. -/
def State.slotNow (s : State) : Half := s.cfg.slots[Fin.ofNat 64 (s.clock / Config.slotCycles)]
/-- The ASID that owns the current slot. -/
def State.owner (s : State) : Option (BitVec 12) := if s.slotNow.getLsbD 15 then some (s.slotNow.truncate 12) else none
/-- Device time at which the current slot began. -/
def State.slotStart (s : State) : Nat := s.time - s.clock % Config.slotCycles

/-! ## Cores (R62, R271, R359, R375) -/

/-- A slot map leaves its core out of placement: no survivor of a pair, or a slot bound to no live instance. -/
def leftOut (m : Word) : Bool :=
  let sal := bits m 8 3
  let val := bits m 11 3
  let dead (i live : Nat) : Bool := i = 3 || !live.testBit i
  dead (bits m 0 2) sal || dead (bits m 2 2) sal || dead (bits m 4 2) val || dead (bits m 6 2) val
/-- A core can take steps. -/
def State.placeable (s : State) (c : Fin 128) : Bool := !s.fenced.getLsbD c && !leftOut (s.core c).slotmap

/-! ## Dispatch trace (R277 to R279) -/

/-- A trace record (R278). -/
structure TraceRec where
  time : Nat
  step : Word
  opb  : Nat
  core : Fin 128
  nord : W32
  lane : Nat
  bank : Fin 2
  deriving DecidableEq, Repr

/-- Record `i` of an ASID's trace. -/
def State.traceAt (s : State) (a : BitVec 12) (i : Nat) : TraceRec :=
  let p := s.field (s.trcb a) 0 56 + 32 * i
  ⟨s.num p 8, BitVec.ofNat 64 (s.num (p + 8) 8), s.field (p + 16) 0 56, Fin.ofNat 128 (s.field (p + 16) 56 8),
   BitVec.ofNat 32 (s.num (p + 24) 4), s.field (p + 24) 32 2, Fin.ofNat 2 (s.field (p + 24) 34 1)⟩
/-- The words of a record. -/
def TraceRec.words (r : TraceRec) : List Nat :=
  [r.time, r.step.toNat, r.opb % 2 ^ 56 + r.core.val * 2 ^ 56, r.nord.toNat + r.lane * 2 ^ 32 + r.bank.val * 2 ^ 34]
/-- Write records from index `i` on, below index `n`. -/
def State.putTrace (s : State) (a : BitVec 12) (n : Nat) : Nat → List TraceRec → State
  | _, [] => s
  | i, r :: t =>
    if i < n then
      let p := s.field (s.trcb a) 0 56 + 32 * i
      (s.setCells (cellsAt p (r.words.flatMap fun w => leBytes w 8))).putTrace a n (i + 1) t
    else s
/-- Put the records of one dispatch among those of the same device time, by core number (R278). -/
def placeTrace (g : List TraceRec) : List TraceRec → List TraceRec
  | [] => g
  | r :: t => if r.lane = 0 && (g.head?.any fun x => decide (x.core < r.core)) then g ++ r :: t else r :: placeTrace g t
/-- The records at the end of the trace that carry device time `now`. -/
def State.sameTime (s : State) (a : BitVec 12) (now : Nat) : Nat → List TraceRec
  | 0 => []
  | i + 1 => if (s.traceAt a i).time = now then s.sameTime a now i ++ [s.traceAt a i] else []
/-- A dispatch of a recording node appends a record for each lane that the buffer still takes (R278). -/
def State.appendTrace (s : State) (a : BitVec 12) (g : List TraceRec) : State :=
  let cb := s.trcb a
  if cb = 0 then s
  else
    let n := s.num (cb + 8) 4
    let wi := s.num (cb + 16) 4
    let g := g.take (n - wi)
    let old := s.sameTime a s.clock wi
    let s := s.putTrace a n (wi - old.length) (placeTrace g old)
    let k := min n (wi + g.length)
    let s := s.setNum (cb + 16) k 4
    if k = n then s.setField (cb + 0x18) 32 1 1 else s
/-- Recording has stopped: no step of a recording node is dispatched (R278). -/
def State.traceFull (s : State) (a : BitVec 12) : Bool := s.trcb a ≠ 0 && s.field (s.trcb a + 0x18) 32 1 = 1

/-- The node a record names has been aborted: its cores are released from the trace (R358). -/
def State.released (s : State) (a : BitVec 12) (r : TraceRec) : Bool := match s.node a r.opb with
  | some n => n.dying.isSome
  | none => match s.findOpb a r.opb with
    | some n => s.nodeState n = 5
    | none => false
/-- The records still to replay, with their indices. -/
def State.replay (s : State) (a : BitVec 12) : List (Nat × TraceRec) :=
  let cb := s.trcb a
  if cb = 0 then []
  else
    let ri := s.num (cb + 20) 4
    ((List.range (s.num (cb + 16) 4 - ri)).map fun i => (ri + i, s.traceAt a (ri + i))).filter fun r => !s.released a r.2
/-- The ASIDs with a live node that replays. -/
def State.replaying (s : State) : List (BitVec 12) := ((s.nodes.filter fun n => s.opbBit n 20).map (·.asid)).eraseDups
/-- The next record of each trace that names core `c` (R279). -/
def State.boundBy (s : State) (c : Fin 128) : List TraceRec :=
  s.replaying.filterMap fun a => ((s.replay a).find? (·.2.core = c)).map Prod.snd
/-- The bank is reserved for such a record. -/
def State.bound (s : State) (c : CtxId) : Bool := (s.boundBy c.core).any fun r => r.bank = c.bank

/-! ## Offers (R269, R280) -/

/-- What a node offers: a step to be dispatched again, or the walker's next. -/
inductive Offer
  | again (r : StepRec)
  | walk
  deriving DecidableEq, Repr

/-- A pre-emption request that has arrived and that Zenhel has not taken yet names the node: a decision at the time of its
arrival sees it (R280). -/
def State.preAsked (s : State) (n : Node) : Bool := s.mbQueue.any fun q =>
  let m := s.mail[q.2]
  (m.cmd = 3 && m.arg0 = BitVec.ofNat 64 n.opb && m.arg1 = n.asid.zeroExtend 64) || (m.cmd = 4 && m.arg0 = n.asid.zeroExtend 64)
/-- The node is ready or active, and nothing keeps its steps back. -/
def State.offering (s : State) (n : Node) : Bool :=
  let st := s.nodeState n
  s.cfg.enable && n.dying.isNone && n.pre = .no && !s.preAsked n && (st = 1 || st = 2) &&
  !(st = 1 && s.opbBit n 22 && !n.rndDone) &&
  !(s.opbBit n 23 && s.runs.any fun r => r.asid = n.asid && r.opb = n.opb) &&
  !(s.opbBit n 19 && s.traceFull n.asid)
/-- The next step of a node in the order of R269. -/
def State.offer (s : State) (n : Node) : Option Offer :=
  if !s.offering n then none
  else match n.requeue.find? fun r => !r.after.any s.runBusy with
    | some r => some (.again r)
    | none =>
      if s.opbField n 0xA8 32 1 = 0 && !(s.opbBit n 23 && s.opbField n 0xA8 0 32 ≠ 0) then some .walk else none

/-! ## Placement (R271, R273) -/

/-- A bank can take a step. `held` says that banks freed in this slot are held for the slot's owner (R275). -/
def State.bankFree (s : State) (excl : List (Fin 128)) (held : Bool) (c : CtxId) : Bool :=
  (s.ctx c).stat = .empty && s.placeable c.core && !excl.contains c.core && !s.bound c &&
  !(held && (s.ctx c).freed.any fun t => decide (s.slotStart ≤ t))

/-- The gang blocks of width `w` in the order in which die `h` searches them (R29, R271). -/
def blocks (h : Fin 4) (w : Nat) : List (List CtxId) :=
  [h.val, h.val ^^^ 1, h.val ^^^ 2, h.val ^^^ 3].flatMap fun d =>
    ((List.range 32).filter fun k => (coreDie (clusterCore k 0)).val = d).flatMap fun k =>
      (List.range (4 / w)).map fun b => (List.range w).map fun j => ⟨clusterCore k (b * w + j), 0⟩
/-- The lowest-numbered core whose bank 0 is in use and whose bank 1 can take the step (R273). -/
def State.secondBank (s : State) (excl : List (Fin 128)) (held : Bool) : Option (List CtxId) :=
  ((List.range 128).map fun i => (⟨Fin.ofNat 128 i, 1⟩ : CtxId)).find? (fun c =>
    (s.ctx (otherBank c)).stat ≠ .empty && s.bankFree excl held c) |>.map fun c => [c]
/-- Where the next step of a node goes (R271, R273, R347). A block whose cores are held for the slot's owner (R275) is not
found free, so that bank 1 may take the step: DESIGN CHOICE (log entry 65). -/
def State.place (s : State) (n : Node) (o : Offer) (held : Bool) : Option (List CtxId) :=
  let excl := match o with
    | .again r => r.excl
    | .walk => []
  let w := s.gangWidth n
  match (blocks n.die w).find? fun b => b.all (s.bankFree excl held) with
  | some b => some b
  | none => if w = 1 then s.secondBank excl held else none

/-! ## Claims (R269, R270, R272, R275) -/

/-- A claim of a die's scheduler for a block. -/
structure Claim where
  node  : Node
  offer : Offer
  block : List CtxId
  deriving DecidableEq, Repr

/-- rseq of a node. -/
def State.rseqOf (s : State) (n : Node) : Nat := s.opbField n 0x98 0 64
/-- Nodes with a step to place, by prio and then rseq (R269). -/
def State.offers (s : State) (l : List Node) : List (Node × Offer) :=
  let before (a b : Node) : Bool := decide (b.prio < a.prio) || (a.prio = b.prio && decide (s.rseqOf a < s.rseqOf b))
  let ins (x : Node × Offer) : List (Node × Offer) → List (Node × Offer) :=
    fun t => t.takeWhile (fun y => !before x.1 y.1) ++ x :: t.dropWhile (fun y => !before x.1 y.1)
  (l.filterMap fun n => (s.offer n).map fun o => (n, o)).foldl (fun t x => ins x t) []
/-- The nodes that the schedulers place by priority; those that replay follow their trace (R279). -/
def State.queued (s : State) : List Node := s.nodes.filter fun n => !s.opbBit n 20

/-- The owner of the slot has a node that can be placed, and one that waits for a placement (R275). -/
def State.ownerNeeds (s : State) (a : BitVec 12) : Bool × Bool :=
  let l := (s.offers (s.queued.filter (·.asid = a))).map fun x => (s.place x.1 x.2 false).isSome
  (l.any id, l.any (!·))
/-- The claim that die `h` makes next (R269, R270, R275). -/
def State.claim (s : State) (h : Fin 4) : Option Claim :=
  let own := s.owner
  let needs := match own with
    | some a => s.ownerNeeds a
    | none => (false, false)
  (s.offers (s.queued.filter (·.die = h))).findSome? fun x =>
    let other := own.any (· ≠ x.1.asid)
    if other && needs.1 then none
    else (s.place x.1 x.2 (other && needs.2)).map fun b => ⟨x.1, x.2, b⟩
/-- The step a claim is for. -/
def State.claimStep (s : State) (c : Claim) : Nat := match c.offer with
  | .again r => r.step.toNat
  | .walk => s.opbField c.node 0xA0 0 64
/-- The order in which claims for one block are granted (R272). -/
def State.firstClaim (s : State) (a b : Claim) : Bool :=
  let key (c : Claim) : List Nat := [15 - c.node.prio, s.rseqOf c.node, s.claimStep c, c.node.die.val]
  decide (key a ≤ key b)
/-- Two claims share a core. -/
def Claim.rivals (a b : Claim) : Bool := a.block.any fun c => b.block.contains c
/-- The first of claims in the order of R272. -/
def State.bestClaim (s : State) : List Claim → Option Claim
  | [] => none
  | c :: t => match s.bestClaim t with
    | some d => some (if s.firstClaim c d then c else d)
    | none => some c
/-- The claims of the four schedulers at this device time. -/
def State.dieClaims (s : State) : List Claim := ([0, 1, 2, 3] : List (Fin 4)).filterMap s.claim

/-! ## Arenas (R43, R86, R353) -/

/-- A free arena slot, the schedulers' choice (log entry 12). -/
def State.freeArena (s : State) : Option Nat :=
  ((List.range (min Config.arenaSlots (s.arenas.length + 1))).map fun i => (s.draw.1 + i) % Config.arenaSlots).find? fun i =>
    !(Sparse.get Arena.none s.arenas i).live
/-- The size class of an arena (R86). -/
def sizeClass (frames : Nat) : Nat := ((List.range 17).find? fun c => decide (frames ≤ 2 ^ c)).getD 16
/-- An arena is born: a slot, its next generation, frames of the pool that read as zero, and the handle in the OPB. -/
def State.birth (s : State) (n : Node) (slot : Nat) : State :=
  let k := s.opbField n 0x30 0 17
  let gen := (Sparse.get Arena.none s.arenas slot).gen + 1
  let fs := s.pool.take k
  let mine (l : Nat) : Bool := fs.any fun f => decide (f ≤ l) && decide (l < f + 65536)
  let s := { s.draw.2 with
    arenas := Sparse.set Arena.none s.arenas slot ⟨gen, true, n.asid, fs⟩
    pool := s.pool.drop k
    mem := s.mem.filter fun c => !mine c.1
    exact := s.exact.filter fun e => !mine e.1
    poison := s.poison.filter fun l => !mine l }
  s.setOpb n 0xB8 0 64 (slot + gen.toNat * 2 ^ 16 + sizeClass k * 2 ^ 40)

/-! ## Dispatch (R25, R28, R32, R278, R346) -/

/-- Steps 2 and 3 of activation (R25), and the node ordinal (R278); none where the arena is refused (R353). -/
def State.activate (s : State) (n : Node) : Option State :=
  let k := s.opbField n 0x30 0 17
  let ready (s : State) : State :=
    let cb := s.trcb n.asid
    let s := s.setOpb n 0x90 0 3 2
    if (s.opbBit n 19 || s.opbBit n 20) && cb ≠ 0 then
      let o := s.num (cb + 0x18) 4
      (s.setNum (cb + 0x18) ((o + 1) % 2 ^ 32) 4).modNode n.asid n.opb fun m => { m with ord := some (BitVec.ofNat 32 o) }
    else s
  if k = 0 || n.inherited then some (ready s)
  else if s.pool.length < k then none
  else (s.freeArena).map fun slot => ready (s.birth n slot)

/-- The initial carries of an OPB. -/
def State.opbCarry (s : State) (n : Node) : Carry :=
  let w (i : Nat) : Word := BitVec.ofNat 64 (s.opbField n (0x50 + 8 * i) 0 64)
  #v[w 0, w 1, w 2, w 3]

/-- A bank takes a lane of a step. -/
def State.occupy (s : State) (c : CtxId) (run : Run) (lane : Fin 4) (fields : List Nat) (restartable : Bool) : State :=
  let s := s.modCtx c fun x => { x with
    stat := if restartable then .snapshot else .loaded
    save := if restartable then some (0, s.time) else none
    wait := .none
    run := run.id
    asid := run.asid
    opb := run.opb
    step := run.step
    lane := lane
    width := run.gang.length
    fields := fields }
  let alone := (s.ctx (otherBank c)).stat = .empty
  s.modCore c.core fun k => { k with
    cur := if alone then c.bank else k.cur
    perf := { k.perf with since := match k.perf.since with
      | some t => some t
      | none => some s.time } }

/-- A claim is granted: the node is activated if this is its first step, and the step is dispatched (R25, R269). -/
def State.dispatch (s : State) (c : Claim) : State :=
  let n := c.node
  match (if s.nodeState n = 1 then s.activate n else some s) with
  | none => s.abortNode n.asid n.opb 0x25 0xFF 0
      [devWords 0x25 0xFF 0 n.opb 0 (s.opbField n 0x30 0 17) s.pool.length]
  | some s =>
    let n := (s.node n.asid n.opb).getD n
    let chain := s.opbBit n 23
    let first := List.replicate c.block.length (s.opbCarry n)
    let (r, s) : StepRec × State := match c.offer with
      | .again r => (r, s.modNode n.asid n.opb fun m => { m with requeue := m.requeue.filter (· ≠ r) })
      | .walk =>
        let (id, s) := s.walkOn n
        (⟨id, if chain && !n.carries.isEmpty then n.carries else first, 0, [], none, 0⟩,
          s.setOpb n 0xA8 0 32 (s.opbField n 0xA8 0 32 + 1))
    let run : Run := ⟨s.nextRun, n.asid, n.opb, r.step, c.block, r.carries, false, r.restarts, false, false⟩
    let s := { s with
      nextRun := s.nextRun + 1
      runs := s.runs ++ [run] }
    let s := ((List.range c.block.length).zip c.block).foldl
      (fun s x => s.occupy x.2 run (Fin.ofNat 4 x.1) (s.opbWidths n) (s.opbBit n 18)) s
    if s.opbBit n 19 then
      s.appendTrace n.asid (((List.range c.block.length).zip c.block).map fun x =>
        ⟨s.clock, r.step, n.opb, x.2.core, n.ord.getD 0, x.1, x.2.bank⟩)
    else s

/-! ## Replay (R279, R358) -/

/-- The replay cannot follow the trace: record 0x43 and the abort of the node (R358). -/
def State.traceFail (s : State) (a : BitVec 12) (opb core : Nat) (step : Word) (addr ri : Nat) (nord : W32) : State :=
  s.abortNode a opb 0x43 core step [devWords 0x43 core step opb addr ri nord.toNat]
/-- The same, for record `i` of the trace of ASID `a`, the first of `k`. A node that still waits and that no scheduler
holds is aborted as it stands in memory; where there is none to abort the trace goes past the records (log entry 29). -/
def State.recordFail (s : State) (a : BitVec 12) (i : Nat) (r : TraceRec) (k : Nat) : State :=
  let cb := s.trcb a
  let addr := s.field cb 0 56 + 32 * i
  let ri := s.num (cb + 20) 4
  let fail (s : State) : State := s.traceFail a r.opb r.core.val r.step addr ri r.nord
  match s.node a r.opb with
  | some _ => fail s
  | none => match (s.findOpb a r.opb).filter fun n => s.nodeState n = 0 with
    | some n => fail { s with nodes := s.nodes ++ [n] }
    | none =>
      let past : DevAfter := .passTrace cb (i + k)
      if s.deciding past then s else s.devRecord (devWords 0x43 r.core.val r.step r.opb addr ri r.nord.toNat) past
/-- The records of one gang at the head of a list. -/
def recordGang : List (Nat × TraceRec) → List (Nat × TraceRec)
  | [] => []
  | r :: t => r :: t.takeWhile fun q => q.2.lane ≠ 0 && q.2.opb = r.2.opb && q.2.step = r.2.step && q.2.nord = r.2.nord
/-- The core waits for the node of its record in an ASID's trace (R279, R358). -/
def State.traceWaits (s : State) (a : BitVec 12) (c : Fin 128) : State :=
  s.modCore c fun k => if k.traceWait.any fun w => w.1 = a then k else { k with traceWait := k.traceWait ++ [(a, s.time)] }
/-- The cores of a gang of records wait no more. -/
def State.traceGoes (s : State) (a : BitVec 12) (g : List (Nat × TraceRec)) : State :=
  g.foldl (fun s x => s.modCore x.2.core fun k => { k with traceWait := k.traceWait.filter fun w => w.1 ≠ a }) s
/-- Replay nodes of a die with a step to dispatch and no record left (R358, third case). -/
def State.replayEnds (s : State) (h : Fin 4) : State :=
  (s.nodes.filter fun n => n.die = h && s.opbBit n 20 && (s.offer n).isSome && (s.replay n.asid).isEmpty).foldl
    (fun s n => s.traceFail n.asid n.opb 0xFF 0 (s.field (s.trcb n.asid) 0 56 + 32 * s.num (s.trcb n.asid + 20) 4)
      (s.num (s.trcb n.asid + 20) 4) (n.ord.getD 0)) s

end Sys2Proof.Machine
end

