-- ==== Sys2Proof/Machine/Sched.lean ====
section
/-!
DEFINITION. The node schedulers' events: dispatch, activation, the start of a step, saves, the watchdog, replay
(R25, R32, R33, R66, R131 to R134, R179, R268 to R284, R346, R355 to R358, R364).
-/
namespace Sys2Proof.Machine

/-! ## Decisions (R269, R272) -/

/-- Grant claims, of those that the four schedulers make at this device time the first by R272, until scheduler `h` has
none left: another die's next node may claim before it. -/
def State.grantAll (h : Fin 4) : Nat → State → State
  | 0, s => s
  | k + 1, s => match s.claim h, s.bestClaim s.dieClaims with
    | some _, some c => State.grantAll h k (s.dispatch c)
    | _, _ => s
/-- DISPATCH_DECISION (R269): every grant takes one of the 256 context banks or aborts a node that the schedulers hold, so
these rounds are enough. -/
def execDispatchDecision (die : Fin 4) (s : State) : Out :=
  .next (State.grantAll die (256 + s.nodes.length) (s.replayEnds die))

/-- CLUSTER_CLAIM (R272): of the claims at this device time the first is granted, here where it reaches a die's scheduler
for its own clusters; the refused ones search again at their next claim. -/
def execClusterClaim (die : Fin 4) (s : State) : Out :=
  .next (match s.bestClaim s.dieClaims with
    | some c => if c.block.any fun l => coreDie l.core = die then s.dispatch c else s
    | none => s)

/-- NODE_ACTIVATION (R25): the node's first step is dispatched, if its claim is the one its scheduler makes next. -/
def execNodeActivation (a : BitVec 12) (opb : Nat) (s : State) : Out :=
  match s.node a opb with
  | none => .next s
  | some n => .next (match s.bestClaim s.dieClaims with
    | some c => if c.node.asid = a && c.node.opb = opb && s.nodeState n = 1 then s.dispatch c else s
    | none => s)

/-! ## Replay (R279, R358) -/

/-- The traces whose next gang of records has one for core `c`. -/
def State.nextOf (s : State) (c : Fin 128) : List (BitVec 12 × List (Nat × TraceRec)) :=
  s.replaying.filterMap fun a =>
    let g := recordGang (s.replay a)
    if g.any fun r => r.2.core = c then some (a, g) else none

/-- The next gang `g` of the trace of ASID `a`, at core `core`: dispatched once its step is its node's next; a trace that
cannot be followed gives 0x43 (R279, R358). -/
def State.replayGang (s : State) (core : Fin 128) (a : BitVec 12) (g : List (Nat × TraceRec)) : State :=
  match g with
  | [] => s
  | (i, r) :: _ =>
    let block : List CtxId := g.map fun x => ⟨x.2.core, x.2.bank⟩
    if !g.all fun x => s.placeable x.2.core then s.recordFail a i r g.length
    else match s.node a r.opb with
      | none => s.traceWaits a core
      | some n =>
        let reached := match n.ord with
          | some o => o = r.nord
          | none => s.nodeState n = 1 && BitVec.ofNat 32 (s.num (s.trcb a + 0x18) 4) = r.nord
        match s.offer n with
        | none => s.traceWaits a core
        | some o =>
          let c : Claim := ⟨n, o, block⟩
          if !reached then s.traceWaits a core
          else if s.claimStep c ≠ r.step.toNat || block.length ≠ s.gangWidth n then s.recordFail a i r g.length
          else if !block.all fun l => (s.ctx l).stat = .empty then s.traceWaits a core
          else ((s.setNum (s.trcb a + 20) (i + g.length) 4).traceGoes a g).dispatch c
/-- TRACE_REPLAY_DISPATCH (R279): the traces whose next record is the core's. -/
def execTraceReplayDispatch (core : Fin 128) (s : State) : Out :=
  .next ((s.nextOf core).foldl (fun s x => s.replayGang core x.1 x.2) s)

/-- The core has waited for the node of its record in the trace of ASID `a` longer than the ASID's watchdog limit
(R358). -/
def State.traceLate (s : State) (core : Fin 128) (a : BitVec 12) (g : List (Nat × TraceRec)) : State :=
  match g, (s.core core).traceWait.find? fun w => w.1 = a with
  | (i, r) :: t, some w =>
    if s.asidWord a 8 % 2 ^ 17 < s.time - w.2 then (s.traceGoes a ((i, r) :: t)).recordFail a i r (t.length + 1) else s
  | _, _ => s
/-- TRACE_WAIT_TIMEOUT (R358): of the traces whose next record is the core's. -/
def execTraceWaitTimeout (core : Fin 128) (s : State) : Out :=
  .next ((s.nextOf core).foldl (fun s x => s.traceLate core x.1 x.2) s)

/-- TRACE_FULL_CLEAR (R277): while full is 1 Zenhel supplies a new buffer and clears it. -/
def execTraceFullClear (asid : BitVec 12) (base : Nat) (nrec : W32) (s : State) : Out :=
  .next (if s.traceFull asid then
    let cb := s.trcb asid
    (((s.setField cb 0 56 base).setNum (cb + 8) nrec.toNat 4).setNum (cb + 16) 0 4).setField (cb + 0x18) 32 1 0
  else s)

/-! ## Random buffers (R283, R284) -/

/-- Rotate a 32-bit word left. -/
def rotl (x : W32) (k : Nat) : W32 := x.rotateLeft k
/-- One round of gen. -/
def genRound (k : Vector W32 4) (x : Vector W32 4) (r : Nat) : Vector W32 4 :=
  let x0 := x[0] + x[1]
  let x3 := rotl (x[3] ^^^ x0) 16
  let x2 := x[2] + x3
  let x1 := rotl (x[1] ^^^ x2) 12
  let x0 := x0 + x1
  let x3 := rotl (x3 ^^^ x0) 8
  let x2 := x2 + x3
  let x1 := rotl (x1 ^^^ x2) 7
  let key (j : Nat) : W32 := k[Fin.ofNat 4 (j + r)]
  #v[(x0 ^^^ key 0) + BitVec.ofNat 32 (r + 1), x1 ^^^ key 1, x2 ^^^ key 2, x3 ^^^ key 3]
/-- gen (R284). -/
def gen (k : Vector W32 4) (st : W32) (ctr : Word) : List Byte :=
  let y : Vector W32 4 := #v[ctr.truncate 32, (ctr >>> 32).truncate 32, st, 0x5A173C96]
  let x := (List.range 10).foldl (genRound k) y
  leBytes (x[0] + y[0]).toNat 4 ++ leBytes (x[1] + y[1]).toNat 4 ++ leBytes (x[2] + y[2]).toNat 4 ++ leBytes (x[3] + y[3]).toNat 4

/-- The bytes of a buffer of `len` bytes (R283). -/
def State.randomBytes (s : State) (a : BitVec 12) (st : W32) (len : Nat) : List Byte :=
  let w (off i : Nat) : W32 := BitVec.ofNat 32 (s.asidWord a off >>> (32 * i))
  let k : Vector W32 4 := #v[w 0x28 0, w 0x28 1, w 0x30 0, w 0x30 1]
  (List.range (len / 16)).flatMap fun i => gen k st (BitVec.ofNat 64 (s.asidWord a 0x20 + i))
/-- The cells of one buffer, whose OPB words begin at `off`. -/
def State.randomCells (s : State) (n : Node) (off : Nat) : Gate (List Host.Cell) :=
  let len := s.opbField n (off + 8) 0 32
  (s.gate1 n.asid (s.opbField n off 0 56) len ⟨true, false⟩).bind fun ls =>
    .ok (ls.zip (s.randomBytes n.asid (BitVec.ofNat 32 (s.opbField n (off + 8) 32 32)) len))

/-- RANDOM_BUFFER_FILL (R25, R283): both buffers are filled before the node's first step. A buffer that does not
translate waits for Zenhel, or aborts the node with the code of the gate (log entry 21). -/
def execRandomBufferFill (a : BitVec 12) (opb : Nat) (s : State) : Out :=
  match s.node a opb with
  | none => .next s
  | some n => .next (
    if s.nodeState n = 1 && s.opbBit n 22 && !n.rndDone && n.dying.isNone then
      match (s.randomCells n 0x70).bind fun x => (s.randomCells n 0x80).bind fun y => .ok (x ++ y) with
      | .ok cs => (s.plainWrite cs).modNode a opb fun m => { m with rndDone := true }
      | .fault _ => s
      | .fail f => s.abortNode a opb f.code.toNat 0xFF 0 []
    else s)

/-! ## The kernel image (R131 to R134, R364) -/

/-- What a core takes from a kernel image. -/
structure Image where
  kclass : BitVec 4
  dict   : List BundleBits
  stream : List Half
  spad   : List (Nat × List Byte)
  deriving DecidableEq, Repr

/-- The records of a scratchpad image; none if they break R134. `k` bounds their number. -/
def spadRecords : Nat → List Byte → Option (List (Nat × List Byte))
  | 0, bs => if bs.isEmpty then some [] else none
  | k + 1, bs =>
    if bs.isEmpty then some []
    else if bs.length < 8 then none
    else
      let h := leNat (bs.take 8)
      let addr := h % 2 ^ 22
      let len := (h >>> 32) % 2 ^ 23
      let rest := bs.drop 8
      let padded := (len + 7) / 8 * 8
      if (h >>> 22) % 2 ^ 10 ≠ 0 || h >>> 55 ≠ 0 || len = 0 || 0x400000 < addr + len || rest.length < padded then none
      else (spadRecords k (rest.drop padded)).map fun t => (addr, rest.take len) :: t

/-- Split bytes into little-endian numbers of `n` bytes, `k` of them. -/
def numbers (n : Nat) : Nat → List Byte → List Nat
  | 0, _ => []
  | k + 1, bs => leNat (bs.take n) :: numbers n k (bs.drop n)

/-- Bytes of the image; none where they cannot be read. -/
def State.imageBytes (s : State) (a : BitVec 12) (va n : Nat) : Gate (Option (List Byte)) :=
  match s.gate1 a va n ⟨false, false⟩ with
  | .ok ls => .ok (if ls.any s.poisoned then none else some (s.pubBytes ls))
  | .fault f => .fault f
  | .fail _ => .ok none

/-- Two sections share a byte. -/
def sectionsMeet (l : List (Nat × Nat)) : Bool :=
  (List.range l.length).any fun i => (List.range i).any fun j =>
    let x := l.getD i (0, 0)
    let y := l.getD j (0, 0)
    decide (x.1 < y.1 + y.2) && decide (y.1 < x.1 + x.2)

/-- The failure of a kernel image (R362, R364). -/
def imageFail (bad : Nat) : Fail := { code := 0x01, d1 := BitVec.ofNat 64 bad }
/-- Bit `i` of the failing checks. -/
def checkBit (i : Nat) (b : Bool) : Nat := if b then 2 ^ i else 0

/-- A kernel image as a core checks and reads it (R364): `held` is the dictionary if the core already has it (R66), `g`
the OPB's gangw. A read that faults waits for Zenhel (R396). The dictionary and the index stream count among the sections
that may not overlap: DESIGN CHOICE (log entry 52). The scratchpad records are checked beside a failing layout where their
own place in the image is whole. -/
def State.loadImage (s : State) (a : BitVec 12) (base g : Nat) (held : Option (List BundleBits)) : Gate Image :=
  let wait {α : Type} (bad : Nat) (x : Gate (Option α)) (k : Option α → Gate Image) : Gate Image := match x with
    | .ok v => k v
    | .fault _ => .fault (imageFail (bad ||| 8))
    | .fail f => .fail f
  wait 0 (s.imageBytes a base 256) fun hd => match hd with
    | none => .fail (imageFail 8)
    | some hb =>
      let w (o : Nat) : Nat := leNat ((hb.drop o).take 8)
      let lo (o : Nat) : Nat := w o % 2 ^ 32
      let hi (o : Nat) : Nat := w o >>> 32
      let kc := (w 0 >>> 48) % 16
      let kg := (w 0 >>> 52) % 4
      let nd := lo 8
      let ni := hi 8
      let secs := [(0, 256), (hi 0x10, 2 * ni)] ++ ([(lo 0x10, 48 * nd), (lo 0x18, hi 0x18), (lo 0x20, hi 0x20),
        (lo 0x28, hi 0x28)].filter fun x => x.2 ≠ 0)
      let b0 := checkBit 0 (lo 0 ≠ 0x4B525841 || (w 0 >>> 32) % 2 ^ 16 ≠ 1)
      let b1 := checkBit 1 (!Config.acceptedClasses.getLsbD kc)
      let b2 := checkBit 2 (kg = 3 || kg ≠ g)
      let b3 := checkBit 3 (decide (4096 < nd) || ni = 0 || (nd ≠ 0 && lo 0x10 % 16 ≠ 0) || hi 0x10 % 2 ≠ 0 ||
        lo 0x18 % 128 ≠ 0 || lo 0x20 % 65536 ≠ 0 || lo 0x28 % 8 ≠ 0 || sectionsMeet secs ||
        secs.any fun x => decide (2 ^ 56 < base + x.1 + x.2))
      let b4 := checkBit 4 (w 0 >>> 54 ≠ 0 || w 0x30 >>> 23 ≠ 0 || (hb.drop 0x38).any (· ≠ 0))
      let bad := b0 + b1 + b2 + b3 + b4
      wait bad (if hi 0x28 = 0 then .ok (some [])
        else if lo 0x28 % 8 = 0 && decide (base + lo 0x28 + hi 0x28 ≤ 2 ^ 56) then s.imageBytes a (base + lo 0x28) (hi 0x28)
        else .ok none) fun p =>
      let recs := p.bind fun p => spadRecords (p.length / 8) p
      let bad := bad + checkBit 5 (hi 0x28 % 8 ≠ 0 || (p.isSome && recs.isNone))
      if b3 ≠ 0 then .fail (imageFail bad)
      else
        wait bad (match held with
          | some _ => .ok (some [])
          | none => s.imageBytes a (base + lo 0x10) (48 * nd)) fun d =>
        wait bad (s.imageBytes a (base + hi 0x10) (2 * ni)) fun x =>
          match d, x, recs with
          | some d, some x, some recs =>
            if bad ≠ 0 then .fail (imageFail bad)
            else .ok ⟨BitVec.ofNat 4 kc, held.getD ((numbers 48 nd d).map (BitVec.ofNat 384)),
              (numbers 2 ni x).map (BitVec.ofNat 16), recs⟩
          | _, _, _ => .fail (imageFail (bad ||| checkBit 3 (d.isNone || x.isNone || p.isNone)))

/-! ## The start of a step (R32, R33, R66, R179) -/

/-- Some of the bytes lie in a core's scratchpad. -/
def meetsSpad (c : Fin 128) (l : List Span) : Bool :=
  l.any fun x => decide (x.loc < spadLoc c 0 + 2 ^ 22) && decide (spadLoc c 0 < x.loc + x.len)
/-- No engine command of an earlier step still holds bytes of this core's scratchpad: a K command, a queued command of the
matrix path, an O operation (R72, R179). -/
def State.spadQuiet (s : State) (c : CtxId) : Bool :=
  let run := (s.ctx c).run
  !(s.kcmds.any fun k => k.run ≠ run && k.stage ≠ .visible && !k.errored && meetsSpad c.core (k.srcFoot ++ k.dstFoot ++ k.area)) &&
  !(allCtxs.any fun l =>
    let x := s.ctx l
    x.run ≠ run && x.xfoot.any fun q => x.xq.any (·.seq = q.seq) && meetsSpad c.core (q.src ++ q.dst)) &&
  (s.portLocks c.core).isEmpty &&
  -- nor does a close on its way bring bytes here (R75)
  !(s.closing.any fun q => q.ops.any fun p => p.locs.any (ownSpad c.core))

/-- The registers at a step's first bundle (R32). -/
def Ctx.fresh (x : Ctx) (carry : Carry) (arena : Word) (t : Nat) : Ctx := { Ctx.blank with
  sreg := (((((((Ctx.blank.sreg.set 56 (SVal.of x.step)).set 57 (SVal.of (BitVec.ofNat 64 x.lane.val))).set 58
    (SVal.of (BitVec.ofNat 64 x.opb))).set 59 (SVal.of arena)).set 60 (SVal.of carry[0])).set 61 (SVal.of carry[1])).set 62
    (SVal.of carry[2])).set 63 (SVal.of carry[3])
  trapring := x.trapring
  ringQ := x.ringQ
  freed := x.freed
  nextIssue := max x.nextIssue t
  stat := .running
  run := x.run
  asid := x.asid
  opb := x.opb
  step := x.step
  lane := x.lane
  width := x.width
  fields := x.fields
  wdSince := none
  phaseOpen := t }

/-- The lane starts with image `im` (R32, R33, R66, R276, R318). Its index stream is taken whole here; when fetch reads its
halfwords is not given: DESIGN CHOICE (log entry 63). Its phase opens after the device time at which its node
became ready and its predecessors retired (R26, R261). -/
def State.startLane (s : State) (c : CtxId) (n : Node) (carry : Carry) (base : Nat) (im : Image) : State :=
  let x := s.ctx c
  let aw := s.asidWord x.asid
  let y := x.fresh carry (BitVec.ofNat 64 (s.opbField n 0xB8 0 64)) (s.time + 1)
  let s := s.setCtx c { y with
    cr := { y.cr with tenstab := BitVec.ofNat 64 (aw 0x18 % 2 ^ 56) }
    wdLimit := BitVec.ofNat 32 (aw 8 % 2 ^ 17)
    debug := (aw 8 >>> 17) % 2 = 1
    kclass := im.kclass
    ndict := im.dict.length
    stream := im.stream }
  let s := s.modCore c.core fun k => { k with
    dict := k.dict.set c.bank im.dict
    dictOf := k.dictOf.set c.bank (some (x.asid, base)) }
  im.spad.foldl (fun s r => s.plainWrite (cellsAt (spadLoc c.core r.1) r.2)) s

/-- STEP_START (R32): the image is checked and loaded, then the step's first bundle may issue. Every lane's core makes
the check, so a bad image is recorded by each lane (R335, R364). -/
def execStepStart (c : CtxId) (s : State) : Out :=
  let x := s.ctx c
  if x.stat = .loaded && x.wait = .none && s.spadQuiet c then
    match s.getRun x.run, s.node x.asid x.opb with
    | some r, some n =>
      let base := s.opbField n 0x00 0 56
      let k := s.core c.core
      let held := if k.dictOf[c.bank] = some (x.asid, base) then some k.dict[c.bank] else none
      .next (match s.loadImage x.asid base (s.opbField n 0x08 12 2) held with
        | .ok im => s.startLane c n (r.carries.getD x.lane.val (s.opbCarry n)) base im
        | .fault f => s.modCtx c fun y => { y with wait := .fault .fetch f }
        | .fail f =>
          let peers := r.gang.filter fun l => l ≠ c && (s.ctx l).stat = .loaded
          (peers.foldl (fun s l => s.ctxRecord l (preciseWords l .fetch 0 0 0 x.step x.opb f) .nothing) s).trap c .fetch 0 0 0 f)
    | _, _ => .next s
  else .next s

/-! ## Saves (R281, R346, R356, R357) -/

/-- The time of a save is over (R356). -/
def State.saveOver (s : State) (since : Nat) : Bool := decide (Config.saveLimit < s.time - since)
/-- A save of kind `kind` of a bank cannot complete: its time is over, or it meets poison (R356). -/
def State.saveFails (s : State) (c : CtxId) (kind since : Nat) : Bool :=
  s.saveOver since ||
  (if kind = 0 then (s.getRun (s.ctx c).run).any (·.snapBad) else (s.poisonIn (dumpLoc (ctxIdx c).val) 128).isSome)
/-- STEP_SNAPSHOT_SAVE (R346, R356): the save engine has written what it was writing: the snapshot of a restartable step
stands in the journal and its lanes may start; or the dump of a lane held at a BKPT stands in the debug area. -/
def execStepSnapshotSave (c : CtxId) (s : State) : Out :=
  let x := s.ctx c
  .next (match x.save with
    | none => s
    | some (kind, since) =>
      if s.saveFails c kind since then s
      else if x.stat = .snapshot then
        (s.gang c).foldl (fun s l => s.modCtx l fun x => if x.stat = .snapshot then { x with stat := .loaded, save := none } else x) s
      else if x.wait = .bkpt then
        s.drawWord.2.modCtx c fun x => { x with save := none, dump := some (x.dumped (BitVec.ofNat 32 s.drawWord.1)) }
      else s)

/-- SAVE_ABANDON (R356, R357): the save of a bank cannot complete. The lanes wait until what follows its record has been
carried out. Where the journal and the debug area stand is not given (log entry 14). -/
def execSaveAbandon (c : CtxId) (s : State) : Out :=
  let x := s.ctx c
  .next (match x.save with
    | none => s
    | some (kind, since) =>
      if !s.saveFails c kind since then s
      else
        let ws := devWords 0x41 c.core.val x.step x.opb s.drawWord.1 kind 0
        let s := (s.gang c).foldl (fun s l => s.modCtx l fun y =>
          if l = c || (kind = 0 && y.stat = .snapshot) then { y with save := none } else y) s.drawWord.2
        s.devRecord ws (if kind = 0 then .redispatch x.run c.core.val else .recover x.run c.core.val 0x41))

/-- The lane record of lane `j` (R281). -/
def State.laneRecord (s : State) (n : Node) (carry : Carry) : List Byte :=
  let b := leBytes (n.opb + 2 ^ 63) 8 ++ leBytes (s.opbField n 0xA0 0 64) 8 ++
    (carry.toList.flatMap fun w => leBytes w.toNat 8) ++ leBytes s.time 8
  b ++ leBytes (crc32 b) 8
/-- The carries of the lane records (R281). -/
def State.laneCarries (s : State) (n : Node) : List Carry :=
  if s.opbBit n 23 && !n.carries.isEmpty then n.carries else List.replicate (s.gangWidth n) (s.opbCarry n)
/-- The records are written to the save area; none where it is unmapped or poisoned in part (R356). -/
def State.writeLanes (s : State) (n : Node) : Option State :=
  let bs := (s.laneCarries n).flatMap (s.laneRecord n)
  (s.gate1 n.asid (s.opbField n 0x48 0 56) bs.length ⟨true, false⟩).get.bind fun ls =>
    if (s.poisonWrite (ls.zip bs)).isSome then none else some (s.plainWrite (ls.zip bs))

/-- PREEMPTION_SAVE (R280, R281): once the running steps of a pre-empted node have ended, its lane records are
written. The save is abandoned where its time is over or the save area is unmapped or poisoned (R356): the values stay
with the scheduler (R357). -/
def execPreemptionSave (a : BitVec 12) (opb : Nat) (s : State) : Out :=
  match s.node a opb with
  | none => .next s
  | some n =>
    if n.pre = .requested && n.dying.isNone && decide (s.nodeState n ≤ 2) && !s.deciding (.keep a opb) &&
        !s.runs.any fun r => r.asid = a && r.opb = opb then
      .next (match (if s.saveOver n.preSince then none else s.writeLanes n) with
        | some t => t.setPre a opb .saved
        | none => s.devRecord (devWords 0x41 0xFF 0 opb (s.opbField n 0x48 0 56) 1 0) (.keep a opb))
    else .next s

/-! ## Slots and the watchdog (R274, R276, R355) -/

/-- SLOT_BOUNDARY (R274): the entries written since the last boundary take effect. -/
def execSlotBoundary (s : State) : Out :=
  .next (if s.clock % Config.slotCycles = 0 then { s with cfg := { s.cfg with slots := s.cfg.slotsNew } } else s)

/-- The watchdog count at device time `t` (R276). -/
def Ctx.wdCount (x : Ctx) (t : Nat) : Nat := x.wdAcc + (match x.wdSince with
  | some b => t - b
  | none => 0)
/-- The count of a lane has reached its limit. -/
def State.expired (s : State) (c : CtxId) : Bool :=
  let x := s.ctx c
  (x.stat = .running || x.stat = .ending || x.stat = .finished) && decide (x.wdLimit.toNat ≤ x.wdCount s.time)

/-- WATCHDOG_EXPIRY (R355): the step stops and its node is aborted; the record names the lowest lane that expired
(R345). -/
def execWatchdogExpiry (c : CtxId) (s : State) : Out :=
  if s.expired c then
    let l := ((s.gang c).find? s.expired).getD c
    let x := s.ctx l
    .next ((s.stopRun x.run).abortNode x.asid x.opb 0x40 l.core.val x.step
      [devWords 0x40 l.core.val x.step x.opb 0 x.lastPc.toNat x.wdLimit.toNat])
  else .next s

end Sys2Proof.Machine
end

