-- ==== Sys2Proof/Machine/Host.lean ====
section
/-!
DEFINITION. The host and the control cluster: mailboxes, boot, the configuration block, monitors, counters, the standby
core, CXL removal (R300 to R306, R314 to R319, R348, R360, R427).
-/
namespace Sys2Proof.Machine

/-! ## Mailboxes (R303, R304, R427) -/

/-- Change a mailbox. -/
def State.modMail (s : State) (i : Fin 16) (f : Mailbox → Mailbox) : State := { s with mail := s.mail.set i (f s.mail[i]) }
/-- Mailbox `i` joins those that wait for Zenhel: by arrival, then by number (R304). -/
def queueMail (t : Nat) (i : Fin 16) : List (Nat × Fin 16) → List (Nat × Fin 16)
  | [] => [(t, i)]
  | q :: r => if t < q.1 || (t = q.1 && decide (i < q.2)) then (t, i) :: q :: r else q :: queueMail t i r
/-- The host writes word `off` of a mailbox (R303, R304). -/
def State.mailboxWrite (s : State) (i : Fin 16) (off : Nat) (v : Word) : State :=
  if s.mail[i].go then s
  else if off = 0x00 then
    let s := s.modMail i fun m => { m with cmd := v.truncate 8, go := bitAt v 63 }
    if !bitAt v 63 then s
    else if s.boot ≤ 7 then s.modMail i fun m => { m with go := false, status := 0x53 }
    else { s with mbQueue := queueMail s.time i s.mbQueue }
  else if off = 0x08 then s.modMail i fun m => { m with arg0 := v }
  else if off = 0x10 then s.modMail i fun m => { m with arg1 := v }
  else if off = 0x18 then s.modMail i fun m => { m with arg2 := v }
  else s
/-- The host writes bytes of the staging area through BAR2 (R301). -/
def State.stageWrite (s : State) (off : Nat) (bs : List Byte) : State :=
  if off + bs.length ≤ 2 ^ 34 then s.plainWrite (cellsAt (s.staging + off) bs) else s

/-- A word of a mailbox as the host reads it (R4, R303). -/
def State.mailboxRead (s : State) (i : Fin 16) (off : Nat) : Word :=
  let m := s.mail[i]
  if off = 0x00 then BitVec.ofNat 64 (m.cmd.toNat + if m.go then 2 ^ 63 else 0)
  else if off = 0x08 then m.arg0
  else if off = 0x10 then m.arg1
  else if off = 0x18 then m.arg2
  else if off = 0x20 then m.status.zeroExtend 64
  else 0

/-- Zenhel takes the command that is next in order, if it is mailbox `i`'s and has a code that `p` admits: once the device
time of its go is past, so that every go of that time has arrived (R304). Its intent stands in the journal until the
command ends (R360). -/
def State.takeMail (s : State) (i : Fin 16) (p : Byte → Bool) (k : Mailbox → State → State) : Out :=
  let m := s.mail[i]
  .next (if (s.mbQueue.head?.any fun q => q.2 = i && decide (q.1 < s.time)) && m.go && p m.cmd then
    k m { s with
      mbQueue := s.mbQueue.drop 1
      journal := s.journal ++ [⟨i, m⟩] } else s)
/-- A command ends with a status (R303), and its intent has its completion mark (R360). -/
def State.mailDone (s : State) (i : Fin 16) (status : Byte) : State :=
  { s.modMail i fun m => { m with go := false, status := status } with journal := s.journal.filter fun j => j.mb ≠ i }
/-- A command ends with a result in arg2. -/
def State.mailResult (s : State) (i : Fin 16) (v : Word) : State := (s.modMail i fun m => { m with arg2 := v }).mailDone i 0

/-- An ASID argument, if it is one. -/
def asidArg (w : Word) : Option (BitVec 12) := if w.toNat < 4096 then some (w.truncate 12) else none
/-- Numbers of an array of 64-bit words at a virtual address; none where the array is misaligned or unmapped. -/
def State.wordsAt (s : State) (a : BitVec 12) (va n : Nat) : Option (List Nat) :=
  if va % 8 ≠ 0 then none else (s.vaLocs a va (8 * n)).map fun ls => numbers 8 n (s.pubBytes ls)

/-- The roots of a submission that are not live nodes, once each (R20). -/
def State.newRoots (s : State) (a : BitVec 12) (l : List Nat) : List Nat := l.eraseDups.filter fun o => (s.node a o).isNone
/-- Enqueue a root (R20, R24). -/
def State.enqueueRoot (s : State) (n : Node) : State :=
  if s.nodeState n ≠ 0 then s
  else if s.opbField n 0x38 0 32 = 0 then s.makeReady n none
  else { s with nodes := s.nodes ++ [n] }

/-- SUBMIT_GRAPH (R20, R303, R318, R378). -/
def execSubmitGraph (mb : Fin 16) (s : State) : Out :=
  s.takeMail mb (· = 1) fun m s => match asidArg m.arg2 with
    | none => s.mailDone mb 0x52
    | some a =>
      let limit := s.asidWord a 8 % 2 ^ 17
      match s.wordsAt a m.arg0.toNat m.arg1.toNat with
      | none => s.mailDone mb 0x52
      | some roots =>
        if limit = 0 || 95000 < limit then s.mailDone mb 0x52
        else
          let fresh := s.newRoots a roots
          let bad := fresh.filter fun o => (s.checkOpb a o).isNone
          if bad.isEmpty then (((fresh.filterMap (s.checkOpb a)).foldl State.enqueueRoot s)).mailDone mb 0
          else (bad.foldl State.badOpb s).mailDone mb 0x52

/-- LOAD_MODULE (R303): Zenhel maps the module; its base is Zenhel's choice (log entry 14). -/
def execLoadModule (mb : Fin 16) (s : State) : Out :=
  s.takeMail mb (· = 2) fun m s =>
    if (asidArg m.arg1).isNone || 2 ^ 34 ≤ m.arg0.toNat then s.mailDone mb 0x52
    else ({ s with free := s.free + 1 }).mailResult mb (BitVec.ofNat 64 (bits (Config.freeWord s.free) 16 40 * 65536))

/-- Name a node for pre-emption (R280). -/
def State.preempt (s : State) (mb : Fin 16) (n : Node) : State :=
  s.modNode n.asid n.opb fun m => match m.pre with
    | .no => { m with pre := .requested, preMb := [mb], preSince := s.time }
    | .requested => if m.preMb.contains mb then m else { m with preMb := mb :: m.preMb }
    | .saved => m
    | .kept => m
/-- The successors that a node's OPB lists (R21). -/
def State.successors (s : State) (n : Node) : List Nat :=
  (List.range (s.opbField n 0x40 56 8)).filterMap fun i => s.vaNum n.asid (s.opbField n 0x40 0 56 + 8 * i) 8
/-- The OPB addresses reached from a list through the successor lists of nodes that wait or live (R20); `k` bounds the
search. -/
def State.reached (s : State) (a : BitVec 12) : Nat → List Nat → List Nat → List Nat
  | 0, _, seen => seen
  | _, [], seen => seen
  | k + 1, o :: t, seen =>
    if seen.contains o then s.reached a k t seen
    else match (s.node a o).or (s.checkOpb a o) with
      | some n => s.reached a k (if s.nodeState n ≤ 3 then s.successors n ++ t else t) (seen ++ [o])
      | none => s.reached a k t (seen ++ [o])
/-- The nodes of an ASID that wait for predecessors and that no scheduler holds yet: a request for the ASID names them as
well, so that they are held from then on (R280). -/
def State.waitingOf (s : State) (a : BitVec 12) : List Node :=
  let roots := (s.nodes.filter fun n => n.asid = a).map (·.opb)
  (((s.reached a (256 * (s.mem.length + s.nodes.length + 1)) roots []).filter fun o => (s.node a o).isNone).filterMap
    (s.checkOpb a)).filter fun n => s.nodeState n = 0
/-- A node can be pre-empted: it is ready or active (R304). -/
def State.preemptable (s : State) (n : Node) : Bool := n.dying.isNone && (s.nodeState n = 1 || s.nodeState n = 2)

/-- An OPB address argument is aligned and mapped (R304). -/
def State.opbArg (s : State) (a : BitVec 12) (w : Word) : Bool := (s.findOpb a w.toNat).isSome

/-- The effect of PREEMPT_NODE (R280, R303, R304). -/
def State.preemptNode (s : State) (mb : Fin 16) (m : Mailbox) : State := match asidArg m.arg1 with
  | none => s.mailDone mb 0x52
  | some a =>
    if !s.opbArg a m.arg0 then s.mailDone mb 0x52
    else match s.node a m.arg0.toNat with
      | some n => if s.preemptable n then (s.preempt mb n).settlePreempt else s.mailDone mb 0x51
      | none => s.mailDone mb 0x51
/-- The effect of PREEMPT_ASID: every node of the ASID that waits, is ready or is active is named (R280, R303). -/
def State.preemptAsid (s : State) (mb : Fin 16) (m : Mailbox) : State := match asidArg m.arg0 with
  | none => s.mailDone mb 0x52
  | some a =>
    let s := { s with nodes := s.nodes ++ s.waitingOf a }
    ((s.nodes.filter fun n => n.asid = a && n.dying.isNone && decide (s.nodeState n ≤ 2)).foldl
      (fun s n => s.preempt mb n) s).settlePreempt
/-- PREEMPT_NODE (R280, R303). -/
def execPreemptNode (mb : Fin 16) (s : State) : Out := s.takeMail mb (· = 3) fun m s => s.preemptNode mb m
/-- PREEMPT_ASID (R280, R303). -/
def execPreemptAsid (mb : Fin 16) (s : State) : Out := s.takeMail mb (· = 4) fun m s => s.preemptAsid mb m

/-- What a resume reads of lane record `j` (R281, R282). -/
inductive LaneRead
  | absent
  | good (next : Nat) (c : Carry)
  | bad (check : Nat)
  deriving DecidableEq, Repr
/-- Read lane record `j`; one that cannot be read fails its check. -/
def State.readLane (s : State) (n : Node) (j : Nat) : LaneRead :=
  match s.vaLocs n.asid (s.opbField n 0x48 0 56 + 64 * j) 64 with
  | none => .bad 0
  | some ls =>
    let bs := s.pubBytes ls
    let w (o : Nat) : Nat := leNat ((bs.drop o).take 8)
    let check := leNat ((bs.drop 0x38).take 4)
    if w 0 >>> 63 = 0 then .absent
    else if crc32 (bs.take 0x38) ≠ check then .bad check
    else .good (w 8) #v[BitVec.ofNat 64 (w 16), BitVec.ofNat 64 (w 24), BitVec.ofNat 64 (w 32), BitVec.ofNat 64 (w 40)]
/-- The node returns to its queue. -/
def State.unpreempt (s : State) (n : Node) : State := s.setPre n.asid n.opb .no
/-- A lane record fails its check: 0x42, and what chain makes of it (R357). -/
def State.laneBad (s : State) (n : Node) (j check : Nat) : State :=
  let rec42 := devWords 0x42 0xFF 0 n.opb (s.opbField n 0x48 0 56 + 64 * j) 1 check
  if s.opbBit n 23 then s.abortNode n.asid n.opb 0x42 0xFF 0 [rec42]
  else s.devRecord rec42 (.unpreempt n.asid n.opb)
/-- A node whose lane records stand is resumed (R282): the walker goes on from the first valid record, and each lane of a
chain starts with the carries of its own record, or where that is not valid with those it would have had. -/
def State.resume (s : State) (n : Node) : State :=
  let lanes := (List.range (s.gangWidth n)).map fun j => (j, s.readLane n j)
  match lanes.findSome? fun x => match x.2 with
      | .bad c => some (x.1, c)
      | _ => none with
  | some (j, c) => s.laneBad n j c
  | none =>
    let s := match lanes.findSome? fun x => match x.2 with
        | .good k _ => some k
        | _ => none with
      | some k => s.setOpb n 0xA0 0 64 k
      | none => s
    let own := s.laneCarries n
    let carries := lanes.map fun x => match x.2 with
      | .good _ c => c
      | _ => own.getD x.1 (s.opbCarry n)
    (if s.opbBit n 23 then s.modNode n.asid n.opb fun m => { m with carries := carries } else s).unpreempt n
/-- RESUME_NODE (R282, R303, R357). -/
def execResumeNode (mb : Fin 16) (s : State) : Out :=
  s.takeMail mb (· = 5) fun m s => match asidArg m.arg1 with
    | none => s.mailDone mb 0x52
    | some a =>
      if !s.opbArg a m.arg0 then s.mailDone mb 0x52
      else match s.node a m.arg0.toNat with
        | none => s.mailDone mb 0x51
        | some n => match n.pre with
          | .saved => (s.resume n).mailDone mb 0
          -- an abandoned save is written again first (R357)
          | .kept => (((s.writeLanes n).getD s).unpreempt n).mailDone mb 0
          | .requested => s.mailDone mb 0x51
          | .no => s.mailDone mb 0x51

/-- SET_DEBUGGING (R161, R303, R318). -/
def execSetDebugging (mb : Fin 16) (s : State) : Out :=
  s.takeMail mb (· = 6) fun m s => match asidArg m.arg0 with
    | none => s.mailDone mb 0x52
    | some a =>
      if 1 < m.arg1.toNat then s.mailDone mb 0x52
      else (s.setField (bits s.cfg.asidtab 0 52 + 64 * a.toNat + 8) 17 1 m.arg1.toNat).mailDone mb 0
/-- RELEASE_BREAKPOINT (R161, R303): the lanes held at a BKPT on the core go on. -/
def execReleaseBreakpoint (mb : Fin 16) (s : State) : Out :=
  s.takeMail mb (· = 7) fun m s =>
    if 128 ≤ m.arg0.toNat then s.mailDone mb 0x52
    else
      let c := Fin.ofNat 128 m.arg0.toNat
      ((s.bkptEnd ⟨c, 0⟩).bkptEnd ⟨c, 1⟩).mailDone mb 0

/-- Abort one named node; how many were aborted (R303, R343). A successor that waits and that the scheduler does not
hold yet is aborted as it stands in memory. -/
def State.abortOne (s : State) (a : BitVec 12) (opb : Nat) : Nat × State :=
  match s.node a opb with
  | some n => if n.dying.isSome then (0, s) else (1, s.abortNode a opb 0x45 0xFF 0 [])
  | none => match s.findOpb a opb with
    | some n => if s.nodeState n = 0 then (1, ({ s with nodes := s.nodes ++ [n] }).abortNode a opb 0x45 0xFF 0 []) else (0, s)
    | none => (0, s)
/-- ABORT_NODES (R303, R343). -/
def execAbortNodes (mb : Fin 16) (s : State) : Out :=
  s.takeMail mb (· = 8) fun m s => match asidArg m.arg2 with
    | none => s.mailDone mb 0x52
    | some a =>
      if m.arg1 = 0 || 4096 < m.arg1.toNat then s.mailDone mb 0x52
      else match s.wordsAt a m.arg0.toNat m.arg1.toNat with
        | none => s.mailDone mb 0x52
        | some l =>
          if !l.all fun o => (s.findOpb a o).isSome then s.mailDone mb 0x52
          else
            let (k, s) := l.foldl (fun (p : Nat × State) o => let (d, t) := p.2.abortOne a o; (p.1 + d, t)) (0, s)
            s.mailResult mb (BitVec.ofNat 64 k)

/-- Wake the waiters of a future that has been poisoned: steps are dispatched again, a lane that sleeps meets the
poison (R348). -/
def State.poisonWake (s : State) (loc : Nat) : State :=
  let ws := s.waiters.filter fun w => w.loc = loc
  let cs := s.sleepers loc
  let s := ws.reverse.foldl (fun s w => match w.wake with
    | .step r => if w.dead then s else s.requeueStep w.asid w.opb r
    | .lane _ _ => s
    -- the reader on another device is woken on lane 2 (R311)
    | .proxy dev _ => s.sendFlits dev 2 1 .reply) (s.dropList loc)
  cs.foldl (fun s c => match (s.ctx c).wait with
    | .future _ addr _ pc => s.trap c .m 0 pc (s.ctx c).pc { code := 0x32, faddr := addr }
    | _ => s) s
/-- POISON_FUTURE (R303, R304, R348). -/
def execPoisonFuture (mb : Fin 16) (s : State) : Out :=
  s.takeMail mb (· = 9) fun m s => match asidArg m.arg1 with
    | none => s.mailDone mb 0x52
    | some a =>
      if m.arg0.toNat % 16 ≠ 0 then s.mailDone mb 0x52
      else match s.vaLocs a m.arg0.toNat 16 with
        | none => s.mailDone mb 0x52
        | some ls =>
          let loc := ls.headD 0
          if s.byte (loc + 8) ≠ 0 then s.mailDone mb 0x51
          else (((s.unlist loc).setCells ((loc + 8, 2) :: cellsAt (loc + 12) [0, 0, 0, 0])).poisonWake loc).mailDone mb 0

/-- MAILBOX_RESERVED_COMMAND (R303). -/
def execMailboxReservedCommand (mb : Fin 16) (s : State) : Out :=
  s.takeMail mb (fun c => c = 0 || 9 < c.toNat) fun _ s => s.mailDone mb 0x50

/-! ## Boot (R4, R306) -/

/-- MODULE_RESET (R306): everything is as State.reset has it. What the model draws its free values from, and whether the
standby has been used since power came on (R360), outlive it. -/
def execModuleReset (s : State) : Out := .next { State.reset with
  free := s.free
  agenda := s.agenda
  standbyUsed := s.standbyUsed }

/-- Bits [lo+w-1:lo] of a word replaced. -/
def setBits (x : Word) (lo w v : Nat) : Word := BitVec.ofNat 64 (x.toNat - bits x lo w * 2 ^ lo + v % 2 ^ w * 2 ^ lo)
/-- A write to the scheduler configuration block (R317): slot entries wait for the next boundary (R274); hbperiod and
appealmax are fixed from boot stage 7 on. Reserved bits stay zero: DESIGN CHOICE (log entry 42). -/
def SchedCfg.write (c : SchedCfg) (boot off : Nat) (v : Word) : SchedCfg :=
  if off < 0x80 && off % 8 = 0 then
    { c with slotsNew := Vector.ofFn fun i => if i.val / 4 = off / 8 then BitVec.ofNat 16 (bits v (16 * (i.val % 4)) 16) &&& 0x8FFF
      else c.slotsNew[i] }
  else if off = 0x80 then { c with asidtab := BitVec.ofNat 64 (bits v 0 52) }
  else if off = 0x88 then { c with devring := BitVec.ofNat 64 (bits v 0 52) }
  else if off = 0x90 then
    if 7 < boot then c
    else { c with
      hbperiod := if 4096 ≤ bits v 0 32 && bits v 0 32 ≤ 65536 then BitVec.ofNat 32 (bits v 0 32) else c.hbperiod
      appealmax := BitVec.ofNat 4 (bits v 32 4) }
  else if off = 0x98 then { c with enable := bitAt v 0 }
  else if off = 0xA0 then { c with lock := BitVec.ofNat 128 (c.lock.toNat / 2 ^ 64 * 2 ^ 64 + v.toNat) }
  else if off = 0xA8 then { c with lock := BitVec.ofNat 128 (c.lock.toNat % 2 ^ 64 + v.toNat * 2 ^ 64) }
  else c
/-- A word of the block as Zenhel reads it (R4, R317): slot entries as last written (log entry 53). -/
def SchedCfg.read (c : SchedCfg) (off : Nat) : Word :=
  let four (l : Nat → Nat) : Word := BitVec.ofNat 64 (l 0 + l 1 * 2 ^ 16 + l 2 * 2 ^ 32 + l 3 * 2 ^ 48)
  if off % 8 ≠ 0 then 0
  else if off < 0x80 then four fun i => c.slotsNew[Fin.ofNat 64 (off / 2 + i)].toNat
  else if off = 0x80 then c.asidtab
  else if off = 0x88 then c.devring
  else if off = 0x90 then BitVec.ofNat 64 (c.hbperiod.toNat + c.appealmax.toNat * 2 ^ 32)
  else if off = 0x98 then (if c.enable then 1 else 0)
  else if off = 0xA0 then c.lock.truncate 64
  else if off = 0xA8 then (c.lock >>> 64).truncate 64
  else if 0xB0 ≤ off && off < 0xF0 then BitVec.ofNat 64 ((List.range 16).foldl
    (fun n i => n + c.appeals[Fin.ofNat 128 ((off - 0xB0) * 2 + i)].toNat * 2 ^ (4 * i)) 0)
  else if 0x100 ≤ off && off < 0x200 then four fun i => c.health[Fin.ofNat 128 ((off - 0x100) / 2 + i)].toNat
  else 0
/-- Zenhel writes a configuration register (R317). A new heartbeat period numbers the periods anew: every core's open
period is the one that device time now lies in (R409, R412). -/
def State.configure (s : State) (off : Nat) (v : Word) : State :=
  let c := s.cfg.write s.boot off v
  if c.hbperiod = s.cfg.hbperiod then { s with cfg := c }
  else { s with
    cfg := c
    cores := s.cores.map fun (k : CoreSt) => { k with period := s.clock / c.hbperiod.toNat, hbPeriod := none } }
/-- CONFIG_REGISTER_WRITE (R317). -/
def execConfigRegisterWrite (off : Nat) (v : Word) (s : State) : Out := .next (s.configure off v)

/-- What a boot stage establishes (R306). -/
def State.bootStage (s : State) (d : BootData) : State :=
  match s.boot with
  | 3 => { (d.slotmaps.foldl (fun s x => s.modCore x.1 fun k => { k with slotmap := x.2 &&& 0x3FFF }) s) with signature := d.signature }
  | 4 => { s with
    cxl := Vector.ofFn fun i => min ((d.cxl[i.val]?).getD 0) (2 ^ 41)
    hostCxl := d.hostCxl
    nvme := d.nvme }
  | 5 => { s with
    ports := Vector.ofFn fun i => { Port.reset with
      trained := d.ports.getLsbD i.val
      far := (d.far[i.val]?).getD 0 }
    device := if d.ports = 0 then 0 else d.device
    routes := d.routes.filter fun r => d.ports.getLsbD r.2.val }
  | 6 =>
    let s := d.config.foldl (fun s x => s.configure x.1 x.2) s
    let s := s.extWrite d.memory
    let s := d.rings.foldl (fun s x => s.modCtx x.1 fun y => { y with trapring := BitVec.ofNat 64 (bits x.2 0 52) }) s
    { s with
      pool := d.pool
      staging := d.staging
      policy := d.policies.foldl (fun p (x : Nat × BitVec 2) => Sparse.set 0 p x.1 x.2) s.policy }
  | 7 => { s with cfg := { s.cfg with enable := true } }
  | _ => s
/-- BOOT_STAGE_COMPLETE (R306). -/
def execBootStageComplete (d : BootData) (s : State) : Out :=
  .next (if 1 ≤ s.boot && s.boot ≤ 7 then { s.bootStage d with boot := s.boot + 1 } else s)

/-! ## The capability list (R314, R315) -/

/-- A word of BAR0 in the capability list, readable from boot stage 2 on. -/
def State.capability (s : State) (off : Nat) : Word :=
  let hdr (id len next : Nat) : Word := BitVec.ofNat 64 (id + 2 ^ 16 + len * 2 ^ 24 + next * 2 ^ 32)
  let trained := ((List.range 16).filter fun i => s.ports[Fin.ofNat 16 i].trained).length
  if s.boot ≤ 2 then 0
  else if off = 0x100 then hdr 1 1 0x120
  else if off = 0x108 then BitVec.ofNat 64 (Config.steppingLetter + Config.steppingDigit * 2 ^ 8 + Config.nativeClass * 2 ^ 16 +
    Config.acceptedClasses.toNat * 2 ^ 20 + (if 7 < s.boot then 2 ^ 36 else 0))
  else if off = 0x120 then hdr 2 2 0x160
  else if off = 0x128 then 0x3000000000
  else if off = 0x130 then BitVec.ofNat 64 s.cxl[0]
  else if off = 0x138 then BitVec.ofNat 64 s.cxl[1]
  else if off = 0x140 then BitVec.ofNat 64 s.cxl[2]
  else if off = 0x148 then BitVec.ofNat 64 s.cxl[3]
  else if off = 0x160 then hdr 3 1 0x180
  else if off = 0x168 then BitVec.ofNat 64 (trained + s.device.toNat * 2 ^ 16)
  else if off = 0x180 then hdr 4 1 0x1A0
  else if off = 0x188 then BitVec.ofNat 64 ((if s.hostCxl then 1 else 0) + 2 + s.nvme.toNat * 4)
  else if off = 0x1A0 then hdr 5 1 0
  else if off = 0x1A8 then 32
  else 0

/-! ## Monitors and counters (R316, R319) -/

/-- The bin of a sample (R316). -/
def Monitor.bin (m : Monitor) (v : Word) : Fin 16 :=
  Fin.ofNat 16 (Nat.min ((v.toNat - m.lo.toNat) / (if m.width = 0 then 1 else m.width.toNat)) 15)
/-- A monitor takes a sample (R316). -/
def Monitor.sample (m : Monitor) (v : Word) : Monitor :=
  let b := m.bins[m.bin v]
  { m with
    min := if v.ult m.min then v else m.min
    max := if m.max.ult v then v else m.max
    count := m.count + 1
    bins := m.bins.set (m.bin v) (if b = 0xFFFFFFFF then b else b + 1) }
/-- The source code of a monitor is not off (R316). -/
def Monitor.on (m : Monitor) : Bool := decide (1 ≤ m.src.toNat) && decide (m.src.toNat ≤ 4)
/-- Change a monitor. -/
def State.modMon (s : State) (i : Fin 32) (f : Monitor → Monitor) : State := { s with mons := s.mons.set i (f s.mons[i]) }
/-- The value that a monitor's source has for it now, if it has one: source 1 the latency of the core's last copy command
that no sample has taken yet, source 2 the depth of the core's matrix-engine queues, the banks' together. Die temperature
and DRAM traffic are the outside's: `v` (R316; log entry 54). -/
def State.monitorValue (s : State) (m : Monitor) (v : Word) : Option Word :=
  let c := Fin.ofNat 128 m.inst.toNat
  if m.src = 1 then if m.inst.toNat < 128 then (s.core c).copyLat.map (BitVec.ofNat 64) else none
  else if m.src = 2 then
    if m.inst.toNat < 128 then some (BitVec.ofNat 64 ((s.ctx ⟨c, 0⟩).xq.length + (s.ctx ⟨c, 1⟩).xq.length)) else none
  else if m.inst.toNat < 4 then some v else none
/-- MONITOR_SAMPLE (R316): a sample of source 1 is taken once. -/
def execMonitorSample (i : Fin 32) (v : Word) (s : State) : Out :=
  let m := s.mons[i]
  .next (match (if m.on then s.monitorValue m v else none) with
    | none => s
    | some w =>
      let s := s.modMon i fun m => m.sample w
      if m.src = 1 then s.modCore (Fin.ofNat 128 m.inst.toNat) fun k => { k with copyLat := none } else s)
/-- Statistics at zero (R316). -/
def Monitor.clear (m : Monitor) : Monitor := { m with
  min := 0
  max := 0
  count := 0
  bins := Vector.replicate 16 0 }
/-- MONITOR_CLEAR (R316). -/
def execMonitorClear (i : Fin 32) (s : State) : Out := .next (s.modMon i Monitor.clear)
/-- The host writes a monitor word (R316). -/
def State.monitorWrite (s : State) (i : Fin 32) (off : Nat) (v : Word) : State :=
  if off = 0x00 then s.modMon i fun m =>
    let m := { m with
      src := v.truncate 8
      inst := BitVec.ofNat 8 (bits v 8 8) }
    if bitAt v 16 then m.clear else m
  else if off = 0x08 then s.modMon i fun m => { m with
    lo := v.truncate 32
    width := BitVec.ofNat 32 (bits v 32 32) }
  else s
/-- A word of a monitor as the host reads it: clear is write-only and reads 0 (R4, R316). -/
def State.monitorRead (s : State) (i : Fin 32) (off : Nat) : Word :=
  let m := s.mons[i]
  if off = 0x00 then BitVec.ofNat 64 (m.src.toNat + m.inst.toNat * 2 ^ 8)
  else if off = 0x08 then BitVec.ofNat 64 (m.lo.toNat + m.width.toNat * 2 ^ 32)
  else if off = 0x10 then m.min
  else if off = 0x18 then m.max
  else if off = 0x20 then m.count
  else if 0x28 ≤ off && off < 0x68 && off % 8 = 0 then
    BitVec.ofNat 64 (m.bins[Fin.ofNat 16 ((off - 0x28) / 4)].toNat + m.bins[Fin.ofNat 16 ((off - 0x28) / 4 + 1)].toNat * 2 ^ 32)
  else 0
/-- A counter of a core as BAR0 shows it (R319). -/
def State.counter (s : State) (c : Fin 128) (off : Nat) : Word :=
  let p := (s.core c).perf
  let cycles := p.held + (match p.since with
    | some t => s.time - t
    | none => 0)
  BitVec.ofNat 64 (if off = 0x00 then cycles else if off = 0x08 then p.bundles else if off = 0x10 then cycles - p.bundles
    else if off = 0x18 then p.splits else if off = 0x20 then p.branches else if off = 0x28 then p.returns
    else if off = 0x30 then p.switches else 0)
/-- COUNTER_CLEAR (R319). -/
def execCounterClear (core : Fin 128) (s : State) : Out :=
  .next (s.modCore core fun k => { k with perf := ⟨0, k.perf.since.map fun _ => s.time, 0, 0, 0, 0, 0⟩ })

/-! ## The control cluster (R360) and CXL memory (R302) -/

/-- Cycles between two heartbeats of a control core (R360). -/
def controlPeriod : Nat := 19000
/-- CONTROL_HEARTBEAT (R360). -/
def execControlHeartbeat (i : Fin 8) (s : State) : Out := .next { s with ctlBeat := s.ctlBeat.set i s.time }
/-- An intent of the journal is run again: a pre-emption request whose nodes are named has had its effect, so that running
it twice equals running it once (R360). -/
def State.rerun (s : State) (j : Intent) : State :=
  if s.nodes.any fun n => n.preMb.contains j.mb then s
  else if j.cmd.cmd = 3 then s.preemptNode j.mb j.cmd
  else if j.cmd.cmd = 4 then s.preemptAsid j.mb j.cmd
  else s
/-- STANDBY_TAKEOVER (R360): the standby replaces a control core that missed three heartbeats in a row, once per power
cycle, and runs again every intent of the journal without a completion mark. Those are pre-emption requests that wait for
their nodes: every other command ends in the step that takes it. -/
def execStandbyTakeover (i : Fin 8) (s : State) : Out :=
  .next (if !s.standbyUsed && decide (3 * controlPeriod ≤ s.time - s.ctlBeat[i]) then
    s.journal.foldl State.rerun { s with
      standbyUsed := true
      ctlBeat := s.ctlBeat.set i s.time }
  else s)
/-- CXL_DEVICE_REMOVED (R302, R395): the device's range is unpopulated until the next module reset. -/
def execCxlDeviceRemoved (port : Fin 4) (base size : Nat) (s : State) : Out :=
  let lo := 0x1000000000000 + port.val * 0x20000000000
  .next (if lo ≤ base && base + size ≤ lo + s.cxl[port] then { s with removed := s.removed ++ [(base, size)] } else s)

end Sys2Proof.Machine
end

