-- ==== Sys2Proof/Machine/Link.lean ====
section
/-!
DEFINITION. The Plibin link: flits, replay, pause and resume, ports that go down and come back, and the KCPY accesses of
other devices (R307 to R313). What a delivered flit of lane 0 or 3 brings, and what becomes of a KCPY issued here, comes
with the flit; payloads of lanes 1 and 2 act by events of their own (REMOTE_KCPY_ARRIVAL, REMOTE_FUTURE_ACCESS,
REMOTE_FUTURE_ANSWER, REMOTE_WAKE_UP).
-/
namespace Sys2Proof.Machine

/-! ## The receiver (R307, R308, R312) -/

/-- Free flits at which a pause is sent (R308). -/
def pauseAt : Nat := 64
/-- Further flits a sender may start after a pause (R308). -/
def pauseGrace : Nat := 48

/-- An in-sequence flit is delivered; lanes 0 to 2 keep it in the skid buffer (R307, R308). -/
def VLane.deliver (l : VLane) (vl : Fin 4) : VLane :=
  let free := if vl = 3 then l.free else l.free - 1
  { l with
    expect := l.expect + 1
    asked := none
    free := free
    pauseSent := l.pauseSent || (vl ≠ 3 && decide (free ≤ pauseAt)) }
/-- Flits of a lane up to number `seq` have arrived at the far end (R312). -/
def VLane.acked (l : VLane) (seq : Nat) : VLane := { l with sent := l.sent.filter fun x => decide (seq < x.seq) }
/-- The context under which accesses of other devices are logged; their runs are numbers that no step has. -/
def farAccs (run : Nat) (opn : Nat) (cls : Option Nat) (l : List (AKind × Span)) : List Access :=
  l.map fun x => ⟨nobody, run, 0, x.2.name, x.2.loc, x.2.len, x.1, opn, cls⟩
/-- Ranges as spans named by their physical address. -/
def rangeSpans (rs : List (Nat × Nat)) : List Span := rs.map fun r => ⟨BitVec.ofNat 64 r.1, r.1, r.2⟩
/-- What a KCPY of another device does to ranges here. -/
def copyActs (reads writes : List (Nat × Nat)) : List (AKind × Span) :=
  (rangeSpans reads).map (fun x => (AKind.read, x)) ++ (rangeSpans writes).map fun x => (.write, x)
/-- The first flit of a remote KCPY: its accesses here are open from now on, as those of a step of this device (R310). -/
def State.openCopy (s : State) (device : Nat) (reads writes : List (Nat × Nat)) : State :=
  { s with
    nextRun := s.nextRun + 1
    farCopies := s.farCopies ++ [(device, s.nextRun)]
    accs := s.accs ++ farAccs s.nextRun s.time none (copyActs reads writes) }
/-- What a delivered flit brings takes effect (R183, R184, R307, R310, R312). -/
def State.unload (s : State) (port : Fin 16) : FlitLoad → State
  | .none => s
  | .ack vl seq => s.modLane port vl (·.acked seq)
  | .post device asid record rank rbase parties counts => s.farPost device asid record rank rbase parties counts
  | .data asid record rank dest bytes => s.farData asid record rank dest bytes
  | .shown asid record rank => match s.farRecord asid record with
    | some l => s.modFar l rank fun f => { f with visible := true }
    | none => s
  | .fail asid record code => match s.farRecord asid record with
    | some l => s.a2aDrop l (s.num (l + 12) 4) code
    | none => s
  | .copyData id writes => s.modK id fun k => { k with far := k.far ++ writes.flatMap fun w => cellsAt w.addr w.bytes }
  | .copyFail id code => match s.getK id with
    | some k => if k.failed.isSome || k.stage = .visible then s else s.failAll k { code := code }
    | none => s
  | .copyDone device id => s.modK id fun k => { k with homes := k.homes ++ [device] }
  | .copyOpen device reads writes => s.openCopy device reads writes
/-- A flit that its receiver uses up as it is delivered: those of lane 0, and answers to a KCPY issued here. -/
def FlitLoad.consumed (vl : Fin 4) : FlitLoad → Bool
  | .copyData _ _ => true
  | .copyFail _ _ => true
  | .copyDone _ _ => true
  | _ => vl = 0
/-- An acknowledgement, which is not acknowledged in its turn: a later one of lane 3 covers it (log entry 15). -/
def FlitLoad.isAck : FlitLoad → Bool
  | .ack _ _ => true
  | _ => false
/-- What a flit brings. -/
def FlitLoad.ofCheck (c : FlitCheck) : FlitLoad := match c with
  | .whole ld => ld
  | .corrected ld => ld
  | .uncorrectable => .none
/-- FLIT_RECEIVE (R312): a whole or corrected flit is delivered in order and acknowledged on lane 3; one the FEC cannot
correct is discarded and a replay from its number is asked for there. No flit is dropped for lack of space (R308). Flits
that are not consumed at once leave the skid buffer as their events act. -/
def execFlitReceive (port : Fin 16) (vl : Fin 4) (seq : Nat) (chk : FlitCheck) (s : State) : Out :=
  let l := s.ports[port].lanes[vl]
  .next (if !s.ports[port].trained then s
    else if chk = .uncorrectable then (s.modLane port vl fun l => { l with asked := some seq }).sendLink port
    else if seq ≠ l.expect || (vl ≠ 3 && l.free = 0) then s
    else
      let ld := FlitLoad.ofCheck chk
      let t := s.tellSkid (s.modLane port vl (·.deliver vl)) port vl
      let t := if FlitLoad.isAck ld then t else t.sendLink port
      let t := if FlitLoad.consumed vl ld then t.drainPort port vl 1 else t
      t.unload port ld)

/-! ## The sender (R308, R312) -/

/-- PAUSE_FLIT (R308) -/
def execPauseFlit (port : Fin 16) (vl : Fin 3) (s : State) : Out :=
  .next (if !s.ports[port].trained then s
    else s.modLane port (vl.castSucc) fun l => if l.paused then l else { l with
      paused := true
      grace := pauseGrace })
/-- RESUME_FLIT (R308): flits that the pause has held back start. -/
def execResumeFlit (port : Fin 16) (vl : Fin 3) (s : State) : Out :=
  .next (if !s.ports[port].trained then s
    else s.modLane port (vl.castSucc) fun l => ({ l with paused := false } : VLane).startAll l.queue)

/-- What a flit belongs to fails with a link code (R313). -/
def State.failUse (s : State) (code : BitVec 8) : FlitUse → State
  | .command id => match s.getK id with
    | some k => if k.failed.isSome || k.stage = .visible then s else s.failAll k { code := code }
    | none => s
  | .future c => match (s.ctx c).wait with
    | .remote _ _ _ => s.modCtx c fun x => { x with
      wait := .none
      answer := some (.linkError code) }
    | _ => s
  | .reply => s
  | .link => s
  | .other => s
/-- What a port's senders have in flight, each once. -/
def Port.uses (p : Port) : List FlitUse := (p.lanes.toList.flatMap fun l => l.sent.map TxFlit.use).eraseDups

/-- Routes through ports that are down move to the lowest trained port; while there is none they stay where they are and
lead nowhere (R312, R313). -/
def State.moveRoutes (s : State) : State :=
  match (List.finRange 16).find? fun p => s.ports[p].trained with
  | none => s
  | some p => { s with routes := s.routes.map fun r => if s.ports[r.2].trained then r else (r.1, p) }
/-- The class-3 record of a port that goes down (R313, R337). -/
def portWords (port : Fin 16) (far : Half) : List Word :=
  [recWord0 0x55 3 15 0 0 0, 0, 0, 0, BitVec.ofNat 64 port.val, 0, BitVec.ofNat 64 far.toNat]
/-- Locations that this device reaches through a port (R309). -/
def State.behind (s : State) (port : Fin 16) (l : Nat) : Bool := match remoteWindow l with
  | some (dev, _) => s.route dev = some port
  | none => false
/-- A KCPY that has started waits for source bytes or an acknowledgement from a device behind a port (R310). -/
def State.copyOver (s : State) (port : Fin 16) (k : KCmd) : Bool :=
  k.stage ≠ .queued && k.stage ≠ .visible && k.failed.isNone && !k.errored &&
  ((k.srcFoot.any fun x => s.behind port x.loc && !k.farHere) ||
    k.dstFoot.any fun x => s.behind port x.loc && !k.homes.contains (windowDevice x.loc))
/-- What waits for a device behind a port without flits of its own on it: KCPYs, and accesses to remote futures (R310,
R311). -/
def State.waitsOver (s : State) (port : Fin 16) : List FlitUse :=
  (s.kcmds.filter (s.copyOver port)).map (fun k => .command k.id) ++
  ((List.range 256).map fun i => (⟨Fin.ofNat 128 (i / 2), Fin.ofNat 2 i⟩ : CtxId)).filterMap fun c => match (s.ctx c).wait with
    | .remote _ loc _ => if s.behind port loc then some (.future c) else none
    | _ => none
/-- KA2A parties whose round has a party that no trained port leads to any more fail (R313, R405). -/
def State.failCutOff (s : State) : State :=
  s.parties.foldl (fun s f => if s.cutOff f.device then
      match (s.a2aParties f.loc f.round).find? fun k => k.failed.isNone && k.stage ≠ .visible with
      | some k => s.failAll k { code := 0x56 }
      | none => s
    else s) s
/-- Flits that a pause had held back leave by the new route, or fail where there is none (R308, R313). -/
def State.resend (s : State) (vl : Fin 4) (l : List (Nat × FlitUse)) : State :=
  l.foldl (fun s x => if s.cutOff x.1 then s.failUse 0x56 x.2 else s.sendFlits x.1 vl 1 x.2) s
/-- A port goes down (R312, R313). -/
def State.linkDown (s : State) (port : Fin 16) : State :=
  let p := s.ports[port]
  let uses := (p.uses ++ s.waitsOver port).eraseDups
  let s := { s with ports := s.ports.set port { p with
    trained := false
    lanes := Vector.replicate 4 VLane.reset } }
  let s := s.ringDrop s.devRing (portWords port p.far)
  let s := (uses.foldl (fun s u => s.failUse 0x55 u) s).moveRoutes
  ((List.finRange 4).foldl (fun s vl => s.resend vl p.lanes[vl].queue) s).failCutOff
/-- PORT_DOWN (R312, R313) -/
def execPortDown (port : Fin 16) (s : State) : Out :=
  .next (if s.ports[port].trained then s.linkDown port else s)
/-- FLIT_REPLAY (R312, R313): the receiver asks for lane `vl` again from number `seq`, so that the flits before it have
arrived. A flit already replayed 8 times fails what it carries with 0x54, and the port is down. -/
def execFlitReplay (port : Fin 16) (vl : Fin 4) (seq : Nat) (s : State) : Out :=
  .next (match s.ports[port].lanes[vl].sent.find? (·.seq = seq) with
    | none => s
    | some f =>
      if 8 ≤ f.replays then (s.failUse 0x54 f.use).linkDown port
      else s.modLane port vl fun l => { l with
        sent := l.sent.map fun x => if seq ≤ x.seq then { x with replays := x.replays + 1 } else x })
/-- PORT_RETRAINED (R312): a port that was down can carry routes again, with nothing in flight; routes that led nowhere
move to it. -/
def execPortRetrained (port : Fin 16) (s : State) : Out :=
  .next (if s.ports[port].trained then s else ({ s with ports := s.ports.set port { s.ports[port] with
    trained := true
    lanes := Vector.replicate 4 VLane.reset } } : State).moveRoutes)

/-! ## Writes of another device's KCPY (R310) -/

/-- The ranges that writes cover. -/
def extRanges (ws : List ExtWrite) : List (Nat × Nat) := ws.map fun w => (w.addr, w.bytes.length)
/-- REMOTE_KCPY_ARRIVAL (R310): the last flit of a remote KCPY arrives; the first came at device time `q.first`. It
reads and writes here as a step of this device that opens then and closes now; where it conflicts (R257), reads poison or would
write part of a poisoned unit (R341) it applies nothing (R404). Its flits leave the skid buffer, and the answer leaves on
lane 1. -/
def execRemoteKcpyArrival (device : Nat) (q : FarCopy) (s : State) : Out :=
  let cells := q.writes.flatMap fun w => cellsAt w.addr w.bytes
  let opn := min q.first s.time
  let flits := (cells.length + 223) / 224 + if q.reads.isEmpty then 0 else 1
  let run := ((s.farCopies.find? (·.1 = device)).map Prod.snd).getD s.nextRun
  let s := { s with
    nextRun := s.nextRun + 1
    farCopies := s.farCopies.filter fun e => e.2 ≠ run
    accs := s.accs.filter fun a => !(a.owner = nobody && a.run = run) }
  let t := (s.drainFlits device 1 flits).sendFlits device 1 (((q.reads.foldl (fun n r => n + r.2) 0) + 223) / 224 + 1) .reply
  let acts := copyActs q.reads (extRanges q.writes)
  let reads := spanLocs (rangeSpans q.reads)
  let clash := acts.any fun x => !(t.clashes nobody run x.1 x.2.loc x.2.len opn (some t.time)).isEmpty
  .next (if clash || (t.poisonWrite cells).isSome || reads.any t.poisoned then t
    else
      let u := (t.flushLocs reads).plainWrite cells
      { u with accs := t.accs ++ farAccs run opn (some t.time) acts })

end Sys2Proof.Machine
end

