-- ==== Sys2Proof/Machine/MatrixEngine.lean ====
section
/-!
DEFINITION. The matrix engine: barriers, engine steps, verification, correction and replay, completion
(R123, R212 to R214, R234, R381 to R387, R393), and soft errors.
-/
namespace Sys2Proof.Machine

/-! ## Verification (R382) -/

/-- What a verification finds: the accumulator put right, with the row, column and difference logged, or the sizes of I
and J and whether parity failed. -/
inductive Verify
  | clean
  | fixed (a : Acc) (row col : Nat) (delta : W32)
  | bad (rows cols : Nat) (parity : Bool)

/-- Replace a stored word of an accumulator, the hidden ones among them. -/
def Acc.putWord (a : Acc) (i j : Fin 129) (w : W32) : Acc := { a with el := a.el.set i (a.el[i].set j w) }
/-- A stored word. -/
def Acc.word (a : Acc) (i j : Fin 129) : W32 := a.el[i][j]

/-- The parity bits of tag and recorded scale are good (R381). -/
def Acc.sound (a : Acc) : Bool := a.tagOk && a.lsOk

/-- The verdict on an accumulator (R382). -/
def Acc.verify (a : Acc) : Verify :=
  let rows := a.el.toList.map fun r => r.toList
  let vis := (rows.take 128).map (·.take 128)
  let r' := vis.map sum32
  let c' := (List.range 128).map fun j => sum32 (vis.map fun r => r.getD j 0)
  let r := (rows.take 128).map fun r => r.getD 128 0
  let last := rows.getD 128 []
  let x := last.getD 128 0
  let is := (List.range 128).filter fun i => r'.getD i 0 ≠ r.getD i 0
  let js := (List.range 128).filter fun j => c'.getD j 0 ≠ last.getD j 0
  let bad := Verify.bad is.length js.length (!a.sound)
  let put (i j : Nat) (w : W32) : Acc := a.putWord (Fin.ofNat 129 i) (Fin.ofNat 129 j) w
  if !a.sound then bad
  else match is, js with
    | [], [] => if sum32 r' = x then .clean else .fixed (put 128 128 (sum32 r')) 0xFF 0xFF 0
    | [i], [j] =>
      let d := r.getD i 0 - r'.getD i 0
      if last.getD j 0 - c'.getD j 0 = d then .fixed (put i j ((vis.getD i []).getD j 0 + d)) i j d else bad
    | [i], [] => if x = sum32 r' then .fixed (put i 128 (r'.getD i 0)) i 128 (r.getD i 0 - r'.getD i 0) else bad
    | [], [j] => if x = sum32 c' then .fixed (put 128 j (c'.getD j 0)) 128 j 0 else bad
    | _, _ => bad

/-- The words of a 0x11 record (R387). -/
def fixWords (c : CtxId) (x : Ctx) (sl : Slot) (pc : W32) (z : Nat) (read : Bool) (replays row col : Nat) (d : W32) : List Word :=
  [recWord0 0x11 3 sl.code c.core.val c.bank.val 0, BitVec.ofNat 64 pc.toNat, x.step, BitVec.ofNat 64 x.opb, 0,
   BitVec.ofNat 64 (z + (if read then 8 else 0) + replays * 2 ^ 4 + row * 2 ^ 8 + col * 2 ^ 16), BitVec.ofNat 64 d.toNat]
/-- A 0x11 record is logged, and the core counts the correction (R339, R387). -/
def State.logFix (s : State) (c : CtxId) (sl : Slot) (pc : W32) (z : Nat) (read : Bool) (replays row col : Nat) (d : W32) : State :=
  (s.ringDrop (s.ringOf c) (fixWords c (s.ctx c) sl pc z read replays row col d)).modCore c.core fun k =>
    { k with corrections := if k.corrections = 15 then 15 else k.corrections + 1 }
/-- The failure 0x10 (R387). -/
def tileFail (z : Nat) (read : Bool) (replays is js : Nat) (parity : Bool) : Fail :=
  { code := 0x10, d0 := BitVec.ofNat 64 ((z + (if read then 8 else 0) + replays * 2 ^ 4 + is * 2 ^ 8 + js * 2 ^ 16 +
      (if parity then 2 ^ 24 else 0)) * 2 ^ 32) }

/-- Verify accumulators of a context at a read: corrections are made and logged, or the failure 0x10 (R383, R386). -/
def State.verifyRead (s : State) (c : CtxId) (sl : Slot) (pc : W32) : List (Fin 8) → Except (State × Fail) State
  | [] => .ok s
  | z :: t => match ((s.ctx c).zreg[z]).verify with
    | .clean => s.verifyRead c sl pc t
    | .fixed a row col d =>
      ((s.modCtx c fun x => x.putZ z a).logFix c sl pc z.val true 0 row col d).verifyRead c sl pc t
    | .bad is js p => .error (s, tileFail z.val true 0 is js p)

/-- Verify the accumulators an engine step wrote: those corrected, or the one that is uncorrectable (R383). -/
def verifyEnd : List (Fin 8) → Ctx → Except (Fin 8 × Nat × Nat × Bool) (Ctx × List (Nat × Nat × Nat × W32))
  | [], x => .ok (x, [])
  | z :: t, x => match (x.zreg[z]).verify with
    | .clean => verifyEnd t x
    | .fixed a row col d => (verifyEnd t (x.putZ z a)).map fun r => (r.1, (z.val, row, col, d) :: r.2)
    | .bad is js p => .error (z, is, js, p)

/-! ## Soft errors -/

/-- A soft error strikes stored bits (R369, R381). -/
def Ctx.strike (x : Ctx) : SoftTarget → Ctx
  | .accWord z i j w => x.putZ z ((x.zreg[z]).putWord i j ((x.zreg[z]).word i j ^^^ w))
  | .accTag z => x.putZ z { x.zreg[z] with tagOk := false }
  | .accScale z => x.putZ z { x.zreg[z] with lsOk := false }
  | .pivotParity pv => { x with pvreg := x.pvreg.set pv { x.pvreg[pv] with parity := false } }
  | .scalar r w => if r = 0 then x else { x with sreg := x.sreg.set r ⟨x.sreg[r].val ^^^ w, x.sreg[r].res⟩ }

/-- The command at the head of a lane's queue is running (R212). -/
def Ctx.engineRuns (x : Ctx) : Bool := match x.xq with
  | q :: _ => q.busy.isSome && q.bad.isNone && q.waitFault.isNone
  | [] => false
/-- SOFT_ERROR: bits of an accumulator, a pivot vector or a scalar register change while idle, or within the engine step
that is running (R381, R384). -/
def execSoftError (c : CtxId) (during : Bool) (t : SoftTarget) (s : State) : Out :=
  .next (if during && (s.ctx c).engineRuns then s.modCtx c fun x => { x with strikes := x.strikes ++ [t] }
    else s.modCtx c fun x => x.strike t)

/-! ## Commands of a lane's queue (R212, R213, R393) -/

/-- The accumulators a command uses as sources, or accumulates into (R383). -/
def XCmd.sources (q : XCmd) : List (Fin 8) :=
  match q.solve with
  | some v => v.sources
  | none => match q.op with
    | .mmul _ zd _ _ _ st _ => if st && q.kb = 0 then [] else [zd]
    | .mopa _ zd _ _ _ st _ => if st && q.kb = 0 then [] else [zd]
    | .macc _ zd zs _ => [zd, zs]
    | .mscl _ zd _ _ _ => [zd]
    | .mdrn _ _ zs _ _ _ => [zs]
    | .mtrn _ _ zs _ => [zs]
    | .mcopy _ _ zs _ => [zs]
    | .mperm _ zd _ _ _ => [zd]
    | .mnorm _ zs _ _ => [zs]
    | _ => []
/-- The accumulators a command writes (R224). -/
def XCmd.writes (q : XCmd) : List (Fin 8) :=
  match q.solve with
  | some v => v.writes
  | none => match q.op with
    | .mzero _ zd _ => [zd]
    | .mmul _ zd _ _ _ _ _ => [zd]
    | .mopa _ zd _ _ _ _ _ => [zd]
    | .macc _ zd _ _ => [zd]
    | .mscl _ zd _ _ _ => [zd]
    | .mldz _ zd _ _ _ => [zd]
    | .mtrn _ zd _ _ => [zd]
    | .mcopy _ zd _ _ => [zd]
    | .mperm _ zd _ sh _ => if sh.shp ≠ 0 && shapePmode q.shape = 2 then [] else [zd]
    | .mresume _ _ => (unpackSolve q.mseq).writes
    | _ => []

/-- A precise trap of an X command at its issuing bundle (R334, R386). -/
def State.xtrap (s : State) (c : CtxId) (q : XCmd) (f : Fail) : State := s.trap c .x 0 q.pc (s.ctx c).pc f

/-- The command's memory accesses are made: translation, poison, conflicts (R213, R254, R257, R399). -/
def State.enterX (s : State) (c : CtxId) (q : XCmd) : Gate State :=
  if !q.inMemory then .ok s
  else (s.xplan ((s.ctx c).actor c.core) q).bind fun f =>
    let x := s.ctx c
    let foot : Foot := ⟨f.1, f.2, false⟩
    match s.spanPoison f.1 with
    | some e => .fail e
    | none => match s.unordClash c foot q.unord <|> s.looseClash c foot q.loose with
      | some e => .fail e
      | none => match s.touchAs c x.run x.step .read q.opn q.closeAt f.1 q.seq with
        | .error e => .fail e
        | .ok s => match s.touchAs c x.run x.step .write q.opn none f.2 q.seq with
          | .error e => .fail e
          | .ok s => .ok ((((s.flushSpans f.1).modCtx c fun x => { x with xfoot := x.xfoot.map fun (u : XFoot) =>
              if u.seq = q.seq then { u with src := f.1, dst := f.2 } else u })).failLater c x.run q.seq foot)

/-- Accumulators put in place. -/
def Ctx.putZs (x : Ctx) (l : List (Fin 8 × Acc)) : Ctx := l.foldl (fun y e => y.putZ e.1 e.2) x
/-- The work of the next engine step, on the operands `vals` from memory and the accumulators of its context or, in a
replay, those of the operand buffers (R384). -/
def State.workX (s : State) (c : CtxId) (q : XCmd) (buf : List (Fin 8 × Acc)) (vals : List Nat) : Gate XStep :=
  let x := (s.ctx c).putZs buf
  let lift (r : Except Fail XStep) : Gate XStep := match r with
    | .ok t => .ok t
    | .error f => .fail f
  match q.solve with
  | some v => lift (v.run x q s.time)
  | none => match q.op with
    | .mresume .. => .fail { code := 0x18, d0 := BitVec.ofNat 64 (0x0F * 2 ^ 32),
                             d1 := BitVec.ofNat 64 (resumeMask q.mseq q.stale * 2 ^ 32) }
    | .mperm _ zd pv _ _ => lift (mpermStep x q zd pv)
    | .mnorm _ zs _ _ => lift (mnormStep x q zs)
    | _ => s.tileStep (x.actor c.core) (s.look c q.snap) x q vals

/-- The tile that a command writes to memory is in place (R212): in the core's own scratchpad at once, elsewhere with the
lane's next close. A poisoned unit it would cover in part fails it (R341). -/
def State.commitX (s : State) (c : CtxId) (q : XCmd) (cells : List Host.Cell) : Except Fail State :=
  if cells.isEmpty then .ok s
  else
    let foot := ((s.ctx c).xfoot.filter (·.seq = q.seq)).flatMap (·.dst)
    match s.poisonWrite cells with
    | some l => .error (match foot.find? (fun u => u.loc ≤ l && l < u.loc + u.len) with
      | some u => { code := 0x23, faddr := u.name + BitVec.ofNat 64 (l - u.loc) - BitVec.ofNat 64 (l - unitBase l) }
      | none => { code := 0x23 })
    | none =>
      let own (l : Nat) : Bool := spadLoc c.core 0 ≤ l && l < spadLoc c.core 0 + 2 ^ 22
      let far := cells.filter fun e => !own e.1
      let s := s.spadWrite c (cells.filter fun e => own e.1)
      let s := if far.isEmpty then s else s.modCtx c fun x => { x with
        pend := x.pend ++ [⟨.bytes far, (foot.headD ⟨0, 0, 0⟩).name, false, true, some 2⟩] }
      .ok (s.putSnap c (s.ctx c).run q.seq [.bytes cells])

/-- A command has completed: its flags are recorded against its bundle, and the next one starts (R111, R212). A FENCE that
waits for the matrix path may settle. -/
def State.completeX (s : State) (c : CtxId) (q : XCmd) : State :=
  ((s.modCtx c fun x => { (x.raise .x q.pc q.flags) with xq := x.xq.tail }).startX c).settleFence c

/-- What a step writes, taken over into its context. -/
def Ctx.takes (x : Ctx) (r : XStep) : Ctx :=
  let y := x.putZs (r.wrote.map fun z => (z, r.x.zreg[z]))
  { r.pvs.foldl (fun (y : Ctx) (i : Fin 4) => { y with pvreg := y.pvreg.set i r.x.pvreg[i] }) y with cr := r.x.cr }
/-- The accumulator that the record of a pivot vector's parity error names: the one that the step works on. The spec names
none (R387): DESIGN CHOICE (log entry 49). -/
def XStep.about (r : XStep) (q : XCmd) : Fin 8 := (r.wrote ++ q.sources).headD 0
/-- The end of an engine step: what struck it, its verification, and what it leaves (R383, R384, R386). `buf` are the
accumulators of a replay's operand buffers, `vals` the operands from memory. -/
def State.endStep (s : State) (c : CtxId) (q : XCmd) (buf : List (Fin 8 × Acc)) (vals : List Nat) (r : XStep) : State :=
  let x0 := s.ctx c
  let x := { x0.strikes.foldl Ctx.strike (x0.takes r) with strikes := [] }
  let found : Except (Fin 8 × Nat × Nat × Bool) (Ctx × List (Nat × Nat × Nat × W32)) := match verifyEnd r.wrote x with
    | .error e => .error e
    | .ok y => if r.pvs.any fun i => !(y.1.pvreg[i]).parity then .error (r.about q, 0, 0, true) else .ok y
  match found with
  | .error (z, is, js, p) =>
    if q.replays < q.retries then
      (s.modCtx c fun y => { y with
        zreg := x.zreg, pvreg := x.pvreg, strikes := []
        shadow := some ⟨if q.replays = 0 then q.sources.map fun z => (z, x0.zreg[z]) else buf, vals,
          r.wrote.map fun z => (z, x0.zreg[z]), r.pvs.map fun i => (i, x0.pvreg[i])⟩
        }).putHead c { q with bad := some z }
    else (s.modCtx c fun y => { y with strikes := [] }).xtrap c q (tileFail z.val false q.replays is js p)
  | .ok (x, fixes) =>
    match s.commitX c q r.cells with
    | .error f => s.xtrap c q f
    | .ok s =>
      let s := s.modCtx c fun y => { y with zreg := x.zreg, pvreg := x.pvreg, cr := x.cr, sreg := x.sreg, strikes := [], shadow := none }
      let s := fixes.foldl (fun s e => s.logFix c .x q.pc e.1 false 0 e.2.1 e.2.2.1 e.2.2.2) s
      let s := if q.replays = 0 then s
        else s.logFix c .x q.pc (q.mended.getD 0).val false q.replays 0xFF 0xFF 0
      match r.trap with
      | some f => s.xtrap c q f
      | none =>
        if r.fin then s.completeX c r.q
        else s.putHead c { r.q with replays := 0, mended := none, busy := some (s.time + r.q.cycles) }

/-- The engine step of the command at the head of the queue ends; a replay has run on the operand buffers `again` (R383,
R384). -/
def State.runX (s : State) (c : CtxId) (q : XCmd) (again : Option Shadow) : State :=
  match (if again.isSome then .ok s else s.verifyRead c .x q.pc q.sources) with
  | .error (s, f) => s.xtrap c q f
  | .ok s =>
    let first := q.kb = 0 && again.isNone
    match (if first then q.check (s.ctx c) else .ok ()) with
    | .error f => s.xtrap c q f
    | .ok _ => match (if first then s.enterX c q else .ok s) with
      | .fail f => s.xtrap c q f
      | .fault f => s.putHead c { q with waitFault := some f }
      | .ok s =>
        let work : Gate (List Nat × XStep) := match again with
          | some sh => (s.workX c q sh.src sh.vals).bind fun r => .ok (sh.vals, r)
          | none => (s.operands ((s.ctx c).actor c.core) (s.look c q.snap) q).bind fun vals =>
            (s.workX c q [] vals).bind fun r => .ok (vals, r)
        match work with
        | .fail f => s.xtrap c q f
        | .fault f => s.putHead c { q with waitFault := some f }
        | .ok (vals, r) => s.endStep c q ((again.map (·.src)).getD []) vals r

/-- MATRIX_ENGINE_STEP (R212): the engine completes one engine step, or the replay of one (R384), of the command at the
head of a lane's queue. It holds until the step has had its cycles (R252), the banks it touches are free (R72), and the
closes on their way to its bytes have arrived (R75). -/
def execMatrixEngineStep (c : CtxId) (s : State) : Out :=
  .next (match (s.ctx c).xq with
    | [] => s
    | q :: _ =>
      let x := s.ctx c
      let due := match q.busy with
        | some t => decide (t ≤ s.time)
        | none => false
      let foot := (x.xfoot.filter (·.seq = q.seq)).flatMap fun u => u.src ++ u.dst
      if !(s.runLive c x.run && due && q.bad.isNone && q.waitFault.isNone) || s.severed c.core || s.banksLocked c.core q.seq foot ||
          (spanLocs foot).any s.onItsWay then s
      else s.runX c q x.shadow)

/-- MATRIX_STEP_REPLAY (R384): the shadow is restored and the same engine step begins again, on the operand buffers; it
ends with MATRIX_ENGINE_STEP, and soft errors can strike it as any other. -/
def execMatrixStepReplay (c : CtxId) (s : State) : Out :=
  .next (match (s.ctx c).xq, (s.ctx c).shadow with
    | q :: _, some sh =>
      if q.bad.isNone || !s.runLive c (s.ctx c).run || s.severed c.core then s
      else
        (s.modCtx c fun x => sh.pv.foldl (fun (y : Ctx) e => { y with pvreg := y.pvreg.set e.1 e.2 }) (x.putZs sh.z)).putHead c
          { q with bad := none, mended := q.bad, replays := q.replays + 1, busy := some (s.time + q.cycles) }
    | _, _ => s)

/-- The M-slot accesses that a command stays unordered after once its barrier on the word at `loc` is satisfied: all, or
where an M-slot store has set the word, all but the writes issued before that store (R214). -/
def State.leftLoose (s : State) (c : CtxId) (loc : Nat) (loose : List (AKind × Span)) : List (AKind × Span) :=
  let mine (a : Access) : Bool := a.owner = c && a.run = (s.ctx c).run
  let sets (a : Access) : Bool := mine a && a.kind ≠ .read && a.kind ≠ .observe && a.loc ≤ loc && loc < a.loc + a.len
  let after := s.accs.reverse.takeWhile fun a => !sets a
  match (s.accs.reverse.drop after.length).head? with
  | some a => if a.kind = .write then loose.filter fun e => e.1 = .read ||
      after.any fun b => mine b && b.kind = e.1 && b.loc = e.2.loc && b.len = e.2.len
    else loose
  | none => loose

/-- X_BARRIER_SATISFIED (R123, R214): the scratchpad word holds the awaited value, or a router's error word has released
the barrier (R417). The command is ordered after the command that wrote it, or the M-slot writes before the store that did; no phase
opens. -/
def execXBarrierSatisfied (c : CtxId) (s : State) : Out :=
  .next (match (s.ctx c).xq with
    | [] => s
    | q :: _ =>
      let x := s.ctx c
      match q.bar with
      | none => s
      | some (loc, v) =>
        if q.barOk || !s.runLive c x.run || !(s.wordHolds false loc v || (q.barFree && !s.fresh loc 8)) || s.poisoned loc ||
            s.wordWaits c loc then s
        else
          let w := BitVec.ofNat 64 (s.num loc 8)
          let writes (k : KCmd) (p : Option (Nat × Word)) (done : Bool) : Bool := match p with
            | some (l, u) => l = loc && done && (w == u || (k.errored && bitAt w 63))
            | none => false
          let order (u : Nat × Bool) : Option (Nat × Bool) := match s.getK u.1 with
            | some k => if writes k k.visWord k.visDoneWord then none
              else if writes k k.srcWord k.srcDoneWord then some (u.1, false) else some u
            | none => some u
          match s.touchAs c x.run x.step .observe s.time none [⟨BitVec.ofNat 64 ((loc - 2 ^ 52) % 2 ^ 22), loc, 8⟩] with
          | .error f => s.xtrap c q f
          | .ok t =>
            let left := s.leftLoose c loc q.loose
            let seen := (q.loose.filter fun e => !left.contains e).map Prod.snd
            (t.putHead c { q with
              barOk := true
              unord := q.unord.filterMap order
              loose := left
              snap := q.snap.put (q.mops.filter fun o => o.locs.any (inSpans seen)) }).startX c)

end Sys2Proof.Machine
end

