-- ==== Sys2Proof/Machine/Optimiser.lean ====
section
/-!
DEFINITION. The optimiser port: the O slot (R224 to R230).
-/
namespace Sys2Proof.Machine

/-! ## The quotient of OADAM (R226, R227) -/

/-- The exact square root of n * 2^e, where it is rational. -/
def rationalRoot (n : Nat) (e : Int) : Option XV :=
  let m := if e % 2 = 0 then n else 2 * n
  let r := isqrt m
  if r * r = m then some (.fin false r 1 ((e - e % 2) / 2)) else none

/-- |N| / |√Q + D| for finite N, Q > 0 with an irrational root, and D, enclosed at precision `w`: N = nn * 2^ne,
Q = qn * 2^qe, D = ±dn * 2^de with exponents from -298. -/
def quotEncl (nn : Nat) (ne : Int) (qn : Nat) (qe : Int) (dneg : Bool) (dn : Nat) (de : Int) (w : Nat) : Encl :=
  let p := w + 800
  let r := isqrt (shiftUp qn (qe + 2 * (p : Int)))
  let d := shiftUp dn (de + p)
  if !dneg then
    let a := shiftUp nn (ne + (w + p : Nat))
    (a / (r + 1 + d), a / (r + d) + 1)
  else
    -- √Q - |D| = (Q - D²) / (√Q + |D|)
    let q := shiftUp qn (qe + 600)
    let d2 := shiftUp (dn * dn) (2 * de + 600)
    let delta := (q - d2) + (d2 - q)
    let a := shiftUp nn (ne + (w + 600 : Nat))
    (a * (r + d) / (delta * 2 ^ p), a * (r + 1 + d) / (delta * 2 ^ p) + 1)

/-- N / (√Q + D) rounded once to FP32 (R226). -/
def rootQuot (n q d : XV) : W32 × Flags :=
  let rooted (root : XV) : W32 × Flags :=
    let (s, f) := XV.add 0 root d
    let (v, g) := XV.div n s
    let (r, h) := r32 v
    (r, f ||| g ||| h)
  match q with
  | .nan => (nan32, 0)
  | .inf neg => if neg then (nan32, fInv) else rooted (.inf false)
  | .fin neg qn _ qe =>
    if qn = 0 then rooted q
    else if neg then (nan32, fInv)
    else match rationalRoot qn qe with
      | some r => rooted r
      | none => match n, d with
        | .fin nneg nn _ ne, .fin dneg dn _ de =>
          let lower := dneg && cmpMag qn 1 qe (dn * dn) 1 (2 * de) == .lt
          if nn = 0 then (BitVec.ofNat 32 (fp32.signed (nneg != lower) 0), 0)
          else
            let (p, f) := fp32.roundMag 0 false (nneg != lower) (ziv (quotEncl nn ne qn qe dneg dn de) 800)
            (BitVec.ofNat 32 p, f)
        -- beside a NaN or an infinity any positive finite root serves
        | _, _ => match n with
          | .inf _ => match d with
            | .fin dneg dn _ de =>
              let lower := dneg && cmpMag qn 1 qe (dn * dn) 1 (2 * de) == .lt
              r32 (n.withNeg (n.neg != lower))
            | _ => rooted (.fin false 1 1 0)
          | _ => rooted (.fin false 1 1 0)

/-! ## Rows (R224, R226) -/

/-- The number a command issued in this bundle has at least: what other commands locked before it (R224). -/
def State.bundleId (s : State) : Nat :=
  let ks := (s.kcmds.filter fun k => k.owner = s.cur && k.t = s.time).map (·.id)
  let xs := (s.me.xq.filter fun q => q.t = s.time).map (·.seq)
  (ks ++ xs).foldl min s.nextId
/-- An X command of the lane, issued in an earlier bundle and not complete, writes accumulator `z` (R224). -/
def State.zBusy (s : State) (z : Fin 8) : Bool := s.me.xq.any fun q => q.t ≠ s.time && q.writes.contains z

/-- The row checksum of an accumulator holds (R383). -/
def Acc.rowOk (a : Acc) (r : Fin 128) : Bool :=
  let row := (a.el[r.val]'(by omega)).toList
  sum32 (row.take 128) = row.getD 128 0

/-- Read row `r` of accumulator `z` at issue: the stall, and the check of its row sum (R224, R383, R386). -/
def State.gradRow (s : State) (z : Fin 8) (r : Fin 128) (k : Acc → List W32 → State → Res) : Res :=
  if s.zBusy z then .hold s
  else match (if (s.me.zreg[z]).rowOk r then .ok s else s.verifyRead s.cur .o s.me.pc [z]) with
    | .error (_, f) => .fail f
    | .ok s =>
      let a := s.me.zreg[z]
      k a (a.grid.getD r.val []) s

/-- Elements (i, 0) to (i, n-1) of a scratchpad tile: their bytes and patterns, as the O operations before left them
(R72, R254). -/
def State.oRow (s : State) (d : Desc) (i n : Nat) : Gate (List (Word × List Nat) × List Nat) :=
  let a := s.me.actor s.cur.core
  let ps := (List.range n).map fun j => (i, j)
  (s.tileGate a d ⟨true, false⟩ ps).bind fun ls => .ok (ls, tilePats a d (s.me.throughPort s.byte) ps ls)

/-- What the optimiser accepts of weights and of moments (R224, R380). -/
def weightUse : DescUse := ⟨2 ^ 32, 128, true, [1, 2], [0], true⟩
/-- Moments are FP32 (R226). -/
def momentUse : DescUse := ⟨2 ^ 32, 128, true, [1], [0], true⟩
/-- The descriptors of an update: `rows` rows of moments from row `m0` (R380). -/
def optCheck (r : Fin 128) (w : Desc) (wn : Fin 16) (x : Option (Desc × Fin 16 × Nat)) : Except Fail Unit :=
  match useDesc w.sans7 wn weightUse with
  | .error f => .error f
  | .ok _ =>
    if w.rows ≤ r.val then .error (descFail wn.val 1)
    else match x with
      | none => .ok ()
      | some (d, n, last) => match useDesc d.sans7 n momentUse with
        | .error f => .error f
        | .ok _ => if d.rows ≤ last || d.cols < w.cols then .error (descFail n.val 1) else .ok ()

/-- An expression of R226 in exact arithmetic: its value, the flags it raises, and whether an operand is NaN, where it
raises none (R94, R227; log entry 55). -/
structure Exact where
  v   : XV
  f   : Flags
  nan : Bool
/-- An operand. -/
def Exact.of (x : XV) : Exact := ⟨x, 0, x.isNan⟩
/-- A product. -/
def Exact.mul (a b : Exact) : Exact :=
  let (v, f) := XV.mul a.v b.v
  ⟨v, a.f ||| b.f ||| f, a.nan || b.nan⟩
/-- A sum. -/
def Exact.add (a b : Exact) : Exact :=
  let (v, f) := XV.add 0 a.v b.v
  ⟨v, a.f ||| b.f ||| f, a.nan || b.nan⟩
/-- A difference. -/
def Exact.sub (a b : Exact) : Exact := a.add { b with v := b.v.negate }
/-- Its one rounding. -/
def Exact.round (a : Exact) (f : Fmt) : Nat × Flags :=
  let (p, h) := f.round 0 false a.v
  (p, (if a.nan then 0 else a.f) ||| h)
/-- An FP32 operand. -/
def e32 (w : W32) : Exact := .of (f32 w)
/-- An operand that an expression has delivered as an FP32 pattern. -/
def Exact.pat (p : Nat) : Exact := e32 (BitVec.ofNat 32 p)

/-- The gradient element g of R226 and R228. -/
def gradElem (o : Vector W32 8) (s : XV) (z : W32) : W32 × Flags :=
  let (p, f) := XV.mul (f32 z) (f32 o[5])
  let (q, g) := XV.div p s
  let (r, h) := r32 q
  (r, quiet [f32 z, f32 o[5], s] (f ||| g) ||| h)

/-- One column of an update: the new weight, the new moments, and the flags. -/
structure OptCol where
  w  : Nat
  ms : List Nat
  f  : Flags

/-- w - o0 * u rounded to the weight format. -/
def weightStep (o : Vector W32 8) (fw : Fmt) (w u : Exact) : Nat × Flags := (w.sub ((e32 o[0]).mul u)).round fw
/-- OSGD (R226). -/
def sgdCol (o : Vector W32 8) (fw : Fmt) (s : XV) (z : W32) (w : Nat) (_ : List Nat) : OptCol :=
  let (g, f0) := gradElem o s z
  let wv := Exact.of (fw.dec w)
  let (u, f1) := ((e32 g).add ((e32 o[4]).mul wv)).round fp32
  let (w', f2) := weightStep o fw wv (.pat u)
  ⟨w', [], f0 ||| f1 ||| f2⟩
/-- OMOM (R226). -/
def momCol (o : Vector W32 8) (fw : Fmt) (s : XV) (z : W32) (w : Nat) (ms : List Nat) : OptCol :=
  let (g, f0) := gradElem o s z
  let wv := Exact.of (fw.dec w)
  let (u, f1) := ((e32 g).add ((e32 o[4]).mul wv)).round fp32
  let (m, f2) := (((e32 o[1]).mul (.pat (ms.getD 0 0))).add (.pat u)).round fp32
  let (w', f3) := weightStep o fw wv (.pat m)
  ⟨w', [m], f0 ||| f1 ||| f2 ||| f3⟩
/-- OADAM (R226). -/
def adamCol (o : Vector W32 8) (fw : Fmt) (s : XV) (z : W32) (w : Nat) (ms : List Nat) : OptCol :=
  let (g, f0) := gradElem o s z
  let wv := Exact.of (fw.dec w)
  let one := e32 one32
  let gv := e32 g
  let (m, f1) := (((e32 o[1]).mul (.pat (ms.getD 0 0))).add ((one.sub (e32 o[1])).mul gv)).round fp32
  let (v, f2) := (((e32 o[2]).mul (.pat (ms.getD 1 0))).add (((one.sub (e32 o[2])).mul gv).mul gv)).round fp32
  let n := (Exact.pat m).mul (e32 o[6])
  let q := (Exact.pat v).mul (e32 o[7])
  let (e, f3) := rootQuot n.v q.v (f32 o[3])
  let (w', f4) := weightStep o fw wv ((e32 e).add ((e32 o[4]).mul wv))
  ⟨w', [m, v], f0 ||| f1 ||| f2 ||| (if n.nan || q.nan || (f32 o[3]).isNan then 0 else n.f ||| q.f ||| f3) ||| f4⟩

/-- The access of an O operation to rows of scratchpad tiles: poison, bank locks, conflicts (R224, R254, R257). -/
def State.oTouch (s : State) (k : AKind) (l : List Span) (go : State → Res) : Res :=
  -- closes of cluster peers arrive first (R37, R75)
  if s.waits (spanLocs l) then .hold s
  else match s.spanPoison l with
  | some f => .fail f
  | none =>
    if s.banksLocked s.cur.core s.bundleId l then .hold s
    else .need (s.touchAs s.cur s.me.run s.me.step k s.me.phaseOpen none l) go

/-- Update row `r`: weights, and moments of rows `mrows` of dX; every result lands at latency 4 (R224, R226). -/
def State.optimise (s : State) (z : Fin 8) (r : Fin 128) (wn : Fin 16) (x : Option (Fin 16 × List Nat))
    (col : Vector W32 8 → Fmt → XV → W32 → Nat → List Nat → OptCol) : Res :=
  let w := s.me.dreg[wn]
  let xd := x.map fun e => s.me.dreg[e.1]
  let ext := match x, xd with
    | some e, some d => some (d, e.1, e.2.foldl max 0)
    | _, _ => none
  .need (optCheck r w wn ext) fun _ => s.gradRow z r fun a row s =>
    let xt := match xd with
      | some d => [d.tag]
      | none => []
    .need (checkAll [a.typed, trackAcc (w.tag :: xt) (a.tag :: w.tag :: xt)]) fun _ =>
      let n := w.cols
      let mr : Gate (List (List (Word × List Nat) × List Nat)) := match x, xd with
        | some e, some d => gateAll (fun i => s.oRow d i n) e.2
        | _, _ => .ok []
      match (s.oRow w r.val n).bind fun wr => mr.bind fun ms => .ok (wr, ms) with
      | .fail f => .fail f
      | .fault f => .fail f
      | .ok (wr, ms) => s.oTouch .write (spansOf (wr.1 ++ ms.flatMap Prod.fst)) fun t =>
        let o := t.me.oreg
        let fw := (fmtOf w.fmt).getD fp32
        let sc := f32 (a.ls.getD one32)
        let cols := (List.range n).map fun j =>
          col o fw sc (row.getD j 0) (wr.2.getD j 0) (ms.map fun m => m.2.getD j 0)
        let put (ls : List (Word × List Nat)) (ps : List Nat) : List Host.Cell :=
          (List.zipWith (fun (l : Word × List Nat) p => l.2.zip (leBytes p l.2.length)) ls ps).flatten
        let mcells := (ms.zip (List.range ms.length)).flatMap fun m => put m.1.1 (cols.map fun c => c.ms.getD m.2 0)
        .done (t.land .o 4 [.spad (mcells ++ put wr.1 (cols.map (·.w)))] none (cols.foldl (fun f c => f ||| c.f) 0))

/-- OSGD (R226) -/
def execOsgd (p : Fin 64) (z : Fin 8) (row : Fin 128) (dw : Fin 16) (s : State) : Out :=
  s.slotOp .o p (s.optimise z row dw none sgdCol)
/-- OMOM (R226) -/
def execOmom (p : Fin 64) (z : Fin 8) (row : Fin 128) (dw dx : Fin 16) (s : State) : Out :=
  s.slotOp .o p (s.optimise z row dw (some (dx, [row.val])) momCol)
/-- OADAM (R226) -/
def execOadam (p : Fin 64) (z : Fin 8) (row : Fin 128) (dw dx : Fin 16) (s : State) : Out :=
  s.slotOp .o p (s.optimise z row dw (some (dx, [2 * row.val, 2 * row.val + 1])) adamCol)

/-! ## Clipping, loading, sums of squares (R228 to R230) -/

/-- The clipping factor (R229). -/
def clipFactor (a b : W32) : W32 × Flags :=
  let x := f32 a
  let y := f32 b
  if y.isNan || x.isNan then (nan32, 0)
  else if (x.neg && !x.isZero) || (y.neg && !y.isZero) then (nan32, fInv)
  else if y.isZero || XV.le y (XV.mul x x).1 then (one32, 0)
  else match y, x with
    | .fin _ m c g, .fin _ n d e =>
      let (p, f) := fp32.divSqrt 0 (false, n, d, e) (m, c, g)
      (BitVec.ofNat 32 p, f)
    | _, _ => (0, 0)
/-- OCLIP (R229) -/
def execOclip (p : Fin 64) (d a b : Fin 8) (s : State) : Out :=
  s.slotOp .o p (
    let (c, f) := clipFactor s.me.oreg[a] s.me.oreg[b]
    .done (s.land .o 4 [.o d c] (latchS (c.zeroExtend 64)) f))

/-- OSCL (R230). That dS.f0 + 32n is taken modulo 2^64 before its range is checked is a DESIGN CHOICE (log entry 50). -/
def execOscl (p : Fin 64) (ds : Fin 16) (n : Fin 128) (s : State) : Out :=
  let a := s.me.dreg[ds].base + BitVec.ofNat 64 (32 * n.val)
  s.slotOp .o p (
    if misaligned a 32 then .fail (alignFail a)
    else match gate0 s.cur.core (a.toNat : Int) 32 with
      | .fail f => .fail f
      | .fault f => .fail f
      | .ok ls => s.oTouch .read (spansOf [(a, ls)]) fun t =>
        .done (t.land .o 4 ((List.range 8).map fun i =>
          .o (Fin.ofNat 8 i) (BitVec.ofNat 32 (leNat (((ls.drop (4 * i)).take 4).map (t.me.throughPort t.byte))))) none 0))

/-- The contribution of OGSQ: a commutative update on the matrix path, published at the lane's close (R171, R228). In space
2 the element stands at the descriptor's origin (R69). -/
def State.contribute (s : State) (d : Desc) (v : W32) (go : State → Res) : Res :=
  let a := s.me.actor s.cur.core
  let at0 := d.pos a.fields a.step 0 0
  let x : Int := spaceAddr d.space d.base (if d.space = 2 then d.offset 1 at0.1 at0.2 else 0)
  if d.base = 0 then go s
  else if x % 4 ≠ 0 then .fail (alignFail (d.flatName x))
  else match s.spaceGate a d.space d.base x 4 ⟨true, false⟩ with
    | .fail f => .fail f
    | .fault f => s.faultHold .o f
    | .ok l =>
      let upd : Pend := ⟨.upd (l.headD 0) .sum 1 (v.zeroExtend 64), d.flatName x, true, false, some 2⟩
      let spans := spansOf [(d.flatName x, l)]
      -- commands of the matrix path before it that write the element have written it first (R254)
      let behind := s.me.xq.any fun q => q.t ≠ s.time &&
        ((s.me.xfoot.filter (·.seq = q.seq)).any fun u => (spanMeet u.dst spans).isSome)
      if s.waits l || behind then .hold s
      else match (s.view s.cur).refusePend upd with
      | some f => .fail f
      | none =>
        let unord := (s.kcmds.filter fun k => k.owner = s.cur && k.run = s.me.run && !k.seenVis && decide (k.id < s.bundleId)).map
          fun k => (k.id, !k.seenSrc)
        match s.unordClash s.cur ⟨[], spans, true⟩ unord <|> s.looseClash s.cur ⟨[], spans, true⟩ s.me.mfoot with
        | some f => .fail f
        | none => .need (s.touchAs s.cur s.me.run s.me.step .update s.me.phaseOpen none spans) fun t =>
          go (({ t with nextId := t.nextId + 1 } : State).modMe fun (c : Ctx) => { c with
            pend := c.pend ++ [{ upd with sure := true }]
            xfoot := c.xfoot ++ [⟨t.nextId, [], spans, true⟩] })
/-- OGSQ (R228): the contribution is made at issue, q5 at latency 4. Of dX only the fields in use are checked: f2, f5 and
f6 place an element of an arena only (R69, R370). That dX, a destination that is not read, does not enter the checks of
formats, versions and provenance is a DESIGN CHOICE (R99, R380; log entry 59). -/
def execOgsq (p : Fin 64) (z : Fin 8) (row : Fin 128) (dx : Fin 16) (s : State) : Out :=
  let d := s.me.dreg[dx]
  s.slotOp .o p <| .need (useDesc (if d.space = 2 then d.sans7 else d.sans7.linear) dx ⟨2 ^ 32, 2 ^ 32, false, List.range 13, [1, 2], false⟩) fun _ =>
    s.gradRow z row fun a r s => .need a.typed fun _ =>
      let gs := r.map (gradElem s.me.oreg (f32 (a.ls.getD one32)))
      let ps := gs.map fun g => mul32 g.1 g.1
      let (ss, f) := treeReduce add32 (ps.map Prod.fst)
      let f := gs.foldl (fun f g => f ||| g.2) (ps.foldl (fun f g => f ||| g.2) f)
      s.contribute d ss fun t => .done (t.land .o 4 [] (latchS (ss.zeroExtend 64)) f)

end Sys2Proof.Machine
end

