-- ==== Sys2Proof/Machine/Vote.lean ====
section
/-!
DEFINITION. Neighbour voting and fencing: heartbeats, accusations, votes and quorum, fences, self-test, appeal and
reinstatement (R14, R409 to R421). A flit a core sends joins the agenda as the receiving event; when it arrives is the
agenda's.
-/
namespace Sys2Proof.Machine

/-! ## The mesh (R14, R410) -/

/-- The neighbour of a core in direction `d`: 0 +x, 1 -x, 2 +y, 3 -y. -/
def neighbour (c : Fin 128) (d : Fin 4) : Option (Fin 128) :=
  let x := c.val % 16
  let y := c.val / 16
  match d with
  | 0 => if x < 15 then some (Fin.ofNat 128 (c.val + 1)) else none
  | 1 => if 0 < x then some (Fin.ofNat 128 (c.val - 1)) else none
  | 2 => if y < 7 then some (Fin.ofNat 128 (c.val + 16)) else none
  | 3 => if 0 < y then some (Fin.ofNat 128 (c.val - 16)) else none
/-- The four directions. -/
def dirs : List (Fin 4) := [0, 1, 2, 3]
/-- The neighbours of a core, by direction. -/
def neighbours (c : Fin 128) : List (Fin 128) := dirs.filterMap (neighbour c)
/-- The direction in which core `a` is a neighbour of core `c`. -/
def dirTo (c a : Fin 128) : Option (Fin 4) := dirs.find? fun d => neighbour c d = some a
/-- The direction a flit sent in direction `d` arrives from. -/
def facing (d : Fin 4) : Fin 4 := match d with
  | 0 => 1
  | 1 => 0
  | 2 => 3
  | 3 => 2

/-! ## Flits (R410) -/

/-- The CRC of a flit (R410). -/
def flitCrc (f : NFlit) : Nat := crc32 ([f.w0, f.w1, f.w2].flatMap fun w => leBytes w.toNat 8)
/-- A flit with its CRC. -/
def mkFlit (w0 w1 w2 : Nat) : NFlit :=
  let f : NFlit := { w0 := BitVec.ofNat 64 w0, w1 := BitVec.ofNat 64 w1, w2 := BitVec.ofNat 64 w2, w3 := 0 }
  { f with w3 := BitVec.ofNat 64 (flitCrc f) }
/-- The CRC holds (R412). -/
def flitGood (f : NFlit) : Bool := bits f.w3 0 32 = (flitCrc f)
/-- Its type. -/
def flitType (f : NFlit) : Nat := bits f.w0 0 4
/-- The sender of types 1 and 4, the voter of type 2, the sealing or reinstating core of types 3 and 5. -/
def flitFrom (f : NFlit) : Nat := bits f.w0 8 8
/-- The accused of type 2, the fenced core of types 3 and 5. -/
def flitAbout (f : NFlit) : Fin 128 := Fin.ofNat 128 (bits f.w0 16 8)
/-- The fence epoch of types 3 and 5. -/
def flitEpoch (f : NFlit) : Half := BitVec.ofNat 16 (bits f.w0 32 16)
/-- The reserved bits of a type 1 or type 4 flit are zero. -/
def flitClear14 (f : NFlit) : Bool :=
  bits f.w0 4 4 = 0 && bits f.w0 58 6 = 0 && bits f.w2 32 32 = 0 && bits f.w3 32 32 = 0 && ((flitType f) = 4 || bits f.w2 0 32 = 0)
/-- The zero bits of a type 2, 3 or 5 flit are zero, and its cores exist. -/
def flitClear235 (f : NFlit) : Bool :=
  bits f.w0 4 4 = 0 && bits f.w0 15 1 = 0 && bits f.w0 23 1 = 0 && bits f.w0 48 16 = 0 && f.w2 = 0 && bits f.w3 32 32 = 0 &&
  (if (flitType f) = 2 then bits f.w0 27 21 = 0 else bits f.w0 24 8 = 0)

/-- An event joins the agenda. -/
def State.send (s : State) (i : Instr) : State := { s with agenda := s.agenda ++ [.act i] }
/-- Cycles of a heartbeat period (R409). -/
def State.hb (s : State) : Nat := s.cfg.hbperiod.toNat
/-- Heartbeat periods until device time wraps (R8, R409). -/
def State.hbPeriods (s : State) : Nat := (2 ^ 64 + s.hb - 1) / s.hb
/-- The periods that a core has open as a receiver and that are over (R412). -/
def State.periodsOver (s : State) (c : Fin 128) : Nat :=
  let now := s.clock / s.hb
  let k := (s.core c).period
  if k ≤ now then now - k else if s.time < 2 ^ 64 then 0 else now + s.hbPeriods - k
/-- A neighbour that is not fenced, as core `c` knows it (R413). -/
def State.liveTo (s : State) (c n : Fin 128) : Bool := !(s.core c).fencedView.getLsbD n.val
/-- Change what a core keeps of its neighbour in a direction. -/
def State.modLink (s : State) (c : Fin 128) (d : Fin 4) (f : NLink → NLink) : State :=
  s.modCore c fun k => { k with links := k.links.set d (f k.links[d]) }

/-! ## Sending (R409 to R411) -/

/-- The accusations a core's heartbeats carry. -/
def CoreSt.accuse (k : CoreSt) : Nat := dirs.foldl (fun n d =>
  n + (if k.links[d].silence then 2 ^ (2 * d.val) else 0) + (if k.links[d].babble then 2 ^ (2 * d.val + 1) else 0)) 0
/-- The state a core's heartbeats carry. -/
def SelfState.code : SelfState → Nat
  | .normal => 0 | .fenced => 1 | .testing => 2
/-- A core's health summary (R411); the temperature band is a free value (log entry 14). -/
def CoreSt.summary (k : CoreSt) (band : Nat) : Nat :=
  k.residues.toNat + k.corrections.toNat * 2 ^ 4 + k.uncorrectables.toNat * 2 ^ 8 + band % 4 * 2 ^ 12
/-- HEARTBEAT_SEND (R409): once a period, in its first 256 cycles, one heartbeat on each link that is not closed. -/
def execHeartbeatSend (core : Fin 128) (s : State) : Out :=
  let k := s.core core
  let p := s.clock / s.hb
  .next (if s.clock % s.hb < 256 && k.hbPeriod ≠ some p then
    let h := k.summary (Config.freeWord s.free).toNat
    let f := mkFlit (1 + core.val * 2 ^ 8 + k.hbSeq.toNat * 2 ^ 16 + h * 2 ^ 32 + k.accuse * 2 ^ 48 + k.self.code * 2 ^ 56) s.clock 0
    let s := { s with
      free := s.free + 1
      cfg := { s.cfg with health := s.cfg.health.set core (BitVec.ofNat 16 h) } }
    let s := s.modCore core fun k => { k with
      hbSeq := k.hbSeq + 1
      hbPeriod := some p
      residues := 0
      corrections := 0
      uncorrectables := 0 }
    dirs.foldl (fun s d => match neighbour core d with
      | some n => if k.links[d].closed then s else s.send (.heartbeatReceive n (facing d) { f with hop := some (facing d) })
      | none => s) s
  else s)

/-! ## Votes (R413) -/

/-- Votes of one voter and reason. -/
def addVote (v : Vote) (withdraw : Bool) (l : List Vote) : List Vote :=
  let rest := l.filter (· ≠ v)
  if withdraw then rest else v :: rest
/-- A vote of a core about its neighbour, or its withdrawal, goes to every other live neighbour of that core and into the
core's own count (R413). -/
def State.voteOut (s : State) (c a : Fin 128) (reason : BitVec 2) (withdraw : Bool) : State :=
  let f := mkFlit (2 + c.val * 2 ^ 8 + a.val * 2 ^ 16 + reason.toNat * 2 ^ 24 + (if withdraw then 2 ^ 26 else 0)) s.time 0
  let s := (neighbours a).foldl (fun s n => if n ≠ c && s.liveTo c n then s.send (.voteReceive n f) else s) s
  s.modCore c fun k => { k with votes := addVote ⟨c, a, reason⟩ withdraw k.votes }

/-! ## Fences: what a notice does (R415 to R418, R421) -/

/-- The words of a record 0x47 (R421). -/
def fenceWords (fenced : Fin 128) (kind : Nat) (by' : Nat) (reason : Nat) (epoch : Half) (t : Nat) : List Word :=
  [recWord0 0x47 5 15 fenced.val 0 0, 0, 0, 0, 0,
   BitVec.ofNat 64 (kind + by' * 2 ^ 2 + reason * 2 ^ 10 + epoch.toNat * 2 ^ 12), BitVec.ofNat 64 t]
/-- The KA2A round that a command is a party of: the one it has posted in, or the current one, unless its earlier command
stands in that (R184). -/
def State.roundOf (s : State) (k : KCmd) : Option (Nat × Nat) :=
  if k.posted then some (k.ringLoc, k.round)
  else match k.op, s.a2aLoc k 0 0x40 with
    | .ka2a .., .ok l => if k.errored || k.dead || k.stage = .visible || s.a2aLater k then none else some (l, s.num (l + 12) 4)
    | _, _ => none
/-- Commands of other cores that meet the fence fail, and every round in which the fenced core is a party (R417). -/
def State.orphan (s : State) (a : Fin 128) : State :=
  let rounds := ((s.kcmds.filter fun k => k.owner.core = a).filterMap s.roundOf).eraseDups
  let s := rounds.foldl (fun s r => (s.a2aDrop r.1 r.2 0x37).tellAll 1 .reply) s
  s.kcmds.foldl (fun s k =>
    if k.owner.core ≠ a && k.stage ≠ .visible && k.stage ≠ .queued && k.failed.isNone && !k.errored && !k.dead then
      match s.fenceFail k k.foot with
      | some f => s.failAll k f
      | none => s
    else s) s
/-- Every step with a lane on the core stops (R418). -/
def State.fenceSteps (s : State) (a : Fin 128) : State :=
  ([0, 1] : List (Fin 2)).foldl (fun s b =>
    let x := s.ctx ⟨a, b⟩
    if x.stat = .empty then s else s.stopRun x.run) s
/-- A fence is sealed at this device time, T_s: from the first seal on the core's engine commands have ended, with every
held effect discarded, and what meets the fence fails (R416, R417). -/
def State.sever (s : State) (a sealer : Fin 128) (reason : Nat) : State :=
  let first := (s.core a).cut.isEmpty
  let s := s.modCore a fun k => { k with cut := k.cut ++ [⟨sealer, reason, s.time⟩] }
  if first then State.orphan { s with kcmds := s.kcmds.map fun (k : KCmd) => if k.owner.core = a then { k with held := [] } else k } a
  else s
/-- The scheduler of the fenced core's die acts on a notice, once: the record, then the recovery of the core's steps (R334,
item 6; R415 to R418). Writes that the die still holds are discarded. -/
def State.fenceCore (s : State) (a : Fin 128) (sealer reason : Nat) (epoch : Half) (t : Nat) : State :=
  let s := { s with
    fenced := setBit s.fenced a.val true
    epochs := s.epochs.set a epoch
    closing := s.closing.filter fun q => q.owner.core ≠ a }
  let s := s.modCore a fun k => { k with self := .testing }
  let s := s.orphan a
  let s := { s with kcmds := s.kcmds.filter fun k => k.owner.core ≠ a }
  ((s.fenceSteps a).devRecord (fenceWords a 0 sealer reason epoch t) (.fence a)).settleAborts
/-- The reason for which a core sealed a fence, at T_s (R421); of a seal that no core here made it is a free value. -/
def State.sealReason (s : State) (a : Fin 128) (sealer : Nat) : Nat × State :=
  match (s.core a).cut.find? fun q => q.by'.val = sealer with
  | some q => (q.reason, s)
  | none => let (v, s) := s.draw; (1 + v % 2, s)
/-- A notice is forwarded once on every open link (R415). -/
def State.flood (s : State) (c : Fin 128) (f : NFlit) (i : Fin 128 → NFlit → Instr) : State :=
  dirs.foldl (fun s d => match neighbour c d with
    | some n => if (s.core c).links[d].closed then s else s.send (i n { f with hop := some (facing d) })
    | none => s) s
/-- FENCE_NOTICE (R415): the core closes its link to the fenced core, or routes around it, and forwards the notice; on the
fenced core's die the scheduler acts on it once. -/
def State.noticeFence (s : State) (c : Fin 128) (f : NFlit) : State :=
  let a := (flitAbout f)
  let key := ((3 : BitVec 4), a, (flitEpoch f))
  if (s.core c).seen.contains key then s
  else
    let s := s.modCore c fun k => { k with
      seen := key :: k.seen
      fencedView := setBit k.fencedView a.val true }
    let s := match dirTo c a with
      | some d => s.modLink c d fun l => { l with closed := true }
      | none => s
    let s := s.flood c f .fenceNotice
    if coreDie c = coreDie a && s.epochs[a] + 1 = (flitEpoch f) then
      let (reason, s) := s.sealReason a (flitFrom f)
      s.fenceCore a (flitFrom f) reason (flitEpoch f) f.w1.toNat
    else s

/-- A reinstated core starts afresh with its neighbours: its links open but for those to cores that are fenced still, and
the accusations it held are withdrawn (R413, R419). The scheduler of its die returns it to placement once its record is
written (R339, R421). -/
def State.freeCore (s : State) (a : Fin 128) (by' : Nat) (epoch : Half) (t : Nat) : State :=
  let was := (s.core a).links
  let view := setBit s.fenced a.val false
  let s := s.modCore a fun k => { k with
    self := .normal
    links := Vector.ofFn fun d => { NLink.reset with closed := (neighbour a d).any fun n => view.getLsbD n.val }
    votes := []
    fencedView := view
    cut := [] }
  let s := dirs.foldl (fun s d => match neighbour a d with
    | none => s
    | some n =>
      let s := if was[d].silence then s.voteOut a n 1 true else s
      if was[d].babble then s.voteOut a n 2 true else s) s
  s.devRecord (fenceWords a 2 by' 0 epoch t) (.free a)
/-- A reinstatement notice reverses what the fence notice did (R419). -/
def State.noticeFree (s : State) (c : Fin 128) (f : NFlit) : State :=
  let a := (flitAbout f)
  let key := ((5 : BitVec 4), a, (flitEpoch f))
  if (s.core c).seen.contains key then s
  else
    let s := s.modCore c fun k => { k with
      seen := key :: k.seen
      fencedView := setBit k.fencedView a.val false
      votes := k.votes.filter fun v => v.accused ≠ a && v.voter ≠ a }
    let s := match dirTo c a with
      | some d => s.modLink c d fun _ => NLink.reset
      | none => s
    let s := s.flood c f .reinstatementNotice
    if coreDie c = coreDie a && (s.core a).self ≠ .normal && s.epochs[a] = (flitEpoch f) then
      s.freeCore a (flitFrom f) (flitEpoch f) f.w1.toNat
    else s

/-! ## Quorum (R413, R414, R419) -/

/-- The quorum among `n` live neighbours, and whether babble counts (R414). -/
def quorum (n : Nat) : Option (Nat × Bool) := match n with
  | 0 => none
  | 1 => some (1, false)
  | 2 => some (2, true)
  | 3 => some (2, true)
  | _ => some (3, true)
/-- Some live neighbour of the voter accuses it (R413), live as core `c` knows it. -/
def State.accused (s : State) (c v : Fin 128) : Bool := (neighbours v).any fun u =>
  s.liveTo c u && (match dirTo u v with
    | some d => (s.core u).links[d].silence || (s.core u).links[d].babble
    | none => false)
/-- The votes that core `c` holds about its neighbour `a` and that count, to fence it or with reason 3 to reinstate it,
the newest first; none where the quorum is not reached (R413, R414). -/
def State.heldVotes (s : State) (c a : Fin 128) (free : Bool) : List Vote :=
  let live := (neighbours a).filter fun n => s.liveTo c n
  match quorum live.length with
  | none => []
  | some (q, babble) =>
    let votes := (s.core c).votes.filter fun v => v.accused = a && live.contains v.voter && !s.accused c v.voter &&
      (if free then v.reason = 3 else v.reason = 1 || (babble && v.reason = 2))
    if q ≤ ((votes.map (·.voter)).eraseDups).length then votes else []
/-- A neighbour that first holds a quorum seals the fence, for the reason of the vote that completes it (R415, R421), or
reinstates the core (R419). -/
def State.weigh (s : State) (c a : Fin 128) : State :=
  let notice (type : Nat) (e : Half) : NFlit := mkFlit (type + c.val * 2 ^ 8 + a.val * 2 ^ 16 + e.toNat * 2 ^ 32) s.time 0
  if (s.core c).self ≠ .normal then s
  else if s.liveTo c a then
    match s.heldVotes c a false with
    | [] => s
    | v :: _ =>
      if (s.core a).self ≠ .normal || (s.core a).cut.any fun q => q.t ≠ s.time then s
      else (s.sever a c v.reason.toNat).noticeFence c (notice 3 (s.epochs[a] + 1))
  else if (s.core a).self ≠ .normal && !(s.heldVotes c a true).isEmpty then s.noticeFree c (notice 5 s.epochs[a])
  else s
/-- A core weighs what it holds about each of its neighbours, until no fence it seals changes what counts of another: a
fenced core accuses no voter any more (R413, R414). -/
def State.weighHeld (s : State) (c : Fin 128) : State :=
  (List.range 5).foldl (fun s _ => (neighbours c).foldl (fun s a => s.weigh c a) s) s
/-- A core votes about its neighbour, or withdraws a vote (R413). A fenced core's votes are dropped (R415). -/
def State.cast (s : State) (c a : Fin 128) (reason : BitVec 2) (withdraw : Bool) : State :=
  if (s.core c).self ≠ .normal then s else (s.voteOut c a reason withdraw).weighHeld c

/-! ## Receiving heartbeats (R412) -/

/-- A neighbour babbles: the streak of clean periods starts again. -/
def NLink.babbles (l : NLink) (old : Bool) : NLink := { l with
  babble := true
  clean := 0
  curBad := l.curBad || !old
  prevBad := l.prevBad || old }
/-- A well-formed heartbeat that counts for the open period, or for the one before (`old`). Its sequence number may pass
over flits that the crc has discarded, for link noise is never babble (R412; log entry 33). -/
def NLink.beat (l : NLink) (seq : Half) (old : Bool) : NLink :=
  let inSeq := l.silence || (match l.lastSeq with
    | some q => decide ((seq - (q + 1)).toNat ≤ l.noise)
    | none => true)
  let l := { l with
    silence := false
    silent := 0
    lastSeq := some seq
    noise := 0
    cur := if old then l.cur else l.cur + 1
    prev := if old then l.prev + 1 else l.prev }
  if !inSeq || decide (4 < (if old then l.prev else l.cur)) then l.babbles old else l
/-- The time of a flit lies in the receiver's current or previous period: whether it is the previous one. -/
def State.flitPeriod (s : State) (c : Fin 128) (f : NFlit) : Option Bool :=
  let p := f.w1.toNat / s.hb
  let now := (s.core c).period
  if p = now then some false else if (p + 1) % s.hbPeriods = now then some true else none
/-- A flit of any type that has no legal form whoever sends it: its type, or the zero bits of a vote or notice (R410,
R412). -/
def flitBroken (f : NFlit) : Bool :=
  flitType f = 0 || decide (6 ≤ flitType f) || ((flitType f = 2 || flitType f = 3 || flitType f = 5) && !flitClear235 f)
/-- A flit from neighbour `n` is malformed (R412). -/
def State.malformed (s : State) (c n : Fin 128) (f : NFlit) : Bool :=
  flitBroken f || ((flitType f = 1 || flitType f = 4) &&
    (flitFrom f ≠ n.val || !flitClear14 f || bits f.w0 56 2 = 3 || (s.flitPeriod c f).isNone))

/-- Core `n` is accused by one neighbour less: whoever holds its votes weighs them (R413). -/
def State.heardAgain (s : State) (n : Fin 128) : State :=
  ((neighbours n).flatMap neighbours).eraseDups.foldl (fun s c => s.weighHeld c) s
/-- Accusations of core `c` against its neighbours that differ from what they were are voted or withdrawn (R413). -/
def State.tell (s : State) (c : Fin 128) (was : Vector NLink 4) : State :=
  dirs.foldl (fun s d => match neighbour c d with
    | none => s
    | some n =>
      let l := (s.core c).links[d]
      let s := if l.silence = was[d].silence then s else s.cast c n 1 (!l.silence)
      let s := if l.babble = was[d].babble then s else s.cast c n 2 (!l.babble)
      if (was[d].silence || was[d].babble) && !l.silence && !l.babble then s.heardAgain n else s) s

/-- One link at the end of a period (R412, R419): silence is judged with the period that ends, clean periods with the one
before it, in which no heartbeat can count any more. -/
def NLink.endPeriod (l : NLink) : NLink :=
  let clean := if l.prev = 1 && !l.prevBad then l.clean + 1 else 0
  let silent := if l.cur = 0 then l.silent + 1 else 0
  { l with
    clean := clean
    babble := l.babble && decide (clean < 16)
    silent := silent
    silence := l.silence || decide (3 ≤ silent)
    watch := l.watch.map (· - 1)
    prev := l.cur
    prevBad := l.curBad
    cur := 0
    curBad := false }
/-- The watch of an appeal as a period ends (R419): a period that is not clean rejects it, the end of the sixteenth clean
one votes for reinstatement. -/
def State.watchLink (s : State) (c : Fin 128) (d : Fin 4) : State :=
  match neighbour c d, (s.core c).links[d].watch with
  | some n, some w =>
    if 16 ≤ w then s
    else if (s.core c).links[d].clean = 0 then
      (s.modLink c d fun l => { l with watch := none }).devRecord (fenceWords n 1 c.val 0 s.epochs[n] s.time) .nothing
    else if w = 0 then (s.modLink c d fun l => { l with watch := none }).cast c n 3 false
    else s
  | _, _ => s
/-- The open period of a core ends. -/
def State.endPeriod (s : State) (c : Fin 128) : State :=
  let was := (s.core c).links
  let s := s.modCore c fun k => { k with
    links := k.links.map NLink.endPeriod
    period := (k.period + 1) % s.hbPeriods }
  let s := s.tell c was
  (dirs.foldl (fun s d => s.watchLink c d) s).weighHeld c
/-- HEARTBEAT_PERIOD_END (R412, R413): the period a core has open is over. -/
def execHeartbeatPeriodEnd (core : Fin 128) (s : State) : Out :=
  .next (if 0 < s.periodsOver core then s.endPeriod core else s)
/-- Periods that are over are ended first. -/
def State.endPeriods (c : Fin 128) : Nat → State → State
  | 0, s => s
  | n + 1, s => State.endPeriods c n (s.endPeriod c)
/-- The periods that are over when a flit arrives. -/
def State.catchUp (s : State) (c : Fin 128) : State := State.endPeriods c (s.periodsOver c) s

/-- HEARTBEAT_RECEIVE (R412): a flit whose CRC fails is discarded; a malformed one is babble. -/
def execHeartbeatReceive (core : Fin 128) (dir : Fin 4) (f : NFlit) (s : State) : Out :=
  .next (match neighbour core dir with
    | none => s
    | some n =>
      if !(flitGood f) then s.modLink core dir fun l => { l with noise := l.noise + 1 }
      else
        let s := s.catchUp core
        let was := (s.core core).links
        let s := if s.malformed core n f then s.modLink core dir fun l => l.babbles false
          else if (flitType f) ≠ 1 then s
          else s.modLink core dir fun l => l.beat (BitVec.ofNat 16 (bits f.w0 16 16)) ((s.flitPeriod core f).getD false)
        s.tell core was)

/-! ## Receiving votes and notices (R412, R413, R415, R419) -/

/-- What a core does first with a vote or a notice of type `type`: it drops one whose crc fails and one that comes over a
link it has closed, and a malformed one is babble of the neighbour that sent it (R412, R415). -/
def State.hear (s : State) (c : Fin 128) (type : Nat) (f : NFlit) (k : State → State) : State :=
  if !flitGood f || (f.hop.any fun d => (s.core c).links[d].closed) then s
  else if flitBroken f then match f.hop with
    | some d =>
      let s := s.catchUp c
      (s.modLink c d fun l => l.babbles false).tell c (s.core c).links
    | none => s
  else if flitType f = type then k s
  else s
/-- VOTE_RECEIVE (R413, R414) -/
def execVoteReceive (core : Fin 128) (f : NFlit) (s : State) : Out :=
  let v := Fin.ofNat 128 (flitFrom f)
  let a := flitAbout f
  .next (s.hear core 2 f fun s =>
    if bits f.w0 24 2 ≠ 0 && (neighbours a).contains core && (neighbours a).contains v && v ≠ core && s.liveTo core v then
      (s.modCore core fun k => { k with votes := addVote ⟨v, a, BitVec.ofNat 2 (bits f.w0 24 2)⟩ (bitAt f.w0 26) k.votes }).weighHeld core
    else s)
/-- FENCE_NOTICE (R415): the notice, and then what it leaves of the votes the core holds (R414). -/
def execFenceNotice (core : Fin 128) (f : NFlit) (s : State) : Out :=
  .next (s.hear core 3 f fun s => (s.noticeFence core f).weighHeld core)
/-- REINSTATEMENT_NOTICE (R419) -/
def execReinstatementNotice (core : Fin 128) (f : NFlit) (s : State) : Out := .next (s.hear core 5 f fun s => s.noticeFree core f)

/-! ## Self-test and appeal (R419, R420) -/

/-- SELF_TEST_COMPLETE (R419, R420): the fenced core sends its appeal to each neighbour; the schedulers count it. Beyond
the limit the neighbours do not hear it. -/
def execSelfTestComplete (core : Fin 128) (sig : W32) (s : State) : Out :=
  let k := s.core core
  .next (if k.self ≠ .testing then s
    else
      let s := s.modCore core fun k => { k with self := .fenced }
      let n := s.cfg.appeals[core]
      let heard := decide (n.toNat < s.cfg.appealmax.toNat)
      let s := { s with cfg := { s.cfg with appeals := s.cfg.appeals.set core (if n = 15 then 15 else n + 1) } }
      let (band, s) := s.drawWord
      let f := mkFlit (4 + core.val * 2 ^ 8 + k.hbSeq.toNat * 2 ^ 16 + k.summary band * 2 ^ 32 + k.accuse * 2 ^ 48 + 2 ^ 56)
        s.time sig.toNat
      if heard then dirs.foldl (fun s d => match neighbour core d with
        | some n => s.send (.appealReceive n { f with hop := some (facing d) })
        | none => s) s else s)
/-- APPEAL_RECEIVE (R419, R420, R421): a wrong signature rejects the appeal; else the neighbour watches 16 periods. -/
def execAppealReceive (core : Fin 128) (f : NFlit) (s : State) : Out :=
  let a : Fin 128 := Fin.ofNat 128 (flitFrom f)
  .next (match dirTo core a with
    | none => s
    | some d =>
      if !((flitGood f) && (flitType f) = 4) then s
      else
        let s := s.catchUp core
        if s.malformed core a f then
          let was := (s.core core).links
          (s.modLink core d fun l => l.babbles false).tell core was
        else if s.liveTo core a || decide (s.cfg.appealmax.toNat < s.cfg.appeals[a].toNat) || s.cfg.lock.getLsbD a.val then s
        else if f.w2.truncate 32 ≠ s.signature then s.devRecord (fenceWords a 1 core.val 0 s.epochs[a] s.time) .nothing
        else s.modLink core d fun l => { l with watch := some 18 })

end Sys2Proof.Machine
end

