-- ==== Sys2Proof/Machine/Dispatch.lean ====
section
/-!
DEFINITION. Every constructor of `Instr` and its meaning.
-/
namespace Sys2Proof.Machine

/-- The meaning of an instruction, operation or event. -/
def exec (i : Instr) (s : State) : Host.Outcome State Fault Refusal :=
  match i with
  | .add u p d a b => Sys2Proof.Machine.execAdd u p d a b s
  | .sub u p d a b => Sys2Proof.Machine.execSub u p d a b s
  | .mul u p d a b => Sys2Proof.Machine.execMul u p d a b s
  | .mulh u p d a b => Sys2Proof.Machine.execMulh u p d a b s
  | .mulhn u p d a b => Sys2Proof.Machine.execMulhn u p d a b s
  | .divs u p d a b => Sys2Proof.Machine.execDivs u p d a b s
  | .divn u p d a b => Sys2Proof.Machine.execDivn u p d a b s
  | .rems u p d a b => Sys2Proof.Machine.execRems u p d a b s
  | .remn u p d a b => Sys2Proof.Machine.execRemn u p d a b s
  | .and u p d a b => Sys2Proof.Machine.execAnd u p d a b s
  | .or u p d a b => Sys2Proof.Machine.execOr u p d a b s
  | .xor u p d a b => Sys2Proof.Machine.execXor u p d a b s
  | .andn u p d a b => Sys2Proof.Machine.execAndn u p d a b s
  | .shl u p d a b => Sys2Proof.Machine.execShl u p d a b s
  | .shr u p d a b => Sys2Proof.Machine.execShr u p d a b s
  | .sra u p d a b => Sys2Proof.Machine.execSra u p d a b s
  | .min u p d a b => Sys2Proof.Machine.execMin u p d a b s
  | .max u p d a b => Sys2Proof.Machine.execMax u p d a b s
  | .minn u p d a b => Sys2Proof.Machine.execMinn u p d a b s
  | .maxn u p d a b => Sys2Proof.Machine.execMaxn u p d a b s
  | .movi u p d imm => Sys2Proof.Machine.execMovi u p d imm s
  | .movk u p d v h => Sys2Proof.Machine.execMovk u p d v h s
  | .lea u p d a b => Sys2Proof.Machine.execLea u p d a b s
  | .sext u p d a w => Sys2Proof.Machine.execSext u p d a w s
  | .zext u p d a w => Sys2Proof.Machine.execZext u p d a w s
  | .popc u p d a => Sys2Proof.Machine.execPopc u p d a s
  | .clz u p d a => Sys2Proof.Machine.execClz u p d a s
  | .ctz u p d a => Sys2Proof.Machine.execCtz u p d a s
  | .bext u p d a b => Sys2Proof.Machine.execBext u p d a b s
  | .bins u p d a b => Sys2Proof.Machine.execBins u p d a b s
  | .cmpeq u p d a b => Sys2Proof.Machine.execCmpeq u p d a b s
  | .cmpne u p d a b => Sys2Proof.Machine.execCmpne u p d a b s
  | .cmplt u p d a b => Sys2Proof.Machine.execCmplt u p d a b s
  | .cmple u p d a b => Sys2Proof.Machine.execCmple u p d a b s
  | .cmpltn u p d a b => Sys2Proof.Machine.execCmpltn u p d a b s
  | .cmplen u p d a b => Sys2Proof.Machine.execCmplen u p d a b s
  | .sel u p d a b => Sys2Proof.Machine.execSel u p d a b s
  | .pand u p d a b => Sys2Proof.Machine.execPand u p d a b s
  | .por u p d a b => Sys2Proof.Machine.execPor u p d a b s
  | .pxor u p d a b => Sys2Proof.Machine.execPxor u p d a b s
  | .pandn u p d a b => Sys2Proof.Machine.execPandn u p d a b s
  | .pmov u p d a => Sys2Proof.Machine.execPmov u p d a s
  | .ptos u p d a => Sys2Proof.Machine.execPtos u p d a s
  | .dset u p d a f => Sys2Proof.Machine.execDset u p d a f s
  | .dget u p d a f => Sys2Proof.Machine.execDget u p d a f s
  | .crrd u p d num => Sys2Proof.Machine.execCrrd u p d num s
  | .crwr u p a num => Sys2Proof.Machine.execCrwr u p a num s
  | .sfld u p d a fld => Sys2Proof.Machine.execSfld u p d a fld s
  | .fadds u p d a b => Sys2Proof.Machine.execFadds u p d a b s
  | .fmuls u p d a b => Sys2Proof.Machine.execFmuls u p d a b s
  | .fcmplt u p d a b => Sys2Proof.Machine.execFcmplt u p d a b s
  | .fcvtis u p d a rm => Sys2Proof.Machine.execFcvtis u p d a rm s
  | .fcvtsi u p d a rm sat => Sys2Proof.Machine.execFcvtsi u p d a rm sat s
  | .br p off => Sys2Proof.Machine.execBr p off s
  | .brs p a => Sys2Proof.Machine.execBrs p a s
  | .call p off => Sys2Proof.Machine.execCall p off s
  | .ret p a => Sys2Proof.Machine.execRet p a s
  | .loop p a e => Sys2Proof.Machine.execLoop p a e s
  | .loopi p n e => Sys2Proof.Machine.execLoopi p n e s
  | .tail p a => Sys2Proof.Machine.execTail p a s
  | .phase p => Sys2Proof.Machine.execPhase p s
  | .fence p m => Sys2Proof.Machine.execFence p m s
  | .waiteq p a b => Sys2Proof.Machine.execWaiteq p a b s
  | .waitge p a b => Sys2Proof.Machine.execWaitge p a b s
  | .hwait p h b => Sys2Proof.Machine.execHwait p h b s
  | .hrel p h b => Sys2Proof.Machine.execHrel p h b s
  | .hset p h a sp => Sys2Proof.Machine.execHset p h a sp s
  | .trap p c a => Sys2Proof.Machine.execTrap p c a s
  | .bkpt p c => Sys2Proof.Machine.execBkpt p c s
  | .ld p d base off ty => Sys2Proof.Machine.execLd p d base off ty s
  | .st p d base off ty => Sys2Proof.Machine.execSt p d base off ty s
  | .ldg p d base off ty => Sys2Proof.Machine.execLdg p d base off ty s
  | .stg p d base off ty => Sys2Proof.Machine.execStg p d base off ty s
  | .vld p d base off ty => Sys2Proof.Machine.execVld p d base off ty s
  | .vst p d base off ty => Sys2Proof.Machine.execVst p d base off ty s
  | .vlds p d base pitch ty => Sys2Proof.Machine.execVlds p d base pitch ty s
  | .vsts p d base pitch ty => Sys2Proof.Machine.execVsts p d base pitch ty s
  | .vldx p d base vi sc ty => Sys2Proof.Machine.execVldx p d base vi sc ty s
  | .vstx p d base vi sc ty => Sys2Proof.Machine.execVstx p d base vi sc ty s
  | .vldt p d base dn => Sys2Proof.Machine.execVldt p d base dn s
  | .vstt p d base dn => Sys2Proof.Machine.execVstt p d base dn s
  | .ldb p d base off => Sys2Proof.Machine.execLdb p d base off s
  | .amadd p d base off ty => Sys2Proof.Machine.execAmadd p d base off ty s
  | .ammax p d base off ty => Sys2Proof.Machine.execAmmax p d base off ty s
  | .ammin p d base off ty => Sys2Proof.Machine.execAmmin p d base off ty s
  | .amand p d base off ty => Sys2Proof.Machine.execAmand p d base off ty s
  | .amor p d base off ty => Sys2Proof.Machine.execAmor p d base off ty s
  | .futrd p d base off => Sys2Proof.Machine.execFutrd p d base off s
  | .futfill p d base off => Sys2Proof.Machine.execFutfill p d base off s
  | .kst p d base off => Sys2Proof.Machine.execKst p d base off s
  | .dld p d base off => Sys2Proof.Machine.execDld p d base off s
  | .dst p d base off => Sys2Proof.Machine.execDst p d base off s
  | .vldsc p d base off ty => Sys2Proof.Machine.execVldsc p d base off ty s
  | .vadd u p d a b m => Sys2Proof.Machine.execVadd u p d a b m s
  | .vsub u p d a b m => Sys2Proof.Machine.execVsub u p d a b m s
  | .vmul u p d a b m => Sys2Proof.Machine.execVmul u p d a b m s
  | .vfma u p d a b c m => Sys2Proof.Machine.execVfma u p d a b c m s
  | .vfms u p d a b c m => Sys2Proof.Machine.execVfms u p d a b c m s
  | .vfnma u p d a b c m => Sys2Proof.Machine.execVfnma u p d a b c m s
  | .vmin u p d a b m => Sys2Proof.Machine.execVmin u p d a b m s
  | .vmax u p d a b m => Sys2Proof.Machine.execVmax u p d a b m s
  | .vabs u p d a m => Sys2Proof.Machine.execVabs u p d a m s
  | .vneg u p d a m => Sys2Proof.Machine.execVneg u p d a m s
  | .vcpys u p d a b m => Sys2Proof.Machine.execVcpys u p d a b m s
  | .vand u p d a b m => Sys2Proof.Machine.execVand u p d a b m s
  | .vor u p d a b m => Sys2Proof.Machine.execVor u p d a b m s
  | .vxor u p d a b m => Sys2Proof.Machine.execVxor u p d a b m s
  | .vshl u p d a b m => Sys2Proof.Machine.execVshl u p d a b m s
  | .vshr u p d a b m => Sys2Proof.Machine.execVshr u p d a b m s
  | .vsra u p d a b m => Sys2Proof.Machine.execVsra u p d a b m s
  | .vcmpeq u p d a b m => Sys2Proof.Machine.execVcmpeq u p d a b m s
  | .vcmplt u p d a b m => Sys2Proof.Machine.execVcmplt u p d a b m s
  | .vcmple u p d a b m => Sys2Proof.Machine.execVcmple u p d a b m s
  | .vcmpne u p d a b m => Sys2Proof.Machine.execVcmpne u p d a b m s
  | .vclass u p d a m => Sys2Proof.Machine.execVclass u p d a m s
  | .vsel u p d a b ks => Sys2Proof.Machine.execVsel u p d a b ks s
  | .vrcp u p d a m => Sys2Proof.Machine.execVrcp u p d a m s
  | .vrsqrt u p d a m => Sys2Proof.Machine.execVrsqrt u p d a m s
  | .vsqrt u p d a m => Sys2Proof.Machine.execVsqrt u p d a m s
  | .vexp2 u p d a m => Sys2Proof.Machine.execVexp2 u p d a m s
  | .vlog2 u p d a m => Sys2Proof.Machine.execVlog2 u p d a m s
  | .vtanh u p d a m => Sys2Proof.Machine.execVtanh u p d a m s
  | .vcvt u p d a m => Sys2Proof.Machine.execVcvt u p d a m s
  | .vscale u p d a b m => Sys2Proof.Machine.execVscale u p d a b m s
  | .vquant u p d a b m => Sys2Proof.Machine.execVquant u p d a b m s
  | .vradd u p d a m => Sys2Proof.Machine.execVradd u p d a m s
  | .vrmax u p d a m => Sys2Proof.Machine.execVrmax u p d a m s
  | .vrmin u p d a m => Sys2Proof.Machine.execVrmin u p d a m s
  | .vbcast u p d a b mask => Sys2Proof.Machine.execVbcast u p d a b mask s
  | .vperm u p d a b c mask => Sys2Proof.Machine.execVperm u p d a b c mask s
  | .vrotl u p d a b mask => Sys2Proof.Machine.execVrotl u p d a b mask s
  | .viota u p d a m => Sys2Proof.Machine.execViota u p d a m s
  | .vmovk u p d a b op => Sys2Proof.Machine.execVmovk u p d a b op s
  | .kpopc u p d a mask => Sys2Proof.Machine.execKpopc u p d a mask s
  | .vsig u p d a h ety => Sys2Proof.Machine.execVsig u p d a h ety s
  | .vmov u p d a mask => Sys2Proof.Machine.execVmov u p d a mask s
  | .vextr u p d a b => Sys2Proof.Machine.execVextr u p d a b s
  | .vins u p d a b c => Sys2Proof.Machine.execVins u p d a b c s
  | .vscan u p d a m => Sys2Proof.Machine.execVscan u p d a m s
  | .mzero p zd bar => Sys2Proof.Machine.execMzero p zd bar s
  | .mmul p zd da db shp set bar => Sys2Proof.Machine.execMmul p zd da db shp set bar s
  | .mopa p zd da db shp set bar => Sys2Proof.Machine.execMopa p zd da db shp set bar s
  | .macc p zd zs bar => Sys2Proof.Machine.execMacc p zd zs bar s
  | .mscl p zd shp val bar => Sys2Proof.Machine.execMscl p zd shp val bar s
  | .mdrn p db zs sat unscale bar => Sys2Proof.Machine.execMdrn p db zs sat unscale bar s
  | .mldz p zd da ls bar => Sys2Proof.Machine.execMldz p zd da ls bar s
  | .mtrn p zd zs bar => Sys2Proof.Machine.execMtrn p zd zs bar s
  | .mcopy p zd zs bar => Sys2Proof.Machine.execMcopy p zd zs bar s
  | .mlu p zd pv sh bar => Sys2Proof.Machine.execMlu p zd pv sh bar s
  | .mchol p zd sh bar => Sys2Proof.Machine.execMchol p zd sh bar s
  | .mtrs p zd zs up unit sh bar => Sys2Proof.Machine.execMtrs p zd zs up unit sh bar s
  | .mqr p zd zs sh bar => Sys2Proof.Machine.execMqr p zd zs sh bar s
  | .msolve p zd zs pv sh bar => Sys2Proof.Machine.execMsolve p zd zs pv sh bar s
  | .mresume p bar => Sys2Proof.Machine.execMresume p bar s
  | .mperm p zd pv sh bar => Sys2Proof.Machine.execMperm p zd pv sh bar s
  | .mnorm p zs sh bar => Sys2Proof.Machine.execMnorm p zs sh bar s
  | .kcpy p dd ds k => Sys2Proof.Machine.execKcpy p dd ds k s
  | .kmcst p dd ds sa k => Sys2Proof.Machine.execKmcst p dd ds sa k s
  | .kred p dd ds k => Sys2Proof.Machine.execKred p dd ds k s
  | .kidx p sa => Sys2Proof.Machine.execKidx p sa s
  | .kgth p dd ds sa k => Sys2Proof.Machine.execKgth p dd ds sa k s
  | .ksct p dd ds sa k => Sys2Proof.Machine.execKsct p dd ds sa k s
  | .kroute p dd ds sa sb k => Sys2Proof.Machine.execKroute p dd ds sa sb k s
  | .ka2a p dd ds sa sb k => Sys2Proof.Machine.execKa2a p dd ds sa sb k s
  | .kgat p dd sa sb k => Sys2Proof.Machine.execKgat p dd sa sb k s
  | .kring p ds e k => Sys2Proof.Machine.execKring p ds e k s
  | .kfill p dd sa k => Sys2Proof.Machine.execKfill p dd sa k s
  | .osgd p z row dw => Sys2Proof.Machine.execOsgd p z row dw s
  | .omom p z row dw dx => Sys2Proof.Machine.execOmom p z row dw dx s
  | .oadam p z row dw dx => Sys2Proof.Machine.execOadam p z row dw dx s
  | .oclip p d a b => Sys2Proof.Machine.execOclip p d a b s
  | .oscl p ds n => Sys2Proof.Machine.execOscl p ds n s
  | .ogsq p z row dx => Sys2Proof.Machine.execOgsq p z row dx s
  | .syncBundle c => Sys2Proof.Machine.execSyncBundle c s
  | .syncRelease c => Sys2Proof.Machine.execSyncRelease c s
  | .endOfStepBundle c => Sys2Proof.Machine.execEndOfStepBundle c s
  | .laneFinish c => Sys2Proof.Machine.execLaneFinish c s
  | .resultLand c => Sys2Proof.Machine.execResultLand c s
  | .bankSwitch core => Sys2Proof.Machine.execBankSwitch core s
  | .waitSatisfied c => Sys2Proof.Machine.execWaitSatisfied c s
  | .hwaitSatisfied c => Sys2Proof.Machine.execHwaitSatisfied c s
  | .remoteFutureAnswer c r => Sys2Proof.Machine.execRemoteFutureAnswer c r s
  | .remoteWakeUp die record v => Sys2Proof.Machine.execRemoteWakeUp die record v s
  | .projectionCacheFill core hcb => Sys2Proof.Machine.execProjectionCacheFill core hcb s
  | .xBarrierSatisfied c => Sys2Proof.Machine.execXBarrierSatisfied c s
  | .matrixEngineStep c => Sys2Proof.Machine.execMatrixEngineStep c s
  | .matrixStepReplay c => Sys2Proof.Machine.execMatrixStepReplay c s
  | .kCommandStart id => Sys2Proof.Machine.execKCommandStart id s
  | .sourceReadDone id => Sys2Proof.Machine.execSourceReadDone id s
  | .visibleLevel id => Sys2Proof.Machine.execVisibleLevel id s
  | .commandError id => Sys2Proof.Machine.execCommandError id s
  | .kredAccept id => Sys2Proof.Machine.execKredAccept id s
  | .kringClaim id => Sys2Proof.Machine.execKringClaim id s
  | .ka2aSend id party => Sys2Proof.Machine.execKa2aSend id party s
  | .ka2aRoundAdvance asid record => Sys2Proof.Machine.execKa2aRoundAdvance asid record s
  | .loadBlockResident id => Sys2Proof.Machine.execLoadBlockResident id s
  | .closeWriteArrival c => Sys2Proof.Machine.execCloseWriteArrival c s
  | .trapRingConsume r cons => Sys2Proof.Machine.execTrapRingConsume r cons s
  | .dataPoison loc => Sys2Proof.Machine.execDataPoison loc s
  | .faultAnswer who r => Sys2Proof.Machine.execFaultAnswer who r s
  | .submitGraph mb => Sys2Proof.Machine.execSubmitGraph mb s
  | .loadModule mb => Sys2Proof.Machine.execLoadModule mb s
  | .preemptNode mb => Sys2Proof.Machine.execPreemptNode mb s
  | .preemptAsid mb => Sys2Proof.Machine.execPreemptAsid mb s
  | .resumeNode mb => Sys2Proof.Machine.execResumeNode mb s
  | .setDebugging mb => Sys2Proof.Machine.execSetDebugging mb s
  | .releaseBreakpoint mb => Sys2Proof.Machine.execReleaseBreakpoint mb s
  | .abortNodes mb => Sys2Proof.Machine.execAbortNodes mb s
  | .poisonFuture mb => Sys2Proof.Machine.execPoisonFuture mb s
  | .mailboxReservedCommand mb => Sys2Proof.Machine.execMailboxReservedCommand mb s
  | .dispatchDecision die => Sys2Proof.Machine.execDispatchDecision die s
  | .clusterClaim die => Sys2Proof.Machine.execClusterClaim die s
  | .traceReplayDispatch core => Sys2Proof.Machine.execTraceReplayDispatch core s
  | .traceWaitTimeout core => Sys2Proof.Machine.execTraceWaitTimeout core s
  | .traceFullClear asid base nrec => Sys2Proof.Machine.execTraceFullClear asid base nrec s
  | .stepSnapshotSave c => Sys2Proof.Machine.execStepSnapshotSave c s
  | .stepStart c => Sys2Proof.Machine.execStepStart c s
  | .nodeActivation asid opb => Sys2Proof.Machine.execNodeActivation asid opb s
  | .randomBufferFill asid opb => Sys2Proof.Machine.execRandomBufferFill asid opb s
  | .nodeRetirement asid opb => Sys2Proof.Machine.execNodeRetirement asid opb s
  | .slotBoundary => Sys2Proof.Machine.execSlotBoundary s
  | .watchdogExpiry c => Sys2Proof.Machine.execWatchdogExpiry c s
  | .preemptionSave asid opb => Sys2Proof.Machine.execPreemptionSave asid opb s
  | .saveAbandon c => Sys2Proof.Machine.execSaveAbandon c s
  | .moduleReset => Sys2Proof.Machine.execModuleReset s
  | .bootStageComplete d => Sys2Proof.Machine.execBootStageComplete d s
  | .configRegisterWrite off v => Sys2Proof.Machine.execConfigRegisterWrite off v s
  | .monitorSample mon v => Sys2Proof.Machine.execMonitorSample mon v s
  | .monitorClear mon => Sys2Proof.Machine.execMonitorClear mon s
  | .counterClear core => Sys2Proof.Machine.execCounterClear core s
  | .flitReceive port vl seq chk => Sys2Proof.Machine.execFlitReceive port vl seq chk s
  | .flitReplay port vl seq => Sys2Proof.Machine.execFlitReplay port vl seq s
  | .pauseFlit port vl => Sys2Proof.Machine.execPauseFlit port vl s
  | .resumeFlit port vl => Sys2Proof.Machine.execResumeFlit port vl s
  | .portDown port => Sys2Proof.Machine.execPortDown port s
  | .remoteKcpyArrival device copy => Sys2Proof.Machine.execRemoteKcpyArrival device copy s
  | .heartbeatSend core => Sys2Proof.Machine.execHeartbeatSend core s
  | .heartbeatReceive core dir f => Sys2Proof.Machine.execHeartbeatReceive core dir f s
  | .heartbeatPeriodEnd core => Sys2Proof.Machine.execHeartbeatPeriodEnd core s
  | .voteReceive core f => Sys2Proof.Machine.execVoteReceive core f s
  | .fenceNotice core f => Sys2Proof.Machine.execFenceNotice core f s
  | .selfTestComplete core sig => Sys2Proof.Machine.execSelfTestComplete core sig s
  | .appealReceive core f => Sys2Proof.Machine.execAppealReceive core f s
  | .reinstatementNotice core f => Sys2Proof.Machine.execReinstatementNotice core f s
  | .controlHeartbeat ctl => Sys2Proof.Machine.execControlHeartbeat ctl s
  | .standbyTakeover ctl => Sys2Proof.Machine.execStandbyTakeover ctl s
  | .cxlDeviceRemoved port base size => Sys2Proof.Machine.execCxlDeviceRemoved port base size s
  | .portRetrained port => Sys2Proof.Machine.execPortRetrained port s
  | .softError c during t => Sys2Proof.Machine.execSoftError c during t s
  | .translationInvalidation asid va writes => Sys2Proof.Machine.execTranslationInvalidation asid va writes s
  | .remoteFutureAccess asid addr a => Sys2Proof.Machine.execRemoteFutureAccess asid addr a s

end Sys2Proof.Machine
end

