-- ==== Sys2Proof/Machine/Interlock.lean ====
section
/-!
DEFINITION. The interlock (R55): which registers and latches a slot operation reads or writes, and whether a result that
has not arrived holds a bundle back.
-/
namespace Sys2Proof.Machine

/-- A register or latch that an interlocked result can reach. -/
inductive RegUse
  | s (r : Fin 64)
  | v (r : Fin 32)
  | q (l : Fin 16)
  deriving DecidableEq, Repr

/-- A scalar source. -/
def useS : SSrc → List RegUse
  | .reg r => [.s r]
  | .latch q => [.q q]
/-- A source of the predicate class: only its latch. -/
def useP : SSrc → List RegUse
  | .reg _ => []
  | .latch q => [.q q]
/-- Source b of the S format. -/
def useB : SBSrc → List RegUse
  | .reg r => [.s r]
  | .latch q => [.q q]
  | .imm _ => []
/-- A vector source (R127). -/
def useV : VSrc → List RegUse
  | .reg r => [.v r]
  | .latch q => [.q q]
  | .bcast r => [.s ⟨r.val, by omega⟩]
/-- A scalar destination. -/
def wrS (d : Dst 64) : List RegUse := if d.nowb then [] else [.s d.reg]
/-- A vector destination; vector lanes that a mask leaves out are read (R188). -/
def wrV (d : Dst 32) (mask : Fin 8) : List RegUse := if d.nowb && mask = 0 then [] else [.v d.reg]
/-- A scalar destination of the V slot (R188). -/
def wrVS (d : Dst 32) : List RegUse := if d.nowb then [] else [.s ⟨d.reg.val, by omega⟩]
/-- Base and offset of an address. -/
def useA (base : Fin 64) : MOff → List RegUse
  | .imm _ => [.s base]
  | .index r _ => [.s base, .s r]
/-- A register and the next ones. -/
def useRun (r : Fin 64) (n : Nat) : List RegUse := (List.range n).map fun i => .s (nextReg r i)
/-- The barrier registers of an X command (R123). -/
def useBar (bar : Fin 64) : List RegUse := if bar = 0 then [] else useRun bar 2
/-- The shape or value register of an X command; 0 names none (R215, R231). -/
def useShp (shp : Fin 64) : List RegUse := if shp = 0 then [] else [.s shp]
/-- The completion registers of a K command, those of its descriptor where it names none (R125, R175). -/
def useDone (d : Desc) (n : Fin 16) (k : KDone) : List RegUse := match doneOf d n k with
  | .error _ => []
  | .ok (lvl, r) => if lvl = 0 then [] else useRun (Fin.ofNat 64 r) (if lvl = 3 then 4 else 2)

/-- What a slot operation reads and writes among scalars, vectors and latches. -/
def Instr.uses (x : Ctx) : Instr → List RegUse
  | .add _ _ d a b | .sub _ _ d a b | .mul _ _ d a b | .mulh _ _ d a b | .mulhn _ _ d a b | .divs _ _ d a b
  | .divn _ _ d a b | .rems _ _ d a b | .remn _ _ d a b | .and _ _ d a b | .or _ _ d a b | .xor _ _ d a b
  | .andn _ _ d a b | .shl _ _ d a b | .shr _ _ d a b | .sra _ _ d a b | .min _ _ d a b | .max _ _ d a b
  | .minn _ _ d a b | .maxn _ _ d a b | .lea _ _ d a b | .bext _ _ d a b => wrS d ++ useS a ++ useB b
  | .bins _ _ d a b => .s d.reg :: useS a ++ useB b
  | .sel _ _ d a b => .s d.reg :: useP a ++ useB b
  | .movi _ _ d _ | .dget _ _ d _ _ | .crrd _ _ d _ => wrS d
  | .movk _ _ d _ _ => [.s d.reg]
  | .sext _ _ d a _ | .zext _ _ d a _ | .popc _ _ d a | .clz _ _ d a | .ctz _ _ d a | .sfld _ _ d a _
  | .fcvtis _ _ d a _ | .fcvtsi _ _ d a _ _ => wrS d ++ useS a
  | .cmpeq _ _ _ a b | .cmpne _ _ _ a b | .cmplt _ _ _ a b | .cmple _ _ _ a b | .cmpltn _ _ _ a b
  | .cmplen _ _ _ a b => useS a ++ useB b
  | .pand _ _ _ a b | .por _ _ _ a b | .pxor _ _ _ a b | .pandn _ _ _ a b => useP a ++ useP b
  | .pmov _ _ _ a => useP a
  | .ptos _ _ d a => wrS d ++ useP a
  | .dset _ _ _ a _ | .crwr _ _ a _ => useS a
  | .fadds _ _ d a b | .fmuls _ _ d a b => wrS d ++ useS a ++ useS b
  | .fcmplt _ _ _ a b => useS a ++ useS b
  | .br .. | .call .. | .loopi .. | .phase .. | .fence .. | .bkpt .. => []
  | .brs _ a | .ret _ a | .loop _ a _ | .tail _ a | .hset _ _ a _ | .trap _ _ a => [.s a]
  | .waiteq _ a b | .waitge _ a b => [.s a, .s b]
  | .hwait _ _ b | .hrel _ _ b => [.s b]
  | .ld _ d b o _ | .ldg _ d b o _ | .futrd _ d b o => wrS d ++ useA b o
  | .st _ r b o _ | .stg _ r b o _ | .amadd _ r b o _ | .ammax _ r b o _ | .ammin _ r b o _ | .amand _ r b o _
  | .amor _ r b o _ | .futfill _ r b o | .kst _ r b o => .s r :: useA b o
  | .ldb _ r b o => useRun r 2 ++ useA b o
  | .vld _ d b o _ | .vlds _ d b o _ | .vldsc _ d b o _ => wrV d 0 ++ useA b o
  | .vst _ r b o _ | .vsts _ r b o _ => .v r :: useA b o
  | .vldx _ d b i _ _ => wrV d 0 ++ [.s b, .v i]
  | .vstx _ r b i _ _ => [.v r, .s b, .v i]
  | .vldt _ d b _ => wrV d 0 ++ [.s b]
  | .vstt _ r b _ => [.v r, .s b]
  | .dld _ _ b o | .dst _ _ b o => useA b o
  | .vadd _ _ d a b m | .vsub _ _ d a b m | .vmul _ _ d a b m | .vmin _ _ d a b m | .vmax _ _ d a b m
  | .vcpys _ _ d a b m | .vand _ _ d a b m | .vor _ _ d a b m | .vxor _ _ d a b m | .vshl _ _ d a b m
  | .vshr _ _ d a b m | .vsra _ _ d a b m | .vscale _ _ d a b m | .vquant _ _ d a b m =>
    wrV d m.mask ++ useV a ++ useV b
  | .vfma _ _ d a b c m | .vfms _ _ d a b c m | .vfnma _ _ d a b c m => wrV d m.mask ++ useV a ++ useV b ++ useV c
  | .vabs _ _ d a m | .vneg _ _ d a m | .vclass _ _ d a m | .vrcp _ _ d a m | .vrsqrt _ _ d a m | .vsqrt _ _ d a m
  | .vexp2 _ _ d a m | .vlog2 _ _ d a m | .vtanh _ _ d a m | .vcvt _ _ d a m | .viota _ _ d a m =>
    wrV d m.mask ++ useV a
  | .vradd _ _ d a _ | .vrmax _ _ d a _ | .vrmin _ _ d a _ | .vscan _ _ d a _ => wrV d 0 ++ useV a
  | .vcmpeq _ _ _ a b _ | .vcmplt _ _ _ a b _ | .vcmple _ _ _ a b _ | .vcmpne _ _ _ a b _ => useV a ++ useV b
  | .vsel _ _ d a b _ => wrV d 0 ++ useV a ++ useV b
  | .vbcast _ _ d a b m | .vrotl _ _ d a b m => wrV d m ++ useV a ++ useV b
  | .vperm _ _ d a b c m => wrV d m ++ useV a ++ useV b ++ useV c
  | .vmov _ _ d a m => wrV d m ++ useV a
  | .vmovk .. => []
  | .kpopc _ _ d _ _ => wrVS d
  | .vsig _ _ d a h _ => wrVS d ++ useV a ++ [.s ⟨h.val, by omega⟩]
  | .vextr _ _ d a b => wrVS d ++ useV a ++ useV b
  | .vins _ _ d a b c => wrV d 0 ++ useV a ++ useV b ++ useV c
  | .mmul _ _ _ _ shp _ bar | .mopa _ _ _ _ shp _ bar | .mscl _ _ shp _ bar => useShp shp ++ useBar bar
  | .mzero _ _ bar | .macc _ _ _ bar | .mdrn _ _ _ _ _ bar | .mldz _ _ _ _ bar | .mtrn _ _ _ bar | .mcopy _ _ _ bar
  | .mresume _ bar => useBar bar
  | .mlu _ _ _ sh bar | .mchol _ _ sh bar | .mtrs _ _ _ _ _ sh bar | .mqr _ _ _ sh bar | .msolve _ _ _ _ sh bar
  | .mperm _ _ _ sh bar | .mnorm _ _ sh bar => useShp sh.shp ++ useBar bar
  | .kcpy _ dd _ k | .kred _ dd _ k => useDone x.dreg[dd] dd k
  | .kmcst _ dd _ sa k | .kgth _ dd _ sa k | .ksct _ dd _ sa k | .kfill _ dd sa k => .s sa :: useDone x.dreg[dd] dd k
  | .kroute _ dd _ sa sb k | .ka2a _ dd _ sa sb k | .kgat _ dd sa sb k => .s sa :: .s sb :: useDone x.dreg[dd] dd k
  | .kring _ ds _ k => useDone x.dreg[ds] ds k
  | .kidx _ sa => [.s sa]
  | _ => []

/-- The slot predicate of an operation (R47); p0 where it has none. -/
def Instr.pred : Instr → Fin 64
  | .add _ p .. | .sub _ p .. | .mul _ p .. | .mulh _ p .. | .mulhn _ p .. | .divs _ p .. | .divn _ p .. | .rems _ p ..
  | .remn _ p .. | .and _ p .. | .or _ p .. | .xor _ p .. | .andn _ p .. | .shl _ p .. | .shr _ p .. | .sra _ p ..
  | .min _ p .. | .max _ p .. | .minn _ p .. | .maxn _ p .. | .movi _ p .. | .movk _ p .. | .lea _ p .. | .sext _ p ..
  | .zext _ p .. | .popc _ p .. | .clz _ p .. | .ctz _ p .. | .bext _ p .. | .bins _ p .. | .cmpeq _ p .. | .cmpne _ p ..
  | .cmplt _ p .. | .cmple _ p .. | .cmpltn _ p .. | .cmplen _ p .. | .sel _ p .. | .pand _ p .. | .por _ p ..
  | .pxor _ p .. | .pandn _ p .. | .pmov _ p .. | .ptos _ p .. | .dset _ p .. | .dget _ p .. | .crrd _ p .. | .crwr _ p ..
  | .sfld _ p .. | .fadds _ p .. | .fmuls _ p .. | .fcmplt _ p .. | .fcvtis _ p .. | .fcvtsi _ p .. => p
  | .br p .. | .brs p .. | .call p .. | .ret p .. | .loop p .. | .loopi p .. | .tail p .. | .phase p | .fence p ..
  | .waiteq p .. | .waitge p .. | .hwait p .. | .hrel p .. | .hset p .. | .trap p .. | .bkpt p .. => p
  | .ld p .. | .st p .. | .ldg p .. | .stg p .. | .vld p .. | .vst p .. | .vlds p .. | .vsts p .. | .vldx p .. | .vstx p ..
  | .vldt p .. | .vstt p .. | .ldb p .. | .amadd p .. | .ammax p .. | .ammin p .. | .amand p .. | .amor p .. | .futrd p ..
  | .futfill p .. | .kst p .. | .dld p .. | .dst p .. | .vldsc p .. => p
  | .vadd _ p .. | .vsub _ p .. | .vmul _ p .. | .vfma _ p .. | .vfms _ p .. | .vfnma _ p .. | .vmin _ p .. | .vmax _ p ..
  | .vabs _ p .. | .vneg _ p .. | .vcpys _ p .. | .vand _ p .. | .vor _ p .. | .vxor _ p .. | .vshl _ p .. | .vshr _ p ..
  | .vsra _ p .. | .vcmpeq _ p .. | .vcmplt _ p .. | .vcmple _ p .. | .vcmpne _ p .. | .vclass _ p .. | .vsel _ p ..
  | .vrcp _ p .. | .vrsqrt _ p .. | .vsqrt _ p .. | .vexp2 _ p .. | .vlog2 _ p .. | .vtanh _ p .. | .vcvt _ p ..
  | .vscale _ p .. | .vquant _ p .. | .vradd _ p .. | .vrmax _ p .. | .vrmin _ p .. | .vbcast _ p .. | .vperm _ p ..
  | .vrotl _ p .. | .viota _ p .. | .vmovk _ p .. | .kpopc _ p .. | .vsig _ p .. | .vmov _ p .. | .vextr _ p ..
  | .vins _ p .. | .vscan _ p .. => p
  | .mzero p .. | .mmul p .. | .mopa p .. | .macc p .. | .mscl p .. | .mdrn p .. | .mldz p .. | .mtrn p .. | .mcopy p ..
  | .mlu p .. | .mchol p .. | .mtrs p .. | .mqr p .. | .msolve p .. | .mresume p .. | .mperm p .. | .mnorm p .. => p
  | .kcpy p .. | .kmcst p .. | .kred p .. | .kidx p .. | .kgth p .. | .ksct p .. | .kroute p .. | .ka2a p .. | .kgat p ..
  | .kring p .. | .kfill p .. => p
  | .osgd p .. | .omom p .. | .oadam p .. | .oclip p .. | .oscl p .. | .ogsq p .. => p
  | _ => 0

/-- The registers and latches that a result which has not arrived will reach (R55). -/
def Landing.awaits (l : Landing) : List RegUse :=
  (l.writes.filterMap fun w => match w with
    | .s r _ => some (.s r)
    | .v r _ => some (.v r)
    | _ => none) ++
  (match l.latch with
    | some _ => [.q 4, .q 12]
    | none => [])
/-- A slot whose operations access memory or send commands. -/
def Slot.accesses : Slot → Bool
  | .m => true | .x => true | .k => true | .o => true
  | _ => false
/-- An operation of a V slot that reads memory: VSIG (R210, R253). -/
def Instr.reads : Instr → Bool
  | .vsig .. => true
  | _ => false
/-- Operations that take effect meet a result that has not arrived: their bundle does not issue (R55). The phase of a FUTRD
opens as its value arrives, so that an access after it belongs to that phase and waits too (R39, R264; log entry 51). -/
def Ctx.interlocked (x : Ctx) (ops : List (Slot × Instr)) : Bool :=
  let late := x.pipe.filter fun l => l.due.isNone
  let waits := late.flatMap Landing.awaits
  ops.any fun o => (!waits.isEmpty && (Instr.uses x o.2).any waits.contains) ||
    ((Slot.accesses o.1 || Instr.reads o.2) && late.any (·.opens))
/-- A load, a multiplication or a VSIG, which class 1 schedules a bundle earlier than the units deliver (R59, R60). -/
def Instr.late : Instr → Bool
  | .ld .. | .vld .. | .vlds .. | .vldx .. | .vldt .. | .vldsc .. | .dld .. | .vmul .. | .vfma .. | .vfms .. | .vfnma ..
  | .vscale .. | .vsig .. => true
  | _ => false
/-- The results of the current bundle as the units deliver them, which are natively those of class 0 (R60). -/
def Ctx.natively (x : Ctx) (ops : List (Slot × Instr)) : Ctx :=
  let slow (l : Landing) : Bool := l.n = x.n && ops.any fun o => o.1 = l.slot && Instr.late o.2
  if x.kclass = 1 then { x with pipe := x.pipe.map fun l => if slow l then { l with t := l.t + 1 } else l } else x

end Sys2Proof.Machine
end

