-- ==== Sys2Proof/Machine/Issue.lean ====
section
/-!
DEFINITION. Issuing a bundle: fetch, the checks and their order, stalls, the slot operations, what follows the bundle
(R30, R47, R55 to R58, R64, R67, R150, R153, R333 to R335, R350, R362 to R367), and the passing of device time.
-/
namespace Sys2Proof.Machine

/-! ## Fetch (R128, R129, R365) -/

/-- The failure of a fetch that read `h` (R365). -/
def fetchFail (pc : W32) (h : Nat) : Fail :=
  { code := 0x01, faddr := BitVec.ofNat 64 pc.toNat, d1 := BitVec.ofNat 64 (h * 2 ^ 16) }
/-- The bundle at the index address of context `c` (R128, R129, R365). -/
def State.fetchBundle (s : State) (c : CtxId) : Except Fail BundleBits :=
  let x := s.ctx c
  match x.stream.drop x.pc.toNat with
  | [] => .error (fetchFail x.pc 0xFFFF)
  | h :: t =>
    if h = 0xFFFF then
      if 24 ≤ t.length then .ok (halvesBundle (t.take 24)) else .error (fetchFail x.pc 0xFFFF)
    else if x.ndict ≤ h.toNat then .error (fetchFail x.pc h.toNat)
    else .ok ((s.core c.core).dict[c.bank].getD h.toNat 0)

/-! ## A bundle and its context -/

/-- The header is legal (R366). -/
def headOk (b : Bundle) : Bool := b.kind ≠ 3 && b.resv = 0
/-- The bundle predicate holds after inversion (R47). -/
def bundleOn (b : Bundle) (x : Ctx) : Bool := x.pget b.bpred != b.inv
/-- The operations that take effect (R47). -/
def acting (b : Bundle) (x : Ctx) : List (Slot × Instr) :=
  if bundleOn b x then b.slots.filterMap fun o => match o.2 with
    | .ok i => if x.pget (Instr.pred i) then some (o.1, i) else none
    | .error _ => none
  else []
/-- The slots of a pair hold something other than NOP (R64). -/
def bothSlots (b : Bundle) (s t : Slot) : Bool := b.slots.any (·.1 = s) && b.slots.any (·.1 = t)
/-- The bundle takes two cycles on a core with slot map `m` (R63, R64). -/
def splitsOn (b : Bundle) (m : Word) : Bool :=
  (bits m 0 2 = bits m 2 2 && bothSlots b .s0 .s1) || (bits m 4 2 = bits m 6 2 && bothSlots b .v0 .v1)

/-- Every lane of a gang has started: the first bundle waits for all copies of the scratchpad image (R134). -/
def State.gangStarted (s : State) (c : CtxId) : Bool :=
  (s.gang c).all fun l => (s.ctx l).stat ≠ .snapshot && (s.ctx l).stat ≠ .loaded
/-- A context can issue a bundle now: a bundle under way, stalled or released from its rendezvous, before the other bank's
turn (R67). -/
def State.canIssue (s : State) (c : CtxId) : Bool :=
  let x := s.ctx c
  x.stat = .running && x.wait = .none && !(x.ringQ.any RingRec.byLane) && decide (x.nextIssue ≤ s.time) &&
  (s.core c.core).cur = c.bank && (s.chosen c.core = c.bank || x.stalled || x.synced) && x.save.isNone && x.delivered s.time &&
  (x.n ≠ 0 || s.gangStarted c)

/-- A context can issue a bundle once a fence that has settled is over (R156). -/
def State.mayIssue (s : State) (c : CtxId) : Bool := (s.settleFence c).canIssue c

/-- What an operation of the current context comes to, issued in this state. -/
def State.verdictOf (s : State) (i : Instr) : Verdict := match exec i s with
  | .next t => t.verdict
  | _ => .ok

/-! ## Failures at issue (R335, R362, R363) -/

/-- The failure of a slot that is no instruction (R367). -/
def encFail (e : DecErr) : Fail := { code := e.code, d1 := if e.code = 0x04 then BitVec.ofNat 64 (e.bit * 2 ^ 16) else 0 }
/-- The slots of a bundle that fail, in the order of report: encodings whatever the predicates, operands only where the
operation takes effect (R335, R362). -/
def State.slotFails (s : State) (x : Ctx) (b : Bundle) : List (Slot × Fail) :=
  b.slots.filterMap fun o => match o.2 with
    | .error e => some (o.1, encFail e)
    | .ok i =>
      if bundleOn b x && x.pget (Instr.pred i) then match s.verdictOf i with
        | .failed sl f => some (sl, f)
        | _ => none
      else none
/-- Everything that fails in the bundle of context `c`, whose results due before it have landed (R363). -/
def State.fails (s : State) (c : CtxId) : List (Slot × Fail) :=
  match s.fetchBundle c with
  | .error f => [(.fetch, f)]
  | .ok w =>
    let b := decodeBundle w
    (if headOk b then [] else [(.fetch, { code := 0x02 })]) ++ s.slotFails (s.ctx c) b
/-- The bits of the other failing slots (R335, R337). -/
def failMask (l : List (Slot × Fail)) : Nat := l.foldl (fun n x => n + 2 ^ x.1.code) 0

/-- The state in which context `c` tries to issue. -/
def State.focus (s : State) (c : CtxId) : State := { (s.settleFence c).regrow c with cur := c }
/-- The state as context `c` sees it at its next bundle: results due before it have landed (R47). -/
def State.ready (s : State) (c : CtxId) : State := (s.focus c).landDue c
/-- The bundle of context `c` meets a result that has not arrived (R55). -/
def State.stalled (s : State) (c : CtxId) : Bool := match s.fetchBundle c with
  | .error _ => false
  | .ok w => (s.ctx c).interlocked (acting (decodeBundle w) (s.ctx c))
/-- What fails in the bundle that a lane would issue at this device time. -/
def State.failsNow (s : State) (l : CtxId) : List (Slot × Fail) :=
  let t := s.ready l
  if !(s.mayIssue l) || t.stalled l then [] else t.fails l
/-- The lane of a gang peer whose own bundle fails at this device time writes its own record (R335). -/
def State.peerRecord (s : State) (l : CtxId) : State :=
  match s.failsNow l with
  | [] => s
  | (sl, f) :: rest =>
    let x := (s.ready l).ctx l
    (s.failSide l x.asid f).ctxRecord l (preciseWords l sl (failMask rest) x.pc x.pc x.step x.opb f) .nothing
/-- The recovery after failures of lanes `g` beside the failure `f` of context `c`: its own code's, unless that is rung 3
and a peer's is rung 4, for which the node is aborted (R342, R344). -/
def State.gangAfter (s : State) (c : CtxId) (f : Fail) (g : List CtxId) : After :=
  let run := (s.ctx c).run
  if rung f.code.toNat = 4 then .recover run
  else match g.findSome? fun l => ((s.failsNow l).head?.filter fun x => rung x.2.code.toNat = 4).map fun x => (l, x.2) with
    | some (l, e) => .recoverAs run l.core.val e.code.toNat
    | none => .recover run
/-- A bundle that fails at issue (R334, R335): the peers' records, then the precise trap. -/
def State.bundleTrap (s : State) (c : CtxId) (l : List (Slot × Fail)) : State :=
  match l with
  | [] => s
  | (sl, f) :: rest =>
    let g := (s.gang c).filter (· ≠ c)
    (g.foldl State.peerRecord s).trapAs c sl (failMask rest) (s.ctx c).pc (s.ctx c).pc f (s.gangAfter c f g)

/-! ## Issue (R47, R57, R64, R150, R153) -/

/-- A FUTFILL, whose close counts every other operation of its bundle before it (R41, R334). -/
def Instr.fills : Instr → Bool
  | .futfill .. => true
  | _ => false
/-- The operations of a bundle in the order they act: the X and K slots after the O slot, which reads at issue (R224), a
FUTFILL after the other slots, the C slot last (R150). The M slot comes before the X, K and O slots, for accesses outside
the scratchpads too, where the spec gives no order within a bundle: DESIGN CHOICE (log entry 64). -/
def actOrder (l : List (Slot × Instr)) : List Instr :=
  let rank (o : Slot × Instr) : Nat := if o.1 = .c then 3 else if Instr.fills o.2 then 2 else if o.1 = .x || o.1 = .k then 1 else 0
  ((List.range 4).flatMap fun n => l.filter fun o => rank o = n).map Prod.snd
/-- The step of run `run` still runs on context `c`. -/
def State.goesOn (s : State) (c : CtxId) (run : Nat) : Bool := (s.ctx c).run = run && (s.ctx c).stat = .running

/-- One operation of a bundle. Where an operation of the bundle already waits, a further wait begins after that one. -/
def State.act (s : State) (c : CtxId) (i : Instr) : Out :=
  let w := (s.ctx c).wait
  if w = .none then exec i s
  else match exec i (s.modCtx c fun x => { x with wait := .none }) with
    | .next t =>
      if (s.ctx c).run = (t.ctx c).run && (t.ctx c).stat = .running then
        .next (t.modCtx c fun x => { x with wait := w, next := if x.wait = .none then x.next else x.next ++ [x.wait] })
      else .next t
    | o => o
/-- The operations of a bundle, until the step stops. -/
def State.runOps (c : CtxId) (run : Nat) : List Instr → State → Out
  | [], s => .next s
  | i :: t, s =>
    if s.goesOn c run && s.verdict = .ok then match s.act c i with
      | .next u => State.runOps c run t u
      | o => o
    else .next s

/-- A bundle of a core has issued (R319). -/
def State.countBundle (s : State) (core : Fin 128) (split : Bool) : State :=
  s.modCore core fun k => { k with perf := { k.perf with
    bundles := k.perf.bundles + 1
    splits := k.perf.splits + if split then 1 else 0 } }
/-- What follows a bundle of context `c` (R57, R64, R153, R319): counts, the next index address, time. -/
def State.finishBundle (s : State) (c : CtxId) (split : Bool) : State :=
  let s := s.modCtx c fun x => { x with
    lastPc := x.pc
    pc := x.follow.1
    loops := x.follow.2
    redir := x.redir.filter fun r => r.1 ≠ x.n + 1
    skip := none
    n := x.n + 1
    stalled := false
    synced := false
    nextIssue := max x.nextIssue (s.time + if split then 2 else 1) }
  (s.countBundle c.core split).modCore c.core fun k => { k with ready := k.ready.filter fun q => q.2 ≠ c.bank }
/-- The watchdog counts from the first bundle on (R276). -/
def Ctx.firstBundle (x : Ctx) (t : Nat) : Ctx := if x.n = 0 then { x with
  wdAcc := 0
  wdSince := some t } else x
/-- The bundle does not issue in this cycle (R56). -/
def State.stall (s : State) (c : CtxId) : State :=
  s.modCtx c fun x => { x with stalled := true, nextIssue := max x.nextIssue (s.time + 1) }
/-- What a bundle that is held back changes while every result in flight stays where it is (R56): its lane's wait, its
watchdog count and the answer it has used, and the flits it has sent. -/
def State.heldAs (s t : State) (c : CtxId) : State :=
  let y := t.ctx c
  ({ s with ports := t.ports }).modCtx c fun x => { x with
    wait := y.wait
    wdAcc := y.wdAcc
    wdSince := y.wdSince
    answer := y.answer }
/-- The state in which the first operation that holds its bundle back leaves the context. -/
def State.holding (s : State) : List Instr → Option State
  | [] => none
  | i :: t => match exec i s with
    | .next u => if u.verdict = .held then some u else s.holding t
    | _ => s.holding t

/-- A decoded bundle issues in state `s`, whose due results have landed; where it stalls they have not, in `u` (R56). -/
def State.issueBundle (s u : State) (c : CtxId) (b : Bundle) : Out :=
  let x := s.ctx c
  let ops := acting b x
  if !(headOk b) then .next (s.bundleTrap c ((.fetch, { code := 0x02 }) :: s.slotFails x b))
  else if x.interlocked ops then .next (u.stall c)
  else if b.kind = 1 && decide (1 < x.width) && !x.synced then exec (.syncBundle c) u
  else match s.slotFails x b with
    | f :: l => .next (s.bundleTrap c (f :: l))
    | [] => match s.holding (ops.map Prod.snd) with
      | some t => .next ((u.heldAs t c).stall c)
      | none =>
        match State.runOps c x.run (actOrder ops) { s.modCtx c (·.firstBundle s.time) with verdict := .ok } with
        | .next t =>
          let split := splitsOn b (t.core c.core).slotmap
          if t.goesOn c x.run && t.verdict = .ok then
            let t := (t.modCtx c fun y => y.natively ops).finishBundle c split
            if b.kind = 2 then exec (.endOfStepBundle c) t else .next t
          -- a bundle whose operations ended the step has issued all the same, unless one of them failed at issue (R334)
          else .next (match t.verdict with
            | .failed _ _ => t
            | .held => t
            | _ => t.countBundle c.core split)
        | o => o
/-- Context `c` tries to issue its next bundle. -/
def State.issueOne (s : State) (c : CtxId) : Out :=
  let u := s.focus c
  let t := s.ready c
  if !u.canIssue c then .next u
  else match t.fetchBundle c with
    | .error f => .next (t.bundleTrap c [(.fetch, f)])
    | .ok w => t.issueBundle u c (decodeBundle w)

/-- The bundle of context `c` has an operation of a kind that takes effect. -/
def State.bundleHas (s : State) (c : CtxId) (p : Instr → Bool) : Bool :=
  let t := s.ready c
  match t.fetchBundle c with
  | .error _ => false
  | .ok w => (acting (decodeBundle w) (t.ctx c)).any fun o => p o.2
/-- The instruction is a FUTRD. -/
def Instr.readsFuture : Instr → Bool
  | .futrd .. => true
  | _ => false
/-- The instruction accesses a future. -/
def Instr.onFuture (i : Instr) : Bool := Instr.readsFuture i || Instr.fills i
/-- Contexts that issue before context `c`, whose bundle accesses a future, and context `c`: the cores of lower number that
access one at the same device time, in order (R349), each reader after those gang peers that close a phase without a
future (R350). -/
def State.futureOrder (s : State) (c : CtxId) : List CtxId :=
  let closers (l : CtxId) : List CtxId := if s.bundleHas l Instr.readsFuture then
      (s.gang l).filter fun p => p ≠ l && s.mayIssue p && !s.bundleHas p Instr.onFuture
    else []
  if s.bundleHas c Instr.onFuture then
    (((allCtxs.filter fun l => decide (l.core < c.core) && s.mayIssue l && s.bundleHas l Instr.onFuture) ++ [c]).flatMap
      fun l => closers l ++ [l]).eraseDups
  else [c]
/-- A gang peer that fills a future at this device time closes a phase that counts as earlier than an empty read, though
by its core number the fill comes after it: the read finds a step that has closed (R349, R350). -/
def State.foresee (s : State) (c : CtxId) : State :=
  let run := (s.ctx c).run
  let closes (l : CtxId) : Bool := match s.issueOne l with
    | .next u => (u.getRun run).any (·.closed)
    | _ => false
  if s.bundleHas c Instr.readsFuture && (s.gang c).any fun l => l ≠ c && s.mayIssue l && s.bundleHas l Instr.fills && closes l then
    s.modRun run fun r => { r with closed := true }
  else s
/-- Contexts try to issue one after another. -/
def State.issueEach : List CtxId → State → Out
  | [], s => .next s
  | c :: t, s => match (s.foresee c).issueOne c with
    | .next u => State.issueEach t u
    | o => o
/-- The bundle of a lane that is free to issue its sync bundle stalls all the same (R56). -/
def State.blocked (s : State) (c : CtxId) : Bool := match s.issueOne c with
  | .next u => (u.ctx c).synced && s.goesOn c (u.ctx c).run && (u.ctx c).stat = .running
  | _ => false
/-- Lanes whose rendezvous is complete issue their sync bundles in one bundle time, or none of them does (R30). -/
def State.issueSync (s : State) (g : List CtxId) : Out :=
  let wait (s : State) : State := g.foldl State.stall s
  if !g.all s.mayIssue then .next (wait s)
  else match g.find? s.blocked with
    | some l => match s.issueOne l with
      | .next u => .next (wait u)
      | o => o
    | none => State.issueEach g s
/-- A context issues, with its gang where it stands at a rendezvous that is complete (R30). -/
def State.issueLane (s : State) (c : CtxId) : Out :=
  if (s.ctx c).synced then
    let g := (s.gang c).filter fun l => (s.ctx l).synced
    s.issueSync (g.filter (fun l => !s.bundleHas l Instr.onFuture) ++ g.filter fun l => s.bundleHas l Instr.onFuture)
  else (s.foresee c).issueOne c
/-- Contexts in turn, each with its gang. -/
def State.issueAll : List CtxId → State → Out
  | [], s => .next s
  | c :: t, s => match s.issueLane c with
    | .next u => State.issueAll t u
    | o => o
/-- A context tries to issue (R30, R349, R350). -/
def State.issue (s : State) (c : CtxId) : Out := State.issueAll (s.futureOrder c) s

/-! ## Device time (R8, R274, R276) -/

/-- Cycles until the first of the next slot boundary, the wrap of device time, the limit of a core that waits for a trace's
node and a watchdog's limit, at most `k` (R8, R274, R276, R358). -/
def State.span (s : State) (k : Nat) : Nat :=
  let traces := s.cores.toList.flatMap fun c => c.traceWait.map fun w => w.2 + s.asidWord w.1 8 % 2 ^ 17 + 1 - s.time
  ((traces.filter (0 < ·)) ++ allCtxs.filterMap fun c =>
    let x := s.ctx c
    if (x.stat = .running || x.stat = .ending || x.stat = .finished) && x.wdSince.isSome then
      some (x.wdLimit.toNat - x.wdCount s.time)
    else none).foldl min (min k (min (Config.slotCycles - s.clock % Config.slotCycles) (2 ^ 64 - s.clock)))
/-- Watchdogs whose limit is reached expire (R355). -/
def State.expire (s : State) : Out := match allCtxs.find? s.expired with
  | some c => exec (.watchdogExpiry c) s
  | none => .next s
/-- Events one after another. -/
def sweep : List Instr → State → Out
  | [], s => .next s
  | i :: t, s => match exec i s with
    | .next u => sweep t u
    | o => o
/-- The decisions of the schedulers: what replaying cores do, where a trace is replayed, and the dispatches of the four
dies. -/
def State.decisions (s : State) : List Instr :=
  (if s.replaying.isEmpty then [] else (List.finRange 128).flatMap fun c => [.traceReplayDispatch c, .traceWaitTimeout c]) ++
  (List.finRange 4).map .dispatchDecision
/-- How far the schedulers have come: steps dispatched, nodes met, nodes aborted. -/
def State.decidedTo (s : State) : Nat × Nat × Nat :=
  (s.nextRun, s.nodes.length, (s.nodes.filter fun n => n.dying.isSome).length)
/-- The schedulers decide again until none of them has a step to place (R269); every round that changes something takes
one of the 256 context banks or aborts a node. -/
def State.decideAll : Nat → State → Out
  | 0, s => .next s
  | k + 1, s => match sweep s.decisions s with
    | .next t => if t.decidedTo = s.decidedTo then .next t else State.decideAll k t
    | o => o
/-- Time passes up to the next event that time itself brings; what is left of it comes back first on the agenda. -/
def State.advanceTime (s : State) (k : Nat) : Out :=
  let d := s.span k
  let s := { s with
    time := s.time + d
    agenda := if d < k then .tick (k - d) :: s.agenda else s.agenda }
  if 0 < d && s.clock % Config.slotCycles = 0 then match exec .slotBoundary s with
    | .next t => t.expire
    | o => o
  else s.expire
/-- Device time passes: first the schedulers decide whatever this device time has brought (R269). -/
def State.pass (s : State) (k : Nat) : Out := match State.decideAll (257 + s.nodes.length) s with
  | .next t => t.advanceTime k
  | o => o

/-! ## What happens when the outside world asks for nothing (log entry 4) -/

/-- The instruction is an operation of a slot or of a bundle's header: it happens only as its bundle issues. -/
def Instr.inBundle (i : Instr) : Bool := (encode i).isSome || (match i with
  | .syncBundle _ => true
  | .endOfStepBundle _ => true
  | _ => false)
/-- Events of one command. -/
def eventsK (k : KCmd) : List Instr :=
  [.kCommandStart k.id, .kredAccept k.id, .kringClaim k.id, .sourceReadDone k.id, .visibleLevel k.id,
   .loadBlockResident k.id] ++ (List.range k.parties).map (.ka2aSend k.id)
/-- Events of one context. -/
def eventsC (c : CtxId) : List Instr :=
  [.stepSnapshotSave c, .saveAbandon c, .stepStart c, .syncRelease c, .waitSatisfied c, .hwaitSatisfied c, .xBarrierSatisfied c,
   .matrixEngineStep c, .matrixStepReplay c, .resultLand c, .laneFinish c]
/-- Events of one node. -/
def eventsN (n : Node) : List Instr :=
  [.nodeActivation n.asid n.opb, .randomBufferFill n.asid n.opb, .nodeRetirement n.asid n.opb, .preemptionSave n.asid n.opb]
/-- Events of the schedulers and the cores. -/
def eventsD : List Instr :=
  (List.finRange 4).map .clusterClaim ++ (List.finRange 128).flatMap fun c =>
    [.bankSwitch c, .traceReplayDispatch c, .traceWaitTimeout c, .heartbeatSend c, .heartbeatPeriodEnd c]
/-- The command of a mailbox (R303). -/
def mailEvent (m : Mailbox) (i : Fin 16) : Instr := match m.cmd.toNat with
  | 1 => .submitGraph i | 2 => .loadModule i | 3 => .preemptNode i | 4 => .preemptAsid i | 5 => .resumeNode i
  | 6 => .setDebugging i | 7 => .releaseBreakpoint i | 8 => .abortNodes i | 9 => .poisonFuture i
  | _ => .mailboxReservedCommand i
/-- The fill a VSIG waits for (R210). -/
def State.fillFor (s : State) (c : CtxId) : Option Instr := match (s.ctx c).wait with
  | .projection hcb => some (.projectionCacheFill c.core hcb)
  | _ => none
/-- Control cores whose next heartbeat is due (R360). -/
def State.beats (s : State) : List Instr :=
  ((List.finRange 8).filter fun i => decide (controlPeriod ≤ s.time - s.ctlBeat[i])).map .controlHeartbeat
/-- All events that may be enabled. Command errors follow what traps at the same device time (R335); the decisions of the
schedulers, which time brings about before it passes, follow what they have to see (R269, R280). -/
def State.events (s : State) : List Instr :=
  (s.mbQueue.map fun q => mailEvent s.mail[q.2] q.2) ++ s.kcmds.flatMap eventsK ++
  ((allCtxs.filter fun c => (s.ctx c).stat ≠ .empty).flatMap eventsC) ++ allCtxs.filterMap s.fillFor ++
  (s.closing.map fun q => .closeWriteArrival q.owner) ++ (s.kcmds.map fun k => .commandError k.id) ++
  ((s.kcmds.filter (·.posted)).map fun k => .ka2aRoundAdvance k.asid k.sa.toNat) ++ s.nodes.flatMap eventsN ++ s.beats ++ eventsD
/-- With an empty agenda a context that can issue does; else every enabled event happens and a cycle passes. -/
def State.idle (s : State) : Out :=
  match (s.cur :: allCtxs).find? s.mayIssue with
  | some c => s.issue c
  | none => match sweep s.events s with
    | .next t => t.pass 1
    | o => o

/-- One move of the agenda. -/
def State.perform (s : State) : Move → Out
  | .issue c => s.issue c
  | .act i => if Instr.inBundle i then .next s else exec i s
  | .tick k => s.pass k
  | .stage off bs => .next (s.stageWrite off bs)
  | .mailbox mb off v => .next (s.mailboxWrite mb off v)
  | .monitor i off v => .next (s.monitorWrite i off v)
  | .zenhel ws => .next (s.extWrite ws)
  | .policy f code => .next { s with policy := Sparse.set 0 s.policy f code }

end Sys2Proof.Machine
end

