-- ==== Sys2Proof/Machine/Step.lean ====
section
/-!
DEFINITION. One step of the module: the next move of the agenda, or what the device does by itself.
-/
namespace Sys2Proof.Machine

/-- One step: the head of the agenda; with an empty agenda the device's own next event (log entry 4). -/
def step (s : State) : Host.Outcome State Fault Refusal :=
  match s.agenda with
  | m :: t => ({ s with agenda := t }).perform m
  | [] => s.idle

/-- `s` with the table word `w` of `nbits` bits as the one slot operation of the bundle that the next step issues: the
current context runs a step whose index stream holds, at its index address, an escape and that bundle (R129); its core
issues from that bank. A program reaches a context by a node's dispatch (R271) and STEP_START (R32); this stands for
it (log entry 18). -/
def State.withFetchWord (s : State) (nbits w : Nat) : State :=
  let c := s.cur
  let s := s.modCtx c fun x => { x with
    stat := .running
    wait := .none
    next := []
    synced := false
    ringQ := []
    save := none
    nextIssue := 0
    n := if s.gangStarted c then x.n else max x.n 1
    pipe := (x.pipe.filter fun l => l.due.isSome).map fun l => { l with t := min l.t s.time }
    stream := List.replicate x.pc.toNat 0 ++ 0xFFFF :: bundleHalves (tableBundle nbits w) }
  { s.modCore c.core fun k => { k with cur := c.bank, ready := [] } with agenda := .issue c :: s.agenda }

end Sys2Proof.Machine
end

