-- ==== Sys2Proof/Safety.lean ====
section
/-!
DEFINITION. What counts as a safe step, and the terms in which the statements speak of an instruction's outcome.
-/
namespace Sys2Proof.Machine

/-! ## Safe steps -/

/-- Every sparse store of the module is in its canonical form, so that equal contents are equal data. -/
structure State.Canonical (s : State) : Prop where
  mem    : Memory.wf s.mem = true
  exact  : Sparse.wf none s.exact = true
  policy : Sparse.wf 0 s.policy = true
  arenas : Sparse.wf Arena.none s.arenas = true

/-- A safe outcome: the machine goes on, neither faulting nor refusing, in a canonical state. -/
def Safe (o : Out) : Prop := ∃ t, o = .next t ∧ t.Canonical

/-! ## Outcomes of a slot operation -/

/-- A state in which the slot operation just made has issued. -/
def State.issued (s : State) : State := { s with verdict := .ok }

/-- The operation fails at issue: a precise trap is taken before its bundle, for failure `f` of slot `sl` (R334). -/
def Traps (i : Instr) (s : State) (sl : Slot) (f : Fail) : Prop :=
  exec i s = .next { s.trap s.cur sl 0 s.me.pc s.me.pc f with verdict := .failed sl f }

/-- The operation does not issue yet: its bundle is held and nothing changes (R56). -/
def Holds (i : Instr) (s : State) : Prop := exec i s = .next { s with verdict := .held }

/-! ## Accesses of the M slot (R178, R213, R257) -/

/-- An access of kind `k` to these bytes meets no open byte of the lane's own engine commands and conflicts with no
access of another step. -/
def State.Clear (s : State) (k : AKind) (l : List Span) : Prop :=
  lowestAddr (spanNames (s.ownOpen s.cur k) l) = none ∧ s.firstClash s.cur s.me.run k s.me.phaseOpen none l = none
/-- The access has joined those that the conflict rule looks at. -/
def State.logged (s : State) (k : AKind) (l : List Span) : State :=
  { s with accs := s.accs ++ l.map fun x => ⟨s.cur, s.me.run, s.me.step, x.name, x.loc, x.len, k, s.me.phaseOpen, none⟩ }
/-- The spans of a scratchpad access to units. -/
def State.unitSpans (s : State) (f : Nat) (us : Units) : List Span :=
  spansOf (us.map fun u =>
    (if f = 6 then BitVec.ofNat 64 (u.1.toNat / 32 * 32) else u.1, widenFoot f (Units.locs [u] s.cur.core)))

/-! ## Frames -/

/-- `t` differs from `s` at most in context `c` and in what the last slot operation came to. -/
def OnlyContext (c : CtxId) (s t : State) : Prop :=
  t = { s with
    ctxs := t.ctxs
    verdict := t.verdict } ∧ ∀ e, e ≠ c → t.ctx e = s.ctx e
/-- The registers of a context, the control registers among them, are those of another. -/
def SameRegs (x y : Ctx) : Prop :=
  y.sreg = x.sreg ∧ y.preg = x.preg ∧ y.vreg = x.vreg ∧ y.kreg = x.kreg ∧ y.dreg = x.dreg ∧ y.zreg = x.zreg ∧
  y.pvreg = x.pvreg ∧ y.hreg = x.hreg ∧ y.oreg = x.oreg ∧ y.qreg = x.qreg ∧ y.cr = x.cr ∧ y.trapring = x.trapring

/-! ## Results of the V slot (R98, R99, R192) -/

/-- The tags that the version and provenance checks look at: those of the sources and, under a mask other than k0, that
of the destination. -/
def State.vtags (s : State) (d : Dst 32) (mask : Fin 8) (xs : List VIn) : List Half :=
  xs.map VIn.tag ++ if mask = 0 then [] else [s.me.vreg[d.reg].tag]
/-- The scl, prov and ver bits of an unscaled result: the prov and ver that the tracked tags have in common (R98). -/
def State.common (s : State) (d : Dst 32) (mask : Fin 8) (xs : List VIn) : Nat :=
  match (s.vtags d mask xs).find? (fun t => bits t 6 4 ≠ 0) with
  | some t => 2 * bits t 5 5
  | none => 0
/-- Tracked tags agree in version and provenance. -/
def Agree (ts : List Half) : Prop :=
  ∀ t ∈ ts, ∀ u ∈ ts, bits t 6 4 ≠ 0 → bits u 6 4 ≠ 0 → bits t 6 4 = bits u 6 4 ∧ bits t 5 1 = bits u 5 1
/-- A source of element type `e`: untyped, or of this format and unscaled. -/
def Plain (e : Nat) (x : VIn) : Prop := bits x.tag 0 4 = 0 ∨ (bits x.tag 0 4 = e ∧ bitAt x.tag 4 = false)
/-- The sources of a V-slot operation are read as `xs`, and the checks that every operation makes pass: the tracked tags
agree, and a destination that is merged into has the result's format or none. -/
structure State.Sources (s : State) (d : Dst 32) (mask : Fin 8) (fmt : Nat) (srcs : List VSrc) (xs : List VIn) : Prop where
  read  : s.me.readVs srcs = .ok xs
  old   : mask ≠ 0 → bits s.me.vreg[d.reg].tag 0 4 = 0 ∨ bits s.me.vreg[d.reg].tag 0 4 = fmt
  agree : Agree (s.vtags d mask xs)

/-- A destination that arithmetic of element type `e` merges into is one more source of it (R99, R192). -/
def State.OldPlain (s : State) (d : Dst 32) (mask : Fin 8) (e : Nat) : Prop := mask ≠ 0 → Plain e (.reg s.me.vreg[d.reg])

/-- Some lane of format `f` is infinite or NaN. -/
def someNonfin (f : Nat) (v : Vector W32 128) : Prop :=
  ∃ q, fmtOf f = some q ∧ ∃ j : Fin 128, (q.dec v[j].toNat).isNan = true ∨ (q.dec v[j].toNat).isInf = true
/-- Every lane of format `f` is a zero. -/
def allZeros (f : Nat) (v : Vector W32 128) : Prop :=
  ∀ j : Fin 128, match fmtOf f with
    | some q => (q.dec v[j].toNat).isZero = true
    | none => v[j] = 0

/-- The operation issues and its vector lands whole after `lat` bundles: lane j is `lane j` where mask `k` selects it and
keeps the destination's low bits elsewhere; the tag is made of the format, the scl, prov and ver bits `head`, and the
summaries of the 128 lanes; the flags are those of the selected lanes. Nothing else changes. -/
def DeliversV (i : Instr) (s : State) (u : VUnit) (d : Dst 32) (lat : Nat) (k : Mask) (fmt head : Nat) (scale : W32)
    (lane : Nat → Nat × Flags) : Prop :=
  ∃ (x : VReg) (f : Flags),
    exec i s = .next (s.land u.slot lat (if d.nowb then [] else [.v d.reg x]) (some (.vec x)) f).issued ∧
    (∀ j : Fin 128, x.lanes[j] = BitVec.ofNat 32 (if k.getLsbD j.val then (lane j.val).1
      else s.me.vreg[d.reg].lanes[j].toNat % 2 ^ fmtBits fmt)) ∧
    x.scale = scale ∧ bits x.tag 0 4 = fmt ∧ bits x.tag 4 6 = head ∧
    (x.tag.getLsbD 10 = true ↔ someNonfin fmt x.lanes) ∧ (x.tag.getLsbD 11 = true ↔ allZeros fmt x.lanes) ∧
    bits x.tag 12 4 = 0 ∧
    ∀ b : Nat, f.getLsbD b = true ↔ ∃ j : Fin 128, k.getLsbD j.val = true ∧ (lane j.val).2.getLsbD b = true

end Sys2Proof.Machine
end

