-- ==== Sys2Proof/Certificates/Slice0/Obligations.lean ====
section
/-!
DEFINITION. The statements for the provers. A statement of what an instruction does holds for every state in which its
slot operation takes effect; what it changes is given as the next state whole, so that it says what stays as well. One
that reads storage after a write takes as a premise that the stores are in canonical form, which every step keeps
(StepsAreSafe, ResetIsCanonical).
-/
open Sys2Proof Sys2Proof.Machine

/-! ## The scalar slots -/

/-- R139: the sums, products, logic, shifts and choices of two scalar operands, each with its latency (R54); the result goes to
the destination and the latch, and raises no flag.
R140: quotient and remainder at latency 18; a zero divisor gives all ones and the dividend and raises dz; -2^63 / -1 gives
-2^63 and 0 and raises ovf; else a = q * b + r with the quotient truncated toward zero. -/
def Obligations.ScalarIntegersDeliver : Prop :=
  (∀ (s : State) (u : SUnit) (p : Fin 64) (d : Dst 64) (a : SSrc) (b : SBSrc) (x y : SVal),
    s.me.pget p = true → s.me.readS a = .ok x → s.me.readSB b = .ok y →
    let sh := y.val.toNat % 64
    let gives (i : Instr) (lat : Nat) (v : Word) : Prop := exec i s = .next (s.landS u.slot lat d v 0).issued
    gives (.add u p d a b) 1 (x.val + y.val) ∧
    gives (.sub u p d a b) 1 (x.val - y.val) ∧
    gives (.mul u p d a b) 3 (x.val * y.val) ∧
    gives (.mulh u p d a b) 3 (BitVec.ofInt 64 (x.val.toInt * y.val.toInt / 2 ^ 64)) ∧
    gives (.mulhn u p d a b) 3 (BitVec.ofNat 64 (x.val.toNat * y.val.toNat / 2 ^ 64)) ∧
    gives (.and u p d a b) 1 (x.val &&& y.val) ∧
    gives (.or u p d a b) 1 (x.val ||| y.val) ∧
    gives (.xor u p d a b) 1 (x.val ^^^ y.val) ∧
    gives (.andn u p d a b) 1 (x.val &&& ~~~y.val) ∧
    gives (.shl u p d a b) 1 (BitVec.ofNat 64 (x.val.toNat * 2 ^ sh)) ∧
    gives (.shr u p d a b) 1 (BitVec.ofNat 64 (x.val.toNat / 2 ^ sh)) ∧
    gives (.sra u p d a b) 1 (BitVec.ofInt 64 (x.val.toInt / 2 ^ sh)) ∧
    gives (.min u p d a b) 1 (if x.val.toInt ≤ y.val.toInt then x.val else y.val) ∧
    gives (.max u p d a b) 1 (if x.val.toInt ≤ y.val.toInt then y.val else x.val) ∧
    gives (.minn u p d a b) 1 (if x.val.toNat ≤ y.val.toNat then x.val else y.val) ∧
    gives (.maxn u p d a b) 1 (if x.val.toNat ≤ y.val.toNat then y.val else x.val) ∧
    gives (.lea u p d a b) 1 (BitVec.ofNat 64 ((x.val.toNat + y.val.toNat) % 2 ^ 56))) ∧
  (∀ (s : State) (u : SUnit) (p : Fin 64) (d : Dst 64) (a : SSrc) (b : SBSrc) (x y : SVal),
    s.me.pget p = true → s.me.readS a = .ok x → s.me.readSB b = .ok y →
    let gives (i : Instr) (v : Word) (f : Flags) : Prop := exec i s = .next (s.landS u.slot 18 d v f).issued
    (y.val = 0 →
      gives (.divs u p d a b) (BitVec.allOnes 64) fDz ∧ gives (.divn u p d a b) (BitVec.allOnes 64) fDz ∧
      gives (.rems u p d a b) x.val fDz ∧ gives (.remn u p d a b) x.val fDz) ∧
    (y.val ≠ 0 →
      gives (.divn u p d a b) (BitVec.ofNat 64 (x.val.toNat / y.val.toNat)) 0 ∧
      gives (.remn u p d a b) (BitVec.ofNat 64 (x.val.toNat % y.val.toNat)) 0) ∧
    (x.val = BitVec.intMin 64 → y.val = BitVec.allOnes 64 →
      gives (.divs u p d a b) (BitVec.intMin 64) fOvf ∧ gives (.rems u p d a b) 0 fOvf) ∧
    (y.val ≠ 0 → ¬(x.val = BitVec.intMin 64 ∧ y.val = BitVec.allOnes 64) →
      gives (.divs u p d a b) (BitVec.ofInt 64 (x.val.toInt.tdiv y.val.toInt)) 0 ∧
      gives (.rems u p d a b) (BitVec.ofInt 64 (x.val.toInt.tmod y.val.toInt)) 0))

/-- R141, R142: MOVI, MOVK and the bit-field instructions. `d_old` is the destination register as read. -/
def Obligations.BitFieldsDeliver : Prop :=
  ∀ (s : State) (u : SUnit) (p : Fin 64) (d : Dst 64), s.me.pget p = true →
    let old := (s.me.sget d.reg).val
    let gives (i : Instr) (v : Word) : Prop := exec i s = .next (s.landS u.slot 1 d v 0).issued
    (∀ imm, gives (.movi u p d imm) (imm.signExtend 64)) ∧
    (∀ v h, ∃ r, gives (.movk u p d v h) r ∧ ∀ i : Nat, i < 64 →
      r.getLsbD i = if 16 * h.toNat ≤ i ∧ i < 16 * h.toNat + 16 then v.getLsbD (i - 16 * h.toNat) else old.getLsbD i) ∧
    (∀ a x w, s.me.readS a = .ok x →
      gives (.sext u p d a w) (BitVec.ofInt 64 (sextNat x.val.toNat w.toNat)) ∧
      gives (.zext u p d a w) (BitVec.ofNat 64 (x.val.toNat % 2 ^ w.toNat)) ∧
      gives (.popc u p d a) (BitVec.ofNat 64 ((List.range 64).filter fun i => x.val.getLsbD i).length) ∧
      (∃ n, gives (.clz u p d a) (BitVec.ofNat 64 n) ∧ n ≤ 64 ∧ x.val.toNat < 2 ^ (64 - n) ∧
        (n < 64 → 2 ^ (63 - n) ≤ x.val.toNat)) ∧
      (∃ n, gives (.ctz u p d a) (BitVec.ofNat 64 n) ∧ n ≤ 64 ∧ (∀ i < n, x.val.getLsbD i = false) ∧
        (n < 64 → x.val.getLsbD n = true))) ∧
    (∀ a b x y, s.me.readS a = .ok x → s.me.readSB b = .ok y →
      let lo := y.val.toNat % 64
      let w := y.val.toNat / 64 % 64 + 1
      gives (.bext u p d a b) (BitVec.ofNat 64 (x.val.toNat / 2 ^ lo % 2 ^ w)) ∧
      ∃ r, gives (.bins u p d a b) r ∧ ∀ i : Nat, i < 64 →
        r.getLsbD i = if lo ≤ i ∧ i < lo + w then x.val.getLsbD (i - lo) else old.getLsbD i)

/-- R143: the compares deliver the truth of their relation to a predicate.
R144: the predicate instructions, PTOS and SEL. -/
def Obligations.ComparesAndPredicatesDeliver : Prop :=
  (∀ (s : State) (u : SUnit) (p : Fin 64) (d : Dst 64) (a : SSrc) (b : SBSrc) (x y : SVal),
    s.me.pget p = true → s.me.readS a = .ok x → s.me.readSB b = .ok y →
    let gives (i : Instr) (v : Bool) : Prop := exec i s = .next (s.landP u.slot 1 d v 0).issued
    gives (.cmpeq u p d a b) (decide (x.val = y.val)) ∧
    gives (.cmpne u p d a b) (decide (x.val ≠ y.val)) ∧
    gives (.cmplt u p d a b) (decide (x.val.toInt < y.val.toInt)) ∧
    gives (.cmple u p d a b) (decide (x.val.toInt ≤ y.val.toInt)) ∧
    gives (.cmpltn u p d a b) (decide (x.val.toNat < y.val.toNat)) ∧
    gives (.cmplen u p d a b) (decide (x.val.toNat ≤ y.val.toNat))) ∧
  (∀ (s : State) (u : SUnit) (p : Fin 64) (d : Dst 64) (a : SSrc) (x : Bool),
    s.me.pget p = true → s.me.readP a = .ok x →
    let gives (i : Instr) (v : Bool) : Prop := exec i s = .next (s.landP u.slot 1 d v 0).issued
    (∀ b y, s.me.readP b = .ok y →
      gives (.pand u p d a b) (x && y) ∧ gives (.por u p d a b) (x || y) ∧ gives (.pxor u p d a b) (xor x y) ∧
      gives (.pandn u p d a b) (x && !y)) ∧
    gives (.pmov u p d a) x ∧
    exec (.ptos u p d a) s = .next (s.landS u.slot 1 d (if x then 1 else 0) 0).issued ∧
    (∀ b y, s.me.readSB b = .ok y →
      exec (.sel u p d a b) s = .next (s.landS u.slot 1 d (if x then y.val else (s.me.sget d.reg).val) 0).issued))

/-- R148: scalar FP32. The operands are the low halves; an FP32 result has [63:32] zero. That b of
FADDS, FMULS and FCMPLT may be any of s0 to s63 is the model's reading (log entry 66). -/
def Obligations.ScalarFloatDelivers : Prop :=
  ∀ (s : State) (u : SUnit) (p : Fin 64) (d : Dst 64) (a b : SSrc) (x y : SVal),
    s.me.pget p = true → s.me.readS a = .ok x → s.me.readS b = .ok y →
    let fx := fp32.dec (x.val.toNat % 2 ^ 32)
    let fy := fp32.dec (y.val.toNat % 2 ^ 32)
    let sum := XV.add 0 fx fy
    let prod := XV.mul fx fy
    exec (.fadds u p d a b) s = .next (s.landS u.slot 4 d ((r32 sum.1).1.zeroExtend 64) (sum.2 ||| (r32 sum.1).2)).issued ∧
    exec (.fmuls u p d a b) s = .next (s.landS u.slot 4 d ((r32 prod.1).1.zeroExtend 64) (prod.2 ||| (r32 prod.1).2)).issued ∧
    exec (.fcmplt u p d a b) s =
      .next (s.landP u.slot 2 d (fx.lt fy) (if fx.isNan ∨ fy.isNan then fInv else 0)).issued ∧
    (∀ rm, exec (.fcvtis u p d a rm) s =
      .next (s.landS u.slot 3 d (BitVec.ofNat 64 (fp32.round rm.toNat false (XV.ofInt x.val.toInt)).1)
        (fp32.round rm.toNat false (XV.ofInt x.val.toInt)).2).issued) ∧
    (∀ rm sat, exec (.fcvtsi u p d a rm sat) s =
      .next (s.landS u.slot 3 d (BitVec.ofNat 64 (floatToInt true 64 rm.toNat sat fx).1)
        (floatToInt true 64 rm.toNat sat fx).2).issued)

/-- R47: an operation whose slot predicate is false takes no effect, whatever its slot and operands. -/
def Obligations.FalsePredicateTakesNoEffect : Prop :=
  ∀ (i : Instr) (sl : Slot) (w : Nat) (s : State),
    encode i = some (sl, w) → s.me.pget (Instr.pred i) = false → exec i s = .next s.issued

/-- R47, R50, R51, R111: what the landing of a scalar, predicate, mask or vector result changes: the destination register
unless nowb is set, and never s0, p0 or k0; the slot's latch, whose old value moves to its second; the slot's sticky
record. Every other register, of every class, every other latch and every other record stay, whatever the class of the
result. -/
def Obligations.LandingWrites : Prop :=
  ∀ (c : Ctx) (sl : Slot) (n t : Nat) (pc : W32) (due : Option Nat) (f : Flags) (src : List Span) (o : Bool) (q : Latch),
    let l (ws : List RegWrite) : Landing := ⟨sl, n, pc, due, ws, some q, f, src, t, o⟩
    (∀ d v r, (c.landed (l (dstS d v))).sget r = if d.nowb = false ∧ r = d.reg ∧ r ≠ 0 then SVal.of v else c.sget r) ∧
    (∀ d b r, (c.landed (l (dstP d b))).pget r = if d.nowb = false ∧ r = d.reg ∧ r ≠ 0 then b else c.pget r) ∧
    (∀ d m r, (c.landed (l (dstK d m))).kget r = if d.nowb = false ∧ r = d.reg ∧ r ≠ 0 then m else c.kget r) ∧
    (∀ d x (r : Fin 32), (c.landed (l (dstV d x))).vreg[r] = if d.nowb = false ∧ r = d.reg then x else c.vreg[r]) ∧
    let frame (y : Ctx) : Prop :=
      y.dreg = c.dreg ∧ y.zreg = c.zreg ∧ y.pvreg = c.pvreg ∧ y.hreg = c.hreg ∧ y.oreg = c.oreg ∧ y.trapring = c.trapring ∧
      (∀ i, latchIdx sl = some i → y.qreg[i.val]? = some q ∧ y.qreg[i.val + 8]? = c.qreg[i.val]? ∧
        ∀ j : Fin 16, j.val ≠ i.val → j.val ≠ i.val + 8 → y.qreg[j] = c.qreg[j]) ∧
      (latchIdx sl = none → y.qreg = c.qreg) ∧ y.cr = { c.cr with fx := y.cr.fx } ∧
      (∀ i, fxIdx sl = some i → (y.cr.fx[i]).flags = c.cr.fx[i].flags ||| f) ∧
      (∀ j : Fin 8, fxIdx sl ≠ some j → y.cr.fx[j] = c.cr.fx[j])
    (∀ d v, let y := c.landed (l (dstS d v))
      y.preg = c.preg ∧ y.vreg = c.vreg ∧ y.kreg = c.kreg ∧ frame y) ∧
    (∀ d b, let y := c.landed (l (dstP d b))
      y.sreg = c.sreg ∧ y.vreg = c.vreg ∧ y.kreg = c.kreg ∧ frame y) ∧
    (∀ d m, let y := c.landed (l (dstK d m))
      y.sreg = c.sreg ∧ y.preg = c.preg ∧ y.vreg = c.vreg ∧ frame y) ∧
    (∀ d x, let y := c.landed (l (dstV d x))
      y.sreg = c.sreg ∧ y.preg = c.preg ∧ y.kreg = c.kreg ∧ frame y)

/-- R47, R56: the frame of the scalar and vector slots, VSIG apart. An operation that issues leaves every register, the
memory and every other context as they were: its result joins the pipeline, at most one, and lands later. -/
def Obligations.PipelinedSlotFrame : Prop :=
  ∀ (i : Instr) (sl : Slot) (w : Nat) (s t : State),
    encode i = some (sl, w) → sl = .s0 ∨ sl = .s1 ∨ sl = .v0 ∨ sl = .v1 → (∀ u p d a h e, i ≠ .vsig u p d a h e) →
    exec i s = .next t → t.verdict = .ok →
    OnlyContext s.cur s t ∧ (∃ l : List Landing, l.length ≤ 1 ∧ t.me = { s.me with pipe := s.me.pipe ++ l }) ∧
    SameRegs s.me t.me ∧ ∀ a, t.byte a = s.byte a

/-- R145, R146, R147: descriptor fields, control registers and step-identifier fields. DSET and CRWR read a scalar at a check
point (R369).
R146, R162: what a read of a control register returns, and that a write changes no register but the one it names. -/
def Obligations.FieldsAndControlRegistersDeliver : Prop :=
  (∀ (s : State) (u : SUnit) (p : Fin 64), s.me.pget p = true →
    (∀ d a f x, s.me.checkedS a = .ok x → exec (.dset u p d a f) s =
      .next (s.land u.slot 1 (if d.nowb then [] else [.df d.reg f x]) (some (.scalar (SVal.of x))) 0).issued) ∧
    (∀ d a f, exec (.dget u p d a f) s = .next (s.landS u.slot 1 d ((s.me.dreg[a])[f]) 0).issued) ∧
    (∀ d n, exec (.crrd u p d n) s = .next (s.landS u.slot 1 d (s.crRead s.cur n.toNat) 0).issued) ∧
    (∀ a n x, s.me.checkedS a = .ok x → exec (.crwr u p a n) s =
      .next (s.land u.slot 1 [.cr n.toNat x] none 0).issued) ∧
    (∀ d a i x, s.me.readS a = .ok x → exec (.sfld u p d a i) s =
      .next (s.landS u.slot 1 d (BitVec.ofNat 64 (stepField s.me.fields x.val i.toNat)) 0).issued)) ∧
  ((∀ (s : State) (c : CtxId), let x := s.ctx c
    s.crRead c 0x000 = x.step ∧ s.crRead c 0x001 = BitVec.ofNat 64 x.lane.val ∧ s.crRead c 0x002 = BitVec.ofNat 64 s.time ∧
    s.crRead c 0x004 = (s.core c.core).slotmap ∧ s.crRead c 0x006 = x.cr.tenstab ∧
    s.crRead c 0x008 = x.cr.lscale.zeroExtend 64 ∧ s.crRead c 0x020 = x.cr.pivtol.zeroExtend 64 ∧
    s.crRead c 0x021 = x.cr.growth.zeroExtend 64 ∧ s.crRead c 0x022 = x.cr.growthmax.zeroExtend 64 ∧
    s.crRead c 0x023 = x.cr.solvest ∧ s.crRead c 0x024 = x.cr.solres.zeroExtend 64 ∧
    s.crRead c 0x025 = x.cr.soltol.zeroExtend 64 ∧ s.crRead c 0x026 = x.cr.deadline ∧
    s.crRead c 0x028 = x.cr.mxretry.zeroExtend 64 ∧ s.crRead c 0x029 = x.cr.maxit.zeroExtend 64 ∧
    s.crRead c 0x02A = x.cr.nrmmax.zeroExtend 64 ∧ s.crRead c 0x02B = x.cr.nrmfro.zeroExtend 64 ∧
    (∀ i : Fin 8, s.crRead c (0x030 + i.val) = x.cr.mseq[i]) ∧
    (∀ i : Fin 8, s.crRead c (0x010 + i.val) =
      BitVec.ofNat 64 (x.cr.fx[i].flags.toNat + x.cr.fx[i].first.toNat * 2 ^ 16))) ∧
  ∀ (r : CReg) (w : Word),
    r.write 0x008 w = { r with lscale := w.truncate 32 } ∧ r.write 0x020 w = { r with pivtol := w.truncate 32 } ∧
    r.write 0x022 w = { r with growthmax := w.truncate 32 } ∧ r.write 0x025 w = { r with soltol := w.truncate 32 } ∧
    r.write 0x026 w = { r with deadline := w } ∧ r.write 0x027 w = { r with maskbrk := w.getLsbD 0 } ∧
    r.write 0x028 w = { r with mxretry := w.truncate 4 } ∧ r.write 0x029 w = { r with maxit := w.truncate 8 } ∧
    (∀ n, n ≤ 0x007 ∨ n = 0x021 ∨ n = 0x024 ∨ n = 0x02A ∨ n = 0x02B ∨ n = 0x040 ∨ n = 0x041 → r.write n w = r) ∧
    (∀ i : Fin 8, r.write (0x030 + i.val) w = { r with mseq := r.mseq.set i w }) ∧
    ∀ i : Fin 8, ((r.write (0x010 + i.val) w).fx[i]).flags = r.fx[i].flags &&& ~~~(w.truncate 6))

/-! ## The control slot -/

/-- R57, R151, R152: a branch takes effect as the third bundle from here; CALL delivers the address after its two delay
bundles to the C latch at latency 1; RET alone counts as a return (R319). -/
def Obligations.BranchesRedirect : Prop :=
  ∀ (s : State) (p : Fin 64), s.me.pget p = true →
    let jump (u : State) (a : W32) : State := u.modMe fun c => { c with redir := c.redir ++ [(c.n + 3, a)] }
    let taken (u : State) : State := u.modCore s.cur.core fun k =>
      { k with perf := { k.perf with branches := k.perf.branches + 1 } }
    (∀ off, exec (.br p off) s = .next (taken (jump s (s.me.pc + off.signExtend 32))).issued) ∧
    (∀ a v, s.me.checked a = .ok v → exec (.brs p a) s = .next (taken (jump s (v.truncate 32))).issued) ∧
    (∀ off, exec (.call p off) s = .next (taken (jump (s.land .c 1 []
      (some (.scalar (SVal.of ((s.me.succ (s.me.succ (s.me.succ s.me.pc))).zeroExtend 64)))) 0)
      (s.me.pc + off.signExtend 32))).issued) ∧
    (∀ a v, s.me.checked a = .ok v → exec (.ret p a) s = .next ((jump s (v.truncate 32)).modCore s.cur.core fun k =>
      { k with perf := { k.perf with returns := k.perf.returns + 1 } }).issued)

/-- R57, R129, R153: where fetch goes on. A branch that is due wins and no loop entry changes; then a LOOP of count 0
sends fetch past its end; else the loop stack decides, the innermost entry whose end this is going back while passes are
left; else the next halfword follows, 25 further on after an escape. -/
def Obligations.FetchFollowsBranchesThenLoops : Prop :=
  (∀ (c : Ctx) (a : W32), c.succ a = if c.stream[a.toNat]? = some 0xFFFF then a + 25 else a + 1) ∧
  (∀ (c : Ctx) (t : W32), c.redir.find? (fun r => r.1 = c.n + 1) = some (c.n + 1, t) → c.follow = (t, c.loops)) ∧
  (∀ (c : Ctx) (t : W32), (∀ r ∈ c.redir, r.1 ≠ c.n + 1) → c.skip = some t → c.follow = (t, c.loops)) ∧
  ∀ c : Ctx, (∀ r ∈ c.redir, r.1 ≠ c.n + 1) → c.skip = none →
    (c.loops = [] → c.follow = (c.succ c.pc, [])) ∧
    ∀ e rest, c.loops = e :: rest →
      (c.pc ≠ e.stop → c.follow = (c.succ c.pc, e :: rest)) ∧
      (c.pc = e.stop → 1 < e.left.toNat → c.follow = (e.start, { e with left := e.left - 1 } :: rest)) ∧
      (c.pc = e.stop → e.left.toNat ≤ 1 → c.follow = ({ c with loops := rest } : Ctx).follow)

/-- R153: LOOP and LOOPI push an entry on a stack of four; a count of 0 pushes nothing and sends fetch past the end.
R154, R158, R367: TAIL collects an OPB address of 256-byte alignment with bits [63:56] zero; HSET binds a ring to an address
of 64-byte alignment in a space; any other address stops them with 0x27. -/
def Obligations.LoopsTailsAndRingBindings : Prop :=
  (∀ (s : State) (p : Fin 64) (e : Byte), s.me.pget p = true →
    let stop := s.me.pc + e.zeroExtend 32
    let pushed (n : W32) : State :=
      if n = 0 then s.modMe fun c => { c with skip := some (c.succ stop) }
      else s.modMe fun c => { c with loops := (⟨c.succ c.pc, stop, n⟩ :: c.loops).take 4 }
    (∀ a v, s.me.checked a = .ok v → exec (.loop p a e) s = .next (pushed (v.truncate 32)).issued) ∧
    ∀ n, exec (.loopi p n e) s = .next (pushed (n.zeroExtend 32)).issued) ∧
  (∀ (s : State) (p a : Fin 64) (v : Word), s.me.pget p = true → s.me.checked a = .ok v →
    (v.toNat % 256 = 0 → v.toNat < 2 ^ 56 →
      exec (.tail p a) s = .next (s.modMe fun c => { c with tails := c.tails ++ [v] }).issued) ∧
    (v.toNat % 256 ≠ 0 ∨ 2 ^ 56 ≤ v.toNat → Traps (.tail p a) s .c { code := 0x27, faddr := v }) ∧
    ∀ h sp, (v.toNat % 64 = 0 →
        exec (.hset p h a sp) s = .next (s.modMe fun c => { c with hreg := c.hreg.set h (some ⟨v, sp⟩) }).issued) ∧
      (v.toNat % 64 ≠ 0 → Traps (.hset p h a sp) s .c { code := 0x27, faddr := v }))

/-- R35, R155, R255: PHASE closes the phase and opens the next. Where the homes of the M slot's writes are all the lane's own
die the writes of the phase are published at once, in the order of a close; else they set out together, with what a refusal
is to put back. The accesses of the phase get this close time. A close already on its way no longer puts back a byte that
this phase has written.
R334, item 2: a close that is refused stops the lane where it would go on, for the bundle that made it. -/
def Obligations.PhaseClosesAndOpens : Prop :=
  (∀ (s : State) (p : Fin 64), s.me.pget p = true → s.doomed s.cur = none →
    let ops := closeOrder s.me.pend
    let near := ∀ w ∈ ops, w.sure = false → ∀ l ∈ w.locs, s.home l = coreDie s.cur.core
    let kept := s.closing.map fun q => if q.owner = s.cur ∧ q.run = s.me.run then
      { q with undo := q.undo.filter fun u => !(s.me.undo.any fun w => w.1 = u.1) } else q
    let after (t : State) : Prop := t.verdict = .ok ∧ t.cur = s.cur ∧ t.me.pend = [] ∧ t.me.undo = [] ∧
      t.me.phaseOpen = s.time ∧ SameRegs s.me t.me ∧ t.accs = closeAccs s.cur s.me.run s.time s.accs ∧ t.time = s.time
    (∀ u, near → s.applyAll ops = .ok u →
      ∃ t, exec (.phase p) s = .next t ∧ after t ∧ t.mem = u.mem ∧ t.exact = u.exact ∧ t.poison = u.poison ∧
        t.closing = kept) ∧
    (¬ near → ∃ t, exec (.phase p) s = .next t ∧ after t ∧ t.mem = s.mem ∧ t.exact = s.exact ∧ t.poison = s.poison ∧
      t.closing = kept ++ [⟨s.cur, s.me.run, s.me.step, s.me.asid, s.me.opb, s.me.pc, .c, s.time, ops, s.me.undo,
        s.me.unpoison⟩])) ∧
  (∀ (s : State) (p : Fin 64) (f : Fail), s.me.pget p = true → s.closePhase s.cur .c s.me.pc false = .error f →
    exec (.phase p) s = .next { s.trap s.cur .c 0 s.me.pc s.me.follow.1 f with verdict := .closed .c f })

/-- R156, R178, R213, R254: FENCE issues; it holds the lane until every access of its paths has taken effect. What loads and O
operations of its paths deliver then lands; the commands of its paths no longer hold their bytes open towards the M slot, and
accesses of the M slot no longer stand unordered before later engine commands. That results land although the stall keeps the
bundle count, and that in a bank which does not issue their latches come with its next bundle, is the model's reading (log
entry 27). -/
def Obligations.FenceStallsUntilSettled : Prop :=
  ∀ (s : State) (p : Fin 64) (m : BitVec 5), s.me.pget p = true →
    (s.fenceDone s.cur m = false →
      exec (.fence p m) s = .next (s.modMe fun c => { c with wait := .fence m }).issued) ∧
    (s.fenceDone s.cur m = true →
      let now := s.me.pipe.filter fun l => (m.getLsbD 0 && l.slot = .m) || (m.getLsbD 2 && l.slot = .o)
      let here := (s.core s.cur.core).cur = s.cur.bank
      let latches : List Landing := if here then [] else (now.filter fun l => l.latch.isSome).map fun l =>
        { l with writes := [], flags := 0, due := some s.me.n, opens := false }
      let lands := now.map fun (l : Landing) => if here then l else { l with latch := none }
      ∃ t, exec (.fence p m) s = .next t ∧ t.verdict = .ok ∧ t.cur = s.cur ∧
        t.me.wait = .none ∧ t.me.pipe = latches ++ (s.me.pipe.filter fun l => l ∉ now) ∧
        SameRegs (lands.foldl Ctx.landed s.me) t.me ∧
        (now.all (fun l => (l.writes.flatMap RegWrite.cells).isEmpty) = true → ∀ a, t.byte a = s.byte a) ∧
        t.me.xfoot = (if m.getLsbD 2 then [] else s.me.xfoot) ∧ t.me.mfoot = (if m.getLsbD 0 then [] else s.me.mfoot) ∧
        t.me.pend = s.me.pend.map (Pend.ordered m) ∧
        t.kcmds = s.kcmds.map fun k => if k.owner = s.cur ∧ k.run = s.me.run ∧ m.getLsbD k.bit then
          { k with seenSrc := true, seenVis := true } else k)

/-- R157, R374: WAITEQ and WAITGE on an aligned scratchpad word. Where the condition holds the wait is over and opens a
phase; where it does not the lane sleeps. A misaligned address stops them with 0x27, one outside the scratchpad with
0x28. -/
def Obligations.WordWaits : Prop :=
  ∀ (s : State) (p a b : Fin 64) (addr v : Word), s.me.pget p = true → s.me.checked a = .ok addr → s.me.checked b = .ok v →
    let loc := spadLoc s.cur.core addr.toNat
    let w := BitVec.ofNat 64 (s.num loc 8)
    let sync := spansOf [(BitVec.ofNat 64 ((loc - 2 ^ 52) % 2 ^ 22), (List.range 8).map (loc + ·))]
    let runs (i : Instr) : Prop := ∃ t, exec i s = .next t ∧ t.verdict = .ok ∧ t.cur = s.cur ∧
      t.me = { s.me with
        wait := .none
        phaseOpen := s.time
        pend := t.me.pend } ∧ t.me.pend.map Pend.op = s.me.pend.map Pend.op ∧ ∀ x, t.byte x = s.byte x
    let sleeps (i : Instr) (ge : Bool) : Prop :=
      exec i s = .next (s.modMe fun c => { c with wait := .word ge loc v }).issued
    (addr.toNat % 8 = 0 → addr.toNat < 0x400000 → s.wordWaits s.cur loc = false → s.poisonIn loc 8 = none →
      s.fresh loc 8 = false → s.firstClash s.cur s.me.run .observe s.time none sync = none →
      (w = v → runs (.waiteq p a b)) ∧ (w ≠ v → sleeps (.waiteq p a b) false) ∧
      (v.toNat ≤ w.toNat → runs (.waitge p a b)) ∧ (w.toNat < v.toNat → sleeps (.waitge p a b) true)) ∧
    (addr.toNat % 8 ≠ 0 → Traps (.waiteq p a b) s .c { code := 0x27, faddr := addr } ∧
      Traps (.waitge p a b) s .c { code := 0x27, faddr := addr }) ∧
    (addr.toNat % 8 = 0 → 0x400000 ≤ addr.toNat → Traps (.waiteq p a b) s .c { code := 0x28, faddr := addr } ∧
      Traps (.waitge p a b) s .c { code := 0x28, faddr := addr })

/-- R159, R408: HWAIT on a bound, well-formed ring. With enough filled slots, or at the end of the stream, its value reaches q6
before the next bundle and a phase opens; else the lane sleeps. An unbound ring stops it with 0x33, case 1.
R159, R256, R408: HREL releases slots of a bound ring: rp advances by the count modulo 2^32; of the eos bits exactly those of
the released slots are cleared, and eosseen grows by the number of those that were set, each slot counted once; all this is
the one synchronisation write that closes and opens the phase. A count above the filled slots stops it with 0x33, case 4; an
eosseen above nprod, with case 5. -/
def Obligations.RingWaitsAndRelease : Prop :=
  (∀ (s : State) (p b : Fin 64) (h : Fin 8) (n : Word), s.me.pget p = true → s.me.checked b = .ok n →
    (s.me.hreg[h] = none → Traps (.hwait p h b) s .c { code := 0x33, d1 := 1 }) ∧
    ∀ rb ls, s.me.hreg[h] = some rb → s.ringGate s.cur rb ⟨false, false⟩ = .ok ls → s.waits ls = false →
      ls.any s.poisoned = false →
      (s.ringObj ls).malformed rb = false → 1 ≤ n.toNat → n.toNat ≤ (s.ringObj ls).nslot →
      let r := s.ringObj ls
      let v := BitVec.ofNat 64 (r.rp % r.nslot + r.filled % 2 ^ 16 * 2 ^ 32 + (if r.eosseen = r.nprod then 2 ^ 63 else 0))
      (n.toNat ≤ r.filled ∨ r.eosseen = r.nprod → s.fresh (ls.headD 0) 64 = false →
        s.firstClash s.cur s.me.run .observe s.time none (ringSpans ls rb.addr) = none →
        ∃ t, exec (.hwait p h b) s = .next t ∧ t.verdict = .ok ∧ t.cur = s.cur ∧ (∀ x, t.byte x = s.byte x) ∧
          t.me = { s.me with
            wait := .none
            phaseOpen := s.time
            pipe := s.me.pipe ++ [⟨.c, s.me.n, s.me.pc, some (s.me.n + 1), [], some (.scalar (SVal.of v)), 0, [],
              s.time + 1, false⟩] }) ∧
      (r.filled < n.toNat → r.eosseen ≠ r.nprod →
        exec (.hwait p h b) s = .next (s.modMe fun c => { c with wait := .ring h n }).issued)) ∧
  (∀ (s : State) (p b : Fin 64) (h : Fin 8) (n : Word) (rb : RingBind) (ls : List Nat),
    s.me.pget p = true → s.me.checked b = .ok n → s.me.hreg[h] = some rb →
    s.ringGate s.cur rb ⟨true, false⟩ = .ok ls → s.waits ls = false → ls.any s.poisoned = false →
    (s.ringObj ls).malformed rb = false →
    let r := s.ringObj ls
    let eos := leNat ((ls.drop 32).map s.byte)
    let released (i : Nat) : Prop := ∃ j < n.toNat, (r.rp + j) % r.nslot = i
    ∀ (ended : List Nat) (eos' : Nat), ended.Nodup → (∀ i, i ∈ ended ↔ released i ∧ eos.testBit i = true) → eos' < 2 ^ 256 →
      (∀ i < 256, eos'.testBit i = true ↔ eos.testBit i = true ∧ ¬ released i) →
    let seen := r.eosseen + ended.length
    (n.toNat = 0 ∨ r.filled < n.toNat → Traps (.hrel p h b) s .c { code := 0x33, faddr := rb.addr, d1 := 4 }) ∧
    (1 ≤ n.toNat → n.toNat ≤ r.filled → r.nprod < seen →
      Traps (.hrel p h b) s .c { code := 0x33, faddr := rb.addr, d1 := 5 }) ∧
    (1 ≤ n.toNat → n.toNat ≤ r.filled → seen ≤ r.nprod →
      ∀ t, s.ringTouch s.cur .sync s.time ls rb.addr = .ok t → ∀ u, t.closePhase s.cur .c s.me.pc true = .ok u →
        exec (.hrel p h b) s = .next (((u.setCells ((ls.drop 12).zip (leBytes seen 4) ++
          (ls.drop 20).zip (leBytes ((r.rp + n.toNat) % 2 ^ 32) 4) ++ (ls.drop 32).zip (leBytes eos' 32))).openPhase
            s.cur).issued)))

/-- R160, R161: TRAP writes a software record, word 5 the code and word 6 the scalar, and the lane goes on, or with
c[7] = 1 its step stops and its node is aborted; BKPT does the same and holds the lane where debugging is on, and nothing
where it is off. -/
def Obligations.TrapAndBreakpointRecord : Prop :=
  ∀ (s : State) (p : Fin 64) (c : Byte), s.me.pget p = true →
    let rec5 (v : Word) : List Word := [recWord0 0 0 2 s.cur.core.val s.cur.bank.val 0, BitVec.ofNat 64 s.me.pc.toNat,
      s.me.step, BitVec.ofNat 64 s.me.opb, 0, c.zeroExtend 64, v]
    (∀ a v, s.me.checked a = .ok v →
      (c.getLsbD 7 = false → exec (.trap p c a) s = .next (s.ctxRecord s.cur (rec5 v) .nothing).issued) ∧
      (c.getLsbD 7 = true →
        exec (.trap p c a) s = .next ((s.stopRun s.me.run).ctxRecord s.cur (rec5 v) (.abort s.me.run)).issued)) ∧
    (s.me.debug = false → exec (.bkpt p c) s = .next s.issued) ∧
    (s.me.debug = true → exec (.bkpt p c) s = .next ((s.modMe fun x => { x.wdPause s.time with
        wait := .bkpt
        save := some (2, s.time)
        dump := none }).ctxRecord s.cur (rec5 0) .nothing).issued)

/-! ## Taking a precise trap (R334 to R339) -/

/-- R334, items 3 to 5: a lane that stops: results already in flight land, its open phase is discarded, every scratchpad byte
that the phase wrote being what it was before, its queues empty; every other lane of the step stops as well. That the
poison which the phase cleared is back too is the model's reading of item 5 (log entry 20). -/
def Obligations.StopDiscardsTheOpenPhase : Prop :=
  (∀ (s : State) (c : CtxId), s.Canonical → let t := s.stopLane c
    let x := s.ctx c
    let y := t.ctx c
    y.stat = .stopped ∧ y.pend = [] ∧ y.undo = [] ∧ y.pipe = [] ∧ y.xq = [] ∧ y.xfoot = [] ∧ y.idxq = [] ∧ y.wait = .none ∧
    y.next = [] ∧ y.mfoot = [] ∧ (∀ u ∈ x.unpoison, u ∈ t.poison) ∧
    SameRegs ((x.pipe.filter fun l => l.due.isSome).foldl Ctx.landed x) y ∧
    (∀ e, e ≠ c → t.ctx e = s.ctx e) ∧
    (∀ a, a ∉ x.undo.map Prod.fst → t.byte a = s.byte a) ∧
    -- the list is newest first: the last entry for a byte is what stood there before the phase
    (∀ e, x.undo.reverse.find? (fun u => u.1 = e.1) = some e → t.byte e.1 = e.2) ∧
    ∀ q ∈ t.accs, ¬(q.owner = c ∧ q.run = x.run ∧ q.cls = none)) ∧
  ∀ (s : State) (r : Run) (g : CtxId), s.getRun r.id = some r → g ∈ r.gang → (s.ctx g).run = r.id → r.gang.Nodup →
    ((s.stopRun r.id).ctx g).stat = .stopped ∧ ((s.stopRun r.id).ctx g).pend = []

/-- R337: the words of a precise record: the code, class 1, the slot, the core, the bank and the other failing slots in w0; the
bundle's index address; the step; the OPB; the address; the index address at which the lane stopped, in w5.
R338, R339: a record takes the slot at base + 64 * (prod mod N) of its ring: seven words and the sequence number, lowest
byte first, and prod advances; the bytes outside the slot and prod stay. The lines of the slot hold nothing in exact form
and the slot lies apart from the control block.
R334, R339: the precise trap is, in this order: every lane of the step stops, the record is written to the context's ring,
and then the recovery of its code begins; where the ring has no space the record waits, the recovery with it, and the ring's
flag of stalled producers is set. -/
def Obligations.TrapRecordIsWrittenThenRecovered : Prop :=
  (∀ (c : CtxId) (sl : Slot) (others : Nat) (pc stop : W32) (step : Word) (opb : Nat) (f : Fail), others < 2 ^ 10 →
    ∃ w0 w5 : Word, preciseWords c sl others pc stop step opb f =
        [w0, BitVec.ofNat 64 pc.toNat, step, BitVec.ofNat 64 opb, f.faddr, w5, f.d1] ∧
      bits w0 0 8 = f.code.toNat ∧ bits w0 8 4 = 1 ∧ bits w0 12 4 = sl.code ∧ bits w0 16 8 = c.core.val ∧
      bits w0 24 1 = c.bank.val ∧ bits w0 25 10 = others ∧ bits w5 0 32 = stop.toNat ∧ bits w5 32 32 = bits f.d0 32 32) ∧
  (∀ (s : State) (cb : Nat) (ws : List Word), s.Canonical → ws.length = 8 →
    let prod := s.num (cb + 0x10) 4
    let slot := s.field cb 0 52 + 64 * (prod % 2 ^ (s.field (cb + 8) 0 5))
    (slot + 64 ≤ cb ∨ cb + 64 ≤ slot) → (∀ e ∈ s.exact, ∀ i < 64, e.1 / 128 ≠ (slot + i) / 128) →
    let t := s.ringPut cb ws
    (∀ i < 64, t.byte (slot + i) = BitVec.ofNat 8 ((ws.getD (i / 8) 0).toNat / 2 ^ (8 * (i % 8)))) ∧
    t.num (cb + 0x10) 4 = (prod + 1) % 2 ^ 32 ∧
    ∀ a, ¬(slot ≤ a ∧ a < slot + 64) → ¬(cb + 0x10 ≤ a ∧ a < cb + 0x14) → t.byte a = s.byte a) ∧
  (∀ (s : State) (c : CtxId) (sl : Slot) (others : Nat) (pc stop : W32) (f : Fail),
    let x := s.ctx c
    let s1 := s.stopRun x.run
    let s2 := (if (s1.ctx c).stat = .stopped then s1 else s1.stopLane c).failSide c x.asid f
    let ws := preciseWords c sl others pc stop x.step x.opb f
    let cb := s2.ringOf c
    let q := s2.ringSeq cb
    ((q.2.ctx c).ringQ = [] → q.2.ringSpace cb = true →
      s.trap c sl others pc stop f = (q.2.ringPut cb (ws ++ [q.1])).recover x.run c.core.val f.code.toNat) ∧
    ((q.2.ctx c).ringQ ≠ [] ∨ q.2.ringSpace cb = false →
      let t := s.trap c sl others pc stop f
      (t.ctx c).ringQ = (q.2.ctx c).ringQ ++ [⟨ws, q.1, .recover x.run⟩] ∧ (t.ctx c).stat = .stopped ∧
        t.field (cb + 0x18) 1 1 = 1))

/-! ## The memory slot -/

/-- R165, R169: LD and DLD read the scratchpad and land at latency 4 (3 in class 1, R59); ST and DST write it. The access is the
natural width at the effective address; a store changes those bytes and no other.
R36, R55, R165: LDG takes the bytes its lane sees, published or written by itself, and its result is interlocked: it has no
bundle to land before; STG stores nothing before its phase closes. -/
def Obligations.ScalarLoadsAndStoresMove : Prop :=
  (∀ (s : State) (p : Fin 64) (base : Fin 64) (off : MOff) (ty : BitVec 4) (a : Word),
    s.Canonical → s.me.pget p = true → s.me.ea base off = .ok a →
    let lat := if s.me.kclass = 1 then 3 else 4
    let at' := spadLoc s.cur.core a.toNat
    let us (n : Nat) : Units := [(a, n)]
    let reads (n al : Nat) : Prop := (us n).check al = .ok () ∧ s.waits ((us n).locs s.cur.core) = false ∧
      s.spadPoison (us n) = none ∧ s.Clear .read (s.unitSpans 0 (us n))
    let writes (n al : Nat) (cs : List Host.Cell) : Prop := (us n).check al = .ok () ∧
      s.waits ((us n).locs s.cur.core) = false ∧ s.poisonWrite cs = none ∧ s.Clear .write (s.unitSpans 0 (us n))
    let word (n : Nat) : Nat := leNat ((List.range n).map fun i => s.byte (spadLoc s.cur.core (a.toNat + i)))
    let n := if ty = 0 then 8 else fmtBits ty.toNat / 8
    (∀ d, reads n n → exec (.ld p d base off ty) s = .next ((s.logged .read (s.unitSpans 0 (us n))).landS .m lat d
      (if ty.toNat = 7 ∨ ty.toNat = 9 ∨ ty.toNat = 11 then BitVec.ofInt 64 (sextNat (word n) (8 * n))
        else BitVec.ofNat 64 (word n)) 0).issued) ∧
    (∀ d v, s.me.checked d = .ok v → let cs := cellsAt at' (leBytes v.toNat n)
      writes n n cs → ∃ t, exec (.st p d base off ty) s = .next t ∧ t.verdict = .ok ∧
        (∀ i < n, t.byte (at' + i) = BitVec.ofNat 8 (v.toNat / 2 ^ (8 * i))) ∧
        (∀ x, ¬(at' ≤ x ∧ x < at' + n) → t.byte x = s.byte x) ∧ SameRegs s.me t.me ∧ t.me.pipe = s.me.pipe) ∧
    (∀ d, reads 64 8 → ∃ x : Desc, exec (.dld p d base off) s = .next ((s.logged .read (s.unitSpans 0 (us 64))).land .m lat
        [.d d x] none 0).issued ∧
      ∀ f : Fin 8, x[f].toNat = leNat ((List.range 8).map fun i => s.byte (spadLoc s.cur.core (a.toNat + (8 * f.val + i))))) ∧
    (∀ d, let cs := cellsAt at' (s.me.dreg[d].toList.flatMap fun w => leBytes w.toNat 8)
      writes 64 8 cs → ∃ t, exec (.dst p d base off) s = .next t ∧ t.verdict = .ok ∧
        (∀ f : Fin 8, ∀ i < 8, t.byte (at' + (8 * f.val + i)) = BitVec.ofNat 8 (s.me.dreg[d][f].toNat / 2 ^ (8 * i))) ∧
        (∀ x, ¬(at' ≤ x ∧ x < at' + 64) → t.byte x = s.byte x) ∧ SameRegs s.me t.me ∧ t.me.pipe = s.me.pipe)) ∧
  (∀ (s : State) (p : Fin 64) (base : Fin 64) (off : MOff) (ty : BitVec 4) (a : Word) (ls : List Nat),
    s.me.pget p = true → s.me.ea base off = .ok a →
    let n := if ty = 0 then 8 else fmtBits ty.toNat / 8
    a.toNat % n = 0 → s.waits ls = false →
    (∀ d, s.gate1 s.me.asid a.toNat n ⟨false, false⟩ = .ok ls → ls.find? s.poisoned = none → s.Clear .read (spansOf [(a, ls)]) →
      (∀ l ∈ ls, s.lineExact l = [] ∧ (s.view s.cur).lineExact l = []) →
      let v := leNat (ls.map (s.view s.cur).byte)
      let x : Word := if ty.toNat = 7 ∨ ty.toNat = 9 ∨ ty.toNat = 11 then BitVec.ofInt 64 (sextNat v (fmtBits ty.toNat))
        else BitVec.ofNat 64 v
      exec (.ldg p d base off ty) s = .next (((s.logged .read (spansOf [(a, ls)])).noted .read (spansOf [(a, ls)])).modMe fun c => { c with
        pipe := c.pipe ++ [⟨.m, c.n, c.pc, none, if d.nowb then [] else [.s d.reg (SVal.of x)], some (.scalar (SVal.of x)), 0,
          spansOf [(a, ls)], s.time, false⟩] }).issued) ∧
    (∀ r v, s.me.checked r = .ok v → s.gate1 s.me.asid a.toNat n ⟨true, false⟩ = .ok ls →
      s.poisonWrite (ls.zip (leBytes v.toNat n)) = none → s.Clear .write (spansOf [(a, ls)]) →
      exec (.stg p r base off ty) s =
        .next (((s.logged .write (spansOf [(a, ls)])).noted .write (spansOf [(a, ls)])).modMe fun c => { c with
          pend := c.pend ++ [⟨.bytes (ls.zip (leBytes v.toNat n)), a, false, false, some 0⟩] }).issued))

/-- R99, R166, R167, R378: the vector stores write the units of their lanes in ascending order and raise the flags of the
narrowing alone; no byte outside the units changes, nor any register of any class. A tag of another format stops them with
0x07. That a register of format 0 may be stored as E3M2 is the model's choice (log entry 44). -/
def Obligations.VectorStoresMove : Prop :=
  ∀ (s : State) (p : Fin 64) (r : Fin 32) (base : Fin 64) (off : MOff) (ty : BitVec 4) (b : Word), s.Canonical →
    s.me.pget p = true →
    let v := s.me.vreg[r]
    let g := v.tag.toNat % 16
    let fits := g = 0 ∨ g = ty.toNat ∨ (ty = 6 ∧ g = 4)
    let st := storedUnits ty v
    let stores (i : Instr) (us : Units) : Prop :=
      let cs := (us.zip st.1).flatMap fun u => cellsAt (spadLoc s.cur.core u.1.1.toNat) u.2
      (¬ fits → Traps i s .m { code := 0x07, d1 := BitVec.ofNat 64 (v.tag.toNat + ty.toNat * 2 ^ 16) }) ∧
      (fits → us.check (vecAlign ty) = .ok () → s.waits (us.locs s.cur.core) = false → s.poisonWrite cs = none → s.Clear .write (s.unitSpans ty.toNat us) →
        ∃ t, exec i s = .next t ∧ t.verdict = .ok ∧ (∀ a, t.byte a = (s.setCells cs).byte a) ∧
          (∀ a, a ∉ cs.map Prod.fst → t.byte a = s.byte a) ∧
          SameRegs { s.me with cr := (s.me.raise .m s.me.pc st.2).cr } t.me ∧ t.me.pipe = s.me.pipe)
    (s.me.ea base off = .ok b → stores (.vst p r base off ty) (unitsVld ty b)) ∧
    (∀ q, s.me.checked base = .ok b → s.me.offset off = .ok q → stores (.vsts p r base off ty) (unitsVlds ty b q)) ∧
    (∀ vi sc, s.me.checked base = .ok b → stores (.vstx p r base vi sc ty) (unitsVldx ty b s.me.vreg[vi] sc))

/-- R166: where the units of the vector forms stand.
R98, R166, R167: the vector loads read one unit for each vector lane, contiguous, strided or indexed, and land the register
at the load latency: lane j is the bytes of unit j, or of E3M2 storage element j mod 4 of group j / 4 widened to E4M3; the tag
has the format loaded, untracked, and the summaries of the lanes; the scale is +1.0. VLDSC takes the scale after the elements
and sets scl. -/
def Obligations.VectorLoadsDeliver : Prop :=
  (∀ (ty : BitVec 4) (b pitch : Word) (vi : VReg) (sc : BitVec 2) (i : Nat), i < 128 → ty ≠ 6 →
    let n := fmtBits ty.toNat / 8
    (unitsVld ty b)[i]? = some (b + BitVec.ofNat 64 (i * n), n) ∧
    (unitsVlds ty b pitch)[i]? = some (b + BitVec.ofNat 64 i * pitch, n) ∧
    (unitsVldx ty b vi sc)[i]? = some (b + ((vi.lanes[i]!).zeroExtend 64 : Word) <<< sc.toNat, n) ∧
    (unitsVld 6 b).length = 32 ∧ ∀ j < 32, (unitsVld 6 b)[j]? = some (b + BitVec.ofNat 64 (j * 3), 3)) ∧
  (∀ (s : State) (p : Fin 64) (d : Dst 32) (base : Fin 64) (off : MOff) (ty : BitVec 4) (b : Word), s.me.pget p = true →
    let lat := if s.me.kclass = 1 then 3 else 4
    let reads (us : Units) (al : Nat) : Prop := us.check al = .ok () ∧ s.waits (us.locs s.cur.core) = false ∧
      s.spadPoison us = none ∧ s.Clear .read (s.unitSpans 0 us)
    let got (u : Word × Nat) : List Byte := (Units.locs [u] s.cur.core).map s.byte
    let lands (us : Units) (x : VReg) : State := ((s.logged .read (s.unitSpans 0 us)).land .m lat
      (if d.nowb then [] else [.v d.reg x]) (some (.vec x)) 0).issued
    let holds (us : Units) (x : VReg) : Prop :=
      (∀ j : Fin 128, x.lanes[j] = BitVec.ofNat 32 (if ty = 6 then widen6 (elemOf 6 (j.val % 4) (got (us.getD (j.val / 4) (0, 0))))
        else leNat (got (us.getD j.val (0, 0))))) ∧
      bits x.tag 0 4 = (if ty = 6 then 4 else ty.toNat) ∧ bits x.tag 5 5 = 0 ∧ bits x.tag 12 4 = 0 ∧
      ((us.length = if ty = 6 then 32 else 128) →
        (x.tag.getLsbD 10 = true ↔ someNonfin (bits x.tag 0 4) x.lanes) ∧ (x.tag.getLsbD 11 = true ↔ allZeros (bits x.tag 0 4) x.lanes))
    let delivers (i : Instr) (us : Units) : Prop := reads us (vecAlign ty) →
      ∃ x, exec i s = .next (lands us x) ∧ holds us x ∧ x.tag.getLsbD 4 = false ∧ x.scale = one32
    (s.me.ea base off = .ok b → delivers (.vld p d base off ty) (unitsVld ty b)) ∧
    (∀ q, s.me.checked base = .ok b → s.me.offset off = .ok q → delivers (.vlds p d base off ty) (unitsVlds ty b q)) ∧
    (∀ vi sc, s.me.checked base = .ok b → delivers (.vldx p d base vi sc ty) (unitsVldx ty b s.me.vreg[vi] sc)) ∧
    (s.me.ea base off = .ok b →
      let us := unitsVld ty b
      let after : Word × Nat := (b + BitVec.ofNat 64 (us.length * unitBytes ty), 4)
      us.check (vecAlign ty) = .ok () → reads (us ++ [after]) 1 →
      ∃ x, exec (.vldsc p d base off ty) s = .next (lands (us ++ [after]) x) ∧ holds us x ∧ x.tag.getLsbD 4 = true ∧
        x.scale = BitVec.ofNat 32 (leNat (got after))))

/-- R98, R168: VLDT and VSTT on row s[sBase] of a descriptor's tile, in any space. VLDT delivers the first min(cols, 128)
elements, E3M2 widened, and zeros after them, with the tag's format and scale; from the scratchpad at the load latency,
else interlocked. VSTT writes those elements, to the scratchpad at once, else held to the close. Where the scale stands in
spaces 2 and 3 (log entry 7), that a register of format 0 may be stored as E3M2 (log entry 44) and that a descriptor's bits
[63:24] of f0 play no part in space 3 (log entry 62) are the model's choices. -/
def Obligations.DescriptorRowsMove : Prop :=
  ∀ (s : State) (p : Fin 64) (base : Fin 64) (dn : Fin 16) (i : Word) (ls : List (List Nat)),
    s.Canonical → s.me.pget p = true → s.me.checked base = .ok i →
    let q := s.me.dreg[dn]
    let a := s.me.actor s.cur.core
    let n := min q.cols 128
    let row := i.toNat
    let see := (s.view s.cur).plainByte
    let lat := if s.me.kclass = 1 then 3 else 4
    row < q.rows → q.rowMisaligned a row n = none → s.waits ls.flatten = false →
    (∀ d sl, (q.space = 0 → (q.rowUnits a row n false).check 1 = .ok ()) → s.waits sl = false → Desc.bad (q.set 7 0) (rowUse false) = none →
      gateAll (fun j => s.elemGate a q q.fmt row j ⟨false, false⟩) (List.range n) = .ok ls → s.rowScale a q row = .ok sl →
      let named := (List.range n).zipWith (fun j l => q.named a row j l) ls ++
        [(q.flatName ((q.scaleAddr.toNat + 4 * row : Nat) : Int), sl)]
      s.namedPoison named = none → ∀ t, s.touchRow .read named = .ok t →
      ∃ u x, exec (.vldt p d base dn) s = .next u ∧ u.verdict = .ok ∧
        u.me = { s.me with
          pipe := s.me.pipe ++ [⟨.m, s.me.n, s.me.pc, if q.space = 0 then some (s.me.n + lat) else none,
            if d.nowb then [] else [.v d.reg x], some (.vec x), 0, if q.space = 0 then [] else spansOf named,
            if q.space = 0 then s.time + lat else s.time, false⟩]
          mfoot := u.me.mfoot } ∧
        x.scale = (if q.scl then BitVec.ofNat 32 (leNat (sl.map see)) else one32) ∧
        x.tag.toNat % 2 ^ 4 = loadFmt q.fmt ∧ x.tag.getLsbD 4 = q.scl ∧
        ∀ j : Fin 128, x.lanes[j] = if j.val < n then
          BitVec.ofNat 32 (let e := elemOf q.fmt (q.sub a row j.val) ((ls.getD j.val []).map see)
            if q.fmt = 6 then widen6 e else e) else 0) ∧
    (∀ r, (q.space = 0 → (q.rowUnits a row n true).check 1 = .ok ()) → Desc.bad (q.set 7 0) (rowUse true) = none → storeFmt s.me.vreg[r] q.fmt = .ok () →
      gateAll (fun j => s.elemGate a q q.fmt row j ⟨true, false⟩) (List.range n) = .ok ls →
      let pat (j : Nat) : Nat := if q.fmt = 6 then (narrow6 (s.me.vreg[r].lanes[j]?.getD 0).toNat).1
        else (s.me.vreg[r].lanes[j]?.getD 0).toNat
      let cs := cellsOf (putAll q.fmt see ((List.range n).map fun j => (ls.getD j [], q.sub a row j, pat j)) [])
      s.poisonWrite cs = none →
      ∀ t, s.touchRow .write (((List.range n).zipWith (fun j l => q.named a row j l) ls).map (widenNamed q.fmt)) = .ok t →
      ∃ u, exec (.vstt p r base dn) s = .next u ∧ u.verdict = .ok ∧ u.me.vreg = s.me.vreg ∧ u.me.pipe = s.me.pipe ∧
        (∀ x, u.byte x = (s.setCells (cs.filter fun c => ownSpad s.cur.core c.1)).byte x) ∧
        (∀ x, x ∉ cs.map Prod.fst → u.byte x = s.byte x) ∧
        let far := cs.filter fun c => !ownSpad s.cur.core c.1
        u.me.pend = s.me.pend ++
          if far = [] then [] else [⟨.bytes far, BitVec.ofInt 64 (q.addr a row 0), false, false, some 0⟩])

/-- R171, R172: the commutative updates are held until the close, with their combination, type and value, and make the
step one that may not be run again once published (R346); nothing in memory changes before. -/
def Obligations.CommutativeUpdatesJoinTheirPhase : Prop :=
  ∀ (s : State) (p : Fin 64) (r base : Fin 64) (off : MOff) (ty : BitVec 4) (a v : Word) (ls : List Nat),
    s.me.pget p = true → s.me.ea base off = .ok a → s.me.checked r = .ok v →
    let n := if ty = 0 then 8 else fmtBits ty.toNat / 8
    a.toNat % n = 0 → s.gate1 s.me.asid a.toNat n ⟨true, false⟩ = .ok ls → s.waits ls = false →
    ls.find? s.poisoned = none → s.Clear .update (spansOf [(a, ls)]) →
    let joins (i : Instr) (k : UKind) : Prop := exec i s =
      .next (((s.logged .update (spansOf [(a, ls)])).noted .update (spansOf [(a, ls)])).modMe fun c =>
        { c with pend := c.pend ++ [⟨.upd (ls.headD 0) k ty v, a, true, false, some 0⟩] }).issued
    joins (.amadd p r base off ty) .sum ∧ joins (.ammax p r base off ty) .max ∧ joins (.ammin p r base off ty) .min ∧
    joins (.amand p r base off ty) .and ∧ joins (.amor p r base off ty) .or

/-- R170, R379: LDB issues a load block of 128 * (count + 1) bytes to scratchpad address w[21:0], whose completion word
takes the next scalar; nothing in the scratchpad changes before it has run. -/
def Obligations.LoadBlockIssues : Prop :=
  ∀ (s : State) (p r base : Fin 64) (off : MOff) (a w v : Word),
    s.me.pget p = true → s.me.ea base off = .ok a → s.me.checked r = .ok w → s.me.checked (Fin.ofNat 64 (r.val + 1)) = .ok v →
    let n := 128 * (w.toNat / 2 ^ 58 + 1)
    let word := w.toNat % 2 ^ 22
    (w.toNat / 2 ^ 22 % 2 ^ 36 = 0 → a.toNat % 65536 + n ≤ 65536 → a.toNat % 128 = 0 → word % 8 = 0 →
      exec (.ldb p r base off) s = .next (s.addK { s.newK (.ldb p r base off) none with
        sa := a
        sb := BitVec.ofNat 64 n
        visWord := some (spadLoc s.cur.core word, v)
        lvl := 2 }).issued) ∧
    (w.toNat / 2 ^ 22 % 2 ^ 36 ≠ 0 → Traps (.ldb p r base off) s .m { code := 0x04, d1 := BitVec.ofNat 64 (6 * 2 ^ 16) })

/-- R39, R41, R173: FUTRD of a filled future on this device delivers its value interlocked and opens a phase when it lands; of
an empty one it squashes the step, or the lane sleeps where a lane of the step has closed a phase. FUTFILL of an empty
future publishes the phase and then the value, and wakes who waits; filling it again with the same value only closes and
opens, another value stops it with 0x31; a poisoned future stops both with 0x32.
R41: what a fill leaves at its home: the value, state filled, an empty list of waiters; every waiter record of the future is
gone. -/
def Obligations.FuturesReadAndFill : Prop :=
  (∀ (s : State) (p base : Fin 64) (off : MOff) (a : Word) (ls : List Nat),
    s.me.pget p = true → s.me.ea base off = .ok a → a.toNat % 16 = 0 → s.waits ls = false →
    ls.any s.poisoned = false → remoteWindow (ls.headD 0) = none →
    let loc := ls.headD 0
    let touched (k : AKind) : State := (s.logged k (spansOf [(a, ls)])).noted k (spansOf [(a, ls)])
    let val := BitVec.ofNat 64 (s.num loc 8)
    let st := s.byte (loc + 8)
    (s.gate1 s.me.asid a.toNat 16 ⟨false, true⟩ = .ok ls → s.Clear .observe (spansOf [(a, ls)]) → ∀ d,
      let t := touched .observe
      (st = 1 → exec (.futrd p d base off) s = .next (t.modMe fun c => { c with
        pipe := c.pipe ++ [⟨.m, c.n, c.pc, none, if d.nowb then [] else [.s d.reg (SVal.of val)],
          some (.scalar (SVal.of val)), 0, [], s.time, true⟩] }).issued) ∧
      (st = 0 → ∀ r, s.getRun s.me.run = some r → r.closed = true → exec (.futrd p d base off) s =
        .next ((t.chain (s.home loc) s.me.asid s.me.opb loc (.lane s.cur s.me.run) true).modMe fun c =>
          { c with wait := .future loc a d c.pc }).issued) ∧
      (st = 0 → ∀ r, s.getRun s.me.run = some r → r.closed = false → (s.freeWaiter (s.home loc)).isSome →
        exec (.futrd p d base off) s = .next (t.squash s.cur (s.home loc) loc true).issued) ∧
      (st ≠ 0 → st ≠ 1 → Traps (.futrd p d base off) s .m { code := 0x32, faddr := a })) ∧
    (s.gate1 s.me.asid a.toNat 16 ⟨true, true⟩ = .ok ls → s.Clear .sync (spansOf [(a, ls)]) → ∀ r v, s.me.checked r = .ok v →
      let t := touched .sync
      (st = 0 → ∀ u, t.closePhase s.cur .m s.me.pc false = .ok u →
        exec (.futfill p r base off) s = .next ((u.fillFuture loc v 1).openPhase s.cur).issued) ∧
      (st = 1 → val = v → ∀ u, t.closePhase s.cur .m s.me.pc false = .ok u →
        exec (.futfill p r base off) s = .next (u.openPhase s.cur).issued) ∧
      (st = 1 → val ≠ v → Traps (.futfill p r base off) s .m { code := 0x31, faddr := a }) ∧
      (st ≠ 0 → st ≠ 1 → Traps (.futfill p r base off) s .m { code := 0x32, faddr := a }))) ∧
  (∀ (s : State) (loc : Nat) (v : Word), s.Canonical →
    let t := s.fillFuture loc v 1
    t.num loc 8 = v.toNat ∧ t.byte (loc + 8) = 1 ∧ t.num (loc + 12) 4 = 0 ∧
    (∀ w ∈ t.waiters, w.loc ≠ loc) ∧ ∀ a, ¬(loc ≤ a ∧ a < loc + 9) → ¬(loc + 12 ≤ a ∧ a < loc + 16) → t.byte a = s.byte a)

/-- R88, R90, R174, R210: KST and VSIG. VSIG delivers the signature of its vector under the head's hyperplanes at the
VSIG latency; KST holds the key, the reeds, the heads and the counts it changes together until the close. Both find memory
with the closes of other lanes arrived (R75), and stall after their bundle where the projection is not in the unit's
cache. -/
def Obligations.HeadOperationsComplete : Prop :=
  (∀ (s : State) (u : VUnit) (p : Fin 64) (d : Dst 32) (a : VSrc) (h : Fin 16) (ety : BitVec 4) (x y : VIn)
      (hc : List Nat × Hcb) (pr : List Nat × List Byte) (t : State),
    s.me.pget p = true → s.me.readVs [a, .bcast h] = .ok [x, y] → arithOk ety.toNat x = .ok () → trackOk [x.tag] = .ok () →
    let va := (s.me.sget ⟨h.val, by omega⟩).val.toNat
    let w := s.settled s.cur
    w.readHcb (w.view s.cur).plainByte s.me.asid va = .ok hc →
    w.projection (w.view s.cur).plainByte s.cur hc.2 = .ok pr →
    s.waits (hc.1 ++ pr.1) = false → s.touchReads [(va, hc.1), (hc.2.proj, pr.1)] = .ok t →
    let sig := signature hc.2 pr.2 ((List.range 128).map fun i => patVal ety.toNat (x.lane (fmtBits ety.toNat) i))
    exec (.vsig u p d a h ety) s = .next ((t.landS u.slot (if s.me.kclass = 1 then 9 else 10)
      ⟨⟨d.reg.val, by omega⟩, d.nowb⟩ (BitVec.ofNat 64 sig) 0).projUsed va pr.2).issued) ∧
  ∀ (s : State) (p r base : Fin 64) (off : MOff) (ka ha : Word) (hc : List Nat × Hcb) (pr : List Nat × List Byte)
      (k : KstAcc) (ws : List (Nat × List Host.Cell)) (t u : State),
    s.Canonical → s.me.pget p = true → s.me.ea base off = .ok ka → s.me.checked r = .ok ha → ka.toNat % 32 = 0 → ha.toNat % 256 = 0 →
    let key := [(ka, 256)]
    let v := s.settled s.cur
    let see := (v.view s.cur).plainByte
    let kb := (Units.locs key s.cur.core).map s.byte
    Units.check key 32 = .ok () → s.waits (Units.locs key s.cur.core) = false → s.spadPoison key = none → s.Clear .read (s.unitSpans 0 key) →
    v.readHcb see s.me.asid ha.toNat = .ok hc → v.projection see s.cur hc.2 = .ok pr →
    let sig := signature hc.2 pr.2 ((List.range 128).map fun j => bf16.dec (leNat ((kb.drop (2 * j)).take 2)))
    KstAcc.appendAll v see s.me.asid ha.toNat hc.2 sig (List.range hc.2.tables)
      ⟨hc.2.bump, [], [], [(ha.toNat, hc.1), (hc.2.proj, pr.1)]⟩ = .ok k →
    v.gateWrites s.me.asid (k.writes ha.toNat hc.2 kb) = .ok ws →
    s.waits (k.reads.flatMap Prod.snd ++ ws.flatMap fun x => x.2.map Prod.fst) = false →
    (s.logged .read (s.unitSpans 0 key)).touchReads k.reads = .ok t → t.holdWrites true ws = .ok u →
    ∃ x, exec (.kst p r base off) s = .next x ∧ x.verdict = .ok ∧ SameRegs s.me x.me ∧
      (∀ a, (∀ e ∈ s.exact, ¬(e.1 ≤ a ∧ a < e.1 + 8)) → x.byte a = s.byte a) ∧
      x.me.pend = s.me.pend ++ ws.map fun w => ⟨.bytes w.2, BitVec.ofNat 64 w.1, true, false, some 0⟩

/-! ## The vector slots -/

/-- R194, R196: the floating arithmetic of the V slot. Each lane is formed exactly and rounded once by the instruction's
mode; minimum, maximum and the sign operations raise no flag. -/
def Obligations.FloatingVectorsDeliver : Prop :=
  ∀ (s : State) (u : VUnit) (p : Fin 64) (d : Dst 32) (a b c : VSrc) (m : VMods) (q : Fmt),
    s.me.pget p = true → 1 ≤ m.ety.toNat → m.ety.toNat ≤ 3 → fmtOf m.ety.toNat = some q → s.OldPlain d m.mask m.ety.toNat →
    let e := m.ety.toNat
    let rm := m.rnd.toNat
    let w := fmtBits e
    let half := 2 ^ (w - 1)
    let slow := if s.me.kclass = 1 then 4 else 5
    let rounded (v : XV × Flags) : Nat × Flags := ((q.round rm m.sat v.1).1, (q.round rm m.sat v.1).2 ||| v.2)
    (∀ x y, s.Sources d m.mask e [a, b] [x, y] → Plain e x → Plain e y →
      let gives (i : Instr) (lat : Nat) (lane : Nat → Nat × Flags) : Prop :=
        DeliversV i s u d lat (s.me.kget m.mask) e (s.common d m.mask [x, y]) one32 lane
      let vx (i : Nat) : XV := q.dec (x.lane w i)
      let vy (i : Nat) : XV := q.dec (y.lane w i)
      let less (i : Nat) : Prop := (vx i).lt (vy i) = true ∨ ((vx i).eqv (vy i) = true ∧ (vx i).neg = true)
      gives (.vadd u p d a b m) 2 (fun i => rounded (XV.add rm (vx i) (vy i))) ∧
      gives (.vsub u p d a b m) 2 (fun i => rounded (XV.add rm (vx i) (vy i).negate)) ∧
      gives (.vmul u p d a b m) slow (fun i => rounded (XV.mul (vx i) (vy i))) ∧
      (∃ lane, gives (.vmin u p d a b m) 2 lane ∧ ∀ i < 128, (lane i).2 = 0 ∧
        ((vx i).isNan = true ∨ (vy i).isNan = true → (lane i).1 = q.nan) ∧
        ((vx i).isNan = false → (vy i).isNan = false →
          (less i → (lane i).1 = x.lane w i) ∧ (¬ less i → (lane i).1 = y.lane w i))) ∧
      (∃ lane, gives (.vmax u p d a b m) 2 lane ∧ ∀ i < 128, (lane i).2 = 0 ∧
        ((vx i).isNan = true ∨ (vy i).isNan = true → (lane i).1 = q.nan) ∧
        ((vx i).isNan = false → (vy i).isNan = false →
          (less i → (lane i).1 = y.lane w i) ∧ (¬ less i → (lane i).1 = x.lane w i))) ∧
      gives (.vcpys u p d a b m) 2 (fun i =>
        (if (vx i).isNan then q.nan else x.lane w i % half + y.lane w i / half * half, 0))) ∧
    (∀ x, s.Sources d m.mask e [a] [x] → Plain e x →
      let gives (i : Instr) (f : Nat → Nat) : Prop :=
        DeliversV i s u d 2 (s.me.kget m.mask) e (s.common d m.mask [x]) one32
          (fun i => (if (q.dec (x.lane w i)).isNan then q.nan else f (x.lane w i), 0))
      gives (.vabs u p d a m) (fun n => n % half) ∧ gives (.vneg u p d a m) (fun n => (n + half) % 2 ^ w)) ∧
    (∀ x y z, s.Sources d m.mask e [a, b, c] [x, y, z] → Plain e x → Plain e y → Plain e z →
      let fused (i : Instr) (np nc : Bool) : Prop :=
        DeliversV i s u d slow (s.me.kget m.mask) e (s.common d m.mask [x, y, z]) one32 fun i =>
          let vx := q.dec (x.lane w i)
          let vy := q.dec (y.lane w i)
          let vz := q.dec (z.lane w i)
          let t := XV.mul vx vy
          let r := XV.add rm (if np then t.1.negate else t.1) (if nc then vz.negate else vz)
          if vx.isNan || vy.isNan || vz.isNan then (q.nan, 0) else rounded (r.1, t.2 ||| r.2)
      fused (.vfma u p d a b c m) false false ∧ fused (.vfms u p d a b c m) false true ∧
      fused (.vfnma u p d a b c m) true false)

/-- R195: the integer arithmetic of the V slot. Each lane is the exact integer, wrapped to the width, or with sat clamped
to the range and saturated raised where that changed it; no other flag is raised. -/
def Obligations.IntegerVectorsDeliver : Prop :=
  ∀ (s : State) (u : VUnit) (p : Fin 64) (d : Dst 32) (a b : VSrc) (m : VMods),
    s.me.pget p = true → m.ety.toNat = 0 ∨ (7 ≤ m.ety.toNat ∧ m.ety.toNat ≤ 12) → s.OldPlain d m.mask m.ety.toNat →
    let e := m.ety.toNat
    let w := fmtBits e
    let sg : Prop := e = 7 ∨ e = 9 ∨ e = 11
    ∀ lo hi : Int, (sg → lo = -(2 ^ (w - 1)) ∧ hi = 2 ^ (w - 1) - 1) → (¬ sg → lo = 0 ∧ hi = 2 ^ w - 1) →
    let slow := if s.me.kclass = 1 then 4 else 5
    let fits (r : Nat × Flags) (v : Int) : Prop := r.1 < 2 ^ w ∧
      (m.sat = false → (r.1 : Int) % 2 ^ w = v % 2 ^ w ∧ r.2 = 0) ∧
      (m.sat = true → (r.1 : Int) % 2 ^ w = max lo (min hi v) % 2 ^ w ∧ r.2 = if lo ≤ v ∧ v ≤ hi then 0 else fSat)
    ∀ val : Nat → Int, (∀ n < 2 ^ w, lo ≤ val n ∧ val n ≤ hi ∧ (val n - n) % 2 ^ w = 0) →
    (∀ x y, s.Sources d m.mask e [a, b] [x, y] → Plain e x → Plain e y →
      let gives (i : Instr) (lat : Nat) (f : Int → Int → Int) : Prop :=
        ∃ lane, DeliversV i s u d lat (s.me.kget m.mask) e (s.common d m.mask [x, y]) one32 lane ∧
          ∀ i < 128, fits (lane i) (f (val (x.lane w i)) (val (y.lane w i)))
      gives (.vadd u p d a b m) 2 (· + ·) ∧ gives (.vsub u p d a b m) 2 (· - ·) ∧ gives (.vmul u p d a b m) slow (· * ·) ∧
      gives (.vmin u p d a b m) 2 min ∧ gives (.vmax u p d a b m) 2 max) ∧
    ∀ x, s.Sources d m.mask e [a] [x] → Plain e x →
      let gives (i : Instr) (f : Int → Int) : Prop :=
        ∃ lane, DeliversV i s u d 2 (s.me.kget m.mask) e (s.common d m.mask [x]) one32 lane ∧
          ∀ i < 128, fits (lane i) (f (val (x.lane w i)))
      gives (.vabs u p d a m) (fun v => max v (-v)) ∧ gives (.vneg u p d a m) (- ·)

/-- R197: the logic and shifts of the V slot act on the low bits of each lane whatever its format, and raise nothing. A shift by
the width or more gives 0, or for VSRA the sign.
R198, R208, R209: the compares set the bits of a mask that their own mask selects and keep its others; VMOVK combines masks;
KPOPC counts. -/
def Obligations.VectorBitsAndMasksDeliver : Prop :=
  (∀ (s : State) (u : VUnit) (p : Fin 64) (d : Dst 32) (a b : VSrc) (m : VMods) (x y : VIn),
    s.me.pget p = true → s.Sources d m.mask m.ety.toNat [a, b] [x, y] →
    let w := fmtBits m.ety.toNat
    let gives (i : Instr) (f : Nat → Nat → Nat) : Prop :=
      DeliversV i s u d 2 (s.me.kget m.mask) m.ety.toNat (s.common d m.mask [x, y]) one32
        (fun i => (f (x.lane w i) (y.lane w i), 0))
    gives (.vand u p d a b m) (· &&& ·) ∧ gives (.vor u p d a b m) (· ||| ·) ∧ gives (.vxor u p d a b m) (· ^^^ ·) ∧
    gives (.vshl u p d a b m) (fun n k => n * 2 ^ (k % 64) % 2 ^ w) ∧
    gives (.vshr u p d a b m) (fun n k => n / 2 ^ (k % 64)) ∧
    gives (.vsra u p d a b m) (fun n k => (sextNat n w / 2 ^ (k % 64) % 2 ^ w).toNat)) ∧
  ((∀ (s : State) (u : VUnit) (p : Fin 64) (d : Dst 8) (a b : VSrc) (m : VMods) (x y : VIn),
    s.me.pget p = true → s.me.readVs [a, b] = .ok [x, y] → Agree [x.tag, y.tag] →
    let e := m.ety.toNat
    let w := fmtBits e
    Plain e x → Plain e y →
    let gives (i : Instr) (rel : Nat → Bool) (inv : Nat → Bool) : Prop := ∃ (k : Mask) (f : Flags),
      exec i s = .next (s.land u.slot 2 (if d.nowb then [] else [.k d.reg k]) (some (.mask k)) f).issued ∧
      (∀ j : Fin 128, k.getLsbD j.val =
        if (s.me.kget m.mask).getLsbD j.val then rel j.val else (s.me.kget d.reg).getLsbD j.val) ∧
      f = if ∃ j : Fin 128, (s.me.kget m.mask).getLsbD j.val = true ∧ inv j.val = true then fInv else 0
    (∀ q, 1 ≤ e → e ≤ 3 → fmtOf e = some q →
      let vx (i : Nat) : XV := q.dec (x.lane w i)
      let vy (i : Nat) : XV := q.dec (y.lane w i)
      let unord (i : Nat) : Bool := (vx i).isNan || (vy i).isNan
      gives (.vcmpeq u p d a b m) (fun i => (vx i).eqv (vy i)) (fun _ => false) ∧
      gives (.vcmpne u p d a b m) (fun i => !(vx i).eqv (vy i)) (fun _ => false) ∧
      gives (.vcmplt u p d a b m) (fun i => (vx i).lt (vy i)) unord ∧
      gives (.vcmple u p d a b m) (fun i => (vx i).le (vy i)) unord) ∧
    (e = 0 ∨ (7 ≤ e ∧ e ≤ 12) →
      let val (n : Nat) : Int := if e = 7 ∨ e = 9 ∨ e = 11 then sextNat n w else n
      let rel (i : Instr) (f : Int → Int → Bool) : Prop :=
        gives i (fun i => f (val (x.lane w i)) (val (y.lane w i))) (fun _ => false)
      rel (.vcmpeq u p d a b m) (fun v t => decide (v = t)) ∧ rel (.vcmpne u p d a b m) (fun v t => decide (v ≠ t)) ∧
      rel (.vcmplt u p d a b m) (fun v t => decide (v < t)) ∧ rel (.vcmple u p d a b m) (fun v t => decide (v ≤ t)))) ∧
  (∀ (s : State) (u : VUnit) (p : Fin 64) (d : Dst 8) (a b : Fin 8), s.me.pget p = true →
    let x := s.me.kget a
    let y := s.me.kget b
    let gives (op : BitVec 5) (k : Mask) : Prop := exec (.vmovk u p d a b op) s =
      .next (s.land u.slot 2 (if d.nowb then [] else [.k d.reg k]) (some (.mask k)) 0).issued
    gives 0 (x &&& y) ∧ gives 1 (x ||| y) ∧ gives 2 (x ^^^ y) ∧ gives 3 (x &&& ~~~y) ∧ gives 4 (~~~x) ∧ gives 5 x ∧
    ∃ k, gives 6 k ∧ ∀ j : Nat, k.getLsbD j = decide (x.getLsbD j = true ∧ ∀ i < j, x.getLsbD i = false)) ∧
  ∀ (s : State) (u : VUnit) (p : Fin 64) (d : Dst 32) (a mask : Fin 8), s.me.pget p = true →
    exec (.kpopc u p d a mask) s = .next (s.landS u.slot 2 ⟨⟨d.reg.val, by omega⟩, d.nowb⟩ (BitVec.ofNat 64
      ((List.range 128).filter fun i => (s.me.kget a).getLsbD i && (s.me.kget mask).getLsbD i).length) 0).issued)

/-- R96, R190, R200, R207: the moves of whole lanes, whose results hold the bits of their format. Format, scl, scale, prov and ver come from va; VEXTR extends the lane by
the format of va. -/
def Obligations.VectorLanesMove : Prop :=
  ∀ (s : State) (u : VUnit) (p : Fin 64) (d : Dst 32) (a b c : VSrc) (mask : Fin 8), s.me.pget p = true →
    let gives (i : Instr) (lat : Nat) (k : Mask) (x : VIn) (lane : Nat → Nat) : Prop :=
      DeliversV i s u d lat k (bits x.tag 0 4) (bits x.tag 4 6) x.scale (fun i => (lane i % 2 ^ fmtBits (bits x.tag 0 4), 0))
    let laneOf (y : VIn) : Nat := y.lane 7 0
    let agree (x y : VIn) : Prop := bits x.tag 0 4 = 0 ∨ bits y.tag 0 4 = 0 ∨ bits x.tag 0 4 = bits y.tag 0 4
    (∀ x, s.Sources d mask (bits x.tag 0 4) [a] [x] →
      gives (.vmov u p d a mask) 2 (s.me.kget mask) x (fun i => x.lane 32 i)) ∧
    (∀ x y, s.Sources d mask (bits x.tag 0 4) [a, b] [x, y] →
      gives (.vbcast u p d a b mask) 2 (s.me.kget mask) x (fun _ => x.lane 32 (laneOf y)) ∧
      gives (.vrotl u p d a b mask) 3 (s.me.kget mask) x (fun i => x.lane 32 ((i + laneOf y) % 128))) ∧
    (∀ x y z, s.Sources d mask (bits x.tag 0 4) [a, b, c] [x, y, z] → agree x z →
      gives (.vperm u p d a b c mask) 3 (s.me.kget mask) x (fun i =>
        if (y.lane 8 i).testBit 7 then z.lane 32 (y.lane 8 i % 128) else x.lane 32 (y.lane 8 i % 128))) ∧
    (∀ x y ks, s.Sources d 0 (bits x.tag 0 4) [a, b] [x, y] → agree x y →
      gives (.vsel u p d a b ks) 2 (s.me.kget 0) x (fun i =>
        if (s.me.kget ks).getLsbD i then x.lane 32 i else y.lane 32 i)) ∧
    (∀ x y z, s.Sources d 0 (bits x.tag 0 4) [a, b, c] [x, y, z] → agree x y →
      gives (.vins u p d a b c) 3 (s.me.kget 0) x (fun i => if i = laneOf z then y.lane 32 i else x.lane 32 i)) ∧
    (∀ x m, s.Sources d m.mask m.ety.toNat [a] [x] →
      let w := fmtBits m.ety.toNat
      DeliversV (.viota u p d a m) s u d 2 (s.me.kget m.mask) m.ety.toNat (bits x.tag 4 6) x.scale
        (fun i => ((x.lane w i + i) % 2 ^ w, 0))) ∧
    ∀ x y, s.me.readVs [a, b] = .ok [x, y] → Agree [x.tag, y.tag] →
      let f := bits x.tag 0 4
      let n := x.lane (fmtBits f) (laneOf y)
      exec (.vextr u p d a b) s = .next (s.landS u.slot 3 ⟨⟨d.reg.val, by omega⟩, d.nowb⟩
        (if f = 7 ∨ f = 9 ∨ f = 11 then BitVec.ofInt 64 (sextNat n (fmtBits f)) else BitVec.ofNat 64 n) 0).issued

/-- R199, R201: VCLASS, and the functions of one operand, each lane the function of its exact value rounded by the mode.
R201: the special operands of the functions, and the exact cases the rule names: VEXP2 of an integer and VLOG2 of a power of
two round an exact value. -/
def Obligations.VectorFunctionsDeliver : Prop :=
  (∀ (s : State) (u : VUnit) (p : Fin 64) (d : Dst 32) (a : VSrc) (m : VMods) (x : VIn) (q : Fmt),
    s.me.pget p = true → fmtOf m.ety.toNat = some q →
    let e := m.ety.toNat
    let w := fmtBits e
    let gives (i : Instr) (lat fmt : Nat) (lane : Nat → Nat × Flags) : Prop :=
      DeliversV i s u d lat (s.me.kget m.mask) fmt (s.common d m.mask [x]) one32 lane
    Plain e x →
    (e ≤ 3 → s.OldPlain d m.mask e → s.Sources d m.mask e [a] [x] →
      let fn (i : Instr) (f : Fmt → Nat → Bool → XV → Nat × Flags) : Prop :=
        gives i 8 e (fun i => f q m.rnd.toNat m.sat (q.dec (x.lane w i)))
      fn (.vrcp u p d a m) Fmt.recip ∧ fn (.vrsqrt u p d a m) Fmt.rsqrt ∧ fn (.vsqrt u p d a m) Fmt.sqrt ∧
      fn (.vexp2 u p d a m) Fmt.exp2 ∧ fn (.vlog2 u p d a m) Fmt.log2 ∧ fn (.vtanh u p d a m) Fmt.tanh) ∧
    (e ≤ 5 → s.OldPlain d m.mask 12 → s.Sources d m.mask 12 [a] [x] →
      ∃ lane : Nat → Nat, gives (.vclass u p d a m) 2 12 (fun i => (lane i, 0)) ∧ ∀ i < 128,
        let n := x.lane w i
        let neg := n.testBit (w - 1)
        match q.dec n with
        | .nan => lane i = 2 ^ 8
        | .inf _ => lane i = if neg then 2 ^ 0 else 2 ^ 7
        | .fin _ v _ _ =>
          (v = 0 → lane i = if neg then 2 ^ 3 else 2 ^ 4) ∧
          (v ≠ 0 → v < 2 ^ q.m → lane i = if neg then 2 ^ 2 else 2 ^ 5) ∧
          (2 ^ q.m ≤ v → lane i = if neg then 2 ^ 1 else 2 ^ 6))) ∧
  (∀ (q : Fmt) (rm : Nat) (sat : Bool), q = fp32 ∨ q = bf16 ∨ q = fp16 → rm < 4 →
    let one (n : Bool) : Nat := q.signed n (q.bias * 2 ^ q.m)
    (∀ (n : Bool) (d : Nat) (e : Int), let z : XV := .fin n 0 d e
      q.recip rm sat z = (q.infp n, fDz) ∧ q.rsqrt rm sat z = (q.infp n, fDz) ∧ q.sqrt rm sat z = (q.signed n 0, 0) ∧
      q.exp2 rm sat z = (one false, 0) ∧ q.log2 rm sat z = (q.infp true, fDz) ∧ q.tanh rm sat z = (q.signed n 0, 0)) ∧
    (∀ n : Bool, q.recip rm sat (.inf n) = (q.signed n 0, 0) ∧ q.tanh rm sat (.inf n) = (one n, 0)) ∧
    q.rsqrt rm sat (.inf false) = (0, 0) ∧ q.rsqrt rm sat (.inf true) = (q.nan, fInv) ∧
    q.sqrt rm sat (.inf false) = (q.infp false, 0) ∧ q.sqrt rm sat (.inf true) = (q.nan, fInv) ∧
    q.exp2 rm sat (.inf false) = (q.infp false, 0) ∧ q.exp2 rm sat (.inf true) = (0, 0) ∧
    q.log2 rm sat (.inf false) = (q.infp false, 0) ∧ q.log2 rm sat (.inf true) = (q.nan, fInv) ∧
    (∀ (v d : Nat) (e : Int), 0 < v → let x : XV := .fin true v d e
      q.rsqrt rm sat x = (q.nan, fInv) ∧ q.sqrt rm sat x = (q.nan, fInv) ∧ q.log2 rm sat x = (q.nan, fInv)) ∧
    q.recip rm sat .nan = (q.nan, 0) ∧ q.rsqrt rm sat .nan = (q.nan, 0) ∧ q.sqrt rm sat .nan = (q.nan, 0) ∧
    q.exp2 rm sat .nan = (q.nan, 0) ∧ q.log2 rm sat .nan = (q.nan, 0) ∧ q.tanh rm sat .nan = (q.nan, 0) ∧
    (∀ (n : Bool) (v d : Nat) (e : Int), 0 < v →
      q.recip rm sat (.fin n v d e) = q.round rm sat (.fin n d v (-e))) ∧
    (∀ (v k : Nat) (n : Bool), v < 2 ^ 10 →
      q.exp2 rm sat (.fin n (v * 2 ^ k) 1 (-(k : Int))) =
        q.round rm sat (.fin false 1 1 (if n then -(v : Int) else v))) ∧
    ∀ (k : Nat) (e : Int), q.log2 rm sat (.fin false (2 ^ k) 1 e) = q.round rm sat (XV.ofInt (e + k)))

/-- R202, R203, R204: VCVT takes each lane's value under its scale into the element type; VSCALE multiplies by a power of
two before the one rounding; VQUANT divides by the scale of vb, which the result's tag carries. That VQUANT raises no flag of
the product or quotient where that scale is NaN is the model's choice (log entry 55). -/
def Obligations.VectorConversionsDeliver : Prop :=
  ∀ (s : State) (u : VUnit) (p : Fin 64) (d : Dst 32) (a b : VSrc) (m : VMods), s.me.pget p = true →
    let e := m.ety.toNat
    let rm := m.rnd.toNat
    let into (v : XV) : Nat × Flags := match fmtOf e with
      | some q => q.round rm m.sat v
      | none => floatToInt (fmtSigned e) (fmtBits e) rm m.sat v
    let value (x : VIn) (i : Nat) : XV × Flags :=
      let f := bits x.tag 0 4
      let n := x.lane (fmtBits f) i
      let v : XV := match fmtOf f with
        | some q => q.dec n
        | none => XV.ofInt (if f = 7 ∨ f = 9 ∨ f = 11 then sextNat n (fmtBits f) else n)
      if bitAt x.tag 4 then XV.mul v (fp32.dec x.scale.toNat) else (v, 0)
    (∀ x, s.Sources d m.mask e [a] [x] → bits x.tag 0 4 ≠ 0 →
      ∃ lane, DeliversV (.vcvt u p d a m) s u d 3 (s.me.kget m.mask) e (s.common d m.mask [x]) one32 lane ∧ ∀ i < 128,
        ((fmtOf e).isSome ∨ (fmtOf (bits x.tag 0 4)).isSome →
          lane i = ((into (value x i).1).1, (value x i).2 ||| (into (value x i).1).2)) ∧
        ((fmtOf e).isNone → 7 ≤ bits x.tag 0 4 → bits x.tag 0 4 ≤ 12 → bitAt x.tag 4 = false → 7 ≤ e → e ≤ 12 →
          let f := bits x.tag 0 4
          let n := x.lane (fmtBits f) i
          let v : Int := if f = 7 ∨ f = 9 ∨ f = 11 then sextNat n (fmtBits f) else n
          let lo : Int := intLo (fmtSigned e) (fmtBits e)
          let hi : Int := intHi (fmtSigned e) (fmtBits e)
          (m.sat = false → lane i = ((v % 2 ^ fmtBits e).toNat, 0)) ∧
          (m.sat = true → lane i = ((max lo (min hi v) % 2 ^ fmtBits e).toNat, if lo ≤ v ∧ v ≤ hi then 0 else fSat)))) ∧
    (∀ x y q, 1 ≤ e → e ≤ 3 → fmtOf e = some q → s.Sources d m.mask e [a, b] [x, y] → Plain e x → Plain 11 y →
      s.OldPlain d m.mask e →
      DeliversV (.vscale u p d a b m) s u d (if s.me.kclass = 1 then 4 else 5) (s.me.kget m.mask) e
        (s.common d m.mask [x, y]) one32 fun i =>
          match q.dec (x.lane (fmtBits e) i) with
          | .fin n v k g => q.round rm m.sat (.fin n v k (g + sextNat (y.lane 32 i) 32))
          | .inf n => (q.infp n, 0)
          | .nan => (q.nan, 0)) ∧
    ∀ x y, s.Sources d m.mask e [a, b] [x, y] → 1 ≤ bits x.tag 0 4 → bits x.tag 0 4 ≤ 3 →
      bits y.tag 0 4 = 0 ∨ bits y.tag 0 4 = 1 →
      let sc : W32 := BitVec.ofNat 32 (y.lane 32 0)
      DeliversV (.vquant u p d a b m) s u d 3 (s.me.kget m.mask) e (1 + 2 * bits x.tag 5 5) sc fun i =>
        let v := value x i
        let t := XV.div v.1 (fp32.dec sc.toNat)
        ((into t.1).1, (if (fp32.dec sc.toNat).isNan then 0 else v.2 ||| t.2) ||| (into t.1).2)

/-- R108, R205, R206: VRADD, VRMAX and VRMIN combine lane i with lane i + 64, then i + 32, down to 1, and fill the register
with the result; VSCAN adds lane i - 1, then i - 2, up to 64. A lane that the mask leaves out enters as the identity; the
flags are those of every node. -/
def Obligations.ReductionsDeliver : Prop :=
  ∀ (s : State) (u : VUnit) (p : Fin 64) (d : Dst 32) (a : VSrc) (m : VMods) (x : VIn),
    let e := m.ety.toNat
    s.me.pget p = true → e = 0 ∨ (1 ≤ e ∧ e ≤ 3) ∨ (7 ≤ e ∧ e ≤ 12) → s.Sources d 0 e [a] [x] → Plain e x →
    let start (z : Nat) (i : Nat) : W32 :=
      BitVec.ofNat 32 (if (s.me.kget m.mask).getLsbD i then x.lane (fmtBits e) i else z)
    let gives (i : Instr) (lane : Nat → W32) (f : Flags) : Prop :=
      DeliversV i s u d 6 (s.me.kget 0) e (s.common d 0 [x]) one32 (fun j => ((lane j).toNat, f))
    -- the values of a tree, level by level, and its flags
    let tree (g : Nat → Nat → Nat × Flags) (z : Nat) (l : Nat → Nat → W32) (f : Flags) : Prop :=
      (∀ i < 128, l 0 i = start z i) ∧
      (∀ k < 7, ∀ i < 2 ^ (6 - k), l (k + 1) i = BitVec.ofNat 32 (g (l k i).toNat (l k (i + 2 ^ (6 - k))).toNat).1) ∧
      ∀ b : Nat, f.getLsbD b = true ↔
        ∃ k < 7, ∃ i < 2 ^ (6 - k), (g (l k i).toNat (l k (i + 2 ^ (6 - k))).toNat).2.getLsbD b = true
    let scan (g : Nat → Nat → Nat × Flags) (z : Nat) (l : Nat → Nat → W32) (f : Flags) : Prop :=
      (∀ i < 128, l 0 i = start z i) ∧
      (∀ k < 7, ∀ i < 128, l (k + 1) i =
        if i < 2 ^ k then l k i else BitVec.ofNat 32 (g (l k (i - 2 ^ k)).toNat (l k i).toNat).1) ∧
      ∀ b : Nat, f.getLsbD b = true ↔
        ∃ k < 7, ∃ i < 128, 2 ^ k ≤ i ∧ (g (l k (i - 2 ^ k)).toNat (l k i).toNat).2.getLsbD b = true
    let least (q : Fmt) (gt : Bool) (v t : Nat) : Nat × Flags :=
      (if (q.dec v).isNan || (q.dec t).isNan then q.nan
        else if xor gt ((q.dec v).lt (q.dec t) || ((q.dec v).eqv (q.dec t) && (q.dec v).neg)) then v else t, 0)
    ∀ (l : Nat → Nat → W32) (f : Flags),
      (∀ q, fmtOf e = some q →
        let sum (v t : Nat) : Nat × Flags :=
          let r := XV.add m.rnd.toNat (q.dec v) (q.dec t)
          ((q.round m.rnd.toNat m.sat r.1).1, (q.round m.rnd.toNat m.sat r.1).2 ||| r.2)
        let minusZero := 2 ^ (fmtBits e - 1)
        (tree sum minusZero l f → gives (.vradd u p d a m) (fun _ => l 7 0) f) ∧
        (tree (least q true) (q.infp true) l f → gives (.vrmax u p d a m) (fun _ => l 7 0) f) ∧
        (tree (least q false) (q.infp false) l f → gives (.vrmin u p d a m) (fun _ => l 7 0) f) ∧
        (scan sum minusZero l f → gives (.vscan u p d a m) (l 7) f)) ∧
      (fmtOf e = none →
        let w := fmtBits e
        let sg := decide (e = 7 ∨ e = 9 ∨ e = 11)
        let val (n : Nat) : Int := if sg then sextNat n w else (n % 2 ^ w : Nat)
        let sum (v t : Nat) : Nat × Flags := intToInt sg w m.sat (val v + val t)
        let pick (gt : Bool) (v t : Nat) : Nat × Flags := (if (if gt then val t ≤ val v else val v ≤ val t) then v else t, 0)
        (tree sum 0 l f → gives (.vradd u p d a m) (fun _ => l 7 0) f) ∧
        (tree (pick true) (wrapNat w (intLo sg w)) l f → gives (.vrmax u p d a m) (fun _ => l 7 0) f) ∧
        (tree (pick false) (wrapNat w (intHi sg w)) l f → gives (.vrmin u p d a m) (fun _ => l 7 0) f) ∧
        (scan sum 0 l f → gives (.vscan u p d a m) (l 7) f))

/-- R368, R369: an operand latch of another class stops the operation with 0x05 and the latch number in w6 [20:16]; a scalar
whose residue does not fit stops DSET and CRWR, which read it at a check point, with 0x0C and the register or latch number
in w6.
R374, R379: a scalar access whose effective address is not a multiple of its width stops with 0x27 and that address in w4,
before any other memory check; in the scratchpad, one at or above 0x400000 stops with 0x28.
R99, R191, R368, R372: what stops a V-slot operation at issue. A source latch of another class: 0x05 with its number in w6
[20:16]. A source of arithmetic with another format, or scaled, the destination that a mask merges into among them (R192):
0x07 with the tag found and the format expected. Two tracked tags that differ in version: 0x08, in provenance: 0x09. That of
the two the later is the tag found and the first the one expected is the model's reading (log entry 26). -/
def Obligations.IssueChecksTrap : Prop :=
  (∀ (s : State) (u : SUnit) (p : Fin 64) (d : Dst 64) (a : SSrc) (b : SBSrc) (q : Fin 16),
    s.me.pget p = true → a = .latch q →
    let wrong : Fail := { code := 0x05, d1 := BitVec.ofNat 64 (q.val * 2 ^ 16) }
    (((∃ x, s.me.qreg[q] = .pred x) ∨ (∃ x, s.me.qreg[q] = .mask x) ∨ ∃ x, s.me.qreg[q] = .vec x) →
      Traps (.add u p d a b) s u.slot wrong ∧ Traps (.divs u p d a b) s u.slot wrong ∧ Traps (.sext u p d a 1) s u.slot wrong ∧
      Traps (.cmpeq u p d a b) s u.slot wrong ∧ Traps (.fcvtis u p d a 0) s u.slot wrong) ∧
    (((∃ x, s.me.qreg[q] = .scalar x) ∨ (∃ x, s.me.qreg[q] = .mask x) ∨ ∃ x, s.me.qreg[q] = .vec x) →
      Traps (.sel u p d a b) s u.slot wrong ∧ Traps (.pmov u p d a) s u.slot wrong ∧ Traps (.ptos u p d a) s u.slot wrong) ∧
    (∀ x, s.me.qreg[q] = .scalar x → x.res.toNat ≠ x.val.toNat % 15 →
      let bad : Fail := { code := 0x0C, d1 := BitVec.ofNat 64 (q.val + 64) }
      (∀ n, Traps (.crwr u p a n) s u.slot bad) ∧ ∀ e f, Traps (.dset u p e a f) s u.slot bad) ∧
    (∀ r : Fin 64, (s.me.sget r).res.toNat ≠ (s.me.sget r).val.toNat % 15 →
      let bad : Fail := { code := 0x0C, d1 := BitVec.ofNat 64 r.val }
      (∀ n, Traps (.crwr u p (.reg r) n) s u.slot bad) ∧ ∀ e f, Traps (.dset u p e (.reg r) f) s u.slot bad)) ∧
  (∀ (s : State) (p : Fin 64) (d : Dst 64) (r base : Fin 64) (off : MOff) (ty : BitVec 4) (a v : Word),
    s.me.pget p = true → s.me.ea base off = .ok a → s.me.checked r = .ok v →
    let n := if ty = 0 then 8 else fmtBits ty.toNat / 8
    let mis : Fail := { code := 0x27, faddr := a }
    (a.toNat % n ≠ 0 →
      Traps (.ld p d base off ty) s .m mis ∧ Traps (.st p r base off ty) s .m mis ∧
      Traps (.ldg p d base off ty) s .m mis ∧ Traps (.stg p r base off ty) s .m mis ∧
      Traps (.amadd p r base off ty) s .m mis ∧ Traps (.ammax p r base off ty) s .m mis ∧
      Traps (.ammin p r base off ty) s .m mis ∧ Traps (.amand p r base off ty) s .m mis ∧
      Traps (.amor p r base off ty) s .m mis) ∧
    (a.toNat % 16 ≠ 0 → Traps (.futrd p d base off) s .m mis ∧ Traps (.futfill p r base off) s .m mis) ∧
    (a.toNat % n = 0 → 0x400000 ≤ a.toNat → 0 < n →
      Traps (.ld p d base off ty) s .m { code := 0x28, faddr := a } ∧
      Traps (.st p r base off ty) s .m { code := 0x28, faddr := a })) ∧
  (∀ (s : State) (u : VUnit) (p : Fin 64) (d : Dst 32) (a b : VSrc) (m : VMods), s.me.pget p = true →
    let tag (code : Byte) (found expected : Nat) : Fail := { code := code, d1 := BitVec.ofNat 64 (found + expected * 2 ^ 16) }
    let e := m.ety.toNat
    (∀ q : Fin 16, a = .latch q → ((∃ x, s.me.qreg[q] = .scalar x) ∨ (∃ x, s.me.qreg[q] = .pred x) ∨ ∃ x, s.me.qreg[q] = .mask x) →
      let wrong : Fail := { code := 0x05, d1 := BitVec.ofNat 64 (q.val * 2 ^ 16) }
      Traps (.vadd u p d a b m) s u.slot wrong ∧ Traps (.vand u p d a b m) s u.slot wrong ∧
      Traps (.vmov u p d a m.mask) s u.slot wrong ∧ Traps (.vrcp u p d a m) s u.slot wrong) ∧
    ∀ x y, s.me.readVs [a, b] = .ok [x, y] →
      (¬ Plain e x → let f := tag 0x07 x.tag.toNat e
        Traps (.vadd u p d a b m) s u.slot f ∧ Traps (.vmul u p d a b m) s u.slot f ∧ Traps (.vmin u p d a b m) s u.slot f) ∧
      (Plain e x → ¬ Plain e y → let f := tag 0x07 y.tag.toNat e
        Traps (.vadd u p d a b m) s u.slot f ∧ Traps (.vmul u p d a b m) s u.slot f ∧ Traps (.vmin u p d a b m) s u.slot f) ∧
      (m.mask ≠ 0 → Plain e x → Plain e y → ¬ s.OldPlain d m.mask e → let f := tag 0x07 (s.me.vreg[d.reg]).tag.toNat e
        Traps (.vadd u p d a b m) s u.slot f ∧ Traps (.vmul u p d a b m) s u.slot f ∧ Traps (.vmin u p d a b m) s u.slot f) ∧
      (m.mask = 0 → bits x.tag 6 4 ≠ 0 → bits y.tag 6 4 ≠ 0 →
        (bits x.tag 6 4 ≠ bits y.tag 6 4 → let f := tag 0x08 y.tag.toNat x.tag.toNat
          Traps (.vand u p d a b m) s u.slot f ∧ Traps (.vrotl u p d a b m.mask) s u.slot f ∧
          (Plain e x → Plain e y → Traps (.vadd u p d a b m) s u.slot f)) ∧
        (bits x.tag 6 4 = bits y.tag 6 4 → bits x.tag 5 1 ≠ bits y.tag 5 1 → let f := tag 0x09 y.tag.toNat x.tag.toNat
          Traps (.vand u p d a b m) s u.slot f ∧ Traps (.vrotl u p d a b m.mask) s u.slot f ∧
          (Plain e x → Plain e y → Traps (.vadd u p d a b m) s u.slot f))))

/-! ## The engine slots -/

/-- R123, R211, R212, R215, R232: an X command issues into its lane's queue with everything it reads captured: its
descriptors, its shape or value word, its barrier, the control registers. It is held while a close is on its way to bytes it
reads (R75). Accumulators, pivot vectors, the other registers
and memory stay until the engine runs it. -/
def Obligations.MatrixCommandsQueue : Prop :=
  ∀ (s : State) (p bar shp : Fin 64) (bw : Option (Nat × Word)) (w : Word),
    s.me.pget p = true → s.me.xq.length < Config.xQueueDepth →
    (bar = 0 → bw = none) →
    (bar ≠ 0 → ∃ a v, s.me.checked bar = .ok a ∧ s.me.checked (Fin.ofNat 64 (bar.val + 1)) = .ok v ∧ a.toNat % 8 = 0 ∧
      a.toNat < 0x400000 ∧ bw = some (spadLoc s.cur.core a.toNat, v)) →
    (shp = 0 → w = 0) → (shp ≠ 0 → s.me.checked shp = .ok w) →
    let d (n : Fin 16) : Desc := s.me.dreg[n]
    let queues (i : Instr) (shape : Word) (own : XCmd → Prop) : Prop :=
      let takes (q : XCmd) : Prop :=
        q.op = i ∧ q.seq = s.nextId ∧ q.pc = s.me.pc ∧ q.shape = shape ∧ q.bar = bw ∧ q.lscale = s.me.cr.lscale ∧
        q.pivtol = s.me.cr.pivtol ∧ q.soltol = s.me.cr.soltol ∧ q.gmaxthr = s.me.cr.growthmax ∧ q.maxit = s.me.cr.maxit ∧
        q.deadline = s.me.cr.deadline ∧ q.mseq = s.me.cr.mseq ∧ own q
      ∃ q, takes q ∧ (s.sourceWaits s.cur (s.xfeet q).1 = true → Holds i s) ∧
      (s.sourceWaits s.cur (s.xfeet q).1 = false → ∃ t q', exec i s = .next t ∧ t.verdict = .ok ∧ t.cur = s.cur ∧
      t.me.xq.map XCmd.op = s.me.xq.map XCmd.op ++ [i] ∧ t.me.xq.getLast? = some q' ∧ takes q' ∧
      t.me.zreg = s.me.zreg ∧ t.me.pvreg = s.me.pvreg ∧ t.me.sreg = s.me.sreg ∧ t.me.vreg = s.me.vreg ∧
      t.me.dreg = s.me.dreg ∧ t.me.oreg = s.me.oreg ∧ t.me.pipe = s.me.pipe ∧ t.me.pend = s.me.pend ∧
      ∀ a, t.byte a = s.byte a)
    let any (_ : XCmd) : Prop := True
    (∀ zd, queues (.mzero p zd bar) 0 any) ∧
    (∀ zd zs, queues (.macc p zd zs bar) 0 any ∧ queues (.mtrn p zd zs bar) 0 any ∧ queues (.mcopy p zd zs bar) 0 any) ∧
    queues (.mresume p bar) 0 any ∧
    (∀ zd val, w.toNat < 2 ^ 32 → queues (.mscl p zd shp val bar) w any) ∧
    (∀ zd da ls, (d da).sans7.bad ⟨128, 128, true, [1, 2, 3, 4, 5, 6, 7, 8, 9, 10, 11, 12], [0, 1, 2, 3], false⟩ = none →
      queues (.mldz p zd da ls bar) 0 fun q => q.da = d da) ∧
    (∀ zs db sat un, (d db).sans7.bad ⟨128, 128, true, [1, 2, 3, 4, 5, 6], [0, 1, 2, 3], true⟩ = none →
      queues (.mdrn p db zs sat un bar) 0 fun q => q.db = d db) ∧
    (∀ zd da db st shape,
      let fmt (x y : Nat) : Nat := if x ≠ 0 then x else if y ≠ 0 then y else 1
      let taken (q : XCmd) : Prop := q.da = (d da).withFmt (fmt (d da).fmt (d db).fmt) ∧
        q.db = (d db).withFmt (fmt (d db).fmt (d da).fmt)
      (productShape false shp (d da) (d db) da db w = .ok shape → queues (.mmul p zd da db shp st bar) shape taken) ∧
      (productShape true shp (d da) (d db) da db w = .ok shape → queues (.mopa p zd da db shp st bar) shape taken)) ∧
    (∀ zd zs pv da db shape, let sh : XShape := ⟨shp, da, db⟩
      let fits (op : Nat) : Prop := solveShape op sh (d da) (d db) w = .ok shape
      (fits 0x0A → queues (.mlu p zd pv sh bar) shape any) ∧
      (fits 0x0B → queues (.mchol p zd sh bar) shape any) ∧
      (∀ up unit, fits 0x0C → queues (.mtrs p zd zs up unit sh bar) shape any) ∧
      (fits 0x0D → queues (.mqr p zd zs sh bar) shape any) ∧
      (fits 0x0E → queues (.msolve p zd zs pv sh bar) shape any) ∧
      (fits 0x10 → queues (.mperm p zd pv sh bar) shape any) ∧
      (fits 0x11 → queues (.mnorm p zs sh bar) shape any))

/-- R125, R175, R176: a K command issues on its path with its descriptors, scalars, level and completion words captured,
the level of its destination descriptor where it names none itself, with the bytes it touches as far as they can be named,
and the failure that a conflict within its lane gives it (R178, R254); nothing else changes. It is held while a close of
another lane is on its way to bytes it takes as it issues (R75). KIDX pushes an index, which a started gather that lacks some
takes at once, and returns the free entries of the queue to q7. -/
def Obligations.CopyCommandsIssue : Prop :=
  ∀ (s : State) (p : Fin 64) (dd ds : Fin 16) (ra rb : Fin 64) (k : KDone) (lvl : BitVec 2) (sc : Nat)
      (src vis : Option (Nat × Word)) (a b : Word),
    s.me.pget p = true → s.me.checked ra = .ok a → s.me.checked rb = .ok b →
    let pair (r : Nat) (w : Nat × Word) : Prop := ∃ x v, s.me.checked (Fin.ofNat 64 r) = .ok x ∧
      s.me.checked (Fin.ofNat 64 (r + 1)) = .ok v ∧ x.toNat % 8 = 0 ∧ x.toNat < 0x400000 ∧ w = (spadLoc s.cur.core x.toNat, v)
    (lvl = 0 ∧ src = none ∧ vis = none) ∨ (lvl = 1 ∧ vis = none ∧ ∃ w, pair sc w ∧ src = some w) ∨
      (lvl = 2 ∧ src = none ∧ ∃ w, pair sc w ∧ vis = some w) ∨
      (lvl = 3 ∧ ∃ w v, pair sc w ∧ pair (sc + 2) v ∧ src = some w ∧ vis = some v) →
    let level (d : Desc) : Prop := if k.lvl = 0 ∧ k.sc = 0
      then lvl = d.dlevel ∧ sc = d.dsc ∧ (d.dlevel ≠ 0 → 1 ≤ d.dsc ∧ d.dsc ≤ if d.dlevel = 3 then 60 else 62)
      else lvl = k.lvl ∧ sc = k.sc.val
    let issues (i : Instr) (path : KPath) (d : Desc) (own : KCmd → KCmd) : Prop :=
      level d → s.pathFull s.cur path = false →
        -- as its own operands give it
        let k0 := own { s.newK i (some path) with
          lvl := lvl
          srcWord := src
          visWord := vis }
        -- with the bytes that it touches and takes
        let q := s.placeK k0
        (s.sourceWaits s.cur q.sources = true → Holds i s) ∧
        (s.sourceWaits s.cur q.sources = false → exec i s = .next { s with
          kcmds := s.kcmds ++ [{ q with failed := s.laneClash q }]
          nextId := s.nextId + 1
          verdict := .ok }) ∧
        k0.op = i ∧ k0.id = s.nextId ∧ k0.owner = s.cur ∧ k0.run = s.me.run ∧ k0.path = some path ∧ k0.pc = s.me.pc ∧
        k0.opn = s.me.phaseOpen ∧ k0.stage = .queued ∧ k0.held = [] ∧ k0.lvl = lvl ∧ k0.srcWord = src ∧ k0.visWord = vis ∧
        ∃ foot src area whole snap, q = { k0 with
          srcFoot := src
          dstFoot := foot
          area := area
          whole := whole
          snap := snap }
    let d := s.me.dreg[dd]
    let tiles (x y : Word) (q : KCmd) : KCmd := { q with
      dd := d
      ds := s.me.dreg[ds]
      sa := x
      sb := y }
    issues (.kcpy p dd ds k) .copy d (tiles 0 0) ∧
    issues (.kmcst p dd ds ra k) .copy d (tiles a 0) ∧
    issues (.kred p dd ds k) .copy d (tiles 0 0) ∧
    issues (.kgth p dd ds ra k) .gather d (tiles a 0) ∧
    issues (.ksct p dd ds ra k) .gather d (tiles a 0) ∧
    issues (.kroute p dd ds ra rb k) .collective d (tiles a b) ∧
    issues (.ka2a p dd ds ra rb k) .collective d (tiles a b) ∧
    issues (.kgat p dd ra rb k) .gather d (fun q => { q with
      dd := d
      sa := a
      sb := b }) ∧
    (∀ e, issues (.kring p ds e k) .copy s.me.dreg[ds] fun q => { q with
      ds := s.me.dreg[ds]
      ring := s.me.hreg[s.me.dreg[ds].ring] }) ∧
    issues (.kfill p dd ra k) .copy d (fun q => { q with
      dd := d
      sa := a }) ∧
    (s.me.idxq.length < Config.indexQueueDepth →
      let q := s.me.idxq ++ [a.truncate 32]
      let left := match s.kcmds.find? fun k => k.owner = s.cur && k.run = s.me.run && k.waitsIdx && k.stage ≠ .queued with
        | some k => q.drop (k.sa.toNat - k.idx.length)
        | none => q
      ∃ t, exec (.kidx p ra) s = .next t ∧ t.verdict = .ok ∧ t.cur = s.cur ∧
      t.me = { s.me with
        idxq := left
        pipe := s.me.pipe ++ [⟨.k, s.me.n, s.me.pc, some (s.me.n + 1), [],
          some (.scalar (SVal.of (BitVec.ofNat 64 (Config.indexQueueDepth - left.length)))), 0, [], s.time + 1,
          false⟩] } ∧
      t.kcmds.map KCmd.id = s.kcmds.map KCmd.id ∧ ∀ x, t.byte x = s.byte x)

/-- R176, R212, R224, R370, R371, R374: what an engine slot's operation stops on or waits for at issue. A full queue or
path, and an accumulator that a queued X command still writes, hold the bundle; a barrier or completion word that is
misaligned or outside the scratchpad, a shape word beyond its limits, and a default completion beyond its own, trap. That
OSCL takes its address modulo 2^64 before it is checked is the model's choice (log entry 50). -/
def Obligations.EngineIssueChecks : Prop :=
  ∀ (s : State) (p bar shp ra : Fin 64) (z : Fin 8) (dd ds : Fin 16) (k : KDone) (a v : Word), s.me.pget p = true →
    s.me.checked ra = .ok a →
    (Config.xQueueDepth ≤ s.me.xq.length → Holds (.mzero p z 0) s ∧ Holds (.mcopy p z z 0) s ∧ Holds (.mresume p 0) s) ∧
    (bar ≠ 0 → s.me.checked bar = .ok a → s.me.checked (Fin.ofNat 64 (bar.val + 1)) = .ok v →
      (a.toNat % 8 ≠ 0 → Traps (.mzero p z bar) s .x { code := 0x27, faddr := a }) ∧
      (a.toNat % 8 = 0 → 0x400000 ≤ a.toNat → Traps (.mzero p z bar) s .x { code := 0x28, faddr := a })) ∧
    (shp ≠ 0 → s.me.checked shp = .ok v → ∀ da db st, s.me.dreg[da].sans7.bad (productUse shp) = none →
      s.me.dreg[db].sans7.bad (productUse shp) = none →
      bits v 48 16 ≠ 0 ∨ 128 < bits v 0 16 ∨ 128 < bits v 16 16 ∨ bits v 32 16 % 16 ≠ 0 ∨ bits v 32 16 < 16 →
      Traps (.mmul p z da db shp st 0) s .x { code := 0x0B } ∧ Traps (.mopa p z da db shp st 0) s .x { code := 0x0B }) ∧
    (shp ≠ 0 → s.me.checked shp = .ok v → 2 ^ 32 ≤ v.toNat → ∀ val, Traps (.mscl p z shp val 0) s .x { code := 0x0B }) ∧
    (k.lvl = 0 → k.sc = 0 → let d := s.me.dreg[dd]
      d.dlevel = 0 → s.pathFull s.cur .copy = true → Holds (.kcpy p dd ds k) s ∧ Holds (.kfill p dd ra k) s) ∧
    (k.lvl = 0 → k.sc = 0 → let d := s.me.dreg[dd]
      d.dlevel ≠ 0 → d.dsc = 0 ∨ (if d.dlevel = 3 then 60 else 62) < d.dsc →
      let bad : Fail := { code := 0x0B, d1 := BitVec.ofNat 64 (dd.val + 16 * 7) }
      Traps (.kcpy p dd ds k) s .k bad ∧ Traps (.kfill p dd ra k) s .k bad ∧ Traps (.kred p dd ds k) s .k bad) ∧
    (k.lvl = 1 ∨ k.lvl = 2 → s.me.checked (Fin.ofNat 64 k.sc.val) = .ok a → s.me.checked (Fin.ofNat 64 (k.sc.val + 1)) = .ok v →
      (a.toNat % 8 ≠ 0 → Traps (.kcpy p dd ds k) s .k { code := 0x27, faddr := a }) ∧
      (a.toNat % 8 = 0 → 0x400000 ≤ a.toNat → Traps (.kcpy p dd ds k) s .k { code := 0x28, faddr := a })) ∧
    (Config.indexQueueDepth ≤ s.me.idxq.length → Holds (.kidx p ra) s) ∧
    (∀ r, optCheck r s.me.dreg[dd] dd none = .ok () → (∃ q ∈ s.me.xq, q.t ≠ s.time ∧ z ∈ q.writes) → Holds (.osgd p z r dd) s) ∧
    (∀ n, let x := s.me.dreg[ds].base + BitVec.ofNat 64 (32 * n.val)
      (x.toNat % 32 ≠ 0 → Traps (.oscl p ds n) s .o { code := 0x27, faddr := x }) ∧
      (x.toNat % 32 = 0 → 0x400000 ≤ x.toNat → Traps (.oscl p ds n) s .o { code := 0x28, faddr := x }))

/-- R226: OSGD, OMOM and OADAM read a row of the gradient, the weights and the moments at issue and land the new moments
and weights of every column of dW at latency 4, each expression rounded once; no other byte and no register changes. That
the row's reads and writes are one access of kind write, logged at issue, is the model's reading (log entry 24). -/
def Obligations.OptimiserRowsUpdate : Prop :=
  ∀ (s : State) (p : Fin 64) (z : Fin 8) (r : Fin 128) (dw dx : Fin 16), s.me.pget p = true →
    let a := s.me.zreg[z]
    let w := s.me.dreg[dw]
    let x := s.me.dreg[dx]
    let n := w.cols
    (∀ q ∈ s.me.xq, q.t ≠ s.time → z ∉ q.writes) → a.rowOk r = true → bits a.tag 0 4 ≤ 1 →
    let fw := if w.fmt = 2 then bf16 else fp32
    let plus (x y : XV) : XV := (XV.add 0 x y).1
    let minus (x y : XV) : XV := (XV.add 0 x y.negate).1
    let times (x y : XV) : XV := (XV.mul x y).1
    let rne (v : XV) : XV := fp32.dec (BitVec.ofNat 32 (fp32.round 0 false v).1).toNat
    let pat (v : XV) : Nat := (fp32.round 0 false v).1
    let o (i : Fin 8) : XV := fp32.dec s.me.oreg[i].toNat
    let one : XV := fp32.dec 0x3F800000
    let sc : XV := fp32.dec (a.ls.getD 0x3F800000).toNat
    let g (j : Nat) : XV := rne (XV.div (times (fp32.dec ((a.grid.getD r.val []).getD j 0).toNat) (o 5)) sc).1
    let put (l : List (Word × List Nat)) (v : Nat → Nat) : List Host.Cell :=
      (List.range n).flatMap fun j => let c := (l.getD j (0, [])).2
        c.zip (leBytes (v j) c.length)
    let lands (i : Instr) (rows : List (Word × List Nat)) (cells : List Host.Cell) : Prop :=
      s.waits (spanLocs (spansOf rows)) = false → s.spanPoison (spansOf rows) = none →
      s.banksLocked s.cur.core s.bundleId (spansOf rows) = false →
      ∀ t, s.touchAs s.cur s.me.run s.me.step .write s.me.phaseOpen none (spansOf rows) = .ok t →
      ∃ f, exec i s = .next (t.land .o 4 [.spad cells] none f).issued
    ∀ wr, s.oRow w r.val n = .ok wr →
      let wv (j : Nat) : XV := fw.dec (wr.2.getD j 0)
      let step (j : Nat) (u : XV) : Nat := (fw.round 0 false (minus (wv j) (times (o 0) u))).1
      let decayed (j : Nat) : XV := rne (plus (g j) (times (o 4) (wv j)))
      (optCheck r w dw none = .ok () → trackAcc [w.tag] [a.tag, w.tag] = .ok () →
        lands (.osgd p z r dw) wr.1 (put wr.1 fun j => step j (decayed j))) ∧
      (optCheck r w dw (some (x, dx, r.val)) = .ok () → trackAcc [w.tag, x.tag] [a.tag, w.tag, x.tag] = .ok () →
        ∀ mr, s.oRow x r.val n = .ok mr →
          let m (j : Nat) : XV := plus (times (o 1) (fp32.dec (mr.2.getD j 0))) (decayed j)
          lands (.omom p z r dw dx) (wr.1 ++ mr.1) (put mr.1 (fun j => pat (m j)) ++ put wr.1 fun j => step j (rne (m j)))) ∧
      (optCheck r w dw (some (x, dx, 2 * r.val + 1)) = .ok () → trackAcc [w.tag, x.tag] [a.tag, w.tag, x.tag] = .ok () →
        ∀ mr vr, s.oRow x (2 * r.val) n = .ok mr → s.oRow x (2 * r.val + 1) n = .ok vr →
          let m (j : Nat) : XV := plus (times (o 1) (fp32.dec (mr.2.getD j 0))) (times (minus one (o 1)) (g j))
          let v (j : Nat) : XV := plus (times (o 2) (fp32.dec (vr.2.getD j 0))) (times (times (minus one (o 2)) (g j)) (g j))
          let e (j : Nat) : XV := fp32.dec (rootQuot (times (rne (m j)) (o 6)) (times (rne (v j)) (o 7)) (o 3)).1.toNat
          lands (.oadam p z r dw dx) (wr.1 ++ (mr.1 ++ vr.1)) ((put mr.1 (fun j => pat (m j)) ++ put vr.1 fun j => pat (v j)) ++
            put wr.1 fun j => step j (plus (e j) (times (o 4) (wv j)))))

/-- R228, R229, R230: OCLIP writes its factor to o_D and q5 by the first row of its table that applies; OSCL loads the eight
o registers; OGSQ returns the tree sum of squares to q5 and contributes it to the element at dX.f0 unless that is 0. That
OSCL takes its address modulo 2^64 is the model's choice (log entry 50), and that OGSQ's element stands at the descriptor's
origin in space 2 and is contributed or refused at issue is its reading (log entry 24); that the tag of dX is not checked is
the model's choice (log entry 59). -/
def Obligations.ClipLoadAndSquaresDeliver : Prop :=
  ∀ (s : State) (p : Fin 64), s.me.pget p = true →
    (∀ d a b : Fin 8,
      let x := fp32.dec s.me.oreg[a].toNat
      let y := fp32.dec s.me.oreg[b].toNat
      let below (v : XV) : Prop := v.neg = true ∧ v.isZero = false
      let gives (c : W32) (f : Flags) : Prop := exec (.oclip p d a b) s = .next (s.land .o 4 [.o d c]
        (some (.scalar (SVal.of (c.zeroExtend 64)))) f).issued
      (x.isNan = true ∨ y.isNan = true → gives 0x7FC00000 0) ∧
      (x.isNan = false → y.isNan = false → (below x ∨ below y → gives 0x7FC00000 fInv) ∧
        (¬ below x → ¬ below y →
          (y.isZero = true ∨ y.le (XV.mul x x).1 = true → gives 0x3F800000 0) ∧
          (y.isZero = false → y.le (XV.mul x x).1 = false →
            (y = .inf false → gives 0 0) ∧
            ∀ n d' e m c g, x = .fin false n d' e → y = .fin false m c g →
              let r := fp32.divSqrt 0 (false, n, d', e) (m, c, g)
              gives (BitVec.ofNat 32 r.1) r.2)))) ∧
    (∀ ds n t, let x := s.me.dreg[ds].base + BitVec.ofNat 64 (32 * n.val)
      let ls := (List.range 32).map (spadLoc s.cur.core x.toNat + ·)
      x.toNat % 32 = 0 → x.toNat < 0x400000 → s.waits (spanLocs (spansOf [(x, ls)])) = false →
      s.spanPoison (spansOf [(x, ls)]) = none →
      s.banksLocked s.cur.core s.bundleId (spansOf [(x, ls)]) = false →
      s.touchAs s.cur s.me.run s.me.step .read s.me.phaseOpen none (spansOf [(x, ls)]) = .ok t →
      ∃ ws, exec (.oscl p ds n) s = .next (t.land .o 4 ws none 0).issued ∧
        ws = (List.range 8).map fun i => .o (Fin.ofNat 8 i) (BitVec.ofNat 32 (leNat ((List.range 4).map fun j =>
          s.me.throughPort s.byte (spadLoc s.cur.core x.toNat + (4 * i + j)))))) ∧
    ∀ (z : Fin 8) (r : Fin 128) (dx : Fin 16),
      let a := s.me.zreg[z]
      let d := s.me.dreg[dx]
      (if d.space = 2 then d.sans7 else d.sans7.linear).bad ⟨2 ^ 32, 2 ^ 32, false, List.range 13, [1, 2], false⟩ = none →
      (∀ q ∈ s.me.xq, q.t ≠ s.time → z ∉ q.writes) → a.rowOk r = true → bits a.tag 0 4 ≤ 1 →
      let rne (v : XV) : W32 := BitVec.ofNat 32 (fp32.round 0 false v).1
      let g (e : W32) : XV := fp32.dec (rne (XV.div (XV.mul (fp32.dec e.toNat) (fp32.dec s.me.oreg[5].toNat)).1
        (fp32.dec (a.ls.getD 0x3F800000).toNat)).1).toNat
      let ss := (treeReduce add32 ((a.grid.getD r.val []).map fun e => rne (XV.mul (g e) (g e)).1)).1
      let q5 : Option Latch := some (.scalar (SVal.of (ss.zeroExtend 64)))
      (d.base = 0 → ∃ f, exec (.ogsq p z r dx) s = .next (s.land .o 4 [] q5 f).issued) ∧
      (d.base ≠ 0 → ∀ l t,
        let act := s.me.actor s.cur.core
        let first := d.pos act.fields act.step 0 0
        let x : Int := if d.space = 2 then d.offset 1 first.1 first.2 else d.base.toNat
        x % 4 = 0 → s.spaceGate act d.space d.base x 4 ⟨true, false⟩ = .ok l → s.waits l = false →
        let upd : Pend := ⟨.upd (l.headD 0) .sum 1 (ss.zeroExtend 64), d.flatName x, true, false, some 2⟩
        let foot := spansOf [(d.flatName x, l)]
        -- no command of the matrix path before it writes the element (R254)
        (∀ q ∈ s.me.xq, q.t ≠ s.time → ∀ u ∈ s.me.xfoot, u.seq = q.seq → spanMeet u.dst foot = none) →
        (s.view s.cur).refusePend upd = none → s.kcmds.all (fun k => k.owner ≠ s.cur) = true →
        s.looseClash s.cur ⟨[], foot, true⟩ s.me.mfoot = none →
        s.touchAs s.cur s.me.run s.me.step .update s.me.phaseOpen none foot = .ok t →
        ∃ u, exec (.ogsq p z r dx) s = .next u ∧ u.verdict = .ok ∧ u.cur = s.cur ∧ (∀ x, u.byte x = s.byte x) ∧
          u.me.pend = s.me.pend ++ [{ upd with sure := true }] ∧ ∃ f, u.me.pipe = s.me.pipe ++
            [⟨.o, s.me.n, s.me.pc, some (s.me.n + 4), [], q5, f, [], s.time + 4, false⟩])

/-- R212, R218, R219, R220, R223, R383: an engine step of the command at the head of a lane's queue. MZERO empties zd;
MCOPY and MTRN move zs with its tag and loss scale; MACC adds zs to zd, each element rounded once; MSCL multiplies by its
value, or by cr.lscale over the recorded scale, which it then records. The command leaves the queue; elements outside zd
stay. -/
def Obligations.AccumulatorCommandsComplete : Prop :=
  ∀ (s : State) (c : CtxId) (q : XCmd) (rest : List XCmd) (t0 : Nat),
    let x := s.ctx c
    x.xq = q :: rest → x.wait = .none → s.runLive c x.run = true → q.busy = some t0 → t0 ≤ s.time → q.bad = none →
    q.waitFault = none → q.solve = none → q.kb = 0 → q.replays = 0 → x.strikes = [] →
    let foot := (x.xfoot.filter (·.seq = q.seq)).flatMap fun u => u.src ++ u.dst
    s.severed c.core = false → x.shadow = none →
    s.banksLocked c.core q.seq foot = false → (spanLocs foot).any s.onItsWay = false →
    (∀ z ∈ q.sources, match (x.zreg[z]).verify with
      | .clean => True
      | _ => False) →
    let ends (zd : Fin 8) (tag : Half → Prop) (ls : Option W32) (e : Fin 128 → Fin 128 → W32) : Prop :=
      ∃ t, exec (.matrixEngineStep c) s = .next t ∧ (∀ z, z ≠ zd → (t.ctx c).zreg[z] = x.zreg[z]) ∧
        tag ((t.ctx c).zreg[zd]).tag ∧ ((t.ctx c).zreg[zd]).ls = ls ∧ ((t.ctx c).zreg[zd]).tagOk = true ∧
        ((t.ctx c).zreg[zd]).lsOk = true ∧
        (∀ i j : Fin 128, (((t.ctx c).zreg[zd]).el[i.val])[j.val] = e i j) ∧
        (t.ctx c).xq.map XCmd.op = rest.map XCmd.op ∧ (t.ctx c).pvreg = x.pvreg ∧ (t.ctx c).sreg = x.sreg ∧
        ∀ a, t.byte a = s.byte a
    let el (z : Fin 8) (i j : Fin 128) : W32 := ((x.zreg[z]).el[i.val])[j.val]
    let f32 (w : W32) : XV := fp32.dec w.toNat
    let rne (v : XV) : W32 := BitVec.ofNat 32 (fp32.round 0 false v).1
    (∀ p zd b, q.op = .mzero p zd b → ends zd (· = 0) none fun _ _ => 0) ∧
    (∀ p zd zs b, q.op = .mcopy p zd zs b → ends zd (· = (x.zreg[zs]).tag) (x.zreg[zs]).ls (el zs)) ∧
    (∀ p zd zs b, q.op = .mtrn p zd zs b → ends zd (· = (x.zreg[zs]).tag) (x.zreg[zs]).ls fun i j => el zs j i) ∧
    (∀ p zd zs b, q.op = .macc p zd zs b → bits (x.zreg[zd]).tag 0 4 ≤ 1 → bits (x.zreg[zs]).tag 0 4 ≤ 1 →
      ((x.zreg[zd]).ls = none ∨ (x.zreg[zs]).ls = (x.zreg[zd]).ls) →
      trackAcc [(x.zreg[zd]).tag, (x.zreg[zs]).tag] [(x.zreg[zd]).tag, (x.zreg[zs]).tag] = .ok () →
      ends zd (fun t => bits t 0 4 = 1) ((x.zreg[zd]).ls <|> (x.zreg[zs]).ls)
        fun i j => rne (XV.add 0 (f32 (el zd i j)) (f32 (el zs i j))).1) ∧
    (∀ p zd shp b, q.op = .mscl p zd shp true b → ends zd (fun t => bits t 0 10 = bits (x.zreg[zd]).tag 0 10) (x.zreg[zd]).ls
      fun i j => rne (XV.mul (f32 (el zd i j)) (f32 (q.shape.truncate 32))).1) ∧
    (∀ p zd shp b, q.op = .mscl p zd shp false b → ends zd (fun t => bits t 0 10 = bits (x.zreg[zd]).tag 0 10) (some q.lscale)
      fun i j => match (x.zreg[zd]).ls with
        | some r => rne (XV.div (XV.mul (f32 (el zd i j)) (f32 q.lscale)).1 (f32 r)).1
        | none => el zd i j)

/-- R106: a block of a product for one element. An exact sum of zero leaves the element; else the sum times its two scales is
rounded once, and the addition to the element is rounded once more. R107: FP32 operands go through one fused step for each
depth, in order.
R381, R382: an accumulator whose checksums were written with it verifies clean, and with one visible element struck it
verifies as corrected, at that row and column, to what it was. -/
def Obligations.EngineArithmeticAndChecksums : Prop :=
  ((∀ (sa sb : XV) (l : List (XV × XV)) (acc : W32),
    let rne (v : XV) : W32 := BitVec.ofNat 32 (fp32.round 0 false v).1
    let sum := l.foldl (fun a p => (XV.add 0 a (XV.mul p.1 p.2).1).1) XV.zero
    (∀ p ∈ l, (∃ n m d e, p.1 = .fin n m d e) ∧ ∃ n m d e, p.2 = .fin n m d e) →
    (sum.isZero = true → blockStep sa sb l acc = (acc, 0)) ∧
    (sum.isZero = false → ∃ f, blockStep sa sb l acc =
      (rne (XV.add 0 (fp32.dec acc.toNat) (fp32.dec (rne (XV.mul (XV.mul sum sa).1 sb).1).toNat)).1, f))) ∧
  ∀ (l : List (W32 × W32)) (a b acc : W32),
    (chainStep [] acc).1 = acc ∧
    (chainStep (l ++ [(a, b)]) acc).1 = BitVec.ofNat 32 (fp32.round 0 false
      (XV.add 0 (fp32.dec (chainStep l acc).1.toNat) (XV.mul (fp32.dec a.toNat) (fp32.dec b.toNat)).1).1).1) ∧
  (∀ (a : Acc), a.tagOk = true → a.lsOk = true → a = { a with el := a.grid.sealed } →
    a.verify = .clean ∧
    ∀ (i j : Fin 128) (w : W32), w ≠ 0 →
      let bad := a.putWord ⟨i.val, by omega⟩ ⟨j.val, by omega⟩ (a.word ⟨i.val, by omega⟩ ⟨j.val, by omega⟩ ^^^ w)
      ∃ d, bad.verify = .fixed a i.val j.val d)

/-! ## Lanes between bundles -/

/-- R30, R31, R34, R47, R53, R55, R67: the events of a lane between bundles. A lane of a gang stalls at a sync bundle, and
all lanes of the gang leave it together and open a phase; after its end-of-step bundle a lane finishes once nothing of it
is on its way, and with the last of its gang the step ends. After that bundle a result lands with all its writes; before it an
interlocked result that arrives waits for the next bundle, and opens its phase. At a bundle boundary a core switches from a
sleeping bank to one that can issue, or to the bank whose wait was over first; its latches and the other's are then empty. -/
def Obligations.LanesMeetAndEnd : Prop :=
  (∀ (s : State) (c : CtxId), (s.ctx c).stat = .running →
    ((s.ctx c).wait = .none → 1 < (s.ctx c).width → (s.ctx c).synced = false →
      exec (.syncBundle c) s = .next (s.modCtx c fun y => { y with wait := .sync })) ∧
    ((s.ctx c).width = 1 → exec (.syncBundle c) s = .next s) ∧
    exec (.endOfStepBundle c) s = .next (s.modCtx c fun y => { y with stat := .ending })) ∧
  (∀ (s : State) (c : CtxId) (r : Run), s.getRun (s.ctx c).run = some r →
    ((∀ l ∈ r.gang, (s.ctx l).stat = .running ∧ (s.ctx l).wait = .sync) →
      ∃ t, exec (.syncRelease c) s = .next t ∧ t = { s with ctxs := t.ctxs } ∧ ∀ l, t.ctx l =
        if l ∈ r.gang then { s.ctx l with
          wait := .none
          synced := true
          phaseOpen := s.time } else s.ctx l) ∧
    ((s.ctx c).stat = .ending → (s.ctx c).wait = .none → (s.ctx c).ringQ = [] → (s.ctx c).pipe = [] → (s.ctx c).xq = [] →
      (∀ k ∈ s.kcmds, k.owner = c → k.run = (s.ctx c).run → k.path.isSome = true →
        k.stage = .srcDone ∨ k.stage = .visible ∨ k.errored = true) →
      let t := s.modCtx c fun y => { y with
        stat := .finished
        wait := .none }
      ((∃ l ∈ r.gang, l ≠ c ∧ (s.ctx l).stat ≠ .finished) → exec (.laneFinish c) s = .next t) ∧
      ((∀ l ∈ r.gang, l ≠ c → (s.ctx l).stat = .finished) → exec (.laneFinish c) s = .next (t.stepEnds r)))) ∧
  (∀ (s : State) (c : CtxId) (l : Landing), let x := s.ctx c
    let phase := if l.opens then s.time else x.phaseOpen
    x.pipe = [l] → x.wait = .none →
    (l.writes.flatMap RegWrite.cells = [] → x.stat = .ending →
      (l.due.isSome = true ∧ l.t ≤ s.time) ∨ (l.due = none ∧ (l.opens = true → l.t < s.time)) →
      ∃ t, exec (.resultLand c) s = .next t ∧ (∀ e, e ≠ c → t.ctx e = s.ctx e) ∧ (∀ a, t.byte a = s.byte a) ∧
        t.ctx c = { ({ x with pipe := [] } : Ctx).landed l with phaseOpen := phase }) ∧
    (x.stat = .running → l.due = none → (l.opens = true → l.t < s.time) →
      ∃ t, exec (.resultLand c) s = .next t ∧ (∀ e, e ≠ c → t.ctx e = s.ctx e) ∧ (∀ a, t.byte a = s.byte a) ∧
        t.ctx c = { x with
          pipe := [{ l with
            due := some x.n
            t := s.time
            opens := false }]
          phaseOpen := phase })) ∧
  ∀ (s : State) (core : Fin 128), let here : CtxId := ⟨core, (s.core core).cur⟩
    let o := otherBank here
    let w := (s.ctx here).wait
    (s.ctx o).stat = .running → (s.ctx o).wait = .none → (s.ctx o).nextIssue ≤ s.time →
    ((s.ctx here).nextIssue ≤ s.time ∧ ((∃ ge l v, w = .word ge l v) ∨ (∃ h n, w = .ring h n) ∨
        (∃ l a d pc, w = .future l a d pc) ∨ ∃ sl f, w = .fault sl f)) ∨
      ((s.ctx here).between s.time = true ∧ s.chosen core = o.bank) →
    ∃ t, exec (.bankSwitch core) s = .next t ∧ t = { s with
        ctxs := t.ctxs
        cores := t.cores } ∧
      (∀ k, k ≠ core → t.core k = s.core k) ∧ (∀ e, e ≠ here → e ≠ o → t.ctx e = s.ctx e) ∧
      t.core core = { s.core core with
        cur := o.bank
        perf := { (s.core core).perf with switches := (s.core core).perf.switches + 1 } } ∧
      t.ctx here = { s.ctx here with qreg := Vector.replicate 16 .empty } ∧
      t.ctx o = { s.ctx o with
        qreg := Vector.replicate 16 .empty
        nextIssue := s.time + 6 }

/-- R39, R41, R88, R123, R157, R159, R210, R214, R311: what ends a wait. The word or ring that a lane sleeps on, a barrier's
word, a remote device's answer, a fill on another device, and a head's projection; a satisfied wait opens a phase, a
barrier none; the acknowledgement of a remote fill closes and opens. A sleeping HWAIT that reads its object poisoned fails
(R401). A read by another device of an empty future leaves a proxy in its list, a fill of it is as R41; one that conflicts
with plain accesses here applies nothing (R256). -/
def Obligations.WaitsEnd : Prop :=
  let word (s : State) (loc : Nat) : Word := BitVec.ofNat 64 (s.num loc 8)
  let sync (loc : Nat) : List Span := spansOf [(BitVec.ofNat 64 ((loc - 2 ^ 52) % 2 ^ 22), (List.range 8).map (loc + ·))]
  let same (s t : State) : Prop := ∀ a, t.byte a = s.byte a
  let asks (c : CtxId) (t : State) : Prop := c.bank ∈ (t.core c.core).ready.map Prod.snd
  (∀ (s : State) (c : CtxId) (ge : Bool) (loc : Nat) (v : Word), (s.ctx c).wait = .word ge loc v →
    s.poisoned loc = false → s.wordWaits c loc = false → s.fresh loc 8 = false →
    word s loc = v ∨ (ge = true ∧ v.toNat ≤ (word s loc).toNat) →
    s.firstClash c (s.ctx c).run .observe s.time none (sync loc) = none →
    ∃ t, exec (.waitSatisfied c) s = .next t ∧ same s t ∧ asks c t ∧ (t.ctx c = { s.ctx c with
      wait := .none
      phaseOpen := s.time
      pend := (t.ctx c).pend }) ∧ (t.ctx c).pend.map Pend.op = (s.ctx c).pend.map Pend.op) ∧
  (∀ (s : State) (c : CtxId) (h : Fin 8) (n : Word) (rb : RingBind) (ls : List Nat), let x := s.ctx c
    x.wait = .ring h n → x.hreg[h] = some rb → s.ringGate c rb ⟨false, false⟩ = .ok ls → ls.any (s.inTransit c) = false →
    (∀ f, s.objPoison ls rb.addr = some f → exec (.hwaitSatisfied c) s = .next (s.trap c .c 0 x.lastPc x.pc f)) ∧
    (ls.any s.poisoned = false → s.fresh (ls.headD 0) 64 = false → let r := s.ringObj ls
    n.toNat ≤ r.filled ∨ r.eosseen = r.nprod → s.firstClash c x.run .observe s.time none (ringSpans ls rb.addr) = none →
    let v := BitVec.ofNat 64 (r.rp % r.nslot + r.filled % 2 ^ 16 * 2 ^ 32 + (if r.eosseen = r.nprod then 2 ^ 63 else 0))
    ∃ t, exec (.hwaitSatisfied c) s = .next t ∧ same s t ∧ asks c t ∧ t.ctx c = { x with
      wait := .none
      phaseOpen := s.time
      pipe := x.pipe ++ [⟨.c, x.n, x.lastPc, some x.n, [], some (.scalar (SVal.of v)), 0, [], s.time + 1, false⟩] })) ∧
  (∀ (s : State) (c : CtxId) (q : XCmd) (rest : List XCmd) (loc : Nat) (v : Word), let x := s.ctx c
    x.xq = q :: rest → q.bar = some (loc, v) → q.barOk = false → s.runLive c x.run = true → s.poisoned loc = false →
    s.wordWaits c loc = false → s.fresh loc 8 = false → word s loc = v ∨ q.barFree = true →
    s.firstClash c x.run .observe s.time none [⟨BitVec.ofNat 64 ((loc - 2 ^ 52) % 2 ^ 22), loc, 8⟩] = none →
    ∃ t y, exec (.xBarrierSatisfied c) s = .next t ∧ same s t ∧ (t.ctx c).xq = y :: rest ∧ y.op = q.op ∧ y.seq = q.seq ∧
      y.barOk = true ∧ y.busy.isSome = true ∧ (t.ctx c).phaseOpen = x.phaseOpen ∧ (t.ctx c).zreg = x.zreg ∧
      (t.ctx c).pvreg = x.pvreg ∧ (t.ctx c).sreg = x.sreg) ∧
  (∀ (s : State) (c : CtxId) (fill : Bool) (loc : Nat) (v : Word) (r : FutureReply), (s.ctx c).wait = .remote fill loc v →
    let got := ((s.ackFlits (.future c)).drainFlits (windowDevice loc) 2 1).modCtx c fun x => { x with
      wait := .none
      answer := some r }
    same s got ∧ (∀ (p : Fin 16) (vl : Fin 4) (f : TxFlit), f ∈ got.ports[p].lanes[vl].sent → f.use ≠ .future c) ∧
    (r ≠ .filled → exec (.remoteFutureAnswer c r) s = .next (match r with
      | .value _ => got.openPhase c
      | _ => got)) ∧
    (r = .filled → ∀ u, got.closePhase c .m (s.ctx c).pc false = .ok u →
      exec (.remoteFutureAnswer c r) s = .next (u.openPhase c))) ∧
  (∀ (s : State) (die : Fin 4) (i : Nat) (v : Word) (w : Waiter),
    s.waiters.find? (fun w => w.die = die && w.idx = i) = some w → w.dead = false →
    ∃ t, exec (.remoteWakeUp die i v) s = .next t ∧ same s t ∧
      t.waiters = s.waiters.filter (fun u => !(u.die = die && u.idx = i)) ∧
      (∀ r n, w.wake = .step r → s.node w.asid w.opb = some n →
        t.node w.asid w.opb = some { n with requeue := insertStep { r with since := s.time } n.requeue }) ∧
      ∀ c run l a d pc, w.wake = .lane c run → (s.ctx c).run = run → (s.ctx c).wait = .future l a d pc →
        t.ctx c = { s.ctx c with
          wait := (s.ctx c).next.headD .none
          next := (s.ctx c).next.tail
          pipe := (s.ctx c).pipe ++ [⟨.m, (s.ctx c).n, pc, some (s.ctx c).n, if d.nowb then [] else [.s d.reg (SVal.of v)],
            some (.scalar (SVal.of v)), 0, [], s.time + 1, false⟩]
          phaseOpen := s.time + 1
          nextIssue := max (s.ctx c).nextIssue (s.time + 1) }) ∧
  (∀ (s : State) (c : CtxId) (hcb : Nat) (hc : List Nat × Hcb) (r : List Nat × List Byte),
    (s.ctx c).wait = .projection hcb → (s.ctx (otherBank c)).wait ≠ .projection hcb →
    s.readHcb (s.view c).plainByte (s.ctx c).asid hcb = .ok hc →
    s.vaBytes (s.view c).plainByte (s.ctx c).asid hc.2.proj (256 * hc.2.tables * hc.2.b) = .ok r →
    ∃ t, exec (.projectionCacheFill c.core hcb) s = .next t ∧ same s t ∧
      (t.ctx c = { s.ctx c with
        wait := (s.ctx c).next.headD .none
        next := (s.ctx c).next.tail }) ∧
      (t.core c.core).proj.head? = some ⟨(s.ctx c).asid, hcb, r.2⟩ ∧ (t.core c.core).proj.length ≤ 4) ∧
  ∀ (s : State) (asid : BitVec 12) (addr dev record : Nat) (v : Word), s.Canonical →
    s.byte (addr + 8) = 0 → s.poisonIn addr 16 = none →
    let u := (s.drainFlits dev 2 1).sendFlits dev 2 1 .reply
    let meets (k : AKind) : Option Fail := u.lateClash nobody u.nextRun k u.time [⟨BitVec.ofNat 64 addr, addr, 16⟩]
    let asked (k : AKind) : State := { u with
      nextRun := u.nextRun + 1
      accs := u.accs ++ [⟨nobody, u.nextRun, 0, BitVec.ofNat 64 addr, addr, 16, k, u.time, some u.time⟩] }
    (meets .sync = none →
      exec (.remoteFutureAccess asid addr (.fill dev v)) s = .next ((asked .sync).fillFuture addr v 1)) ∧
    ((meets .sync).isSome → exec (.remoteFutureAccess asid addr (.fill dev v)) s = .next u) ∧
    (meets .observe = none → (s.freeWaiter (s.home addr)).isSome = true →
      ∃ t w, exec (.remoteFutureAccess asid addr (.read dev record)) s = .next t ∧
        t.waiters = w :: (s.unlist addr).waiters ∧ t.accs = (asked .observe).accs ∧
        w.die = s.home addr ∧ w.loc = addr ∧ w.wake = .proxy dev record ∧ t.num (addr + 12) 4 = w.idx ∧ t.byte (addr + 8) = 0)

/-! ## Zenhel, storage and its errors -/

/-- R81, R339, R341, R384, R396, R397: Zenhel's answer to a fault lets the lane or command try again, or is the refusal's
failure; a consumed ring takes the record that waited; changed table entries are written, where `lost` of a trap ring and
`full` of a trace control block take a 1 as their clearing, and what hardware alone sets beside them stays (R4, R277, R338);
poison joins a unit, or spoils the snapshot or the dump that holds the byte (R347, R356), which the model keeps beyond physical
memory (log entry 14); a soft error strikes at once, or within the running engine step, whose replay starts again from the
shadow and runs on the operand buffers. -/
def Obligations.FaultsAndStorageErrors : Prop :=
  (∀ (s : State) (c : CtxId) (sl : Slot) (f : Fail) (ws : List ExtWrite), let x := s.ctx c
    x.wait = .fault sl f →
    (∃ t, exec (.faultAnswer (.lane c) (.retry ws)) s = .next t ∧ (∀ a, t.byte a = (s.extWrite ws).byte a) ∧
      t.ctx c = ({ x with
        wait := .none
        nextIssue := max x.nextIssue (s.time + 1) } : Ctx).wdResume s.time) ∧
    exec (.faultAnswer (.lane c) .refuse) s = .next (s.trap c sl 0 x.pc x.pc f)) ∧
  (∀ (s : State) (id : Nat) (k : KCmd) (f : Fail) (ws : List ExtWrite), s.getK id = some k → k.waitFault = some f →
    let v := (s.extWrite ws).modK id fun k => { k with waitFault := none }
    exec (.faultAnswer (.command id) (.retry ws)) s = .next (v.unstash k) ∧
    ((∀ p ∈ s.parties, p.stash = []) → v.unstash k = v) ∧
    let u := s.modK id fun k => { k with waitFault := none }
    exec (.faultAnswer (.command id) .refuse) s = .next (u.failAll k f) ∧
    ((∀ p dd ds sa sb kd, k.op ≠ .ka2a p dd ds sa sb kd) → u.failAll k f = { s with kcmds := (u.failAll k f).kcmds } ∧
      (u.failAll k f).getK id = some { k with
        waitFault := none
        failed := some f
        held := []
        claim := none })) ∧
  (∀ (s : State) (c : CtxId) (cons : W32) (r : RingRec), let x := s.ctx c
    let cb := s.ringOf c
    let u := s.setNum (cb + 0x14) cons.toNat 4
    x.ringQ = [r] → r.after = .nothing →
    (u.ringSpace cb = true → exec (.trapRingConsume (.ctx c) cons) s =
      .next (((u.ringPut cb (r.words ++ [r.seq])).modCtx c fun y => if y.stat = .running ∨ y.stat = .ending then
        ({ y with ringQ := [] } : Ctx).wdResume s.time else { y with ringQ := [] }).setField (cb + 0x18) 1 1 0)) ∧
    (u.ringSpace cb = false → x.stat ≠ .running → x.stat ≠ .ending →
      exec (.trapRingConsume (.ctx c) cons) s = .next u)) ∧
  (∀ (s : State) (cons : W32), let cb := s.devRing
    let u := s.setNum (cb + 0x14) cons.toNat 4
    (s.devQ = [] → exec (.trapRingConsume .device cons) s = .next (u.setField (cb + 0x18) 1 1 0)) ∧
    ∀ r, s.devQ = [r] → r.after = .nothing → u.ringSpace cb = true → exec (.trapRingConsume .device cons) s =
      .next ({ u.ringPut cb (r.words ++ [r.seq]) with devQ := [] }.setField (cb + 0x18) 1 1 0)) ∧
  (∀ (s : State) (a : BitVec 12) (va : Nat) (w : ExtWrite), s.Canonical →
    let ring (x o n : Nat) : Prop := ∃ cb ∈ s.ringBlocks, cb + o ≤ x ∧ x < cb + o + n
    let full (x o : Nat) : Prop := 0x1C ≤ o ∧ o < 0x20 ∧ x ≠ o ∧ ∃ e, s.trcb e + o = x
    ∃ t, exec (.translationInvalidation a va [w]) s = .next t ∧ (∀ e, t.ctx e = s.ctx e) ∧
      (∀ i (h : i < w.bytes.length),
        let x := w.addr + i
        let o := x % 64
        let cleared := s.byte x &&& ~~~(w.bytes[i] &&& 1)
        (ring x 0x18 1 → t.byte x = cleared) ∧
        (¬ ring x 0x18 1 → ring x 0x19 7 ∨ ring x 0x28 8 → t.byte x = s.byte x) ∧
        (¬ ring x 0x18 1 → ¬ ring x 0x19 7 → ¬ ring x 0x28 8 →
          (full x o → t.byte x = if o = 0x1C then cleared else s.byte x) ∧ (¬ full x o → t.byte x = w.bytes[i]))) ∧
      (s.exact = [] → ∀ x, ¬(w.addr ≤ x ∧ x < w.addr + w.bytes.length) → t.byte x = s.byte x)) ∧
  (∀ (s : State) (loc : Nat), (isSpad loc = true → loc < 2 ^ 52 + 128 * 2 ^ 22) → (isSpad loc = false → s.populated loc = true) →
    (∀ c, ∀ l ∈ (s.ctx c).pipe, l.due = none → ∀ p ∈ l.src,
      ¬(p.loc < unitBase loc + unitLen (unitBase loc) ∧ unitBase loc < p.loc + p.len)) →
    exec (.dataPoison loc) s = .next { s with poison := insertNat (unitBase loc) s.poison }) ∧
  (∀ (s : State) (r : Run) (loc : Nat), r ∈ s.runs → snapLoc r.id ≤ loc → loc < snapLoc (r.id + 1) →
    (∀ c, ∀ l ∈ (s.ctx c).pipe, l.due.isSome = true) →
    ∃ t, exec (.dataPoison loc) s = .next t ∧ (∀ e, t.ctx e = s.ctx e) ∧ t.runs = s.runs.map fun q =>
      if q.id = r.id then { q with snapBad := true } else q) ∧
  (∀ (s : State) (c : CtxId) (loc : Nat), let i := 2 * c.core.val + c.bank.val
    dumpLoc i ≤ loc → loc < dumpLoc (i + 1) → (∀ c, ∀ l ∈ (s.ctx c).pipe, l.due.isSome = true) →
    exec (.dataPoison loc) s = .next (State.modCtx { s with poison := insertNat (unitBase loc) s.poison } c fun x => { x with
      dump := x.dump.map fun d => { d with good := false } })) ∧
  (∀ (s : State) (c : CtxId) (t : SoftTarget),
    (∀ q rest, (s.ctx c).xq = q :: rest → q.busy.isSome = true → q.bad = none → q.waitFault = none →
      exec (.softError c true t) s = .next (s.modCtx c fun x => { x with strikes := x.strikes ++ [t] })) ∧
    (∀ (r : Fin 64) (w : Word), t = .scalar r w → r ≠ 0 → exec (.softError c false t) s =
      .next (s.modCtx c fun x => { x with sreg := x.sreg.set r ⟨x.sreg[r].val ^^^ w, x.sreg[r].res⟩ })) ∧
    (∀ (z : Fin 8), t = .accTag z → ∃ u, exec (.softError c false t) s = .next u ∧
      (u.ctx c).zreg[z] = { (s.ctx c).zreg[z] with tagOk := false }) ∧
    ∀ (z : Fin 8), t = .accScale z → ∃ u, exec (.softError c false t) s = .next u ∧
      (u.ctx c).zreg[z] = { (s.ctx c).zreg[z] with lsOk := false }) ∧
  ∀ (s : State) (c : CtxId) (q : XCmd) (rest : List XCmd) (sh : Shadow), (s.ctx c).xq = q :: rest →
    (s.ctx c).shadow = some sh → s.runLive c (s.ctx c).run = true → s.severed c.core = false →
    let again : XCmd := { q with
      bad := none
      mended := q.bad
      replays := q.replays + 1
      busy := some (s.time + q.cycles) }
    let back (x : Ctx) : Ctx := sh.pv.foldl (fun y e => { y with pvreg := y.pvreg.set e.1 e.2 })
      (sh.z.foldl (fun y e => { y with zreg := y.zreg.set e.1 e.2 }) x)
    (q.bad.isSome = true → exec (.matrixStepReplay c) s = .next (s.modCtx c fun x => { back x with xq := again :: rest })) ∧
    (q.bad = none → q.waitFault = none → (∃ t, q.busy = some t ∧ t ≤ s.time) →
      let foot := ((s.ctx c).xfoot.filter (·.seq = q.seq)).flatMap fun u => u.src ++ u.dst
      s.banksLocked c.core q.seq foot = false → (spanLocs foot).any s.onItsWay = false →
      exec (.matrixEngineStep c) s = .next (s.runX c q (some sh)))

/-! ## Engine commands -/

/-- R75, R170, R176, R177, R180, R186, R340, R404: how a K command goes on when nothing of its lane is in its way. It starts with
its checks and its footprint; at source-read-done its destination writes are ready and held; at visible level they are
made, in the core's own scratchpad at once and elsewhere with the lane's next close; KRED's homes accept first; KRING
claims the ring's next slot, or waits while none is free; a failure gives its class-2 record and then ends the command; a
completion word is one synchronisation write. LDB ends with its word, a close with its writes at their homes, or refused with
the phase put back. -/
def Obligations.EngineCommandsProgress : Prop :=
  let alone (s : State) (k : KCmd) : Prop := s.getK k.id = some k ∧ (∀ q ∈ s.kcmds, q ≠ k → q.owner ≠ k.owner) ∧
    k.failed = none ∧ k.waitFault = none ∧ k.errored = false ∧ k.dead = false ∧ k.unord = [] ∧ k.loose = []
  let calm (s : State) : Prop := (∀ n ∈ s.nodes, n.dying = none) ∧ ∀ q ∈ s.kcmds, q.claim = none
  let same (s t : State) : Prop := ∀ a, t.byte a = s.byte a
  let a2a (k : KCmd) : Prop := ∃ p dd ds sa sb kd, k.op = .ka2a p dd ds sa sb kd
  (∀ (s : State) (k : KCmd) (p : KPlan), alone s k → ¬ a2a k → k.path.isSome = true → k.stage = .queued →
    (k.gathers = true → k.idx ≠ []) → k.waitsIdx = false → s.severed k.owner.core = false →
    s.banksLocked k.owner.core k.id (k.srcFoot ++ k.dstFoot ++ k.area) = false → s.kstatic k = .ok () →
    (spanLocs ((s.knownFeet k).1 ++ (s.knownFeet k).2 ++ k.area)).any s.onItsWay = false → s.kplan k (s.lookK k) = .ok p →
    s.unreached (p.reads ++ p.dst) = none → s.fenceFail k ⟨p.reads, p.dst, false⟩ = none → s.linkPaused p = false →
    ∃ t, exec (.kCommandStart k.id) s = .next t ∧ same s t ∧ (∀ e, t.ctx e = s.ctx e) ∧ t.getK k.id = some { k with
      stage := .started
      srcFoot := p.reads
      dstFoot := p.dst }) ∧
  (∀ (s : State) (k : KCmd) (p : KPlan) (u : State), alone s k → ¬ a2a k → k.stage = .started → k.updates = false →
    k.ringing = false → k.srcWord = none → s.exact = [] → k.waitsIdx = false → (k.gathers = true → s.kstatic k = .ok ()) →
    s.severed k.owner.core = false → k.farHere = true → s.kplan k (s.lookK k) = .ok p →
    (k.gathers = true → s.fenceFail k ⟨p.reads, p.dst, false⟩ = none) → s.spanPoison (localSpans p.reads) = none →
    s.poisonWrite (p.ops.flatMap fun o => o.near.cells) = none →
    s.touchAs k.owner k.run k.step .read k.opn k.closeAt (localSpans p.reads) k.id = .ok u →
    ∃ t, exec (.sourceReadDone k.id) s = .next t ∧ same s t ∧ (∀ e, t.ctx e = s.ctx e) ∧ t.getK k.id = some { k with
      stage := .srcDone
      srcDoneWord := false
      srcFoot := p.reads
      dstFoot := p.dst
      held := p.ops.map fun o => ⟨o.near, (p.dst.headD ⟨0, 0, 0⟩).name, false, true, some k.bit⟩ }) ∧
  (∀ (s : State) (k : KCmd) (cs : List Host.Cell) (h : Pend) (u : State), alone s k → calm s → ¬ a2a k → k.stage = .srcDone →
    k.updates = false → k.visWord = none → s.live k = true → h.op = .bytes cs → k.held = [h] → cs ≠ [] →
    k.ringing = false → s.severed k.owner.core = false → k.home = true → s.acked k.id = true →
    s.touchAs k.owner k.run k.step .write k.wopn none k.written k.id = .ok u →
    let own (l : Nat) : Prop := spadLoc k.owner.core 0 ≤ l ∧ l < spadLoc k.owner.core 0 + 2 ^ 22
    ∃ t, exec (.visibleLevel k.id) s = .next t ∧
      t.getK k.id = some { k with
        stage := .visible
        held := []
        visDoneWord := false } ∧
      ((∀ x ∈ cs, own x.1) → (∀ a, t.byte a = (s.setCells cs).byte a) ∧ (t.ctx k.owner).pend = (s.ctx k.owner).pend) ∧
      ((∀ x ∈ cs, ¬ own x.1) → same s t ∧ (t.ctx k.owner).pend = (s.ctx k.owner).pend ++ [h])) ∧
  (∀ (s : State) (k : KCmd) (p : KPlan) (u : State), alone s k → k.updates = true → k.stage = .started → k.accepted = false →
    s.severed k.owner.core = false → s.exact = [] → s.kplan k (s.lookK k) = .ok p →
    s.spanPoison (localSpans p.reads) = none →
    s.touchAs k.owner k.run k.step .read k.opn k.closeAt (localSpans p.reads) k.id = .ok u →
    -- against storage with the visible writes of its own step (R176, R177)
    (∀ o ∈ p.ops, ((if s.live k then (s.ctx k.owner).pend.filter (·.sure) else []).foldl State.applyPend s).refusePend
      ⟨o.near, (p.dst.headD ⟨0, 0, 0⟩).name, true, false, some k.bit⟩ = none) →
    ∃ t, exec (.kredAccept k.id) s = .next t ∧ same s t ∧ t.getK k.id = some { k with
      accepted := true
      srcFoot := p.reads
      dstFoot := p.dst
      held := p.ops.map fun o => ⟨o.near, (p.dst.headD ⟨0, 0, 0⟩).name, true, true, some k.bit⟩ }) ∧
  (∀ (s : State) (k : KCmd) (ls : List Nat) (b : RingBind) (r : RingObj), alone s k → k.ringing = true → k.stage = .started →
    (∀ q ∈ s.kcmds, q.claim = none ∧ (q.ringing = true → q = k)) → s.kringObj k = .ok (ls, b, r) →
    s.severed k.owner.core = false → s.fresh (ls.headD 0) 64 = false → ls.any (s.inTransit k.owner) = false →
    r.eosseen ≠ r.nprod →
    let taken : KCmd := { k with
      claim := some (0, r.wp % r.nslot)
      ringLoc := ls.headD 0
      wopn := s.time }
    (r.nslot ≤ r.filled → exec (.kringClaim k.id) s = .next s) ∧
    (r.filled < r.nslot → ∀ p, s.kplan taken (s.lookK taken) = .ok p → (spanLocs p.dst).any s.onItsWay = false →
      s.fenceFail taken ⟨[], p.dst, false⟩ = none → ∃ t, exec (.kringClaim k.id) s = .next t ∧ same s t ∧
      t.getK k.id = some { taken with dstFoot := p.dst })) ∧
  (∀ (s : State) (k : KCmd) (f : Fail), s.getK k.id = some k → calm s → k.failed = some f → k.errored = false → k.dead = false →
    (∀ q ∈ s.kcmds, q ≠ k → q.owner ≠ k.owner) → s.live k = true → k.record = none → f.code ≠ 0x37 → k.lvl = 0 →
    k.srcWord = none → k.visWord = none → s.severed k.owner.core = false → s.a2aLater k = false →
    -- a KA2A fails its round first
    let v := s.roundError k f
    (¬ a2a k → v = s) ∧
    let cb := v.ringOf k.owner
    let u := v.ringSeq cb
    ((s.ctx k.owner).ringQ = [] → u.2.ringSpace cb = true →
    ∃ t q, exec (.commandError k.id) s = .next t ∧ (∀ a, t.byte a = (u.2.ringPut cb (errorWords2 k f ++ [u.1])).byte a) ∧
      t.getK k.id = some q ∧ q.errored = true ∧ q.record = some true ∧ q.held = [] ∧ ∀ e, t.ctx e = s.ctx e)) ∧
  (∀ (s : State) (k : KCmd) (loc : Nat) (v : Word) (t u : State), s.live k = true →
    s.touchAs k.owner k.run k.step .sync s.time none [⟨BitVec.ofNat 64 ((loc - 2 ^ 52) % 2 ^ 22), loc, 8⟩] = .ok t →
    t.closePhase k.owner k.slot k.pc false = .ok u →
    s.completion k (some (loc, v)) none = .ok ((u.setNum loc v.toNat 8).openPhase k.owner) ∧
    s.completion k (some (loc, v)) (some 0x23) = .ok ((u.setNum loc 0x8000000000000023 8).openPhase k.owner)) ∧
  (∀ (s : State) (k : KCmd) (ls : List Nat) (loc : Nat) (v : Word) (t u : State), alone s k → calm s → k.path = none →
    k.stage = .queued → k.visWord = some (loc, v) → s.live k = true → s.severed k.owner.core = false →
    s.gate1 k.asid k.sa.toNat k.sb.toNat ⟨false, false⟩ = .ok ls →
    let shown := s.modK k.id fun q => { q with
      stage := .visible
      visDoneWord := true }
    shown.touchAs k.owner k.run k.step .sync s.time none [⟨BitVec.ofNat 64 ((loc - 2 ^ 52) % 2 ^ 22), loc, 8⟩] = .ok t →
    t.closePhase k.owner .m k.pc false = .ok u →
    ∃ z q, exec (.loadBlockResident k.id) s = .next z ∧ (∀ a, z.byte a = (u.setNum loc v.toNat 8).byte a) ∧
      z.getK k.id = some q ∧ q.stage = .visible ∧ (z.ctx k.owner).phaseOpen = s.time) ∧
  ∀ (s : State) (c : CtxId) (q : Closing), s.closing.find? (·.owner = c) = some q →
    let rest : State := { s with closing := s.closing.erase q }
    (∀ u, rest.applyAll q.ops = .ok u → exec (.closeWriteArrival c) s = .next (u.settleFence c).settleAborts) ∧
    ∀ f, rest.applyAll q.ops = .error f →
      -- the phase's bytes in the scratchpad go back as those of the open phase do (R334)
      (s.runLive c q.run = true → exec (.closeWriteArrival c) s = .next ((rest.modCtx c fun x => { x with
        undo := x.undo ++ q.undo
        unpoison := x.unpoison ++ q.unpoison }).trap c q.slot 0 q.pc (s.ctx c).pc f)) ∧
      (s.runLive c q.run = false → exec (.closeWriteArrival c) s =
        .next (rest.abortNode q.asid q.opb f.code.toNat c.core q.step []))

/-- R183, R184, R405: an all-to-all round. A party posts its address in its entry of the record and is counted; once all
have posted a party's count and payload for a rank are held for that party; when every party is visible the round number
advances and nothing stays posted. -/
def Obligations.AllToAllRound : Prop :=
  (∀ (s : State) (k : KCmd) (p : KPlan) (l e : Nat), s.getK k.id = some k → (∀ q ∈ s.kcmds, q ≠ k → q.owner ≠ k.owner) →
    (∀ q ∈ s.kcmds, q.posted = false) → s.parties = [] → k.failed = none → k.waitFault = none → k.errored = false →
    k.unord = [] → k.loose = [] →
    (∃ p dd ds sa sb kd, k.op = .ka2a p dd ds sa sb kd) → k.path.isSome = true → k.stage = .queued →
    s.Canonical → s.severed k.owner.core = false →
    s.banksLocked k.owner.core k.id (k.srcFoot ++ k.dstFoot ++ k.area) = false → s.kstatic k = .ok () →
    (spanLocs ((s.knownFeet k).1 ++ (s.knownFeet k).2 ++ k.area)).any s.onItsWay = false → s.kplan k (s.lookK k) = .ok p →
    s.unreached (p.reads ++ p.dst) = none → s.fenceFail k ⟨p.reads, p.dst, false⟩ = none →
    s.linkPaused p = false → s.a2aLoc k 0 0x40 = .ok l → e = l + 0x40 + 16 * k.rank →
    s.a2aLoc k (0x40 + 16 * k.rank) 16 = .ok e → k.rank < s.num l 2 → s.num (l + 8) 4 < 2 ^ 32 - 1 →
    ∃ t q, exec (.kCommandStart k.id) s = .next t ∧ t.getK k.id = some q ∧ q.posted = true ∧ q.stage = .started ∧
      q.round = s.num (l + 12) 4 ∧ q.parties = s.num l 2 ∧ q.ringLoc = l ∧ t.num (l + 8) 4 = s.num (l + 8) 4 + 1 ∧
      t.num e 8 = bits (k.dd.flatName (spaceAddr k.dd.space k.dd.base 0)) 0 56 ∧ t.num (e + 8) 8 = s.device.toNat) ∧
  (∀ (s : State) (k q : KCmd) (cnt : KCmd → List Nat) (c l all dc dl : Word × List Nat) (u : State) (n : Nat),
    let ps := s.a2aParties k.ringLoc k.round
    s.getK k.id = some k → s.getK q.id = some q → k.posted = true → k.failed = none → k.waitFault = none →
    k.dead = false → q.dead = false → s.severed k.owner.core = false → s.exact = [] → s.parties = [] → q.parties = k.parties →
    ps.find? (fun p => p.rank = q.rank) = some q → q.rank ∉ k.sent → ps.length = k.parties →
    (∀ p ∈ ps, s.sendCounts p.actor p (s.lookK p) k.parties = .ok (cnt p)) →
    let into (p : KCmd) : Nat := (cnt p).getD q.rank 0
    8 * k.parties + (ps.map into).sum ≤ q.dd.rows * q.dd.cols → n = into k →
    s.sendGate k.actor k (8 * q.rank) 8 = .ok c → l.2.length = n →
    s.sendGate k.actor k (8 * k.parties + ((cnt k).take q.rank).sum) n = .ok l →
    s.sendGate k.actor k 0 (8 * k.parties) = .ok all → s.cleanGate [c, l] = .ok () →
    s.blockGate q.actor q.dd (8 * k.rank) 8 ⟨true, false⟩ = .ok dc →
    s.blockGate q.actor q.dd (8 * k.parties + ((ps.filter fun p => decide (p.rank < k.rank)).map into).sum) n
      ⟨true, false⟩ = .ok dl →
    s.touchAs k.owner k.run k.step .read k.opn k.closeAt (spansOf [c, l]) k.id = .ok u →
    ∃ t k' q', exec (.ka2aSend k.id q.rank) s = .next t ∧ (∀ a, t.byte a = s.byte a) ∧
      t.getK k.id = some k' ∧ k'.sent = k.sent ++ [q.rank] ∧ t.getK q.id = some q' ∧
      q'.held = q.held ++ [⟨.bytes (dc.2.zip (c.2.map (s.lookK k))), dc.1, true, true, some q.bit⟩,
        ⟨.bytes (dl.2.zip (l.2.map (s.lookK k))), dl.1, true, true, some q.bit⟩]) ∧
  ∀ (s : State) (a : BitVec 12) (record : Nat) (ls : List Nat), s.gate1 a record 0x40 ⟨true, false⟩ = .ok ls →
    s.Canonical → (∀ n ∈ s.nodes, n.dying = none) → s.parties = [] → let l := ls.headD 0
    let round := s.num (l + 12) 4
    let ps := s.a2aParties l round
    ps ≠ [] → (∀ k ∈ ps, k.stage = .visible ∧ k.parties = ps.length) →
    ∃ t, exec (.ka2aRoundAdvance a record) s = .next t ∧ t.num (l + 8) 4 = 0 ∧ t.num (l + 12) 4 = (round + 1) % 2 ^ 32 ∧
      (∀ k ∈ t.kcmds, ¬(k.posted = true ∧ k.ringLoc = l ∧ k.round = round)) ∧
      ∀ x, ¬(l + 8 ≤ x ∧ x < l + 16) → t.byte x = s.byte x

/-! ## Mailboxes -/

/-- R161, R280, R282, R303, R304, R348, R356, R357, R360, R378: the command at the head of the queue of mailboxes, for arguments
that are in order and for some that are not. A command is taken once the device time of its go is past (R304); it ends with go
cleared and its status, and its intent leaves the journal; a pre-emption ends with its last node. That pre-empting an ASID
without nodes ends with status 0 and resuming a node never pre-empted with 0x51 is the model's reading (log entry 30). -/
def Obligations.MailboxCommandsComplete : Prop :=
  ∀ (s : State) (mb : Fin 16) (t0 : Nat) (rest : List (Nat × Fin 16)), s.mbQueue = (t0, mb) :: rest → t0 < s.time →
    (∀ q ∈ rest, q.2 ≠ mb) → s.mail[mb].go = true →
    let m := s.mail[mb]
    let u : State := { s with
      mbQueue := rest
      journal := s.journal ++ [⟨mb, m⟩] }
    let done (t : State) (st : Byte) : State := { t with
      mail := t.mail.set mb { t.mail[mb] with
        go := false
        status := st }
      journal := t.journal.filter fun j => j.mb ≠ mb }
    (m.cmd = 1 → m.arg2.toNat < 4096 → let a : BitVec 12 := m.arg2.truncate 12
      let limit := u.asidWord a 8 % 2 ^ 17
      (∀ o, u.wordsAt a m.arg0.toNat m.arg1.toNat = some [o] → 1 ≤ limit → limit ≤ 95000 → u.node a o = none →
        (∀ n, u.checkOpb a o = some n → u.nodeState n = 0 →
          exec (.submitGraph mb) s = .next (done (if u.opbField n 0x38 0 32 = 0 then u.makeReady n none
            else { u with nodes := u.nodes ++ [n] }) 0)) ∧
        (u.checkOpb a o = none → exec (.submitGraph mb) s = .next (done (u.badOpb o) 0x52))) ∧
      (u.wordsAt a m.arg0.toNat m.arg1.toNat = none ∨ limit = 0 ∨ 95000 < limit →
        exec (.submitGraph mb) s = .next (done u 0x52))) ∧
    (m.cmd = 1 → 4096 ≤ m.arg2.toNat → exec (.submitGraph mb) s = .next (done u 0x52)) ∧
    (m.cmd = 2 → m.arg1.toNat < 4096 → m.arg0.toNat < 2 ^ 34 → ∃ t v, exec (.loadModule mb) s = .next t ∧
      v.toNat % 65536 = 0 ∧ t.mail[mb] = { m with
        arg2 := v
        go := false
        status := 0 } ∧ ∀ a, t.byte a = s.byte a) ∧
    (m.cmd = 3 → m.arg1.toNat < 4096 → let a : BitVec 12 := m.arg1.truncate 12
      (u.findOpb a m.arg0.toNat).isSome = true →
      (∀ n, u.node a m.arg0.toNat = some n → n.dying = none → u.nodeState n = 1 ∨ u.nodeState n = 2 → n.pre = .no →
        ∃ t, exec (.preemptNode mb) s = .next t ∧ t.mail[mb] = m ∧ t.node a m.arg0.toNat = some { n with
          pre := .requested
          preMb := [mb]
          preSince := s.time }) ∧
      (u.node a m.arg0.toNat = none → exec (.preemptNode mb) s = .next (done u 0x51))) ∧
    (m.cmd = 4 → m.arg0.toNat < 4096 → let a : BitVec 12 := m.arg0.truncate 12
      (∀ n ∈ s.nodes, n.asid = a → n.dying = none → u.nodeState n = 1 ∨ u.nodeState n = 2 → n.pre = .no →
        ∃ t n', exec (.preemptAsid mb) s = .next t ∧ n' ∈ t.nodes ∧ n'.asid = a ∧ n'.opb = n.opb ∧ n'.pre = .requested ∧
          mb ∈ n'.preMb ∧ t.mail[mb] = m) ∧
      ((∀ n ∈ s.nodes, n.asid ≠ a ∧ mb ∉ n.preMb) → ∃ t, exec (.preemptAsid mb) s = .next t ∧ t.nodes = s.nodes ∧
        t.mail[mb] = { m with
          go := false
          status := 0 })) ∧
    (m.cmd = 5 → m.arg1.toNat < 4096 → let a : BitVec 12 := m.arg1.truncate 12
      (u.findOpb a m.arg0.toNat).isSome = true → ∀ n, u.node a m.arg0.toNat = some n →
      (n.pre = .saved → u.gangWidth n = 1 → u.opbBit n 23 = false →
        (∀ k c, u.readLane n 0 = .good k c →
          exec (.resumeNode mb) s = .next (done ((u.setOpb n 0xA0 0 64 k).setPre n.asid n.opb .no) 0)) ∧
        (u.readLane n 0 = .absent →
          exec (.resumeNode mb) s = .next (done (u.setPre n.asid n.opb .no) 0)) ∧
        (∀ c, u.readLane n 0 = .bad c → exec (.resumeNode mb) s = .next (done (u.devRecord
          (devWords 0x42 0xFF 0 n.opb (u.opbField n 0x48 0 56) 1 c) (.unpreempt n.asid n.opb)) 0))) ∧
      (n.pre = .kept → ∀ t, u.writeLanes n = some t →
        exec (.resumeNode mb) s = .next (done (t.setPre n.asid n.opb .no) 0)) ∧
      (n.pre = .no ∨ n.pre = .requested → exec (.resumeNode mb) s = .next (done u 0x51))) ∧
    (m.cmd = 6 → m.arg0.toNat < 4096 →
      (m.arg1.toNat ≤ 1 → exec (.setDebugging mb) s =
        .next (done (u.setField (bits s.cfg.asidtab 0 52 + 64 * m.arg0.toNat + 8) 17 1 m.arg1.toNat) 0)) ∧
      (1 < m.arg1.toNat → exec (.setDebugging mb) s = .next (done u 0x52))) ∧
    (m.cmd = 7 → (128 ≤ m.arg0.toNat → exec (.releaseBreakpoint mb) s = .next (done u 0x52)) ∧
      ∀ c : CtxId, let x := s.ctx c
        c.core.val = m.arg0.toNat → x.wait = .bkpt → (s.ctx (otherBank c)).wait ≠ .bkpt →
        s.deciding (.recover x.run c.core.val 0x41) = false → s.deciding (.recover x.run c.core.val 0x42) = false →
        (x.dump.map (·.good) ≠ some false → ∃ t, exec (.releaseBreakpoint mb) s = .next t ∧
          t.mail[mb] = { m with
            go := false
            status := 0 } ∧
          t.ctx c = ({ (match x.dump with
            | some d => x.restored d
            | none => x) with
            wait := .none
            save := none
            dump := none } : Ctx).wdResume s.time) ∧
        (x.dump.map (·.good) = some false → ∃ place check, exec (.releaseBreakpoint mb) s =
          .next (done ((({ u with free := u.free + 2 } : State).modCtx c fun x => { x with save := none }).devRecord
            (devWords 0x42 c.core.val x.step x.opb place 2 (check % 2 ^ 32)) (.recover x.run c.core.val 0x42)) 0))) ∧
    (m.cmd = 8 → m.arg2.toNat < 4096 → let a : BitVec 12 := m.arg2.truncate 12
      (∀ o n, 1 ≤ m.arg1.toNat → m.arg1.toNat ≤ 4096 → u.wordsAt a m.arg0.toNat m.arg1.toNat = some [o] →
        (u.findOpb a o).isSome = true → u.node a o = some n → n.dying = none →
        let t := u.abortNode a o 0x45 0xFF 0 []
        exec (.abortNodes mb) s = .next (done { t with mail := t.mail.set mb { t.mail[mb] with arg2 := 1 } } 0)) ∧
      (m.arg1 = 0 ∨ 4096 < m.arg1.toNat → exec (.abortNodes mb) s = .next (done u 0x52))) ∧
    (m.cmd = 9 → m.arg1.toNat < 4096 → m.arg0.toNat % 16 = 0 → ∀ ls, u.vaLocs (m.arg1.truncate 12) m.arg0.toNat 16 = some ls →
      let loc := ls.headD 0
      (s.byte (loc + 8) = 0 → exec (.poisonFuture mb) s = .next (done
        (((u.unlist loc).setCells [(loc + 8, 2), (loc + 12, 0), (loc + 13, 0), (loc + 14, 0), (loc + 15, 0)]).poisonWake
          loc) 0)) ∧
      (s.byte (loc + 8) ≠ 0 → exec (.poisonFuture mb) s = .next (done u 0x51))) ∧
    (m.cmd = 0 ∨ 9 < m.cmd.toNat → exec (.mailboxReservedCommand mb) s = .next (done u 0x50))

/-! ## Scheduling -/

/-- R25, R27, R269, R272, R277, R279, R346, R358: a decision grants a claim, and a granted claim of a node's first step makes
the node active, hands out the walker's step, counts it and gives every bank of the block its lane; of two claims for a
block the first in order is granted; a trace's next record is dispatched once its node's next step is the record's, and
gives 0x43 when it was waited for too long; a full trace goes on with a new buffer. Where no scheduler holds the node of such
a record, a node that still waits is aborted as it stands in memory, and where there is none the record stands alone and the
trace goes past it: the model's reading (log entry 29). -/
def Obligations.DispatchFollowsOrderAndTrace : Prop :=
  (∀ (s : State) (die : Fin 4) (c d : Claim), (∀ n ∈ s.nodes, s.opbBit n 20 = false) → s.claim die = some d →
    s.bestClaim s.dieClaims = some c → (s.dispatch c).claim die = none →
    exec (.dispatchDecision die) s = .next (s.dispatch c)) ∧
  (∀ (s : State) (die : Fin 4), (∀ n ∈ s.nodes, s.opbBit n 20 = false) → s.claim die = none →
    exec (.dispatchDecision die) s = .next s) ∧
  (∀ (s : State) (die : Fin 4) (c : Claim), s.bestClaim s.dieClaims = some c →
    ((∃ l ∈ c.block, coreDie l.core = die) → exec (.clusterClaim die) s = .next (s.dispatch c)) ∧
    ((∀ l ∈ c.block, coreDie l.core ≠ die) → exec (.clusterClaim die) s = .next s)) ∧
  (∀ (s : State) (c : Claim) (l : List Claim), c ∈ l → ∃ b, s.bestClaim l = some b ∧ b ∈ l ∧
    (b.node.prio ≤ 15 → c.node.prio ≤ 15 → c.node.prio ≤ b.node.prio ∧
      (c.node.prio = b.node.prio → s.rseqOf b.node ≤ s.rseqOf c.node ∧
        (s.rseqOf b.node = s.rseqOf c.node → s.claimStep b ≤ s.claimStep c ∧
          (s.claimStep b = s.claimStep c → b.node.die ≤ c.node.die))))) ∧
  (∀ (s : State) (c : Claim), s.node c.node.asid c.node.opb = some c.node → s.nodeState c.node = 1 →
    s.bestClaim s.dieClaims = some c → exec (.nodeActivation c.node.asid c.node.opb) s = .next (s.dispatch c)) ∧
  (∀ (s : State) (c : Claim), let n := c.node
    s.Canonical → s.node n.asid n.opb = some n → s.nodeState n = 1 → c.offer = .walk → s.opbField n 0x30 0 17 = 0 →
    s.opbBit n 19 = false → s.opbBit n 20 = false → s.opbBit n 23 = false → c.block.Nodup → c.block.length ≤ 4 →
    s.opbField n 0xA8 0 32 < 2 ^ 32 - 1 →
    let t := s.dispatch c
    let w := BitVec.ofNat 64 (s.opbField n 0xA0 0 64)
    t.opbField n 0x90 0 3 = 2 ∧ t.opbField n 0xA8 0 32 = s.opbField n 0xA8 0 32 + 1 ∧
    t.runs = s.runs ++ [⟨s.nextRun, n.asid, n.opb, w, c.block, List.replicate c.block.length (s.opbCarry n), false, 0, false,
      false⟩] ∧ t.nextRun = s.nextRun + 1 ∧
    (∀ (i : Nat) (h : i < c.block.length), t.ctx c.block[i] = { s.ctx c.block[i] with
      stat := if s.opbBit n 18 then .snapshot else .loaded
      save := if s.opbBit n 18 then some (0, s.time) else none
      wait := .none
      run := s.nextRun
      asid := n.asid
      opb := n.opb
      step := w
      lane := Fin.ofNat 4 i
      width := c.block.length
      fields := s.opbWidths n }) ∧
    ∀ e, e ∉ c.block → t.ctx e = s.ctx e) ∧
  (∀ (s : State) (core : Fin 128) (a : BitVec 12) (i : Nat) (r : TraceRec) (rest : List (Nat × TraceRec)) (n : Node) (o : Offer),
    let g := (i, r) :: rest
    let block : List CtxId := g.map fun x => ⟨x.2.core, x.2.bank⟩
    s.nextOf core = [(a, g)] → (∀ x ∈ g, s.placeable x.2.core = true) → s.node a r.opb = some n → n.ord = some r.nord →
    s.offer n = some o → s.claimStep ⟨n, o, block⟩ = r.step.toNat → g.length = s.gangWidth n →
    (∀ l ∈ block, (s.ctx l).stat = .empty) → exec (.traceReplayDispatch core) s =
      .next (((s.setNum (s.trcb a + 20) (i + g.length) 4).traceGoes a g).dispatch ⟨n, o, block⟩)) ∧
  (∀ (s : State) (a : BitVec 12) (g : List (Nat × TraceRec)) (k : Fin 128),
    ((s.traceGoes a g).core k).traceWait =
      if k ∈ g.map (·.2.core) then (s.core k).traceWait.filter fun w => w.1 ≠ a else (s.core k).traceWait) ∧
  (∀ (s : State) (core : Fin 128) (a : BitVec 12) (i : Nat) (r : TraceRec) (w : BitVec 12 × Nat),
    s.nextOf core = [(a, [(i, r)])] → (s.core core).traceWait.find? (fun w => w.1 = a) = some w →
    s.asidWord a 8 % 2 ^ 17 < s.time - w.2 →
    let t := s.traceGoes a [(i, r)]
    let words := devWords 0x43 r.core.val r.step r.opb (t.field (t.trcb a) 0 56 + 32 * i) (t.num (t.trcb a + 20) 4) r.nord.toNat
    let past : DevAfter := .passTrace (t.trcb a) (i + 1)
    (∀ n, s.node a r.opb = some n →
      exec (.traceWaitTimeout core) s = .next (t.abortNode a r.opb 0x43 r.core.val r.step [words])) ∧
    (s.node a r.opb = none → ∀ n, t.findOpb a r.opb = some n → t.nodeState n = 0 → exec (.traceWaitTimeout core) s =
      .next (({ t with nodes := t.nodes ++ [n] } : State).abortNode a r.opb 0x43 r.core.val r.step [words])) ∧
    (s.node a r.opb = none → (∀ n, t.findOpb a r.opb = some n → t.nodeState n ≠ 0) → t.deciding past = false →
      exec (.traceWaitTimeout core) s = .next (t.devRecord words past))) ∧
  ∀ (s : State) (a : BitVec 12) (base : Nat) (nrec : W32), let cb := s.trcb a
    s.Canonical → cb ≠ 0 → s.field (cb + 0x18) 32 1 = 1 →
    ∃ t, exec (.traceFullClear a base nrec) s = .next t ∧ t.field cb 0 56 = base % 2 ^ 56 ∧ t.num (cb + 8) 4 = nrec.toNat ∧
      t.num (cb + 16) 4 = 0 ∧ t.field (cb + 0x18) 32 1 = 0 ∧ t.num (cb + 20) 4 = s.num (cb + 20) 4 ∧
      t.num (cb + 0x18) 4 = s.num (cb + 0x18) 4

/-- R26, R32, R274, R276, R280, R283, R345, R346, R355, R357, R364: from a step's start to its node's retirement. A snapshot lets
the lanes of its gang start; a started lane has the registers of R32 and the kernel image; a bad image is a trap before
the first bundle; the random buffers are filled; a watchdog that has counted to its limit aborts the node; a pre-empted
node's lanes are saved, or kept where they cannot be written; a save that takes too long is abandoned; slot entries take
effect at a boundary; a retired node leaves the scheduler, each successor's count having gone down. That the whole index stream
is taken as the step starts is the model's choice (log entry 63). -/
def Obligations.StepsStartAndNodesEnd : Prop :=
  (∀ (s : State) (c : CtxId) (r : Run) (since : Nat), s.getRun (s.ctx c).run = some r → c ∈ r.gang →
    (∀ l ∈ r.gang, (s.ctx l).stat = .snapshot) → (s.ctx c).save = some (0, since) → s.saveOver since = false →
    r.snapBad = false →
    ∃ t, exec (.stepSnapshotSave c) s = .next t ∧ t = { s with ctxs := t.ctxs } ∧ ∀ l, t.ctx l =
      if l ∈ r.gang then { s.ctx l with
        stat := .loaded
        save := none } else s.ctx l) ∧
  (∀ (s : State) (c : CtxId) (kind since : Nat), let x := s.ctx c
    x.wait = .bkpt → x.stat ≠ .snapshot → x.save = some (kind, since) → kind ≠ 0 → s.saveOver since = false →
    s.poisonIn (dumpLoc (ctxIdx c).val) 128 = none →
    ∃ t, exec (.stepSnapshotSave c) s = .next t ∧ t = { s with ctxs := t.ctxs, free := s.free + 1 } ∧
      (∀ l, l ≠ c → t.ctx l = s.ctx l) ∧ t.ctx c = { x with
        save := none
        dump := some (x.dumped (BitVec.ofNat 32 s.drawWord.1)) }) ∧
  (∀ (s : State) (c : CtxId) (r : Run) (n : Node), let x := s.ctx c
    let base := s.opbField n 0x00 0 56
    let k := s.core c.core
    let image := s.loadImage x.asid base (s.opbField n 0x08 12 2)
      (if k.dictOf[c.bank] = some (x.asid, base) then some k.dict[c.bank] else none)
    x.stat = .loaded → x.wait = .none → s.spadQuiet c = true → s.getRun x.run = some r → s.node x.asid x.opb = some n →
    (∀ im, image = .ok im → ∃ t, exec (.stepStart c) s = .next t ∧
      let y := t.ctx c
      let carry := r.carries.getD x.lane.val (s.opbCarry n)
      y.stat = .running ∧ y.pc = 0 ∧ y.n = 0 ∧ y.stream = im.stream ∧ y.kclass = im.kclass ∧ y.ndict = im.dict.length ∧
      y.loops = [] ∧ y.pipe = [] ∧ y.phaseOpen = s.time + 1 ∧ s.time < y.nextIssue ∧ y.run = x.run ∧ y.step = x.step ∧ y.trapring = x.trapring ∧
      y.sreg[(56 : Fin 64)].val = x.step ∧ y.sreg[(57 : Fin 64)].val = BitVec.ofNat 64 x.lane.val ∧
      y.sreg[(58 : Fin 64)].val = BitVec.ofNat 64 x.opb ∧
      y.sreg[(59 : Fin 64)].val = BitVec.ofNat 64 (s.opbField n 0xB8 0 64) ∧
      (∀ i : Fin 4, (y.sreg[60 + i.val]).val = carry[i]) ∧ (∀ r : Fin 64, r.val < 56 → y.sreg[r] = ⟨0, 0⟩) ∧
      (∀ r : Fin 64, (y.sreg[r]).good = true) ∧ y.preg = 1 ∧ y.vreg = Vector.replicate 32 VReg.zero ∧
      y.kreg = Ctx.blank.kreg ∧ y.dreg = Vector.replicate 16 (Vector.replicate 8 0) ∧ y.zreg = Vector.replicate 8 Acc.zero ∧
      y.pvreg = Vector.replicate 4 PVec.zero ∧ y.hreg = Vector.replicate 8 none ∧ y.oreg = Vector.replicate 8 0 ∧
      y.qreg = Vector.replicate 16 .empty ∧ y.wdLimit = BitVec.ofNat 32 (s.asidWord x.asid 8 % 2 ^ 17) ∧
      y.cr = { CReg.reset with tenstab := BitVec.ofNat 64 (s.asidWord x.asid 0x18 % 2 ^ 56) } ∧
      (t.core c.core).dict[c.bank] = im.dict) ∧
    ∀ f, image = .fail f →
      let peers := r.gang.filter fun l => l ≠ c && (s.ctx l).stat = .loaded
      exec (.stepStart c) s = .next ((peers.foldl
        (fun s l => s.ctxRecord l (preciseWords l .fetch 0 0 0 x.step x.opb f) .nothing) s).trap c .fetch 0 0 0 f)) ∧
  (∀ (s : State) (n : Node) (x y : List Host.Cell), s.node n.asid n.opb = some n → s.nodeState n = 1 → s.opbBit n 22 = true →
    n.rndDone = false → n.dying = none → s.randomCells n 0x70 = .ok x → s.randomCells n 0x80 = .ok y →
    exec (.randomBufferFill n.asid n.opb) s =
      .next ((s.plainWrite (x ++ y)).modNode n.asid n.opb fun m => { m with rndDone := true })) ∧
  (∀ (s : State) (c l : CtxId) (r : Run) (b : Nat), let x := s.ctx c
    let y := s.ctx l
    x.stat = .running ∨ x.stat = .ending ∨ x.stat = .finished → s.getRun x.run = some r → x.wdSince = some b →
    x.wdLimit.toNat ≤ x.wdAcc + (s.time - b) → r.gang.find? s.expired = some l → y.run = x.run →
    exec (.watchdogExpiry c) s = .next ((s.stopRun y.run).abortNode y.asid y.opb 0x40 l.core.val y.step
      [devWords 0x40 l.core.val y.step y.opb 0 y.lastPc.toNat y.wdLimit.toNat])) ∧
  (∀ (s : State) (n : Node), s.node n.asid n.opb = some n → n.pre = .requested → n.dying = none → s.nodeState n ≤ 2 →
    s.deciding (.keep n.asid n.opb) = false → (∀ r ∈ s.runs, r.asid = n.asid → r.opb ≠ n.opb) →
    (∀ t, s.saveOver n.preSince = false → s.writeLanes n = some t →
      exec (.preemptionSave n.asid n.opb) s = .next (t.setPre n.asid n.opb .saved)) ∧
    (s.saveOver n.preSince = true ∨ s.writeLanes n = none → exec (.preemptionSave n.asid n.opb) s =
      .next (s.devRecord (devWords 0x41 0xFF 0 n.opb (s.opbField n 0x48 0 56) 1 0) (.keep n.asid n.opb)))) ∧
  (∀ (s : State) (c : CtxId) (r : Run) (kind since : Nat), let x := s.ctx c
    s.getRun x.run = some r → c ∈ r.gang → x.save = some (kind, since) → 1048576 < s.time - since →
    ∃ u : State, u = { s with ctxs := u.ctxs, free := s.free + 1 } ∧
      (∀ l, u.ctx l = if l ∈ r.gang ∧ (l = c ∨ (kind = 0 ∧ (s.ctx l).stat = .snapshot)) then { s.ctx l with save := none }
        else s.ctx l) ∧
      exec (.saveAbandon c) s = .next (u.devRecord
        (devWords 0x41 c.core.val x.step x.opb (Config.freeWord s.free).toNat kind 0)
        (if kind = 0 then .redispatch x.run c.core.val else .recover x.run c.core.val 0x41))) ∧
  (∀ s : State, (s.clock % 95000 = 0 →
      exec .slotBoundary s = .next { s with cfg := { s.cfg with slots := s.cfg.slotsNew } }) ∧
    (s.clock % 95000 ≠ 0 → exec .slotBoundary s = .next s)) ∧
  (∀ (s : State) (n : Node), s.Canonical → s.node n.asid n.opb = some n → s.nodeState n = 3 →
    s.nodeBusy n.asid n.opb = false → n.dying = none → s.opbField n 0xB0 56 2 = 0 → s.opbField n 0xB8 0 64 = 0 →
    let outside (x : Nat) : Prop := ¬(n.phys + 0x90 ≤ x ∧ x < n.phys + 0x98) ∧ ¬(n.phys + 0xB8 ≤ x ∧ x < n.phys + 0xC0)
    (s.opbField n 0x40 56 8 = 0 → ∃ t, exec (.nodeRetirement n.asid n.opb) s = .next t ∧ t.opbField n 0x90 0 3 = 4 ∧
      t.node n.asid n.opb = none ∧ (∀ w ∈ t.waiters, ¬(w.asid = n.asid ∧ w.opb = n.opb)) ∧ t.opbField n 0xB8 0 64 = 0 ∧
      ∀ x, outside x → t.byte x = s.byte x) ∧
    ∀ o, s.opbField n 0x40 56 8 = 1 → s.vaNum n.asid (s.opbField n 0x40 0 56) 8 = some o → ∃ t,
      exec (.nodeRetirement n.asid n.opb) s = .next t ∧
      ∀ x, outside x → t.byte x = ((s.setOpb n 0xB8 0 64 0).signal n.asid o).byte x) ∧
  ∀ (s : State) (a : BitVec 12) (o : Nat) (m : Node), s.node a o = some m → s.nodeState m = 0 →
    (s.opbField m 0x38 0 32 = 0 → s.signal a o = s) ∧
    (2 ≤ s.opbField m 0x38 0 32 → s.signal a o = s.setOpb m 0x38 0 32 (s.opbField m 0x38 0 32 - 1)) ∧
    (s.opbField m 0x38 0 32 = 1 → s.signal a o = (s.setOpb m 0x38 0 32 0).makeReady m none)

/-- R25, R26, R32, R274, R276, R280, R283, R346, R355, R356: the events of a step's and a node's life have their own effect in
every state that meets their conditions: the snapshot written, the step started, the random buffers filled, the watchdog's
abort, the lane records saved, a save abandoned, the slot entries taken, the node retired. -/
def Obligations.SchedulerEventsComplete : Prop :=
  (∀ (s : State) (c : CtxId) (r : Run) (since : Nat), s.getRun (s.ctx c).run = some r → c ∈ r.gang → r.snapBad = false →
    (s.ctx c).stat = .snapshot → (s.ctx c).save = some (0, since) → s.saveOver since = false →
    ∃ t, exec (.stepSnapshotSave c) s = .next t ∧ (t.ctx c).stat = .loaded ∧ (t.ctx c).save = none) ∧
  (∀ (s : State) (c : CtxId) (r : Run) (n : Node) (im : Image), let x := s.ctx c
    let base := s.opbField n 0x00 0 56
    x.stat = .loaded → x.wait = .none → s.spadQuiet c = true → s.getRun x.run = some r → s.node x.asid x.opb = some n →
    s.loadImage x.asid base (s.opbField n 0x08 12 2) (if (s.core c.core).dictOf[c.bank] = some (x.asid, base) then
      some (s.core c.core).dict[c.bank] else none) = .ok im →
    ∃ t, exec (.stepStart c) s = .next t ∧ (t.ctx c).stat = .running ∧ (t.ctx c).pc = 0 ∧ (t.ctx c).stream = im.stream ∧
      (t.ctx c).sreg[(56 : Fin 64)] = SVal.of x.step) ∧
  (∀ (s : State) (n : Node) (x y : List Host.Cell), s.node n.asid n.opb = some n → s.nodeState n = 1 → s.opbBit n 22 = true →
    n.rndDone = false → n.dying = none → s.randomCells n 0x70 = .ok x → s.randomCells n 0x80 = .ok y →
    ∃ t, exec (.randomBufferFill n.asid n.opb) s = .next t ∧ t.node n.asid n.opb = some { n with rndDone := true } ∧
      (s.Canonical → ((x ++ y).map Prod.fst).Nodup → ∀ c ∈ x ++ y, t.byte c.1 = c.2)) ∧
  (∀ (s : State) (c : CtxId) (r : Run), s.getRun (s.ctx c).run = some r → c ∈ r.gang → s.expired c = true →
    ∃ l, l ∈ r.gang ∧ s.expired l = true ∧ exec (.watchdogExpiry c) s =
      .next ((s.stopRun (s.ctx l).run).abortNode (s.ctx l).asid (s.ctx l).opb 0x40 l.core.val (s.ctx l).step
        [devWords 0x40 l.core.val (s.ctx l).step (s.ctx l).opb 0 (s.ctx l).lastPc.toNat (s.ctx l).wdLimit.toNat])) ∧
  (∀ (s u : State) (n : Node), s.node n.asid n.opb = some n → n.pre = .requested → n.dying = none → s.nodeState n ≤ 2 →
    s.deciding (.keep n.asid n.opb) = false → (∀ r ∈ s.runs, r.asid = n.asid → r.opb ≠ n.opb) →
    s.saveOver n.preSince = false → s.writeLanes n = some u →
    ∃ t, exec (.preemptionSave n.asid n.opb) s = .next t ∧ t.mem = u.mem ∧ t.node n.asid n.opb = some { n with
      pre := .saved
      preMb := [] }) ∧
  (∀ (s : State) (c : CtxId) (r : Run) (kind since : Nat), s.getRun (s.ctx c).run = some r → c ∈ r.gang →
    (s.ctx c).save = some (kind, since) → s.saveFails c kind since = true →
    ∃ u : State, u.mem = s.mem ∧ (u.ctx c).save = none ∧ exec (.saveAbandon c) s = .next (u.devRecord
      (devWords 0x41 c.core.val (s.ctx c).step (s.ctx c).opb (Config.freeWord s.free).toNat kind 0)
      (if kind = 0 then .redispatch (s.ctx c).run c.core.val else .recover (s.ctx c).run c.core.val 0x41))) ∧
  (∀ s : State, s.clock % 95000 = 0 →
    ∃ t, exec .slotBoundary s = .next t ∧ t.cfg.slots = s.cfg.slotsNew ∧ t.cfg.slotsNew = s.cfg.slotsNew) ∧
  ∀ (s : State) (n : Node), s.Canonical → s.node n.asid n.opb = some n → s.nodeState n = 3 →
    s.nodeBusy n.asid n.opb = false → n.dying = none → ∃ t, exec (.nodeRetirement n.asid n.opb) s = .next t ∧ t.opbField n 0x90 0 3 = 4 ∧ t.node n.asid n.opb = none ∧
      ∀ w ∈ t.waiters, ¬(w.asid = n.asid ∧ w.opb = n.opb)

/-! ## Boot, configuration, monitors -/

/-- R302, R306, R316, R317, R319, R360: reset, the boot stages, the configuration block, monitors and counters, the control cores'
heartbeats and their standby, and a CXL device that is gone: none of its bytes exists any more. That a reset empties memory and
keeps what the standby and the agenda hold (log entries 31 and 2), that reserved bits of slot entries stay zero (log entry 42)
and what a monitor samples (log entry 54) are the model's choices. -/
def Obligations.BootConfigurationAndMonitors : Prop :=
  (∀ s : State, exec .moduleReset s = .next { State.reset with
    free := s.free
    agenda := s.agenda
    standbyUsed := s.standbyUsed }) ∧
  (∀ (s : State) (d : BootData), 1 ≤ s.boot → s.boot ≤ 7 → ∃ t, exec (.bootStageComplete d) s = .next t ∧ t.boot = s.boot + 1 ∧
    (∀ c w, s.boot = 3 → d.slotmaps = [(c, w)] → (t.core c).slotmap = w &&& 0x3FFF ∧ t.signature = d.signature) ∧
    (s.boot = 4 → (∀ i : Fin 4, t.cxl[i] = min (d.cxl.getD i.val 0) (2 ^ 41)) ∧ t.hostCxl = d.hostCxl ∧ t.nvme = d.nvme) ∧
    (s.boot = 5 → (∀ i : Fin 16, t.ports[i].trained = d.ports.getLsbD i.val ∧ t.ports[i].far = d.far.getD i.val 0) ∧
      (d.ports ≠ 0 → t.device = d.device) ∧ ∀ r ∈ t.routes, r ∈ d.routes ∧ d.ports.getLsbD r.2.val = true) ∧
    (s.boot = 6 → t.pool = d.pool ∧ t.staging = d.staging ∧
      ∀ c w, d.rings = [(c, w)] → t.ringOf c = bits w 0 52) ∧
    (s.boot = 7 → t.cfg.enable = true)) ∧
  (∀ (s : State) (v : Word),
    let cfg (off : Nat) (f : SchedCfg → SchedCfg) : Prop := exec (.configRegisterWrite off v) s = .next { s with cfg := f s.cfg }
    cfg 0x80 (fun c => { c with asidtab := BitVec.ofNat 64 (v.toNat % 2 ^ 52) }) ∧
    cfg 0x88 (fun c => { c with devring := BitVec.ofNat 64 (v.toNat % 2 ^ 52) }) ∧
    cfg 0x98 (fun c => { c with enable := v.getLsbD 0 }) ∧
    (7 < s.boot → cfg 0x90 id) ∧
    (s.boot ≤ 7 → 4096 ≤ bits v 0 32 → bits v 0 32 ≤ 65536 →
      let c : SchedCfg := { s.cfg with
        hbperiod := BitVec.ofNat 32 (bits v 0 32)
        appealmax := BitVec.ofNat 4 (bits v 32 4) }
      (c.hbperiod = s.cfg.hbperiod → exec (.configRegisterWrite 0x90 v) s = .next { s with cfg := c }) ∧
      -- a new period numbers the periods anew (R409)
      (c.hbperiod ≠ s.cfg.hbperiod → exec (.configRegisterWrite 0x90 v) s = .next { s with
        cfg := c
        cores := s.cores.map fun k => { k with
          period := s.clock / bits v 0 32
          hbPeriod := none } })) ∧
    ∀ i : Fin 16, ∃ new, exec (.configRegisterWrite (8 * i.val) v) s = .next { s with cfg := { s.cfg with slotsNew := new } } ∧
      ∀ j : Fin 64, new[j] = if j.val / 4 = i.val then BitVec.ofNat 16 (bits v (16 * (j.val % 4)) 16) &&& 0x8FFF
        else s.cfg.slotsNew[j]) ∧
  (∀ (s : State) (i : Fin 32) (v w : Word), let m := s.mons[i]
    let c := Fin.ofNat 128 m.inst.toNat
    ((m.src = 1 ∧ m.inst.toNat < 128 ∧ ∃ n, (s.core c).copyLat = some n ∧ w = BitVec.ofNat 64 n) ∨
      (m.src = 2 ∧ m.inst.toNat < 128 ∧ w = BitVec.ofNat 64 ((s.ctx ⟨c, 0⟩).xq.length + (s.ctx ⟨c, 1⟩).xq.length)) ∨
      ((m.src = 3 ∨ m.src = 4) ∧ m.inst.toNat < 4 ∧ w = v) →
      let b := min ((w.toNat - m.lo.toNat) / max 1 m.width.toNat) 15
      ∃ (t : State) (u : Monitor), exec (.monitorSample i v) s = .next t ∧
        t = { s with mons := s.mons.set i u, cores := t.cores } ∧
        (∀ k, t.core k = if m.src = 1 ∧ k = c then { s.core k with copyLat := none } else s.core k) ∧
        u.count = m.count + 1 ∧ u.min.toNat = min m.min.toNat w.toNat ∧ u.max.toNat = max m.max.toNat w.toNat ∧
        u.src = m.src ∧ u.inst = m.inst ∧ u.lo = m.lo ∧ u.width = m.width ∧
        ∀ j : Fin 16, (u.bins[j]).toNat = if j.val = b then min ((m.bins[j]).toNat + 1) 0xFFFFFFFF else (m.bins[j]).toNat) ∧
    (m.src = 0 ∨ 4 < m.src.toNat → exec (.monitorSample i v) s = .next s) ∧
    exec (.monitorClear i) s = .next { s with mons := s.mons.set i { m with
      min := 0
      max := 0
      count := 0
      bins := Vector.replicate 16 0 } }) ∧
  (∀ (s : State) (core : Fin 128), ∃ t, exec (.counterClear core) s = .next t ∧ (∀ off, t.counter core off = 0) ∧
    (∀ e, t.ctx e = s.ctx e) ∧ ∀ k, k ≠ core → t.core k = s.core k) ∧
  (∀ (s : State) (i : Fin 8), exec (.controlHeartbeat i) s = .next { s with ctlBeat := s.ctlBeat.set i s.time } ∧
    (s.standbyUsed = false → s.ctlBeat[i] + 57000 ≤ s.time → exec (.standbyTakeover i) s =
      .next (s.journal.foldl State.rerun { s with
        standbyUsed := true
        ctlBeat := s.ctlBeat.set i s.time })) ∧
    (s.standbyUsed = true → exec (.standbyTakeover i) s = .next s)) ∧
  ∀ (s : State) (port : Fin 4) (base size : Nat), let lo := 0x1000000000000 + port.val * 0x20000000000
    lo ≤ base → base + size ≤ lo + s.cxl[port] → s.cxl[port] ≤ 2 ^ 41 →
    ∃ t, exec (.cxlDeviceRemoved port base size) s = .next t ∧ t = { s with removed := t.removed } ∧
      (∀ a, base ≤ a → a < base + size → t.populated a = false) ∧
      ∀ a, ¬(base ≤ a ∧ a < base + size) → t.populated a = s.populated a

/-! ## The Plibin link -/

/-- R307, R308, R310, R312, R313: an in-sequence flit is delivered and takes its place in the skid buffer, one beyond correction is
asked for again, any other is not delivered; a replay counts against the flit, and the ninth takes the port down; a pause leaves 48
flits to start; a port that goes down carries no route and fails what was in flight with 0x55; a KCPY of another device is
written here as one access, open from its first flit on, or nothing of it. That lane-0 flits leave the skid buffer as they are
delivered, that such a KCPY is taken all or nothing, and that routes move to a retrained port are the model's reading and choices
(log entry 15). -/
def Obligations.LinkFlitsAndPorts : Prop :=
  (∀ (s : State) (port : Fin 16) (vl : Fin 4) (seq : Nat) (chk : FlitCheck), s.ports[port].trained = true →
    let l := s.ports[port].lanes[vl]
    let now (t : State) : Prop := exec (.flitReceive port vl seq chk) s = .next t
    let ld := FlitLoad.ofCheck chk
    -- the acknowledgement leaves, a flit used up at once leaves the skid buffer, and what it brings happens
    let acks (t : State) : State := if FlitLoad.isAck ld then t else t.sendLink port
    let taken (t : State) : State :=
      (if FlitLoad.consumed vl ld then (acks t).drainPort port vl 1 else acks t).unload port ld
    let got : VLane := { l with
      expect := l.expect + 1
      asked := none
      free := l.free - 1
      pauseSent := l.pauseSent || decide (l.free - 1 ≤ 64) }
    (chk = .uncorrectable → now ((s.modLane port vl fun l => { l with asked := some seq }).sendLink port)) ∧
    (chk ≠ .uncorrectable → seq ≠ l.expect ∨ (vl ≠ 3 ∧ l.free = 0) → now s) ∧
    (chk ≠ .uncorrectable → seq = l.expect → vl = 3 → now (taken (s.modLane port vl fun l => { l with
      expect := l.expect + 1
      asked := none }))) ∧
    (chk ≠ .uncorrectable → seq = l.expect → vl ≠ 3 → 0 < l.free →
      now (taken (s.tellSkid (s.modLane port vl fun _ => got) port vl))) ∧
    (vl = 0 → FlitLoad.consumed vl ld = true) ∧
    s.drainPort port vl 1 = s.tellSkid (s.modLane port vl fun l => { l with
      free := min 128 (l.free + 1)
      pauseSent := l.pauseSent && decide (min 128 (l.free + 1) < 96) }) port vl) ∧
  (∀ (s : State) (port : Fin 16) (vl : Fin 4) (seq : Nat) (f : TxFlit),
    (s.ports[port].lanes[vl].sent.find? fun x => x.seq = seq) = some f →
    (f.replays < 8 → exec (.flitReplay port vl seq) s = .next (s.modLane port vl fun l => { l with
      sent := l.sent.map fun x => if seq ≤ x.seq then { x with replays := x.replays + 1 } else x })) ∧
    (8 ≤ f.replays → exec (.flitReplay port vl seq) s = .next ((s.failUse 0x54 f.use).linkDown port))) ∧
  (∀ (s : State) (port : Fin 16) (vl : Fin 3), s.ports[port].trained = true → let l := s.ports[port].lanes[vl.castSucc]
    (l.paused = false →
      exec (.pauseFlit port vl) s = .next (s.modLane port vl.castSucc fun l => { l with
        paused := true
        grace := 48 })) ∧
    -- what the pause has held back starts, in its order
    exec (.resumeFlit port vl) s = .next (s.modLane port vl.castSucc fun _ => { l with
      paused := false
      queue := []
      nextSeq := l.nextSeq + l.queue.length
      sent := l.sent ++ List.zipWith (fun i x => ⟨l.nextSeq + i, x.1, 0, x.2⟩) (List.range l.queue.length) l.queue })) ∧
  (∀ (s : State) (port : Fin 16), s.ports[port].trained = true → ∃ t, exec (.portDown port) s = .next t ∧
    (∀ q : Fin 16, t.ports[q].trained = if q = port then false else s.ports[q].trained) ∧
    (s.kcmds = [] → (∀ vl : Fin 4, s.ports[port].lanes[vl].queue = []) → t.ports = s.ports.set port { s.ports[port] with
      trained := false
      lanes := Vector.replicate 4 VLane.reset }) ∧
    ((∃ q : Fin 16, q ≠ port ∧ s.ports[q].trained = true) → ∀ r ∈ t.routes, r.2 ≠ port) ∧
    ∀ (vl : Fin 4) (f : TxFlit) (id : Nat) (k : KCmd), f ∈ s.ports[port].lanes[vl].sent → f.use = .command id →
      s.getK id = some k → k.failed = none → k.stage ≠ .visible → k.posted = false →
      ∃ q, t.getK id = some q ∧ q.failed = some { code := 0x55 }) ∧
  (∀ (s : State) (port : Fin 16), s.ports[port].trained = true → exec (.portRetrained port) s = .next s) ∧
  (∀ (s : State) (port : Fin 16), s.ports[port].trained = false → ∃ t, exec (.portRetrained port) s = .next t ∧
    t = { s with ports := s.ports.set port { s.ports[port] with
                   trained := true
                   lanes := Vector.replicate 4 VLane.reset },
                 routes := t.routes } ∧
    t.routes.map Prod.fst = s.routes.map Prod.fst ∧ (∀ r ∈ t.routes, t.ports[r.2].trained = true) ∧
    ∀ r ∈ s.routes, s.ports[r.2].trained = true → r ∈ t.routes) ∧
  let open' (run opn : Nat) (cls : Option Nat) (rs ws : List (Nat × Nat)) : List Access :=
    (rs.map fun r => ⟨nobody, run, 0, BitVec.ofNat 64 r.1, r.1, r.2, .read, opn, cls⟩) ++
      ws.map fun w => ⟨nobody, run, 0, BitVec.ofNat 64 w.1, w.1, w.2, .write, opn, cls⟩
  (∀ (s : State) (port : Fin 16) (dev : Nat) (rs ws : List (Nat × Nat)), s.unload port (.copyOpen dev rs ws) = { s with
    nextRun := s.nextRun + 1
    farCopies := s.farCopies ++ [(dev, s.nextRun)]
    accs := s.accs ++ open' s.nextRun s.time none rs ws }) ∧
  ∀ (s : State) (dev first : Nat) (rs : List (Nat × Nat)) (ws : List ExtWrite), s.Canonical →
    let opn := min first s.time
    let run := ((s.farCopies.find? (·.1 = dev)).map Prod.snd).getD s.nextRun
    let others := s.accs.filter fun a => !(a.owner = nobody && a.run = run)
    let clear (k : AKind) (l n : Nat) : Prop := s.clashes nobody run k l n opn (some s.time) = []
    let cells := ws.flatMap fun w => cellsAt w.addr w.bytes
    ((∀ r ∈ rs, clear .read r.1 r.2) → (∀ w ∈ ws, clear .write w.addr w.bytes.length) → s.poisonWrite cells = none →
      (∀ r ∈ rs, ∀ i, i < r.2 → s.poisoned (r.1 + i) = false) →
      ∃ t, exec (.remoteKcpyArrival dev ⟨first, rs, ws⟩) s = .next t ∧
        (∀ w, ws = [w] → ∀ i (h : i < w.bytes.length), t.byte (w.addr + i) = w.bytes[i]) ∧
        (s.exact = [] → ∀ x, (∀ w ∈ ws, ¬(w.addr ≤ x ∧ x < w.addr + w.bytes.length)) → t.byte x = s.byte x) ∧
        t.farCopies = s.farCopies.filter (·.2 ≠ run) ∧
        t.accs = others ++ open' run opn (some s.time) rs (ws.map fun w => (w.addr, w.bytes.length))) ∧
    ((∃ r ∈ rs, ¬clear .read r.1 r.2) ∨ (∃ w ∈ ws, ¬clear .write w.addr w.bytes.length) ∨ (s.poisonWrite cells).isSome = true ∨
      (∃ r ∈ rs, ∃ i, i < r.2 ∧ s.poisoned (r.1 + i) = true) →
      ∃ t, exec (.remoteKcpyArrival dev ⟨first, rs, ws⟩) s = .next t ∧ t.mem = s.mem ∧ t.accs = others)

/-! ## Neighbour voting -/

/-- R409, R410, R411, R412: heartbeats. Once a period a core sends one on each link that is not closed, numbered and dated, and its
health counts start again; a receiver counts one that is in sequence, discards one whose CRC fails, and at the end of a
period judges its link by what it heard. That a flit's receipt goes to the end of the agenda is the model's choice (log entry 34);
that numbers of discarded heartbeats are passed over and that clean is judged one period later are its reading (log entry 33). -/
def Obligations.HeartbeatsCountAndAccuse : Prop :=
  (∀ (s : State) (core : Fin 128), let k := s.core core
    let p := s.clock / s.cfg.hbperiod.toNat
    s.clock % s.cfg.hbperiod.toNat < 256 → k.hbPeriod ≠ some p →
    ∃ t f, exec (.heartbeatSend core) s = .next t ∧
      t.agenda = s.agenda ++ dirs.filterMap (fun d => (neighbour core d).bind fun n =>
        if k.links[d].closed then none else some (.act (.heartbeatReceive n (facing d) { f with hop := some (facing d) }))) ∧
      (t.core core).hbSeq = k.hbSeq + 1 ∧ (t.core core).hbPeriod = some p ∧ (t.core core).residues = 0 ∧
      (t.core core).corrections = 0 ∧ (t.core core).uncorrectables = 0 ∧ (t.core core).links = k.links ∧
      flitGood f = true ∧ bits f.w0 0 4 = 1 ∧ bits f.w0 8 8 = core.val ∧ bits f.w0 16 16 = k.hbSeq.toNat ∧
      bits f.w0 32 4 = k.residues.toNat ∧ bits f.w0 36 4 = k.corrections.toNat ∧ bits f.w0 40 4 = k.uncorrectables.toNat ∧
      f.w1 = BitVec.ofNat 64 s.clock) ∧
  (∀ (s : State) (core : Fin 128) (dir : Fin 4) (n : Fin 128) (f : NFlit), neighbour core dir = some n →
    let l := (s.core core).links[dir]
    let seq := BitVec.ofNat 16 (bits f.w0 16 16)
    let p := s.clock / s.cfg.hbperiod.toNat
    (flitGood f = false → exec (.heartbeatReceive core dir f) s =
      .next (s.modLink core dir fun l => { l with noise := l.noise + 1 })) ∧
    (flitGood f = true → (s.core core).period = p → f.w1.toNat / s.cfg.hbperiod.toNat = p → bits f.w0 0 4 = 1 →
      bits f.w0 8 8 = n.val → flitClear14 f = true → bits f.w0 56 2 ≠ 3 → l.silence = false → l.cur < 4 →
      (l.lastSeq = none ∨ ∃ q, l.lastSeq = some q ∧ (seq - (q + 1)).toNat ≤ l.noise) →
      ∃ t, exec (.heartbeatReceive core dir f) s = .next t ∧ t = { s with cores := t.cores } ∧
        t.core core = { s.core core with links := (s.core core).links.set dir { l with
          silent := 0
          lastSeq := some seq
          noise := 0
          cur := l.cur + 1 } })) ∧
  (∀ (s : State) (core : Fin 128),
    let now := s.clock / s.cfg.hbperiod.toNat
    ((s.core core).period < now ∨ (2 ^ 64 ≤ s.time ∧ (s.core core).period < now + s.hbPeriods ∧ now < (s.core core).period) →
      exec (.heartbeatPeriodEnd core) s = .next (s.endPeriod core)) ∧
    ((s.core core).period = now ∨ (s.time < 2 ^ 64 ∧ now < (s.core core).period) →
      exec (.heartbeatPeriodEnd core) s = .next s)) ∧
  ∀ l : NLink, let e := l.endPeriod
    e.cur = 0 ∧ e.prev = l.cur ∧ e.prevBad = l.curBad ∧ e.curBad = false ∧ e.closed = l.closed ∧ e.lastSeq = l.lastSeq ∧
    (l.cur = 0 → e.silent = l.silent + 1) ∧ (l.cur ≠ 0 → e.silent = 0) ∧
    (e.silence = true ↔ l.silence = true ∨ 3 ≤ e.silent) ∧
    (l.prev = 1 → l.prevBad = false → e.clean = l.clean + 1) ∧ (l.prev ≠ 1 ∨ l.prevBad = true → e.clean = 0) ∧
    (e.babble = true ↔ l.babble = true ∧ e.clean < 16)

/-- R413, R414, R415, R419, R420, R421: votes, fences and appeals. A vote of a live neighbour is kept, and with a quorum the holder
seals the fence; a notice closes the link and is forwarded once; the scheduler of the fenced core's die acts on it once; a
core that has passed its test appeals to its neighbours while its appeals last, a wrong signature is rejected with a
record and a right one is watched; a reinstatement opens the link again. What comes over a closed link is dropped. The watch of
18 period ends, one record for each neighbour that rejects and an epoch one above the last are the model's reading (log entry
33), the order of the agenda is its choice (log entry 34). -/
def Obligations.VotesFenceAndReinstate : Prop :=
  (∀ (s : State) (core : Fin 128) (f : NFlit), let v := Fin.ofNat 128 (bits f.w0 8 8)
    let a := Fin.ofNat 128 (bits f.w0 16 8)
    let vote : Vote := ⟨v, a, BitVec.ofNat 2 (bits f.w0 24 2)⟩
    flitGood f = true → (f.hop.any fun d => (s.core core).links[d].closed) = false → bits f.w0 0 4 = 2 →
    flitClear235 f = true → bits f.w0 24 2 ≠ 0 → core ∈ neighbours a → v ∈ neighbours a → v ≠ core →
    (s.core core).fencedView.getLsbD v.val = false →
    let kept := (s.core core).votes.filter (· ≠ vote)
    let t := s.modCore core fun k => { k with votes := if f.w0.getLsbD 26 then kept else vote :: kept }
    exec (.voteReceive core f) s = .next (t.weighHeld core)) ∧
  (∀ (s : State) (c : Fin 128),
    (∀ a ∈ neighbours c, s.heldVotes c a (!(s.liveTo c a)) = []) → s.weighHeld c = s) ∧
  (∀ (s : State) (c a : Fin 128) (v : Vote) (rest : List Vote), s.heldVotes c a false = v :: rest → s.liveTo c a = true →
    (s.core c).self = .normal → (s.core a).self = .normal → (s.core a).cut = [] →
    ∃ g, s.weigh c a = (s.sever a c v.reason.toNat).noticeFence c g ∧ flitGood g = true ∧
      bits g.w0 0 4 = 3 ∧ bits g.w0 8 8 = c.val ∧ bits g.w0 16 8 = a.val ∧ bits g.w0 32 16 = (s.epochs[a] + 1).toNat) ∧
  -- the table of R414
  (∀ (s : State) (c a : Fin 128),
    let live := (neighbours a).filter fun n => !(s.core c).fencedView.getLsbD n.val
    let q := if live.length ≤ 1 then 1 else if live.length ≤ 3 then 2 else 3
    let counted := (s.core c).votes.filter fun v => decide (v.accused = a) && live.contains v.voter && !s.accused c v.voter &&
      (decide (v.reason = 1) || (decide (2 ≤ live.length) && decide (v.reason = 2)))
    s.heldVotes c a false = if q ≤ (counted.map (·.voter)).eraseDups.length then counted else []) ∧
  (∀ (s : State) (core : Fin 128) (f : NFlit), let a := Fin.ofNat 128 (bits f.w0 16 8)
    let e := BitVec.ofNat 16 (bits f.w0 32 16)
    let k := s.core core
    let sent (i : Fin 128 → NFlit → Instr) (closed : Fin 4 → Bool) : List Move := dirs.filterMap fun d =>
      (neighbour core d).bind fun n => if closed d then none else some (.act (i n { f with hop := some (facing d) }))
    let from' := bits f.w0 8 8
    (flitGood f = false ∨ (f.hop.any fun d => k.links[d].closed) = true →
      exec (.voteReceive core f) s = .next s ∧ exec (.fenceNotice core f) s = .next s ∧
      exec (.reinstatementNotice core f) s = .next s) ∧
    (flitGood f = true → (f.hop.any fun d => k.links[d].closed) = false → flitClear235 f = true →
    (bits f.w0 0 4 = 3 → ((3 : BitVec 4), a, e) ∈ k.seen → exec (.fenceNotice core f) s = .next (s.weighHeld core)) ∧
    (bits f.w0 0 4 = 5 → ((5 : BitVec 4), a, e) ∈ k.seen → exec (.reinstatementNotice core f) s = .next s) ∧
    (bits f.w0 0 4 = 3 → ((3 : BitVec 4), a, e) ∉ k.seen →
      let u : State := { s.modCore core (fun k => { k with
        seen := ((3 : BitVec 4), a, e) :: k.seen
        fencedView := setBit k.fencedView a.val true
        links := Vector.ofFn fun d => if neighbour core d = some a then { k.links[d] with closed := true } else k.links[d] })
        with agenda := s.agenda ++ sent .fenceNotice fun d => decide (neighbour core d = some a) || k.links[d].closed }
      let r := u.sealReason a from'
      (coreDie core ≠ coreDie a ∨ s.epochs[a] + 1 ≠ e → exec (.fenceNotice core f) s = .next (u.weighHeld core)) ∧
      (coreDie core = coreDie a → s.epochs[a] + 1 = e → exec (.fenceNotice core f) s =
        .next ((r.2.fenceCore a from' r.1 e f.w1.toNat).weighHeld core)) ∧
      -- the reason is that of the seal, at T_s
      ∀ q, (s.core a).cut.find? (fun q => q.by'.val = from') = some q → r = (q.reason, u)) ∧
    (bits f.w0 0 4 = 5 → ((5 : BitVec 4), a, e) ∉ k.seen →
      let u : State := { s.modCore core (fun k => { k with
        seen := ((5 : BitVec 4), a, e) :: k.seen
        fencedView := setBit k.fencedView a.val false
        votes := k.votes.filter fun v => v.accused ≠ a && v.voter ≠ a
        links := Vector.ofFn fun d => if neighbour core d = some a then NLink.reset else k.links[d] })
        with agenda := s.agenda ++ sent .reinstatementNotice fun d =>
          decide (neighbour core d ≠ some a) && k.links[d].closed }
      (coreDie core ≠ coreDie a ∨ (s.core a).self = .normal ∨ s.epochs[a] ≠ e →
        exec (.reinstatementNotice core f) s = .next u) ∧
      (coreDie core = coreDie a → (s.core a).self ≠ .normal → s.epochs[a] = e →
        exec (.reinstatementNotice core f) s = .next (u.freeCore a from' e f.w1.toNat))))) ∧
  (∀ (s : State) (core : Fin 128) (sig : W32), let n := s.cfg.appeals[core]
    ((s.core core).self = .testing → n.toNat < s.cfg.appealmax.toNat → ∃ t f, exec (.selfTestComplete core sig) s = .next t ∧
      (t.core core).self = .fenced ∧ t.cfg = { s.cfg with appeals := s.cfg.appeals.set core (n + 1) } ∧
      t.agenda = s.agenda ++ dirs.filterMap (fun d => (neighbour core d).map fun n =>
        .act (.appealReceive n { f with hop := some (facing d) })) ∧ flitGood f = true ∧
      bits f.w0 0 4 = 4 ∧ bits f.w0 8 8 = core.val ∧ bits f.w0 32 4 = (s.core core).residues.toNat ∧
      bits f.w0 36 4 = (s.core core).corrections.toNat ∧ bits f.w0 40 4 = (s.core core).uncorrectables.toNat ∧ f.w1 = BitVec.ofNat 64 s.time ∧ f.w2 = sig.zeroExtend 64) ∧
    ((s.core core).self = .testing → s.cfg.appealmax.toNat ≤ n.toNat → ∃ t, exec (.selfTestComplete core sig) s = .next t ∧
      (t.core core).self = .fenced ∧ t.agenda = s.agenda) ∧
    ((s.core core).self ≠ .testing → exec (.selfTestComplete core sig) s = .next s)) ∧
  ∀ (s : State) (core : Fin 128) (f : NFlit) (d : Fin 4), let a := Fin.ofNat 128 (bits f.w0 8 8)
    let p := s.clock / s.cfg.hbperiod.toNat
    dirTo core a = some d → flitGood f = true → bits f.w0 0 4 = 4 → flitClear14 f = true → bits f.w0 56 2 ≠ 3 →
    bits f.w0 8 8 = a.val → (s.core core).period = p → f.w1.toNat / s.cfg.hbperiod.toNat = p →
    (s.core core).fencedView.getLsbD a.val = true → s.cfg.appeals[a].toNat ≤ s.cfg.appealmax.toNat →
    s.cfg.lock.getLsbD a.val = false →
    (f.w2.truncate 32 = s.signature →
      exec (.appealReceive core f) s = .next (s.modLink core d fun l => { l with watch := some 18 })) ∧
    (f.w2.truncate 32 ≠ s.signature →
      exec (.appealReceive core f) s = .next (s.devRecord (fenceWords a 1 core.val 0 s.epochs[a] s.time) .nothing))

/-! ## Decoding -/

/-- R112 to R136: words written out field by field from the formats, one or two for each slot, and what they decode to. -/
def Obligations.DecodeWords : Prop :=
  -- ADD s5, s1, #-2 under p3: op 0x01, d 5, a 1, bimm, b 0xFFE, pred 3
  decodeSlot .s0 (0x01 + 5 * 2 ^ 6 + 1 * 2 ^ 14 + 1 * 2 ^ 20 + 0xFFE * 2 ^ 22 + 3 * 2 ^ 34) =
    .ok (some (.add .s0 3 ⟨5, false⟩ (.reg 1) (.imm 0xFFE))) ∧
  -- POPC s9 (nowb), latch q4
  decodeSlot .s1 (0x1A + 9 * 2 ^ 6 + 1 * 2 ^ 12 + 1 * 2 ^ 13 + 4 * 2 ^ 14) = .ok (some (.popc .s1 0 ⟨9, true⟩ (.latch 4))) ∧
  -- LOOPI 7, end 3
  decodeSlot .c (0x06 + 7 * 2 ^ 12 + 3 * 2 ^ 24) = .ok (some (.loopi 0 7 3)) ∧
  -- HSET h2, s17, space 1
  decodeSlot .c (0x0E + 17 * 2 ^ 12 + 2 * 2 ^ 24 + 1 * 2 ^ 27) = .ok (some (.hset 0 2 17 1)) ∧
  -- LDG.u8 s7, [s3 + s4 << 3]
  decodeSlot .m (0x03 + 7 * 2 ^ 6 + 3 * 2 ^ 13 + 1 * 2 ^ 19 + 4 * 2 ^ 20 + 3 * 2 ^ 26 + 8 * 2 ^ 36) =
    .ok (some (.ldg 0 ⟨7, false⟩ 3 (.index 4 3) 8)) ∧
  -- VFMA.f32 v5, v1, v2, v3 under k2
  decodeSlot .v0 (0x04 + 5 * 2 ^ 7 + 1 * 2 ^ 14 + 2 * 2 ^ 20 + 3 * 2 ^ 26 + 2 * 2 ^ 31 + 1 * 2 ^ 34) =
    .ok (some (.vfma .v0 0 ⟨5, false⟩ (.reg 1) (.reg 2) (.reg 3) ⟨1, 0, false, 2⟩)) ∧
  -- VSIG.bf16 s9, v2, the broadcast of s3
  decodeSlot .v1 (0x2A + 9 * 2 ^ 7 + 2 * 2 ^ 14 + 1 * 2 ^ 19 + 19 * 2 ^ 20 + 2 * 2 ^ 34) =
    .ok (some (.vsig .v1 0 ⟨9, false⟩ (.reg 2) 3 2)) ∧
  -- MMUL z3, d1, d2 with shape s6, set, barrier s10
  decodeSlot .x (0x02 + 3 * 2 ^ 6 + 1 * 2 ^ 9 + 2 * 2 ^ 13 + 10 * 2 ^ 20 + 6 * 2 ^ 26 + 1 * 2 ^ 32) =
    .ok (some (.mmul 0 3 1 2 6 true 10)) ∧
  -- KCPY d2, d1 with its word in s8 at visible level
  decodeSlot .k (0x01 + 1 * 2 ^ 6 + 2 * 2 ^ 10 + 8 * 2 ^ 20 + 2 * 2 ^ 26) = .ok (some (.kcpy 0 2 1 ⟨8, 2⟩)) ∧
  -- OSGD z1, row 0, d3
  decodeSlot .o (0x01 + 1 * 2 ^ 5 + 3 * 2 ^ 15) = .ok (some (.osgd 0 1 0 3)) ∧
  -- opcode 0x3F of an S slot is reserved, a NOP is all zeros, and bit 39 of opcode 0 is a reserved bit
  decodeSlot .s0 0x3F = .error ⟨0x03, 0⟩ ∧ decodeSlot .s0 0 = .ok none ∧ decodeSlot .s0 (2 ^ 39) = .error ⟨0x04, 39⟩ ∧
  decodeSlot .c (0x08 + 1 * 2 ^ 13) = .error ⟨0x04, 13⟩

/-- R112 to R136: for every well-formed instruction of a slot, with every operand at every value, the word of its encoding
fits its slot and decodes to it: no bit of an encoding is dropped. That b of FADDS, FMULS and FCMPLT may be any of s0 to s63 is
the model's reading (log entry 66). -/
def Obligations.DecodeOfEncodeIsTheInstruction : Prop :=
  ∀ (i : Instr) (sl : Slot) (w : Nat), Instr.wf i = true → encode i = some (sl, w) →
    decodeSlot sl w = .ok (some i) ∧ w < 2 ^ (match sl with
      | .c => 32
      | .o => 32
      | .v0 => 48
      | .v1 => 48
      | .m => 48
      | _ => 40)

/-! ## Steps -/

/-- R47, R56, R57, R129, R334, R335: a step runs what it decodes. An event at the head of the agenda happens. A context that can
issue reads the bundle at its index address; where that decodes to one operation whose predicates hold, the step is that
operation's meaning, and after it the next index address, the count of bundles and a cycle, or only the count where the
operation ended the step (R319); where the operation fails it is the precise trap before the bundle, where it holds nothing
issues in this cycle. The agenda whose head a step takes is the model's own mechanism (log entry 4). -/
def Obligations.StepRunsTheDecodedInstruction : Prop :=
  (∀ (s : State) (i : Instr) (rest : List Move), s.agenda = .act i :: rest → encode i = none →
    (∀ c, i ≠ .syncBundle c) → (∀ c, i ≠ .endOfStepBundle c) → step s = exec i { s with agenda := rest }) ∧
  (∀ (s : State) (c : CtxId) (h : Half) (t : List Half), (s.ctx c).stream.drop (s.ctx c).pc.toNat = h :: t →
    (h = 0xFFFF → 24 ≤ t.length → s.fetchBundle c = .ok (halvesBundle (t.take 24))) ∧
    (h ≠ 0xFFFF → h.toNat < (s.ctx c).ndict → s.fetchBundle c = .ok ((s.core c.core).dict[c.bank].getD h.toNat 0)) ∧
    (h ≠ 0xFFFF → (s.ctx c).ndict ≤ h.toNat → s.fetchBundle c = .error { code := 0x01
                                                                         faddr := BitVec.ofNat 64 (s.ctx c).pc.toNat
                                                                         d1 := BitVec.ofNat 64 (h.toNat * 2 ^ 16) })) ∧
  ∀ (s : State) (c : CtxId) (rest : List Move) (w : BundleBits) (sl : Slot) (i : Instr), s.agenda = .issue c :: rest →
    let u : State := State.focus { s with agenda := rest } c
    let t := State.ready { s with agenda := rest } c
    let x := t.ctx c
    State.futureOrder { s with agenda := rest } c = [c] → State.foresee { s with agenda := rest } c = { s with agenda := rest } →
    (s.ctx c).synced = false → u.canIssue c = true →
    t.fetchBundle c = .ok w → (decodeBundle w).slots = [(sl, .ok i)] → (decodeBundle w).kind = 0 → (decodeBundle w).resv = 0 →
    (decodeBundle w).bpred = 0 → (decodeBundle w).inv = false → x.pget (Instr.pred i) = true → x.interlocked [(sl, i)] = false →
    let go : State := { t.modCtx c (·.firstBundle t.time) with verdict := .ok }
    (∀ v v', exec i t = .next v → v.verdict = .ok → exec i go = .next v' → (v'.ctx c).run = x.run → (v'.ctx c).stat = .running →
      v'.verdict = .ok → step s = .next ((v'.modCtx c fun y => y.natively [(sl, i)]).finishBundle c false)) ∧
    (∀ v v', exec i t = .next v → v.verdict = .ok → exec i go = .next v' → v'.verdict = .ok →
      (v'.ctx c).run ≠ x.run ∨ (v'.ctx c).stat ≠ .running → step s = .next (v'.countBundle c.core false)) ∧
    (∀ v sl' f, exec i t = .next v → v.verdict = .failed sl' f → step s = .next (t.bundleTrap c [(sl', f)]) ∧
      (t.gang c = [c] → step s = .next (t.trap c sl' 0 x.pc x.pc f))) ∧
    (∀ v, exec i t = .next v → v.verdict = .held → step s = .next ((u.heldAs v c).stall c))

/-- Every sparse store of the module right after reset is in its canonical form (the model's own form of storage). -/
def Obligations.ResetIsCanonical : Prop :=
  State.reset.Canonical

/-- Every step answers a next state, neither a fault nor a refusal, and keeps every sparse store in its canonical form, so
that equal contents are equal data; from any state, not only from one that a run reaches (the model's own invariant). -/
def Obligations.StepsAreSafe : Prop :=
  ∀ s : State, s.Canonical → Safe (step s)

/-- R4, R303, R306, R316, R317: what the spec gives a value right after module reset: device time, the boot stage, the
scheduler's block, the mailboxes and the monitors; no bank holds a step, no node waits and nothing is fenced. That the queues,
the waiters and the votes are empty is the model's choice (log entries 1 and 3). -/
def Obligations.ResetValues : Prop :=
  let s := State.reset
  s.time = 0 ∧ s.boot = 1 ∧ s.cfg.enable = false ∧ s.cfg.hbperiod = 0x2000 ∧ s.cfg.appealmax = 2 ∧ s.cfg.asidtab = 0 ∧ s.cfg.devring = 0 ∧
  (∀ i : Fin 64, s.cfg.slots[i] = 0) ∧ (∀ i : Fin 128, s.cfg.appeals[i] = 0 ∧ s.cfg.health[i] = 0) ∧ s.cfg.lock = 0 ∧
  (∀ i : Fin 16, s.mail[i].go = false ∧ s.mail[i].status = 0 ∧ s.mail[i].cmd = 0) ∧
  (∀ i : Fin 32, s.mons[i].src = 0 ∧ s.mons[i].min = BitVec.allOnes 64 ∧ s.mons[i].max = 0 ∧ s.mons[i].count = 0) ∧
  (∀ c : CtxId, (s.ctx c).stat = .empty) ∧ s.nodes = [] ∧ s.runs = [] ∧ s.kcmds = [] ∧ s.waiters = [] ∧ s.fenced = 0 ∧
  ∀ c : Fin 128, (s.core c).self = .normal ∧ (s.core c).votes = [] ∧ (s.core c).proj = []
end

