-- ==== Sys2Proof/Laws/State.lean ====
section
/-!
SUPPORT. What each update of the state leaves of every field, one lemma for each, and what is read of a context or a core
after it.
-/
namespace Sys2Proof.Machine

/-! ## setCtx -/

@[simp] theorem State.setCtx_time (s : State) (c : CtxId) (x : Ctx) : (s.setCtx c x).time = s.time := rfl
@[simp] theorem State.setCtx_cores (s : State) (c : CtxId) (x : Ctx) : (s.setCtx c x).cores = s.cores := rfl
@[simp] theorem State.setCtx_mem (s : State) (c : CtxId) (x : Ctx) : (s.setCtx c x).mem = s.mem := rfl
@[simp] theorem State.setCtx_poison (s : State) (c : CtxId) (x : Ctx) : (s.setCtx c x).poison = s.poison := rfl
@[simp] theorem State.setCtx_exact (s : State) (c : CtxId) (x : Ctx) : (s.setCtx c x).exact = s.exact := rfl
@[simp] theorem State.setCtx_policy (s : State) (c : CtxId) (x : Ctx) : (s.setCtx c x).policy = s.policy := rfl
@[simp] theorem State.setCtx_accs (s : State) (c : CtxId) (x : Ctx) : (s.setCtx c x).accs = s.accs := rfl
@[simp] theorem State.setCtx_povfs (s : State) (c : CtxId) (x : Ctx) : (s.setCtx c x).povfs = s.povfs := rfl
@[simp] theorem State.setCtx_closing (s : State) (c : CtxId) (x : Ctx) : (s.setCtx c x).closing = s.closing := rfl
@[simp] theorem State.setCtx_kcmds (s : State) (c : CtxId) (x : Ctx) : (s.setCtx c x).kcmds = s.kcmds := rfl
@[simp] theorem State.setCtx_parties (s : State) (c : CtxId) (x : Ctx) : (s.setCtx c x).parties = s.parties := rfl
@[simp] theorem State.setCtx_farCopies (s : State) (c : CtxId) (x : Ctx) : (s.setCtx c x).farCopies = s.farCopies := rfl
@[simp] theorem State.setCtx_nextId (s : State) (c : CtxId) (x : Ctx) : (s.setCtx c x).nextId = s.nextId := rfl
@[simp] theorem State.setCtx_nextRun (s : State) (c : CtxId) (x : Ctx) : (s.setCtx c x).nextRun = s.nextRun := rfl
@[simp] theorem State.setCtx_cfg (s : State) (c : CtxId) (x : Ctx) : (s.setCtx c x).cfg = s.cfg := rfl
@[simp] theorem State.setCtx_rseq (s : State) (c : CtxId) (x : Ctx) : (s.setCtx c x).rseq = s.rseq := rfl
@[simp] theorem State.setCtx_nodes (s : State) (c : CtxId) (x : Ctx) : (s.setCtx c x).nodes = s.nodes := rfl
@[simp] theorem State.setCtx_runs (s : State) (c : CtxId) (x : Ctx) : (s.setCtx c x).runs = s.runs := rfl
@[simp] theorem State.setCtx_waiters (s : State) (c : CtxId) (x : Ctx) : (s.setCtx c x).waiters = s.waiters := rfl
@[simp] theorem State.setCtx_arenas (s : State) (c : CtxId) (x : Ctx) : (s.setCtx c x).arenas = s.arenas := rfl
@[simp] theorem State.setCtx_pool (s : State) (c : CtxId) (x : Ctx) : (s.setCtx c x).pool = s.pool := rfl
@[simp] theorem State.setCtx_devQ (s : State) (c : CtxId) (x : Ctx) : (s.setCtx c x).devQ = s.devQ := rfl
@[simp] theorem State.setCtx_fenced (s : State) (c : CtxId) (x : Ctx) : (s.setCtx c x).fenced = s.fenced := rfl
@[simp] theorem State.setCtx_epochs (s : State) (c : CtxId) (x : Ctx) : (s.setCtx c x).epochs = s.epochs := rfl
@[simp] theorem State.setCtx_boot (s : State) (c : CtxId) (x : Ctx) : (s.setCtx c x).boot = s.boot := rfl
@[simp] theorem State.setCtx_mail (s : State) (c : CtxId) (x : Ctx) : (s.setCtx c x).mail = s.mail := rfl
@[simp] theorem State.setCtx_mbQueue (s : State) (c : CtxId) (x : Ctx) : (s.setCtx c x).mbQueue = s.mbQueue := rfl
@[simp] theorem State.setCtx_mons (s : State) (c : CtxId) (x : Ctx) : (s.setCtx c x).mons = s.mons := rfl
@[simp] theorem State.setCtx_signature (s : State) (c : CtxId) (x : Ctx) : (s.setCtx c x).signature = s.signature := rfl
@[simp] theorem State.setCtx_cxl (s : State) (c : CtxId) (x : Ctx) : (s.setCtx c x).cxl = s.cxl := rfl
@[simp] theorem State.setCtx_hostCxl (s : State) (c : CtxId) (x : Ctx) : (s.setCtx c x).hostCxl = s.hostCxl := rfl
@[simp] theorem State.setCtx_nvme (s : State) (c : CtxId) (x : Ctx) : (s.setCtx c x).nvme = s.nvme := rfl
@[simp] theorem State.setCtx_ports (s : State) (c : CtxId) (x : Ctx) : (s.setCtx c x).ports = s.ports := rfl
@[simp] theorem State.setCtx_device (s : State) (c : CtxId) (x : Ctx) : (s.setCtx c x).device = s.device := rfl
@[simp] theorem State.setCtx_routes (s : State) (c : CtxId) (x : Ctx) : (s.setCtx c x).routes = s.routes := rfl
@[simp] theorem State.setCtx_staging (s : State) (c : CtxId) (x : Ctx) : (s.setCtx c x).staging = s.staging := rfl
@[simp] theorem State.setCtx_removed (s : State) (c : CtxId) (x : Ctx) : (s.setCtx c x).removed = s.removed := rfl
@[simp] theorem State.setCtx_ctlBeat (s : State) (c : CtxId) (x : Ctx) : (s.setCtx c x).ctlBeat = s.ctlBeat := rfl
@[simp] theorem State.setCtx_journal (s : State) (c : CtxId) (x : Ctx) : (s.setCtx c x).journal = s.journal := rfl
@[simp] theorem State.setCtx_standbyUsed (s : State) (c : CtxId) (x : Ctx) : (s.setCtx c x).standbyUsed = s.standbyUsed := rfl
@[simp] theorem State.setCtx_cur (s : State) (c : CtxId) (x : Ctx) : (s.setCtx c x).cur = s.cur := rfl
@[simp] theorem State.setCtx_verdict (s : State) (c : CtxId) (x : Ctx) : (s.setCtx c x).verdict = s.verdict := rfl
@[simp] theorem State.setCtx_agenda (s : State) (c : CtxId) (x : Ctx) : (s.setCtx c x).agenda = s.agenda := rfl
@[simp] theorem State.setCtx_free (s : State) (c : CtxId) (x : Ctx) : (s.setCtx c x).free = s.free := rfl

/-! ## modCtx -/

@[simp] theorem State.modCtx_time (s : State) (c : CtxId) (f : Ctx → Ctx) : (s.modCtx c f).time = s.time := rfl
@[simp] theorem State.modCtx_cores (s : State) (c : CtxId) (f : Ctx → Ctx) : (s.modCtx c f).cores = s.cores := rfl
@[simp] theorem State.modCtx_mem (s : State) (c : CtxId) (f : Ctx → Ctx) : (s.modCtx c f).mem = s.mem := rfl
@[simp] theorem State.modCtx_poison (s : State) (c : CtxId) (f : Ctx → Ctx) : (s.modCtx c f).poison = s.poison := rfl
@[simp] theorem State.modCtx_exact (s : State) (c : CtxId) (f : Ctx → Ctx) : (s.modCtx c f).exact = s.exact := rfl
@[simp] theorem State.modCtx_policy (s : State) (c : CtxId) (f : Ctx → Ctx) : (s.modCtx c f).policy = s.policy := rfl
@[simp] theorem State.modCtx_accs (s : State) (c : CtxId) (f : Ctx → Ctx) : (s.modCtx c f).accs = s.accs := rfl
@[simp] theorem State.modCtx_povfs (s : State) (c : CtxId) (f : Ctx → Ctx) : (s.modCtx c f).povfs = s.povfs := rfl
@[simp] theorem State.modCtx_closing (s : State) (c : CtxId) (f : Ctx → Ctx) : (s.modCtx c f).closing = s.closing := rfl
@[simp] theorem State.modCtx_kcmds (s : State) (c : CtxId) (f : Ctx → Ctx) : (s.modCtx c f).kcmds = s.kcmds := rfl
@[simp] theorem State.modCtx_parties (s : State) (c : CtxId) (f : Ctx → Ctx) : (s.modCtx c f).parties = s.parties := rfl
@[simp] theorem State.modCtx_farCopies (s : State) (c : CtxId) (f : Ctx → Ctx) : (s.modCtx c f).farCopies = s.farCopies := rfl
@[simp] theorem State.modCtx_nextId (s : State) (c : CtxId) (f : Ctx → Ctx) : (s.modCtx c f).nextId = s.nextId := rfl
@[simp] theorem State.modCtx_nextRun (s : State) (c : CtxId) (f : Ctx → Ctx) : (s.modCtx c f).nextRun = s.nextRun := rfl
@[simp] theorem State.modCtx_cfg (s : State) (c : CtxId) (f : Ctx → Ctx) : (s.modCtx c f).cfg = s.cfg := rfl
@[simp] theorem State.modCtx_rseq (s : State) (c : CtxId) (f : Ctx → Ctx) : (s.modCtx c f).rseq = s.rseq := rfl
@[simp] theorem State.modCtx_nodes (s : State) (c : CtxId) (f : Ctx → Ctx) : (s.modCtx c f).nodes = s.nodes := rfl
@[simp] theorem State.modCtx_runs (s : State) (c : CtxId) (f : Ctx → Ctx) : (s.modCtx c f).runs = s.runs := rfl
@[simp] theorem State.modCtx_waiters (s : State) (c : CtxId) (f : Ctx → Ctx) : (s.modCtx c f).waiters = s.waiters := rfl
@[simp] theorem State.modCtx_arenas (s : State) (c : CtxId) (f : Ctx → Ctx) : (s.modCtx c f).arenas = s.arenas := rfl
@[simp] theorem State.modCtx_pool (s : State) (c : CtxId) (f : Ctx → Ctx) : (s.modCtx c f).pool = s.pool := rfl
@[simp] theorem State.modCtx_devQ (s : State) (c : CtxId) (f : Ctx → Ctx) : (s.modCtx c f).devQ = s.devQ := rfl
@[simp] theorem State.modCtx_fenced (s : State) (c : CtxId) (f : Ctx → Ctx) : (s.modCtx c f).fenced = s.fenced := rfl
@[simp] theorem State.modCtx_epochs (s : State) (c : CtxId) (f : Ctx → Ctx) : (s.modCtx c f).epochs = s.epochs := rfl
@[simp] theorem State.modCtx_boot (s : State) (c : CtxId) (f : Ctx → Ctx) : (s.modCtx c f).boot = s.boot := rfl
@[simp] theorem State.modCtx_mail (s : State) (c : CtxId) (f : Ctx → Ctx) : (s.modCtx c f).mail = s.mail := rfl
@[simp] theorem State.modCtx_mbQueue (s : State) (c : CtxId) (f : Ctx → Ctx) : (s.modCtx c f).mbQueue = s.mbQueue := rfl
@[simp] theorem State.modCtx_mons (s : State) (c : CtxId) (f : Ctx → Ctx) : (s.modCtx c f).mons = s.mons := rfl
@[simp] theorem State.modCtx_signature (s : State) (c : CtxId) (f : Ctx → Ctx) : (s.modCtx c f).signature = s.signature := rfl
@[simp] theorem State.modCtx_cxl (s : State) (c : CtxId) (f : Ctx → Ctx) : (s.modCtx c f).cxl = s.cxl := rfl
@[simp] theorem State.modCtx_hostCxl (s : State) (c : CtxId) (f : Ctx → Ctx) : (s.modCtx c f).hostCxl = s.hostCxl := rfl
@[simp] theorem State.modCtx_nvme (s : State) (c : CtxId) (f : Ctx → Ctx) : (s.modCtx c f).nvme = s.nvme := rfl
@[simp] theorem State.modCtx_ports (s : State) (c : CtxId) (f : Ctx → Ctx) : (s.modCtx c f).ports = s.ports := rfl
@[simp] theorem State.modCtx_device (s : State) (c : CtxId) (f : Ctx → Ctx) : (s.modCtx c f).device = s.device := rfl
@[simp] theorem State.modCtx_routes (s : State) (c : CtxId) (f : Ctx → Ctx) : (s.modCtx c f).routes = s.routes := rfl
@[simp] theorem State.modCtx_staging (s : State) (c : CtxId) (f : Ctx → Ctx) : (s.modCtx c f).staging = s.staging := rfl
@[simp] theorem State.modCtx_removed (s : State) (c : CtxId) (f : Ctx → Ctx) : (s.modCtx c f).removed = s.removed := rfl
@[simp] theorem State.modCtx_ctlBeat (s : State) (c : CtxId) (f : Ctx → Ctx) : (s.modCtx c f).ctlBeat = s.ctlBeat := rfl
@[simp] theorem State.modCtx_journal (s : State) (c : CtxId) (f : Ctx → Ctx) : (s.modCtx c f).journal = s.journal := rfl
@[simp] theorem State.modCtx_standbyUsed (s : State) (c : CtxId) (f : Ctx → Ctx) : (s.modCtx c f).standbyUsed = s.standbyUsed := rfl
@[simp] theorem State.modCtx_cur (s : State) (c : CtxId) (f : Ctx → Ctx) : (s.modCtx c f).cur = s.cur := rfl
@[simp] theorem State.modCtx_verdict (s : State) (c : CtxId) (f : Ctx → Ctx) : (s.modCtx c f).verdict = s.verdict := rfl
@[simp] theorem State.modCtx_agenda (s : State) (c : CtxId) (f : Ctx → Ctx) : (s.modCtx c f).agenda = s.agenda := rfl
@[simp] theorem State.modCtx_free (s : State) (c : CtxId) (f : Ctx → Ctx) : (s.modCtx c f).free = s.free := rfl

/-! ## modMe -/

@[simp] theorem State.modMe_time (s : State) (f : Ctx → Ctx) : (s.modMe f).time = s.time := rfl
@[simp] theorem State.modMe_cores (s : State) (f : Ctx → Ctx) : (s.modMe f).cores = s.cores := rfl
@[simp] theorem State.modMe_mem (s : State) (f : Ctx → Ctx) : (s.modMe f).mem = s.mem := rfl
@[simp] theorem State.modMe_poison (s : State) (f : Ctx → Ctx) : (s.modMe f).poison = s.poison := rfl
@[simp] theorem State.modMe_exact (s : State) (f : Ctx → Ctx) : (s.modMe f).exact = s.exact := rfl
@[simp] theorem State.modMe_policy (s : State) (f : Ctx → Ctx) : (s.modMe f).policy = s.policy := rfl
@[simp] theorem State.modMe_accs (s : State) (f : Ctx → Ctx) : (s.modMe f).accs = s.accs := rfl
@[simp] theorem State.modMe_povfs (s : State) (f : Ctx → Ctx) : (s.modMe f).povfs = s.povfs := rfl
@[simp] theorem State.modMe_closing (s : State) (f : Ctx → Ctx) : (s.modMe f).closing = s.closing := rfl
@[simp] theorem State.modMe_kcmds (s : State) (f : Ctx → Ctx) : (s.modMe f).kcmds = s.kcmds := rfl
@[simp] theorem State.modMe_parties (s : State) (f : Ctx → Ctx) : (s.modMe f).parties = s.parties := rfl
@[simp] theorem State.modMe_farCopies (s : State) (f : Ctx → Ctx) : (s.modMe f).farCopies = s.farCopies := rfl
@[simp] theorem State.modMe_nextId (s : State) (f : Ctx → Ctx) : (s.modMe f).nextId = s.nextId := rfl
@[simp] theorem State.modMe_nextRun (s : State) (f : Ctx → Ctx) : (s.modMe f).nextRun = s.nextRun := rfl
@[simp] theorem State.modMe_cfg (s : State) (f : Ctx → Ctx) : (s.modMe f).cfg = s.cfg := rfl
@[simp] theorem State.modMe_rseq (s : State) (f : Ctx → Ctx) : (s.modMe f).rseq = s.rseq := rfl
@[simp] theorem State.modMe_nodes (s : State) (f : Ctx → Ctx) : (s.modMe f).nodes = s.nodes := rfl
@[simp] theorem State.modMe_runs (s : State) (f : Ctx → Ctx) : (s.modMe f).runs = s.runs := rfl
@[simp] theorem State.modMe_waiters (s : State) (f : Ctx → Ctx) : (s.modMe f).waiters = s.waiters := rfl
@[simp] theorem State.modMe_arenas (s : State) (f : Ctx → Ctx) : (s.modMe f).arenas = s.arenas := rfl
@[simp] theorem State.modMe_pool (s : State) (f : Ctx → Ctx) : (s.modMe f).pool = s.pool := rfl
@[simp] theorem State.modMe_devQ (s : State) (f : Ctx → Ctx) : (s.modMe f).devQ = s.devQ := rfl
@[simp] theorem State.modMe_fenced (s : State) (f : Ctx → Ctx) : (s.modMe f).fenced = s.fenced := rfl
@[simp] theorem State.modMe_epochs (s : State) (f : Ctx → Ctx) : (s.modMe f).epochs = s.epochs := rfl
@[simp] theorem State.modMe_boot (s : State) (f : Ctx → Ctx) : (s.modMe f).boot = s.boot := rfl
@[simp] theorem State.modMe_mail (s : State) (f : Ctx → Ctx) : (s.modMe f).mail = s.mail := rfl
@[simp] theorem State.modMe_mbQueue (s : State) (f : Ctx → Ctx) : (s.modMe f).mbQueue = s.mbQueue := rfl
@[simp] theorem State.modMe_mons (s : State) (f : Ctx → Ctx) : (s.modMe f).mons = s.mons := rfl
@[simp] theorem State.modMe_signature (s : State) (f : Ctx → Ctx) : (s.modMe f).signature = s.signature := rfl
@[simp] theorem State.modMe_cxl (s : State) (f : Ctx → Ctx) : (s.modMe f).cxl = s.cxl := rfl
@[simp] theorem State.modMe_hostCxl (s : State) (f : Ctx → Ctx) : (s.modMe f).hostCxl = s.hostCxl := rfl
@[simp] theorem State.modMe_nvme (s : State) (f : Ctx → Ctx) : (s.modMe f).nvme = s.nvme := rfl
@[simp] theorem State.modMe_ports (s : State) (f : Ctx → Ctx) : (s.modMe f).ports = s.ports := rfl
@[simp] theorem State.modMe_device (s : State) (f : Ctx → Ctx) : (s.modMe f).device = s.device := rfl
@[simp] theorem State.modMe_routes (s : State) (f : Ctx → Ctx) : (s.modMe f).routes = s.routes := rfl
@[simp] theorem State.modMe_staging (s : State) (f : Ctx → Ctx) : (s.modMe f).staging = s.staging := rfl
@[simp] theorem State.modMe_removed (s : State) (f : Ctx → Ctx) : (s.modMe f).removed = s.removed := rfl
@[simp] theorem State.modMe_ctlBeat (s : State) (f : Ctx → Ctx) : (s.modMe f).ctlBeat = s.ctlBeat := rfl
@[simp] theorem State.modMe_journal (s : State) (f : Ctx → Ctx) : (s.modMe f).journal = s.journal := rfl
@[simp] theorem State.modMe_standbyUsed (s : State) (f : Ctx → Ctx) : (s.modMe f).standbyUsed = s.standbyUsed := rfl
@[simp] theorem State.modMe_cur (s : State) (f : Ctx → Ctx) : (s.modMe f).cur = s.cur := rfl
@[simp] theorem State.modMe_verdict (s : State) (f : Ctx → Ctx) : (s.modMe f).verdict = s.verdict := rfl
@[simp] theorem State.modMe_agenda (s : State) (f : Ctx → Ctx) : (s.modMe f).agenda = s.agenda := rfl
@[simp] theorem State.modMe_free (s : State) (f : Ctx → Ctx) : (s.modMe f).free = s.free := rfl

/-! ## modCore -/

@[simp] theorem State.modCore_time (s : State) (c : Fin 128) (f : CoreSt → CoreSt) : (s.modCore c f).time = s.time := rfl
@[simp] theorem State.modCore_ctxs (s : State) (c : Fin 128) (f : CoreSt → CoreSt) : (s.modCore c f).ctxs = s.ctxs := rfl
@[simp] theorem State.modCore_mem (s : State) (c : Fin 128) (f : CoreSt → CoreSt) : (s.modCore c f).mem = s.mem := rfl
@[simp] theorem State.modCore_poison (s : State) (c : Fin 128) (f : CoreSt → CoreSt) : (s.modCore c f).poison = s.poison := rfl
@[simp] theorem State.modCore_exact (s : State) (c : Fin 128) (f : CoreSt → CoreSt) : (s.modCore c f).exact = s.exact := rfl
@[simp] theorem State.modCore_policy (s : State) (c : Fin 128) (f : CoreSt → CoreSt) : (s.modCore c f).policy = s.policy := rfl
@[simp] theorem State.modCore_accs (s : State) (c : Fin 128) (f : CoreSt → CoreSt) : (s.modCore c f).accs = s.accs := rfl
@[simp] theorem State.modCore_povfs (s : State) (c : Fin 128) (f : CoreSt → CoreSt) : (s.modCore c f).povfs = s.povfs := rfl
@[simp] theorem State.modCore_closing (s : State) (c : Fin 128) (f : CoreSt → CoreSt) : (s.modCore c f).closing = s.closing := rfl
@[simp] theorem State.modCore_kcmds (s : State) (c : Fin 128) (f : CoreSt → CoreSt) : (s.modCore c f).kcmds = s.kcmds := rfl
@[simp] theorem State.modCore_parties (s : State) (c : Fin 128) (f : CoreSt → CoreSt) : (s.modCore c f).parties = s.parties := rfl
@[simp] theorem State.modCore_farCopies (s : State) (c : Fin 128) (f : CoreSt → CoreSt) : (s.modCore c f).farCopies = s.farCopies := rfl
@[simp] theorem State.modCore_nextId (s : State) (c : Fin 128) (f : CoreSt → CoreSt) : (s.modCore c f).nextId = s.nextId := rfl
@[simp] theorem State.modCore_nextRun (s : State) (c : Fin 128) (f : CoreSt → CoreSt) : (s.modCore c f).nextRun = s.nextRun := rfl
@[simp] theorem State.modCore_cfg (s : State) (c : Fin 128) (f : CoreSt → CoreSt) : (s.modCore c f).cfg = s.cfg := rfl
@[simp] theorem State.modCore_rseq (s : State) (c : Fin 128) (f : CoreSt → CoreSt) : (s.modCore c f).rseq = s.rseq := rfl
@[simp] theorem State.modCore_nodes (s : State) (c : Fin 128) (f : CoreSt → CoreSt) : (s.modCore c f).nodes = s.nodes := rfl
@[simp] theorem State.modCore_runs (s : State) (c : Fin 128) (f : CoreSt → CoreSt) : (s.modCore c f).runs = s.runs := rfl
@[simp] theorem State.modCore_waiters (s : State) (c : Fin 128) (f : CoreSt → CoreSt) : (s.modCore c f).waiters = s.waiters := rfl
@[simp] theorem State.modCore_arenas (s : State) (c : Fin 128) (f : CoreSt → CoreSt) : (s.modCore c f).arenas = s.arenas := rfl
@[simp] theorem State.modCore_pool (s : State) (c : Fin 128) (f : CoreSt → CoreSt) : (s.modCore c f).pool = s.pool := rfl
@[simp] theorem State.modCore_devQ (s : State) (c : Fin 128) (f : CoreSt → CoreSt) : (s.modCore c f).devQ = s.devQ := rfl
@[simp] theorem State.modCore_fenced (s : State) (c : Fin 128) (f : CoreSt → CoreSt) : (s.modCore c f).fenced = s.fenced := rfl
@[simp] theorem State.modCore_epochs (s : State) (c : Fin 128) (f : CoreSt → CoreSt) : (s.modCore c f).epochs = s.epochs := rfl
@[simp] theorem State.modCore_boot (s : State) (c : Fin 128) (f : CoreSt → CoreSt) : (s.modCore c f).boot = s.boot := rfl
@[simp] theorem State.modCore_mail (s : State) (c : Fin 128) (f : CoreSt → CoreSt) : (s.modCore c f).mail = s.mail := rfl
@[simp] theorem State.modCore_mbQueue (s : State) (c : Fin 128) (f : CoreSt → CoreSt) : (s.modCore c f).mbQueue = s.mbQueue := rfl
@[simp] theorem State.modCore_mons (s : State) (c : Fin 128) (f : CoreSt → CoreSt) : (s.modCore c f).mons = s.mons := rfl
@[simp] theorem State.modCore_signature (s : State) (c : Fin 128) (f : CoreSt → CoreSt) : (s.modCore c f).signature = s.signature := rfl
@[simp] theorem State.modCore_cxl (s : State) (c : Fin 128) (f : CoreSt → CoreSt) : (s.modCore c f).cxl = s.cxl := rfl
@[simp] theorem State.modCore_hostCxl (s : State) (c : Fin 128) (f : CoreSt → CoreSt) : (s.modCore c f).hostCxl = s.hostCxl := rfl
@[simp] theorem State.modCore_nvme (s : State) (c : Fin 128) (f : CoreSt → CoreSt) : (s.modCore c f).nvme = s.nvme := rfl
@[simp] theorem State.modCore_ports (s : State) (c : Fin 128) (f : CoreSt → CoreSt) : (s.modCore c f).ports = s.ports := rfl
@[simp] theorem State.modCore_device (s : State) (c : Fin 128) (f : CoreSt → CoreSt) : (s.modCore c f).device = s.device := rfl
@[simp] theorem State.modCore_routes (s : State) (c : Fin 128) (f : CoreSt → CoreSt) : (s.modCore c f).routes = s.routes := rfl
@[simp] theorem State.modCore_staging (s : State) (c : Fin 128) (f : CoreSt → CoreSt) : (s.modCore c f).staging = s.staging := rfl
@[simp] theorem State.modCore_removed (s : State) (c : Fin 128) (f : CoreSt → CoreSt) : (s.modCore c f).removed = s.removed := rfl
@[simp] theorem State.modCore_ctlBeat (s : State) (c : Fin 128) (f : CoreSt → CoreSt) : (s.modCore c f).ctlBeat = s.ctlBeat := rfl
@[simp] theorem State.modCore_journal (s : State) (c : Fin 128) (f : CoreSt → CoreSt) : (s.modCore c f).journal = s.journal := rfl
@[simp] theorem State.modCore_standbyUsed (s : State) (c : Fin 128) (f : CoreSt → CoreSt) : (s.modCore c f).standbyUsed = s.standbyUsed := rfl
@[simp] theorem State.modCore_cur (s : State) (c : Fin 128) (f : CoreSt → CoreSt) : (s.modCore c f).cur = s.cur := rfl
@[simp] theorem State.modCore_verdict (s : State) (c : Fin 128) (f : CoreSt → CoreSt) : (s.modCore c f).verdict = s.verdict := rfl
@[simp] theorem State.modCore_agenda (s : State) (c : Fin 128) (f : CoreSt → CoreSt) : (s.modCore c f).agenda = s.agenda := rfl
@[simp] theorem State.modCore_free (s : State) (c : Fin 128) (f : CoreSt → CoreSt) : (s.modCore c f).free = s.free := rfl

/-! ## setByte -/

@[simp] theorem State.setByte_time (s : State) (l : Nat) (b : Byte) : (s.setByte l b).time = s.time := rfl
@[simp] theorem State.setByte_ctxs (s : State) (l : Nat) (b : Byte) : (s.setByte l b).ctxs = s.ctxs := rfl
@[simp] theorem State.setByte_cores (s : State) (l : Nat) (b : Byte) : (s.setByte l b).cores = s.cores := rfl
@[simp] theorem State.setByte_poison (s : State) (l : Nat) (b : Byte) : (s.setByte l b).poison = s.poison := rfl
@[simp] theorem State.setByte_exact (s : State) (l : Nat) (b : Byte) : (s.setByte l b).exact = s.exact := rfl
@[simp] theorem State.setByte_policy (s : State) (l : Nat) (b : Byte) : (s.setByte l b).policy = s.policy := rfl
@[simp] theorem State.setByte_accs (s : State) (l : Nat) (b : Byte) : (s.setByte l b).accs = s.accs := rfl
@[simp] theorem State.setByte_povfs (s : State) (l : Nat) (b : Byte) : (s.setByte l b).povfs = s.povfs := rfl
@[simp] theorem State.setByte_closing (s : State) (l : Nat) (b : Byte) : (s.setByte l b).closing = s.closing := rfl
@[simp] theorem State.setByte_kcmds (s : State) (l : Nat) (b : Byte) : (s.setByte l b).kcmds = s.kcmds := rfl
@[simp] theorem State.setByte_parties (s : State) (l : Nat) (b : Byte) : (s.setByte l b).parties = s.parties := rfl
@[simp] theorem State.setByte_farCopies (s : State) (l : Nat) (b : Byte) : (s.setByte l b).farCopies = s.farCopies := rfl
@[simp] theorem State.setByte_nextId (s : State) (l : Nat) (b : Byte) : (s.setByte l b).nextId = s.nextId := rfl
@[simp] theorem State.setByte_nextRun (s : State) (l : Nat) (b : Byte) : (s.setByte l b).nextRun = s.nextRun := rfl
@[simp] theorem State.setByte_cfg (s : State) (l : Nat) (b : Byte) : (s.setByte l b).cfg = s.cfg := rfl
@[simp] theorem State.setByte_rseq (s : State) (l : Nat) (b : Byte) : (s.setByte l b).rseq = s.rseq := rfl
@[simp] theorem State.setByte_nodes (s : State) (l : Nat) (b : Byte) : (s.setByte l b).nodes = s.nodes := rfl
@[simp] theorem State.setByte_runs (s : State) (l : Nat) (b : Byte) : (s.setByte l b).runs = s.runs := rfl
@[simp] theorem State.setByte_waiters (s : State) (l : Nat) (b : Byte) : (s.setByte l b).waiters = s.waiters := rfl
@[simp] theorem State.setByte_arenas (s : State) (l : Nat) (b : Byte) : (s.setByte l b).arenas = s.arenas := rfl
@[simp] theorem State.setByte_pool (s : State) (l : Nat) (b : Byte) : (s.setByte l b).pool = s.pool := rfl
@[simp] theorem State.setByte_devQ (s : State) (l : Nat) (b : Byte) : (s.setByte l b).devQ = s.devQ := rfl
@[simp] theorem State.setByte_fenced (s : State) (l : Nat) (b : Byte) : (s.setByte l b).fenced = s.fenced := rfl
@[simp] theorem State.setByte_epochs (s : State) (l : Nat) (b : Byte) : (s.setByte l b).epochs = s.epochs := rfl
@[simp] theorem State.setByte_boot (s : State) (l : Nat) (b : Byte) : (s.setByte l b).boot = s.boot := rfl
@[simp] theorem State.setByte_mail (s : State) (l : Nat) (b : Byte) : (s.setByte l b).mail = s.mail := rfl
@[simp] theorem State.setByte_mbQueue (s : State) (l : Nat) (b : Byte) : (s.setByte l b).mbQueue = s.mbQueue := rfl
@[simp] theorem State.setByte_mons (s : State) (l : Nat) (b : Byte) : (s.setByte l b).mons = s.mons := rfl
@[simp] theorem State.setByte_signature (s : State) (l : Nat) (b : Byte) : (s.setByte l b).signature = s.signature := rfl
@[simp] theorem State.setByte_cxl (s : State) (l : Nat) (b : Byte) : (s.setByte l b).cxl = s.cxl := rfl
@[simp] theorem State.setByte_hostCxl (s : State) (l : Nat) (b : Byte) : (s.setByte l b).hostCxl = s.hostCxl := rfl
@[simp] theorem State.setByte_nvme (s : State) (l : Nat) (b : Byte) : (s.setByte l b).nvme = s.nvme := rfl
@[simp] theorem State.setByte_ports (s : State) (l : Nat) (b : Byte) : (s.setByte l b).ports = s.ports := rfl
@[simp] theorem State.setByte_device (s : State) (l : Nat) (b : Byte) : (s.setByte l b).device = s.device := rfl
@[simp] theorem State.setByte_routes (s : State) (l : Nat) (b : Byte) : (s.setByte l b).routes = s.routes := rfl
@[simp] theorem State.setByte_staging (s : State) (l : Nat) (b : Byte) : (s.setByte l b).staging = s.staging := rfl
@[simp] theorem State.setByte_removed (s : State) (l : Nat) (b : Byte) : (s.setByte l b).removed = s.removed := rfl
@[simp] theorem State.setByte_ctlBeat (s : State) (l : Nat) (b : Byte) : (s.setByte l b).ctlBeat = s.ctlBeat := rfl
@[simp] theorem State.setByte_journal (s : State) (l : Nat) (b : Byte) : (s.setByte l b).journal = s.journal := rfl
@[simp] theorem State.setByte_standbyUsed (s : State) (l : Nat) (b : Byte) : (s.setByte l b).standbyUsed = s.standbyUsed := rfl
@[simp] theorem State.setByte_cur (s : State) (l : Nat) (b : Byte) : (s.setByte l b).cur = s.cur := rfl
@[simp] theorem State.setByte_verdict (s : State) (l : Nat) (b : Byte) : (s.setByte l b).verdict = s.verdict := rfl
@[simp] theorem State.setByte_agenda (s : State) (l : Nat) (b : Byte) : (s.setByte l b).agenda = s.agenda := rfl
@[simp] theorem State.setByte_free (s : State) (l : Nat) (b : Byte) : (s.setByte l b).free = s.free := rfl

/-! ## openPhase -/

@[simp] theorem State.openPhase_time (s : State) (c : CtxId) : (s.openPhase c).time = s.time := rfl
@[simp] theorem State.openPhase_cores (s : State) (c : CtxId) : (s.openPhase c).cores = s.cores := rfl
@[simp] theorem State.openPhase_mem (s : State) (c : CtxId) : (s.openPhase c).mem = s.mem := rfl
@[simp] theorem State.openPhase_poison (s : State) (c : CtxId) : (s.openPhase c).poison = s.poison := rfl
@[simp] theorem State.openPhase_exact (s : State) (c : CtxId) : (s.openPhase c).exact = s.exact := rfl
@[simp] theorem State.openPhase_policy (s : State) (c : CtxId) : (s.openPhase c).policy = s.policy := rfl
@[simp] theorem State.openPhase_accs (s : State) (c : CtxId) : (s.openPhase c).accs = s.accs := rfl
@[simp] theorem State.openPhase_povfs (s : State) (c : CtxId) : (s.openPhase c).povfs = s.povfs := rfl
@[simp] theorem State.openPhase_closing (s : State) (c : CtxId) : (s.openPhase c).closing = s.closing := rfl
@[simp] theorem State.openPhase_kcmds (s : State) (c : CtxId) : (s.openPhase c).kcmds = s.kcmds := rfl
@[simp] theorem State.openPhase_parties (s : State) (c : CtxId) : (s.openPhase c).parties = s.parties := rfl
@[simp] theorem State.openPhase_farCopies (s : State) (c : CtxId) : (s.openPhase c).farCopies = s.farCopies := rfl
@[simp] theorem State.openPhase_nextId (s : State) (c : CtxId) : (s.openPhase c).nextId = s.nextId := rfl
@[simp] theorem State.openPhase_nextRun (s : State) (c : CtxId) : (s.openPhase c).nextRun = s.nextRun := rfl
@[simp] theorem State.openPhase_cfg (s : State) (c : CtxId) : (s.openPhase c).cfg = s.cfg := rfl
@[simp] theorem State.openPhase_rseq (s : State) (c : CtxId) : (s.openPhase c).rseq = s.rseq := rfl
@[simp] theorem State.openPhase_nodes (s : State) (c : CtxId) : (s.openPhase c).nodes = s.nodes := rfl
@[simp] theorem State.openPhase_runs (s : State) (c : CtxId) : (s.openPhase c).runs = s.runs := rfl
@[simp] theorem State.openPhase_waiters (s : State) (c : CtxId) : (s.openPhase c).waiters = s.waiters := rfl
@[simp] theorem State.openPhase_arenas (s : State) (c : CtxId) : (s.openPhase c).arenas = s.arenas := rfl
@[simp] theorem State.openPhase_pool (s : State) (c : CtxId) : (s.openPhase c).pool = s.pool := rfl
@[simp] theorem State.openPhase_devQ (s : State) (c : CtxId) : (s.openPhase c).devQ = s.devQ := rfl
@[simp] theorem State.openPhase_fenced (s : State) (c : CtxId) : (s.openPhase c).fenced = s.fenced := rfl
@[simp] theorem State.openPhase_epochs (s : State) (c : CtxId) : (s.openPhase c).epochs = s.epochs := rfl
@[simp] theorem State.openPhase_boot (s : State) (c : CtxId) : (s.openPhase c).boot = s.boot := rfl
@[simp] theorem State.openPhase_mail (s : State) (c : CtxId) : (s.openPhase c).mail = s.mail := rfl
@[simp] theorem State.openPhase_mbQueue (s : State) (c : CtxId) : (s.openPhase c).mbQueue = s.mbQueue := rfl
@[simp] theorem State.openPhase_mons (s : State) (c : CtxId) : (s.openPhase c).mons = s.mons := rfl
@[simp] theorem State.openPhase_signature (s : State) (c : CtxId) : (s.openPhase c).signature = s.signature := rfl
@[simp] theorem State.openPhase_cxl (s : State) (c : CtxId) : (s.openPhase c).cxl = s.cxl := rfl
@[simp] theorem State.openPhase_hostCxl (s : State) (c : CtxId) : (s.openPhase c).hostCxl = s.hostCxl := rfl
@[simp] theorem State.openPhase_nvme (s : State) (c : CtxId) : (s.openPhase c).nvme = s.nvme := rfl
@[simp] theorem State.openPhase_ports (s : State) (c : CtxId) : (s.openPhase c).ports = s.ports := rfl
@[simp] theorem State.openPhase_device (s : State) (c : CtxId) : (s.openPhase c).device = s.device := rfl
@[simp] theorem State.openPhase_routes (s : State) (c : CtxId) : (s.openPhase c).routes = s.routes := rfl
@[simp] theorem State.openPhase_staging (s : State) (c : CtxId) : (s.openPhase c).staging = s.staging := rfl
@[simp] theorem State.openPhase_removed (s : State) (c : CtxId) : (s.openPhase c).removed = s.removed := rfl
@[simp] theorem State.openPhase_ctlBeat (s : State) (c : CtxId) : (s.openPhase c).ctlBeat = s.ctlBeat := rfl
@[simp] theorem State.openPhase_journal (s : State) (c : CtxId) : (s.openPhase c).journal = s.journal := rfl
@[simp] theorem State.openPhase_standbyUsed (s : State) (c : CtxId) : (s.openPhase c).standbyUsed = s.standbyUsed := rfl
@[simp] theorem State.openPhase_cur (s : State) (c : CtxId) : (s.openPhase c).cur = s.cur := rfl
@[simp] theorem State.openPhase_verdict (s : State) (c : CtxId) : (s.openPhase c).verdict = s.verdict := rfl
@[simp] theorem State.openPhase_agenda (s : State) (c : CtxId) : (s.openPhase c).agenda = s.agenda := rfl
@[simp] theorem State.openPhase_free (s : State) (c : CtxId) : (s.openPhase c).free = s.free := rfl

/-! ## issued -/

@[simp] theorem State.issued_time (s : State) : (s.issued).time = s.time := rfl
@[simp] theorem State.issued_ctxs (s : State) : (s.issued).ctxs = s.ctxs := rfl
@[simp] theorem State.issued_cores (s : State) : (s.issued).cores = s.cores := rfl
@[simp] theorem State.issued_mem (s : State) : (s.issued).mem = s.mem := rfl
@[simp] theorem State.issued_poison (s : State) : (s.issued).poison = s.poison := rfl
@[simp] theorem State.issued_exact (s : State) : (s.issued).exact = s.exact := rfl
@[simp] theorem State.issued_policy (s : State) : (s.issued).policy = s.policy := rfl
@[simp] theorem State.issued_accs (s : State) : (s.issued).accs = s.accs := rfl
@[simp] theorem State.issued_povfs (s : State) : (s.issued).povfs = s.povfs := rfl
@[simp] theorem State.issued_closing (s : State) : (s.issued).closing = s.closing := rfl
@[simp] theorem State.issued_kcmds (s : State) : (s.issued).kcmds = s.kcmds := rfl
@[simp] theorem State.issued_parties (s : State) : (s.issued).parties = s.parties := rfl
@[simp] theorem State.issued_farCopies (s : State) : (s.issued).farCopies = s.farCopies := rfl
@[simp] theorem State.issued_nextId (s : State) : (s.issued).nextId = s.nextId := rfl
@[simp] theorem State.issued_nextRun (s : State) : (s.issued).nextRun = s.nextRun := rfl
@[simp] theorem State.issued_cfg (s : State) : (s.issued).cfg = s.cfg := rfl
@[simp] theorem State.issued_rseq (s : State) : (s.issued).rseq = s.rseq := rfl
@[simp] theorem State.issued_nodes (s : State) : (s.issued).nodes = s.nodes := rfl
@[simp] theorem State.issued_runs (s : State) : (s.issued).runs = s.runs := rfl
@[simp] theorem State.issued_waiters (s : State) : (s.issued).waiters = s.waiters := rfl
@[simp] theorem State.issued_arenas (s : State) : (s.issued).arenas = s.arenas := rfl
@[simp] theorem State.issued_pool (s : State) : (s.issued).pool = s.pool := rfl
@[simp] theorem State.issued_devQ (s : State) : (s.issued).devQ = s.devQ := rfl
@[simp] theorem State.issued_fenced (s : State) : (s.issued).fenced = s.fenced := rfl
@[simp] theorem State.issued_epochs (s : State) : (s.issued).epochs = s.epochs := rfl
@[simp] theorem State.issued_boot (s : State) : (s.issued).boot = s.boot := rfl
@[simp] theorem State.issued_mail (s : State) : (s.issued).mail = s.mail := rfl
@[simp] theorem State.issued_mbQueue (s : State) : (s.issued).mbQueue = s.mbQueue := rfl
@[simp] theorem State.issued_mons (s : State) : (s.issued).mons = s.mons := rfl
@[simp] theorem State.issued_signature (s : State) : (s.issued).signature = s.signature := rfl
@[simp] theorem State.issued_cxl (s : State) : (s.issued).cxl = s.cxl := rfl
@[simp] theorem State.issued_hostCxl (s : State) : (s.issued).hostCxl = s.hostCxl := rfl
@[simp] theorem State.issued_nvme (s : State) : (s.issued).nvme = s.nvme := rfl
@[simp] theorem State.issued_ports (s : State) : (s.issued).ports = s.ports := rfl
@[simp] theorem State.issued_device (s : State) : (s.issued).device = s.device := rfl
@[simp] theorem State.issued_routes (s : State) : (s.issued).routes = s.routes := rfl
@[simp] theorem State.issued_staging (s : State) : (s.issued).staging = s.staging := rfl
@[simp] theorem State.issued_removed (s : State) : (s.issued).removed = s.removed := rfl
@[simp] theorem State.issued_ctlBeat (s : State) : (s.issued).ctlBeat = s.ctlBeat := rfl
@[simp] theorem State.issued_journal (s : State) : (s.issued).journal = s.journal := rfl
@[simp] theorem State.issued_standbyUsed (s : State) : (s.issued).standbyUsed = s.standbyUsed := rfl
@[simp] theorem State.issued_cur (s : State) : (s.issued).cur = s.cur := rfl
@[simp] theorem State.issued_agenda (s : State) : (s.issued).agenda = s.agenda := rfl
@[simp] theorem State.issued_free (s : State) : (s.issued).free = s.free := rfl

/-! ## logged -/

@[simp] theorem State.logged_time (s : State) (k : AKind) (l : List Span) : (s.logged k l).time = s.time := rfl
@[simp] theorem State.logged_ctxs (s : State) (k : AKind) (l : List Span) : (s.logged k l).ctxs = s.ctxs := rfl
@[simp] theorem State.logged_cores (s : State) (k : AKind) (l : List Span) : (s.logged k l).cores = s.cores := rfl
@[simp] theorem State.logged_mem (s : State) (k : AKind) (l : List Span) : (s.logged k l).mem = s.mem := rfl
@[simp] theorem State.logged_poison (s : State) (k : AKind) (l : List Span) : (s.logged k l).poison = s.poison := rfl
@[simp] theorem State.logged_exact (s : State) (k : AKind) (l : List Span) : (s.logged k l).exact = s.exact := rfl
@[simp] theorem State.logged_policy (s : State) (k : AKind) (l : List Span) : (s.logged k l).policy = s.policy := rfl
@[simp] theorem State.logged_povfs (s : State) (k : AKind) (l : List Span) : (s.logged k l).povfs = s.povfs := rfl
@[simp] theorem State.logged_closing (s : State) (k : AKind) (l : List Span) : (s.logged k l).closing = s.closing := rfl
@[simp] theorem State.logged_kcmds (s : State) (k : AKind) (l : List Span) : (s.logged k l).kcmds = s.kcmds := rfl
@[simp] theorem State.logged_parties (s : State) (k : AKind) (l : List Span) : (s.logged k l).parties = s.parties := rfl
@[simp] theorem State.logged_farCopies (s : State) (k : AKind) (l : List Span) : (s.logged k l).farCopies = s.farCopies := rfl
@[simp] theorem State.logged_nextId (s : State) (k : AKind) (l : List Span) : (s.logged k l).nextId = s.nextId := rfl
@[simp] theorem State.logged_nextRun (s : State) (k : AKind) (l : List Span) : (s.logged k l).nextRun = s.nextRun := rfl
@[simp] theorem State.logged_cfg (s : State) (k : AKind) (l : List Span) : (s.logged k l).cfg = s.cfg := rfl
@[simp] theorem State.logged_rseq (s : State) (k : AKind) (l : List Span) : (s.logged k l).rseq = s.rseq := rfl
@[simp] theorem State.logged_nodes (s : State) (k : AKind) (l : List Span) : (s.logged k l).nodes = s.nodes := rfl
@[simp] theorem State.logged_runs (s : State) (k : AKind) (l : List Span) : (s.logged k l).runs = s.runs := rfl
@[simp] theorem State.logged_waiters (s : State) (k : AKind) (l : List Span) : (s.logged k l).waiters = s.waiters := rfl
@[simp] theorem State.logged_arenas (s : State) (k : AKind) (l : List Span) : (s.logged k l).arenas = s.arenas := rfl
@[simp] theorem State.logged_pool (s : State) (k : AKind) (l : List Span) : (s.logged k l).pool = s.pool := rfl
@[simp] theorem State.logged_devQ (s : State) (k : AKind) (l : List Span) : (s.logged k l).devQ = s.devQ := rfl
@[simp] theorem State.logged_fenced (s : State) (k : AKind) (l : List Span) : (s.logged k l).fenced = s.fenced := rfl
@[simp] theorem State.logged_epochs (s : State) (k : AKind) (l : List Span) : (s.logged k l).epochs = s.epochs := rfl
@[simp] theorem State.logged_boot (s : State) (k : AKind) (l : List Span) : (s.logged k l).boot = s.boot := rfl
@[simp] theorem State.logged_mail (s : State) (k : AKind) (l : List Span) : (s.logged k l).mail = s.mail := rfl
@[simp] theorem State.logged_mbQueue (s : State) (k : AKind) (l : List Span) : (s.logged k l).mbQueue = s.mbQueue := rfl
@[simp] theorem State.logged_mons (s : State) (k : AKind) (l : List Span) : (s.logged k l).mons = s.mons := rfl
@[simp] theorem State.logged_signature (s : State) (k : AKind) (l : List Span) : (s.logged k l).signature = s.signature := rfl
@[simp] theorem State.logged_cxl (s : State) (k : AKind) (l : List Span) : (s.logged k l).cxl = s.cxl := rfl
@[simp] theorem State.logged_hostCxl (s : State) (k : AKind) (l : List Span) : (s.logged k l).hostCxl = s.hostCxl := rfl
@[simp] theorem State.logged_nvme (s : State) (k : AKind) (l : List Span) : (s.logged k l).nvme = s.nvme := rfl
@[simp] theorem State.logged_ports (s : State) (k : AKind) (l : List Span) : (s.logged k l).ports = s.ports := rfl
@[simp] theorem State.logged_device (s : State) (k : AKind) (l : List Span) : (s.logged k l).device = s.device := rfl
@[simp] theorem State.logged_routes (s : State) (k : AKind) (l : List Span) : (s.logged k l).routes = s.routes := rfl
@[simp] theorem State.logged_staging (s : State) (k : AKind) (l : List Span) : (s.logged k l).staging = s.staging := rfl
@[simp] theorem State.logged_removed (s : State) (k : AKind) (l : List Span) : (s.logged k l).removed = s.removed := rfl
@[simp] theorem State.logged_ctlBeat (s : State) (k : AKind) (l : List Span) : (s.logged k l).ctlBeat = s.ctlBeat := rfl
@[simp] theorem State.logged_journal (s : State) (k : AKind) (l : List Span) : (s.logged k l).journal = s.journal := rfl
@[simp] theorem State.logged_standbyUsed (s : State) (k : AKind) (l : List Span) : (s.logged k l).standbyUsed = s.standbyUsed := rfl
@[simp] theorem State.logged_cur (s : State) (k : AKind) (l : List Span) : (s.logged k l).cur = s.cur := rfl
@[simp] theorem State.logged_verdict (s : State) (k : AKind) (l : List Span) : (s.logged k l).verdict = s.verdict := rfl
@[simp] theorem State.logged_agenda (s : State) (k : AKind) (l : List Span) : (s.logged k l).agenda = s.agenda := rfl
@[simp] theorem State.logged_free (s : State) (k : AKind) (l : List Span) : (s.logged k l).free = s.free := rfl

/-! ## noted -/

@[simp] theorem State.noted_time (s : State) (k : AKind) (l : List Span) : (s.noted k l).time = s.time := rfl
@[simp] theorem State.noted_cores (s : State) (k : AKind) (l : List Span) : (s.noted k l).cores = s.cores := rfl
@[simp] theorem State.noted_mem (s : State) (k : AKind) (l : List Span) : (s.noted k l).mem = s.mem := rfl
@[simp] theorem State.noted_poison (s : State) (k : AKind) (l : List Span) : (s.noted k l).poison = s.poison := rfl
@[simp] theorem State.noted_exact (s : State) (k : AKind) (l : List Span) : (s.noted k l).exact = s.exact := rfl
@[simp] theorem State.noted_policy (s : State) (k : AKind) (l : List Span) : (s.noted k l).policy = s.policy := rfl
@[simp] theorem State.noted_accs (s : State) (k : AKind) (l : List Span) : (s.noted k l).accs = s.accs := rfl
@[simp] theorem State.noted_povfs (s : State) (k : AKind) (l : List Span) : (s.noted k l).povfs = s.povfs := rfl
@[simp] theorem State.noted_closing (s : State) (k : AKind) (l : List Span) : (s.noted k l).closing = s.closing := rfl
@[simp] theorem State.noted_kcmds (s : State) (k : AKind) (l : List Span) : (s.noted k l).kcmds = s.kcmds := rfl
@[simp] theorem State.noted_parties (s : State) (k : AKind) (l : List Span) : (s.noted k l).parties = s.parties := rfl
@[simp] theorem State.noted_farCopies (s : State) (k : AKind) (l : List Span) : (s.noted k l).farCopies = s.farCopies := rfl
@[simp] theorem State.noted_nextId (s : State) (k : AKind) (l : List Span) : (s.noted k l).nextId = s.nextId := rfl
@[simp] theorem State.noted_nextRun (s : State) (k : AKind) (l : List Span) : (s.noted k l).nextRun = s.nextRun := rfl
@[simp] theorem State.noted_cfg (s : State) (k : AKind) (l : List Span) : (s.noted k l).cfg = s.cfg := rfl
@[simp] theorem State.noted_rseq (s : State) (k : AKind) (l : List Span) : (s.noted k l).rseq = s.rseq := rfl
@[simp] theorem State.noted_nodes (s : State) (k : AKind) (l : List Span) : (s.noted k l).nodes = s.nodes := rfl
@[simp] theorem State.noted_runs (s : State) (k : AKind) (l : List Span) : (s.noted k l).runs = s.runs := rfl
@[simp] theorem State.noted_waiters (s : State) (k : AKind) (l : List Span) : (s.noted k l).waiters = s.waiters := rfl
@[simp] theorem State.noted_arenas (s : State) (k : AKind) (l : List Span) : (s.noted k l).arenas = s.arenas := rfl
@[simp] theorem State.noted_pool (s : State) (k : AKind) (l : List Span) : (s.noted k l).pool = s.pool := rfl
@[simp] theorem State.noted_devQ (s : State) (k : AKind) (l : List Span) : (s.noted k l).devQ = s.devQ := rfl
@[simp] theorem State.noted_fenced (s : State) (k : AKind) (l : List Span) : (s.noted k l).fenced = s.fenced := rfl
@[simp] theorem State.noted_epochs (s : State) (k : AKind) (l : List Span) : (s.noted k l).epochs = s.epochs := rfl
@[simp] theorem State.noted_boot (s : State) (k : AKind) (l : List Span) : (s.noted k l).boot = s.boot := rfl
@[simp] theorem State.noted_mail (s : State) (k : AKind) (l : List Span) : (s.noted k l).mail = s.mail := rfl
@[simp] theorem State.noted_mbQueue (s : State) (k : AKind) (l : List Span) : (s.noted k l).mbQueue = s.mbQueue := rfl
@[simp] theorem State.noted_mons (s : State) (k : AKind) (l : List Span) : (s.noted k l).mons = s.mons := rfl
@[simp] theorem State.noted_signature (s : State) (k : AKind) (l : List Span) : (s.noted k l).signature = s.signature := rfl
@[simp] theorem State.noted_cxl (s : State) (k : AKind) (l : List Span) : (s.noted k l).cxl = s.cxl := rfl
@[simp] theorem State.noted_hostCxl (s : State) (k : AKind) (l : List Span) : (s.noted k l).hostCxl = s.hostCxl := rfl
@[simp] theorem State.noted_nvme (s : State) (k : AKind) (l : List Span) : (s.noted k l).nvme = s.nvme := rfl
@[simp] theorem State.noted_ports (s : State) (k : AKind) (l : List Span) : (s.noted k l).ports = s.ports := rfl
@[simp] theorem State.noted_device (s : State) (k : AKind) (l : List Span) : (s.noted k l).device = s.device := rfl
@[simp] theorem State.noted_routes (s : State) (k : AKind) (l : List Span) : (s.noted k l).routes = s.routes := rfl
@[simp] theorem State.noted_staging (s : State) (k : AKind) (l : List Span) : (s.noted k l).staging = s.staging := rfl
@[simp] theorem State.noted_removed (s : State) (k : AKind) (l : List Span) : (s.noted k l).removed = s.removed := rfl
@[simp] theorem State.noted_ctlBeat (s : State) (k : AKind) (l : List Span) : (s.noted k l).ctlBeat = s.ctlBeat := rfl
@[simp] theorem State.noted_journal (s : State) (k : AKind) (l : List Span) : (s.noted k l).journal = s.journal := rfl
@[simp] theorem State.noted_standbyUsed (s : State) (k : AKind) (l : List Span) : (s.noted k l).standbyUsed = s.standbyUsed := rfl
@[simp] theorem State.noted_cur (s : State) (k : AKind) (l : List Span) : (s.noted k l).cur = s.cur := rfl
@[simp] theorem State.noted_verdict (s : State) (k : AKind) (l : List Span) : (s.noted k l).verdict = s.verdict := rfl
@[simp] theorem State.noted_agenda (s : State) (k : AKind) (l : List Span) : (s.noted k l).agenda = s.agenda := rfl
@[simp] theorem State.noted_free (s : State) (k : AKind) (l : List Span) : (s.noted k l).free = s.free := rfl

/-! ## What is read where it was written, and elsewhere -/

/-- Different contexts stand at different places. -/
theorem ctxIdx_inj {c d : CtxId} : ctxIdx c = ctxIdx d ↔ c = d := by
  constructor
  · intro h
    have h1 : 2 * c.core.val + c.bank.val = 2 * d.core.val + d.bank.val := congrArg Fin.val h
    obtain ⟨cc, cb⟩ := c
    obtain ⟨dc, db⟩ := d
    have : cc = dc := Fin.ext (by dsimp only at h1; omega)
    have : cb = db := Fin.ext (by dsimp only at h1; omega)
    simp_all
  · rintro rfl; rfl
@[simp] theorem State.ctx_setCtx (s : State) (c : CtxId) (x : Ctx) : (s.setCtx c x).ctx c = x := by
  simp [State.ctx, State.setCtx]
theorem State.ctx_setCtx_ne (s : State) {c e : CtxId} (x : Ctx) (h : e ≠ c) : (s.setCtx c x).ctx e = s.ctx e := by
  have : (ctxIdx c).val ≠ (ctxIdx e).val := fun k => h (ctxIdx_inj.1 (Fin.ext k.symm))
  simp [State.ctx, State.setCtx, Vector.getElem_set_ne _ _ this]
@[simp] theorem State.ctx_modCtx (s : State) (c : CtxId) (f : Ctx → Ctx) : (s.modCtx c f).ctx c = f (s.ctx c) :=
  s.ctx_setCtx c _
theorem State.ctx_modCtx_ne (s : State) {c e : CtxId} (f : Ctx → Ctx) (h : e ≠ c) : (s.modCtx c f).ctx e = s.ctx e :=
  s.ctx_setCtx_ne _ h
@[simp] theorem State.me_modMe (s : State) (f : Ctx → Ctx) : (s.modMe f).me = f s.me := s.ctx_modCtx s.cur f
@[simp] theorem State.core_modCore (s : State) (c : Fin 128) (f : CoreSt → CoreSt) : (s.modCore c f).core c = f (s.core c) := by
  simp [State.core, State.modCore]
theorem State.core_modCore_ne (s : State) {c e : Fin 128} (f : CoreSt → CoreSt) (h : e ≠ c) : (s.modCore c f).core e = s.core e := by
  have : c.val ≠ e.val := fun k => h (Fin.ext k.symm)
  simp [State.core, State.modCore, Vector.getElem_set_ne _ _ this]
@[simp] theorem State.ctx_modCore (s : State) (c : Fin 128) (f : CoreSt → CoreSt) (e : CtxId) : (s.modCore c f).ctx e = s.ctx e := rfl
@[simp] theorem State.core_setCtx (s : State) (c : CtxId) (x : Ctx) (e : Fin 128) : (s.setCtx c x).core e = s.core e := rfl
@[simp] theorem State.core_modCtx (s : State) (c : CtxId) (f : Ctx → Ctx) (e : Fin 128) : (s.modCtx c f).core e = s.core e := rfl
@[simp] theorem State.ctx_issued (s : State) (e : CtxId) : s.issued.ctx e = s.ctx e := rfl
@[simp] theorem State.me_issued (s : State) : s.issued.me = s.me := rfl
@[simp] theorem State.ctx_logged (s : State) (k : AKind) (l : List Span) (e : CtxId) : (s.logged k l).ctx e = s.ctx e := rfl
@[simp] theorem State.me_logged (s : State) (k : AKind) (l : List Span) : (s.logged k l).me = s.me := rfl
@[simp] theorem State.ctx_setByte (s : State) (l : Nat) (b : Byte) (e : CtxId) : (s.setByte l b).ctx e = s.ctx e := rfl

end Sys2Proof.Machine
end

