-- ==== Sys2Proof/Laws/Sparse.lean ====
section
/-!
SUPPORT. Sparse storage: every operation keeps the canonical form, a read after a write gives what was written and a write
leaves every other place alone; the same for the bytes of storage.
-/
namespace Sys2Proof.Machine

section
variable {α : Type} [DecidableEq α] {d v w : α} {k j lo a : Nat} {m t : Sparse α}

theorem Sparse.wfFrom_cons : Sparse.wfFrom d lo ((a, v) :: t) = true ↔ lo ≤ a ∧ v ≠ d ∧ Sparse.wfFrom d (a + 1) t = true := by
  simp only [Sparse.wfFrom, Bool.and_eq_true, decide_eq_true_eq, and_assoc]
/-- A lower bound may be weakened. -/
theorem Sparse.wfFrom_le (h : Sparse.wfFrom d lo m = true) (hj : j ≤ lo) : Sparse.wfFrom d j m = true := by
  cases m with
  | nil => rfl
  | cons e t =>
    obtain ⟨a, v⟩ := e
    rw [wfFrom_cons] at h ⊢
    exact ⟨by omega, h.2⟩
/-- A key below the bound is unlisted. -/
theorem Sparse.get_lt (h : Sparse.wfFrom d lo m = true) (hj : j < lo) : Sparse.get d m j = d := by
  cases m with
  | nil => rfl
  | cons e t =>
    obtain ⟨a, v⟩ := e
    rw [wfFrom_cons] at h
    rw [Sparse.get, if_neg (by omega), if_pos (by omega)]
theorem Sparse.wfFrom_put (h : Sparse.wfFrom d (k + 1) t = true) (hk : lo ≤ k) :
    Sparse.wfFrom d lo (Sparse.put d k v t) = true := by
  unfold Sparse.put
  split
  · exact wfFrom_le h (by omega)
  · exact wfFrom_cons.2 ⟨hk, by assumption, h⟩
theorem Sparse.wfFrom_set (h : Sparse.wfFrom d lo m = true) (hk : lo ≤ k) :
    Sparse.wfFrom d lo (Sparse.set d m k v) = true := by
  induction m generalizing lo with
  | nil => exact wfFrom_put rfl hk
  | cons e t ih =>
    obtain ⟨a, w⟩ := e
    have h' := wfFrom_cons.1 h
    rw [Sparse.set]
    split
    · rename_i e; subst e; exact wfFrom_put h'.2.2 hk
    · split
      · exact wfFrom_put (wfFrom_cons.2 ⟨by omega, h'.2⟩) hk
      · exact wfFrom_cons.2 ⟨h'.1, h'.2.1, ih h'.2.2 (by omega)⟩
/-- A write keeps the canonical form. -/
theorem Sparse.wf_set (h : Sparse.wf d m = true) (k : Nat) (v : α) : Sparse.wf d (Sparse.set d m k v) = true :=
  wfFrom_set h (Nat.zero_le k)
theorem Sparse.wfFrom_filter (h : Sparse.wfFrom d lo m = true) (p : Nat × α → Bool) : Sparse.wfFrom d lo (m.filter p) = true := by
  induction m generalizing lo with
  | nil => rfl
  | cons e t ih =>
    obtain ⟨a, w⟩ := e
    have h' := wfFrom_cons.1 h
    rw [List.filter_cons]
    split
    · exact wfFrom_cons.2 ⟨h'.1, h'.2.1, ih h'.2.2⟩
    · exact wfFrom_le (ih h'.2.2) (by omega)
/-- Leaving pairs out keeps the canonical form. -/
theorem Sparse.wf_filter (h : Sparse.wf d m = true) (p : Nat × α → Bool) : Sparse.wf d (m.filter p) = true := wfFrom_filter h p

theorem Sparse.get_put (h : Sparse.wfFrom d (k + 1) t = true) :
    Sparse.get d (Sparse.put d k v t) j = if j = k then v else if j < k then d else Sparse.get d t j := by
  unfold Sparse.put
  split
  · rename_i e
    subst e
    split
    · rename_i e; subst e; exact get_lt h (by omega)
    · split
      · exact get_lt h (by omega)
      · rfl
  · rfl
theorem Sparse.get_setFrom (h : Sparse.wfFrom d lo m = true) :
    Sparse.get d (Sparse.set d m k v) j = if j = k then v else Sparse.get d m j := by
  induction m generalizing lo with
  | nil =>
    rw [Sparse.set, get_put rfl]
    simp only [Sparse.get, ite_self]
  | cons e t ih =>
    obtain ⟨a, w⟩ := e
    have h' := wfFrom_cons.1 h
    rw [Sparse.set]
    split
    · rename_i e
      subst e
      rw [get_put h'.2.2]
      by_cases hj : j = k
      · rw [if_pos hj, if_pos hj]
      · rw [if_neg hj, if_neg hj, Sparse.get, if_neg hj]
    · rename_i hka
      split
      · rw [get_put (wfFrom_cons.2 ⟨by omega, h'.2⟩)]
        by_cases hj : j = k
        · rw [if_pos hj, if_pos hj]
        · rw [if_neg hj, if_neg hj]
          split
          · rw [Sparse.get, if_neg (by omega), if_pos (by omega)]
          · rfl
      · rw [Sparse.get, Sparse.get, ih h'.2.2]
        by_cases hj : j = k
        · subst hj; rw [if_neg hka, if_neg (by omega), if_pos rfl, if_pos rfl]
        · rw [if_neg hj, if_neg hj]
/-- What is read after a write. -/
theorem Sparse.get_set (h : Sparse.wf d m = true) (k j : Nat) (v : α) :
    Sparse.get d (Sparse.set d m k v) j = if j = k then v else Sparse.get d m j := get_setFrom h
end

/-! ## Bytes of storage -/

/-- What a byte reads after a write of a byte. -/
theorem State.byte_setByte {s : State} (h : Memory.wf s.mem = true) (l k : Nat) (b : Byte) :
    (s.setByte l b).byte k = if k = l then b else s.byte k := Sparse.get_set h l k b
/-- A write of a byte keeps the canonical form of the memory. -/
theorem Memory.wf_setByte {s : State} (h : Memory.wf s.mem = true) (l : Nat) (b : Byte) : Memory.wf (s.setByte l b).mem = true :=
  Sparse.wf_set h l b
/-- The memory right after reset is in canonical form. -/
theorem Memory.wf_reset : Memory.wf State.reset.mem = true := rfl

end Sys2Proof.Machine
end

