-- ==== Sys2Proof/Laws/Canonical.lean ====
section
/-!
SUPPORT. The operations over storage, contexts, phases, trap rings and nodes keep the canonical form of every store.
-/
namespace Sys2Proof.Machine
namespace State.Canonical
variable {s t : State}

/-- The form depends on the four stores alone. -/
theorem of_eq (h : s.Canonical) (hm : t.mem = s.mem) (he : t.exact = s.exact) (hp : t.policy = s.policy)
    (ha : t.arenas = s.arenas) : t.Canonical :=
  ⟨hm ▸ h.mem, he ▸ h.exact, hp ▸ h.policy, ha ▸ h.arenas⟩
/-- An update that leaves the four stores. -/
theorem mk' {x_time x_ctxs x_cores x_poison x_accs x_povfs x_closing x_kcmds x_parties x_farCopies x_nextId x_nextRun x_cfg x_rseq x_nodes x_runs
    x_waiters x_pool x_devQ x_fenced x_epochs x_boot x_mail x_mbQueue x_mons x_signature x_cxl x_hostCxl x_nvme x_ports x_device
    x_routes x_staging x_removed x_ctlBeat x_journal x_standbyUsed x_cur x_verdict x_agenda x_free} (h : s.Canonical) :
    (State.mk x_time x_ctxs x_cores s.mem x_poison s.exact s.policy x_accs x_povfs x_closing x_kcmds x_parties x_farCopies x_nextId x_nextRun x_cfg x_rseq
    x_nodes x_runs x_waiters s.arenas x_pool x_devQ x_fenced x_epochs x_boot x_mail x_mbQueue x_mons x_signature x_cxl x_hostCxl
    x_nvme x_ports x_device x_routes x_staging x_removed x_ctlBeat x_journal x_standbyUsed x_cur x_verdict x_agenda x_free).Canonical :=
  ⟨h.mem, h.exact, h.policy, h.arenas⟩
@[simp] theorem mk_iff {x_time x_ctxs x_cores x_poison x_accs x_povfs x_closing x_kcmds x_parties x_farCopies x_nextId x_nextRun x_cfg x_rseq x_nodes x_runs
    x_waiters x_pool x_devQ x_fenced x_epochs x_boot x_mail x_mbQueue x_mons x_signature x_cxl x_hostCxl x_nvme x_ports x_device
    x_routes x_staging x_removed x_ctlBeat x_journal x_standbyUsed x_cur x_verdict x_agenda x_free} :
    (State.mk x_time x_ctxs x_cores s.mem x_poison s.exact s.policy x_accs x_povfs x_closing x_kcmds x_parties x_farCopies x_nextId x_nextRun x_cfg x_rseq
    x_nodes x_runs x_waiters s.arenas x_pool x_devQ x_fenced x_epochs x_boot x_mail x_mbQueue x_mons x_signature x_cxl x_hostCxl
    x_nvme x_ports x_device x_routes x_staging x_removed x_ctlBeat x_journal x_standbyUsed x_cur x_verdict x_agenda x_free).Canonical ↔ s.Canonical :=
  ⟨fun h => ⟨h.mem, h.exact, h.policy, h.arenas⟩, mk'⟩
/-- A loop keeps it when its body does. -/
@[simp] theorem foldl {β : Type} {f : State → β → State} (l : List β) (hf : ∀ s b, s.Canonical → (f s b).Canonical)
    (h : s.Canonical) : (l.foldl f s).Canonical := by
  induction l generalizing s with
  | nil => exact h
  | cons b l ih => exact ih (hf s b h)
@[simp] theorem branch {p : Prop} [Decidable p] (hs : s.Canonical) (ht : t.Canonical) : (if p then s else t).Canonical := by
  split <;> assumption
theorem ite {p : Prop} [Decidable p] (hs : p → s.Canonical) (ht : ¬p → t.Canonical) : (if p then s else t).Canonical := by
  split
  · exact hs (by assumption)
  · exact ht (by assumption)

/-! ## Storage -/

@[simp] theorem setByte (h : s.Canonical) (l : Nat) (b : Byte) : (s.setByte l b).Canonical :=
  ⟨Memory.wf_setByte h.mem l b, h.exact, h.policy, h.arenas⟩
@[simp] theorem setCells (h : s.Canonical) (cs : List Host.Cell) : (s.setCells cs).Canonical :=
  foldl cs (fun _ c h => h.setByte c.1 c.2) h
@[simp] theorem setNum (h : s.Canonical) (l v n : Nat) : (s.setNum l v n).Canonical := h.setCells _
@[simp] theorem setField (h : s.Canonical) (l lo w v : Nat) : (s.setField l lo w v).Canonical := h.setNum _ _ _
@[simp] theorem setExact (h : s.Canonical) (l : Nat) (e : Option ExactEl) :
    ({ s with exact := Sparse.set none s.exact l e } : State).Canonical :=
  ⟨h.mem, Sparse.wf_set h.exact _ _, h.policy, h.arenas⟩
@[simp] theorem flushLine (h : s.Canonical) (l : Nat) : (s.flushLine l).Canonical := by
  refine foldl _ (fun s e h => ?_) h
  have h' := h.setExact e.1 none
  dsimp only
  repeat' split
  all_goals first | exact h' | exact h'.setNum _ _ _
@[simp] theorem update (h : s.Canonical) (l : Nat) (u : UKind) (ty : BitVec 4) (v : Word) : (s.update l u ty v).Canonical := by
  unfold State.update
  dsimp only
  split
  · exact h.setExact l _
  · have h' := h.setNum l (combine u ty (s.num l (updBytes ty)) (v.toNat % 2 ^ (8 * updBytes ty))) (updBytes ty)
    exact ⟨h'.mem, Sparse.wf_set h.exact _ _, h'.policy, h'.arenas⟩
@[simp] theorem putCells (h : s.Canonical) (cs : List Host.Cell) : (s.putCells cs).Canonical :=
  of_eq (h.setCells cs) rfl rfl rfl rfl
theorem flushes {β : Type} (l : List β) (at_ : β → Nat) (h : s.Canonical) :
    (l.foldl (fun s c => if (s.lineExact (at_ c)).isEmpty then s else s.flushLine (at_ c)) s).Canonical :=
  foldl l (fun _ _ h => ite (fun _ => h) fun _ => h.flushLine _) h
@[simp] theorem plainWrite (h : s.Canonical) (cs : List Host.Cell) : (s.plainWrite cs).Canonical :=
  (flushes cs Prod.fst h).putCells cs
@[simp] theorem applyPend (h : s.Canonical) (p : Pend) : (s.applyPend p).Canonical := by
  unfold State.applyPend
  split
  · exact h.plainWrite _
  · exact (ite (fun _ => h.flushLine _) fun _ => h).update _ _ _ _
theorem applyAll (h : s.Canonical) {l : List Pend} (e : s.applyAll l = .ok t) : t.Canonical := by
  induction l generalizing s with
  | nil => cases e; exact h
  | cons p l ih =>
    unfold State.applyAll at e
    split at e
    · cases e
    · exact ih (h.applyPend p) e

/-! ## Contexts and cores -/

@[simp] theorem setCtx (h : s.Canonical) (c : CtxId) (x : Ctx) : (s.setCtx c x).Canonical := of_eq h rfl rfl rfl rfl
@[simp] theorem modCtx (h : s.Canonical) (c : CtxId) (f : Ctx → Ctx) : (s.modCtx c f).Canonical := of_eq h rfl rfl rfl rfl
@[simp] theorem modMe (h : s.Canonical) (f : Ctx → Ctx) : (s.modMe f).Canonical := of_eq h rfl rfl rfl rfl
@[simp] theorem modCore (h : s.Canonical) (c : Fin 128) (f : CoreSt → CoreSt) : (s.modCore c f).Canonical := of_eq h rfl rfl rfl rfl
@[simp] theorem modRun (h : s.Canonical) (i : Nat) (f : Run → Run) : (s.modRun i f).Canonical := of_eq h rfl rfl rfl rfl
@[simp] theorem modNode (h : s.Canonical) (a : BitVec 12) (o : Nat) (f : Node → Node) : (s.modNode a o f).Canonical :=
  of_eq h rfl rfl rfl rfl
@[simp] theorem openPhase (h : s.Canonical) (c : CtxId) : (s.openPhase c).Canonical := h.modCtx c _
@[simp] theorem spadWrite (h : s.Canonical) (c : CtxId) (cs : List Host.Cell) : (s.spadWrite c cs).Canonical :=
  ite (fun _ => h) fun _ => (h.putCells cs).modCtx c _
@[simp] theorem landOne (h : s.Canonical) (c : CtxId) (l : Landing) : (s.landOne c l).Canonical :=
  ite (fun _ => ((h.modCtx c _).spadWrite c _).modCtx c _) fun _ => (h.modCtx c _).spadWrite c _
@[simp] theorem landDue (h : s.Canonical) (c : CtxId) : (s.landDue c).Canonical := by
  unfold State.landDue
  exact foldl _ (fun _ l h => h.landOne c l) (h.modCtx c _)
@[simp] theorem land (h : s.Canonical) (sl : Slot) (lat : Nat) (ws : List RegWrite) (q : Option Latch) (f : Flags) :
    (s.land sl lat ws q f).Canonical := h.modMe _
@[simp] theorem landS (h : s.Canonical) {sl : Slot} {lat : Nat} {d : Dst 64} {v : Word} {f : Flags} : (s.landS sl lat d v f).Canonical :=
  h.land _ _ _ _ _
@[simp] theorem landP (h : s.Canonical) {sl : Slot} {lat : Nat} {d : Dst 64} {v : Bool} {f : Flags} : (s.landP sl lat d v f).Canonical :=
  h.land _ _ _ _ _
@[simp] theorem issued (h : s.Canonical) : s.issued.Canonical := of_eq h rfl rfl rfl rfl
@[simp] theorem draw (h : s.Canonical) : s.draw.2.Canonical := of_eq h rfl rfl rfl rfl

/-! ## Accesses and phases -/

theorem touchAs (h : s.Canonical) {c run step k opn cls l} (e : s.touchAs c run step k opn cls l = .ok t) : t.Canonical := by
  unfold State.touchAs at e
  split at e <;> cases e
  exact of_eq h rfl rfl rfl rfl
theorem touch (h : s.Canonical) {c k opn ls name} (e : s.touch c k opn ls name = .ok t) : t.Canonical := h.touchAs e
theorem mTouchAll (h : s.Canonical) {k l} (e : s.mTouchAll k l = .ok t) : t.Canonical := by
  unfold State.mTouchAll at e
  split at e
  · cases e
  · exact h.touchAs e
@[simp] theorem noted (h : s.Canonical) (k : AKind) (l : List Span) : (s.noted k l).Canonical := h.modMe _
theorem mTouch (h : s.Canonical) {k ls name} (e : s.mTouch k ls name = .ok t) : t.Canonical := by
  unfold State.mTouch at e
  cases hm : s.mTouchAll k (spansOf [(name, ls)]) with
  | error f => rw [hm] at e; cases e
  | ok u => rw [hm] at e; cases e; exact (h.mTouchAll hm).noted _ _
theorem closePhase (h : s.Canonical) {c sl pc once} (e : s.closePhase c sl pc once = .ok t) : t.Canonical := by
  unfold State.closePhase at e
  dsimp only at e
  split at e
  · cases e
  · split at e
    · cases e
    · rename_i s' e'
      have h' : s'.Canonical := by
        split at e'
        · cases e'; exact h
        · exact h.applyAll e'
      cases e
      refine of_eq (s := s') h' ?_ ?_ ?_ ?_ <;> split <;> rfl
@[simp] theorem view (h : s.Canonical) (c : CtxId) : (s.view c).Canonical := foldl _ (fun _ p h => h.applyPend p) h
@[simp] theorem flushLocs (h : s.Canonical) (ls : List Nat) : (s.flushLocs ls).Canonical := flushes ls id h
@[simp] theorem plainRead (h : s.Canonical) (c : CtxId) (ls : List Nat) : (s.plainRead c ls).2.Canonical := flushes ls id h

/-! ## Trap rings -/

@[simp] theorem ringSeq (h : s.Canonical) (cb : Nat) : (s.ringSeq cb).2.Canonical := h.setNum _ _ _
@[simp] theorem ringPut (h : s.Canonical) (cb : Nat) (ws : List Word) : (s.ringPut cb ws).Canonical := (h.plainWrite _).setNum _ _ _
@[simp] theorem ringDrop (h : s.Canonical) (cb : Nat) (ws : List Word) : (s.ringDrop cb ws).Canonical := by
  have h' := h.ringSeq cb
  unfold State.ringDrop
  generalize s.ringSeq cb = r at *
  obtain ⟨n, u⟩ := r
  dsimp only at *
  split
  · exact h'.ringPut _ _
  · exact (h'.setField _ _ _ _).setNum _ _ _
@[simp] theorem devWith (h : s.Canonical) (ws : List Word) (a : DevAfter) {k : State → State}
    (hk : ∀ u : State, u.Canonical → (k u).Canonical) : (s.devWith ws a k).Canonical := by
  have h' := h.ringSeq s.devRing
  unfold State.devWith
  dsimp only
  generalize s.ringSeq s.devRing = r at *
  obtain ⟨n, u⟩ := r
  dsimp only at *
  split
  · exact hk _ (h'.ringPut _ _)
  · exact mk' (h'.setField _ _ _ _)

/-! ## Stopping, aborting and running again -/

@[simp] theorem setOpb (h : s.Canonical) (n : Node) (off lo w v : Nat) : (s.setOpb n off lo w v).Canonical := h.setField _ _ _ _
@[simp] theorem stopLane (h : s.Canonical) (c : CtxId) : (s.stopLane c).Canonical := by
  have h1 : ((s.ctx c).pipe.foldl (fun s l => if l.due.isSome then s.modCtx c fun x => x.landed l else s) s).Canonical :=
    by
    refine foldl _ (fun _ l h => ?_) h
    split <;> first | exact h.modCtx _ _ | exact h
  unfold State.stopLane
  exact modCtx (mk' (mk' (h1.setCells _))) c _
@[simp] theorem freeCtx (h : s.Canonical) (c : CtxId) : (s.freeCtx c).Canonical := by
  unfold State.freeCtx
  exact (h.setCtx c _).modCore _ _
@[simp] theorem unpost (h : s.Canonical) (run : Nat) : (s.unpost run).Canonical := foldl _ (fun _ _ h => h.setNum _ _ _) h
@[simp] theorem stopRun (h : s.Canonical) (run : Nat) : (s.stopRun run).Canonical := by
  unfold State.stopRun
  refine mk' (unpost (foldl _ (fun _ c h => ?_) h) run)
  split <;> first | exact h.stopLane c | exact h
@[simp] theorem endRun (h : s.Canonical) (run : Nat) : (s.endRun run).Canonical := by
  unfold State.endRun
  refine mk' (foldl _ (fun _ c h => ?_) h)
  split <;> first | exact h.freeCtx c | exact h
@[simp] theorem arenaDeath (h : s.Canonical) (w : Word) : (s.arenaDeath w).Canonical := by
  unfold State.arenaDeath
  split
  · exact h
  · exact ⟨h.mem, Sparse.wf_filter h.exact _, h.policy, Sparse.wf_set h.arenas _ _⟩
@[simp] theorem settlePreempt (h : s.Canonical) : s.settlePreempt.Canonical := by
  unfold State.settlePreempt
  exact mk' h
@[simp] theorem endAbort (h : s.Canonical) (a : BitVec 12) (opb : Nat) : (s.endAbort a opb).Canonical := by
  unfold State.endAbort
  split
  · exact h
  · exact settlePreempt (mk' ((h.setOpb _ _ _ _ _).setOpb _ _ _ _ _))
@[simp] theorem abortRecords (h : s.Canonical) (a : BitVec 12) (opb : Nat) (l : List (List Word)) :
    (s.abortRecords a opb l).Canonical := by
  induction l generalizing s with
  | nil => exact h.endAbort a opb
  | cons r l ih =>
    cases l with
    | nil => exact h.devWith _ _ fun _ h => h.endAbort a opb
    | cons q l => exact ih (h.devWith _ _ fun _ h => h)
@[simp] theorem finishAbort (h : s.Canonical) (n : Node) (recs : List (List Word)) : (s.finishAbort n recs).Canonical :=
  ((h.arenaDeath _).setOpb _ _ _ _ _).abortRecords _ _ _
@[simp] theorem abortNode (h : s.Canonical) (a opb cause core step recs) : (s.abortNode a opb cause core step recs).Canonical := by
  unfold State.abortNode
  split
  · exact h
  · split
    · exact h
    · have h1 (l : List Nat) : (l.foldl (fun s r => (s.stopRun r).endRun r) s).Canonical :=
        foldl l (fun s r h => (h.stopRun r).endRun r) h
      dsimp only
      split
      · exact modNode (mk' (h1 _)) _ _ _
      · exact finishAbort (modNode (mk' (h1 _)) _ _ _) _ _
@[simp] theorem settleAborts (h : s.Canonical) : s.settleAborts.Canonical := by
  refine foldl _ (fun s n h => ?_) h
  split
  · exact ite (fun _ => h) fun _ => h.finishAbort _ _
  · exact h
@[simp] theorem requeueStep (h : s.Canonical) (a opb r) : (s.requeueStep a opb r).Canonical := h.modNode _ _ _
@[simp] theorem forgetRun (h : s.Canonical) (run : Nat) : (s.forgetRun run).Canonical := mk' h
@[simp] theorem restart (h : s.Canonical) (run restarts : Nat) : (s.restart run restarts).Canonical := by
  unfold State.restart
  split
  · exact h
  · exact ((h.endRun _).forgetRun _).requeueStep _ _ _
@[simp] theorem reexecute (h : s.Canonical) (r core code restarts) : (s.reexecute r core code restarts).Canonical :=
  h.devWith _ _ fun _ h => h.restart _ _
@[simp] theorem drawWord (h : s.Canonical) : s.drawWord.2.Canonical := mk' h
@[simp] theorem recover (h : s.Canonical) (run core code) : (s.recover run core code).Canonical := by
  unfold State.recover
  split
  · exact h
  · dsimp only
    repeat' split
    all_goals first | exact h.abortNode _ _ _ _ _ _ | exact h.drawWord.drawWord.abortNode _ _ _ _ _ _ | exact h.reexecute _ _ _ _
@[simp] theorem recoverCore (h : s.Canonical) (a : Fin 128) : (s.recoverCore a).Canonical :=
  foldl _ (fun _ _ h => ite (fun _ => h) fun _ => h.recover _ _ _) h
@[simp] theorem setPre (h : s.Canonical) (a : BitVec 12) (opb : Nat) (p : PreState) : (s.setPre a opb p).Canonical :=
  (h.modNode _ _ _).settlePreempt
@[simp] theorem decided (h : s.Canonical) (a : DevAfter) : (s.decided a).Canonical := by
  unfold State.decided
  repeat' split
  all_goals first
    | exact h
    | exact h.endAbort _ _
    | exact h.restart _ _
    | exact (h.stopRun _).recover _ _ _
    | exact h.reexecute _ _ _ _
    | exact h.setPre _ _ _
    | exact h.recoverCore _
    | exact h.setNum _ _ _
    | exact mk' h
@[simp] theorem devRecord (h : s.Canonical) (ws : List Word) (a : DevAfter) : (s.devRecord ws a).Canonical :=
  h.devWith _ _ fun _ h => h.decided a
@[simp] theorem after (h : s.Canonical) (core code : Nat) (a : After) : (s.after core code a).Canonical := by
  unfold State.after
  split
  · exact h
  · exact h.recover _ _ _
  · exact h.recover _ _ _
  · split
    · exact h.abortNode _ _ _ _ _ _
    · exact h
  · exact mk' h
@[simp] theorem ctxRecord (h : s.Canonical) (c : CtxId) (ws : List Word) (a : After) : (s.ctxRecord c ws a).Canonical := by
  have h' := h.ringSeq (s.ringOf c)
  unfold State.ctxRecord
  dsimp only
  generalize s.ringSeq (s.ringOf c) = r at *
  obtain ⟨n, u⟩ := r
  dsimp only at *
  split
  · exact (h'.ringPut _ _).after _ _ _
  · exact (h'.setField _ _ _ _).modCtx _ _
@[simp] theorem setPovf (h : s.Canonical) (a : BitVec 12) (w : Word) : (s.setPovf a w).Canonical := by
  unfold State.setPovf
  split
  · exact ite (fun _ => h) fun _ => mk' (h.setByte _ _)
  · exact h
@[simp] theorem failSide (h : s.Canonical) (c : CtxId) (a : BitVec 12) (f : Fail) : (s.failSide c a f).Canonical := by
  unfold State.failSide
  repeat' split
  all_goals first | exact h.modCore _ _ | exact h.setPovf _ _ | exact h
/-- Taking an exception. -/
@[simp] theorem trapAs (h : s.Canonical) (c sl others pc stop f a) : (s.trapAs c sl others pc stop f a).Canonical := by
  unfold State.trapAs
  refine ctxRecord (failSide ?_ _ _ _) _ _ _
  split
  · exact h.stopRun _
  · exact (h.stopRun _).stopLane _
@[simp] theorem trap (h : s.Canonical) (c sl others pc stop f) : (s.trap c sl others pc stop f).Canonical :=
  h.trapAs _ _ _ _ _ _ _

end State.Canonical

/-! ## Slot operations -/

/-- A result that leaves every store canonical. -/
def Res.Canonical : Res → Prop
  | .done t => t.Canonical
  | .hold t => t.Canonical
  | .refused t _ => t.Canonical
  | .fail _ => True

variable {s t : State}

theorem Res.Canonical.need {α : Type} {e : Except Fail α} {k : α → Res} (h : ∀ a, e = .ok a → (k a).Canonical) :
    (Res.need e k).Canonical := by
  cases e with
  | ok a => exact h a rfl
  | error f => trivial
@[simp] theorem Res.Canonical.done_iff : (Res.done t).Canonical ↔ t.Canonical := Iff.rfl
@[simp] theorem Res.Canonical.hold_iff : (Res.hold t).Canonical ↔ t.Canonical := Iff.rfl
@[simp] theorem Res.Canonical.refused_iff {f : Fail} : (Res.refused t f).Canonical ↔ t.Canonical := Iff.rfl
@[simp] theorem Res.Canonical.fail {f : Fail} : (Res.fail f).Canonical := trivial
@[simp] theorem Res.Canonical.branch {p : Prop} [Decidable p] {x y : Res} (hx : x.Canonical) (hy : y.Canonical) :
    (if p then x else y).Canonical := by
  split <;> assumption
/-- A continuation that keeps the form whatever it is given. -/
@[simp] theorem Res.Canonical.need' {α : Type} {e : Except Fail α} {k : α → Res} (h : ∀ a, (k a).Canonical) :
    (Res.need e k).Canonical := need fun a _ => h a
theorem Res.Canonical.ite {p : Prop} [Decidable p] {x y : Res} (hx : p → x.Canonical) (hy : ¬p → y.Canonical) :
    (if p then x else y).Canonical := by
  split
  · exact hx (by assumption)
  · exact hy (by assumption)
@[simp] theorem State.Canonical.closeOpen (h : s.Canonical) (sl : Slot) (once : Bool) : (s.closeOpen sl once).Canonical := by
  unfold State.closeOpen
  split
  · rename_i e; exact (h.closePhase e).openPhase _
  · exact h
/-- Both results of a bounded operation leave every store canonical. -/
def EitherCanonical : Except State State → Prop
  | .ok t => t.Canonical
  | .error t => t.Canonical
@[simp] theorem EitherCanonical.ok_iff : EitherCanonical (.ok t) ↔ t.Canonical := Iff.rfl
@[simp] theorem EitherCanonical.error_iff : EitherCanonical (.error t) ↔ t.Canonical := Iff.rfl
@[simp] theorem Safe.next_iff : Safe (.next t) ↔ t.Canonical :=
  ⟨fun ⟨_, e, h⟩ => by cases e; exact h, fun h => ⟨t, rfl, h⟩⟩
/-- What answers a next state in canonical form is safe. -/
theorem Safe.next (h : t.Canonical) : Safe (.next t) := ⟨t, rfl, h⟩
theorem Safe.ite {p : Prop} [Decidable p] {x y : Out} (hx : p → Safe x) (hy : ¬p → Safe y) : Safe (if p then x else y) := by
  split
  · exact hx (by assumption)
  · exact hy (by assumption)
/-- A slot operation is safe when its result is canonical. -/
@[simp] theorem State.Canonical.slotOp (h : s.Canonical) {r : Res} (hr : r.Canonical) (sl : Slot) (p : Fin 64) : Safe (s.slotOp sl p r) := by
  unfold State.slotOp
  split
  · cases r with
    | done t => exact .next (.mk' (s := t) hr)
    | fail f => exact .next (.mk' (h.trap _ _ _ _ _ f))
    | hold t => exact .next (.mk' (s := t) hr)
    | refused t f => exact .next (.mk' (State.Canonical.trap (s := t) hr _ _ _ _ _ f))
  · exact .next (.mk' h)

end Sys2Proof.Machine
end

