-- ==== Sys2Proof/Laws/Words.lean ====
section
/-!
SUPPORT. The words of each slot format by their fields: what the decoder reads at each place of a word whose fields are given.
-/
namespace Sys2Proof

/-- Every check of the list holds. -/
def Good (l : List (Nat × Bool)) : Prop := firstBad l = none

theorem good_nil : Good [] := rfl
theorem good_cons {b : Nat} {ok : Bool} {l : List (Nat × Bool)} : Good ((b, ok) :: l) ↔ ok = true ∧ Good l := by
  simp only [Good, firstBad]
  cases h : firstBad l <;> cases ok <;> simp
theorem good_append {l m : List (Nat × Bool)} : Good (l ++ m) ↔ Good l ∧ Good m := by
  induction l with
  | nil => simp [Good, firstBad]
  | cons c l ih => obtain ⟨b, ok⟩ := c; rw [List.cons_append, good_cons, good_cons, ih, and_assoc]
theorem good_lim {b : Nat} {ok : Bool} : Good (lim b ok) ↔ ok = true := by
  rw [lim, good_cons]; simp [good_nil]
theorem bitAt_eq {n : Nat} (x : BitVec n) (i : Nat) : bitAt x i = decide (x.toNat / 2 ^ i % 2 = 1) := by
  rw [bitAt, BitVec.getLsbD, Nat.testBit_eq_decide_div_mod_eq]
theorem good_zeros {n : Nat} {x : BitVec n} {lo w : Nat} : Good (zeros x lo w) ↔ x.toNat / 2 ^ lo % 2 ^ w = 0 := by
  induction w with
  | zero => simp [zeros, Nat.mod_one, good_nil]
  | succ w ih =>
    rw [zeros, good_cons, ih, Nat.mod_pow_succ, Nat.div_div_eq_div_mul, ← Nat.pow_add, ← bitAt, bitAt_eq]
    have := Nat.mod_two_eq_zero_or_one (x.toNat / 2 ^ (lo + w))
    have p : 0 < 2 ^ w := Nat.two_pow_pos w
    rcases this with h | h <;> simp [h]
theorem judge_good {l : List (Nat × Bool)} {i : Instr} (h : Good l) : judge l i = .ok i := by
  rw [judge, h]
theorem fieldFin_eq {n lo m : Nat} [NeZero m] {x : BitVec n} {r : Fin m} (h : x.toNat / 2 ^ lo % m = r.val) :
    fieldFin x lo m = r := by
  apply Fin.ext
  simp [fieldFin, Fin.ofNat, Nat.shiftRight_eq_div_pow, h]
theorem fieldBV_eq {n lo w : Nat} {x : BitVec n} {v : BitVec w} (h : x.toNat / 2 ^ lo % 2 ^ w = v.toNat) :
    fieldBV x lo w = v := by
  apply BitVec.eq_of_toNat_eq
  simp [fieldBV, Nat.shiftRight_eq_div_pow, h]
theorem bits_eq {n lo w v : Nat} {x : BitVec n} (h : x.toNat / 2 ^ lo % 2 ^ w = v) : bits x lo w = v := by
  rw [bits, Nat.shiftRight_eq_div_pow, h]
theorem bit_le (b : Bool) : bit b ≤ 1 := by cases b <;> decide
theorem bit_one (b : Bool) : decide (bit b = 1) = b := by cases b <;> decide


theorem ne_zero {n : Nat} {x : BitVec n} {lo w k : Nat} (h : bits x lo w = k) (hk : 0 < k) : x ≠ 0 := by
  rintro rfl
  simp [bits] at h
  omega

/-! ## S format -/

/-- The fields of an S word. -/
structure SWord (x : BitVec 40) (op r n sa va sb vb p : Nat) : Prop where
  val : x.toNat = op + r * 2 ^ 6 + n * 2 ^ 12 + sa * 2 ^ 13 + va * 2 ^ 14 + sb * 2 ^ 20 + vb * 2 ^ 22 + p * 2 ^ 34
  op  : op < 64
  r   : r < 64
  n   : n < 2
  sa  : sa < 2
  va  : va < 64
  sb  : sb < 4
  vb  : vb < 4096
  p   : p < 64

namespace SWord
variable {x : BitVec 40} {op r n sa va sb vb p : Nat}

theorem bop (h : SWord x op r n sa va sb vb p) : bits x 0 6 = op := bits_eq (by obtain ⟨e, _, _, _, _, _, _, _, _⟩ := h; omega)
theorem pred {q : Fin 64} (h : SWord x op r n sa va sb vb q.val) : fieldFin x 34 64 = q :=
  fieldFin_eq (by obtain ⟨e, _, _, _, _, _, _, _, _⟩ := h; omega)
theorem dst {d : Dst 64} (h : SWord x op d.reg.val (bit d.nowb) sa va sb vb p) : sDst x = d := by
  obtain ⟨reg, nowb⟩ := d
  obtain ⟨e, _, _, _, _, _, _, _, _⟩ := h
  have h1 : fieldFin x 6 64 = reg := fieldFin_eq (by dsimp only at *; omega)
  have h2 : x.toNat / 2 ^ 12 % 2 = bit nowb := by dsimp only at *; omega
  rw [sDst, h1, bitAt_eq, h2, bit_one]
theorem srcA {a : SSrc} (h : SWord x op r n sa va sb vb p) (e : encSA a = sa * 2 ^ 13 + va * 2 ^ 14) :
    sA x = a ∧ Good (sAok x) := by
  obtain ⟨v, _, _, _, _, _, _, _, _⟩ := h
  have hs : x.toNat / 2 ^ 13 % 2 = sa := by omega
  have hv : x.toNat / 2 ^ 14 % 64 = va := by omega
  cases a with
  | reg q =>
    simp only [encSA] at e
    obtain rfl : sa = 0 := by omega
    have : fieldFin x 14 64 = q := fieldFin_eq (by omega)
    simp only [sA, sAok, bitAt_eq, hs, this]
    simp [good_nil]
  | latch q =>
    simp only [encSA] at e
    obtain rfl : sa = 1 := by omega
    have : fieldFin x 14 16 = q := fieldFin_eq (by omega)
    simp only [sA, sAok, bitAt_eq, hs, this]
    exact ⟨rfl, good_zeros.2 (by omega)⟩
theorem srcB {b : SBSrc} (h : SWord x op r n sa va sb vb p) (e : encSB b = sb * 2 ^ 20 + vb * 2 ^ 22) :
    sB x = b ∧ Good (sBok x) := by
  obtain ⟨v, _, _, _, _, _, _, _, _⟩ := h
  have h0 : x.toNat / 2 ^ 20 % 2 = sb % 2 := by omega
  have h1 : x.toNat / 2 ^ 21 % 2 = sb / 2 := by omega
  cases b with
  | reg q =>
    simp only [encSB] at e
    obtain rfl : sb = 0 := by omega
    have : fieldFin x 22 64 = q := fieldFin_eq (by omega)
    have hz : Good (zeros x 28 6) := good_zeros.2 (by omega)
    simp only [sB, sBok, bitAt_eq, h0, h1, this]
    simp [hz]
  | latch q =>
    simp only [encSB] at e
    obtain rfl : sb = 2 := by omega
    have : fieldFin x 22 16 = q := fieldFin_eq (by omega)
    have hz : Good (zeros x 28 6) := good_zeros.2 (by omega)
    have hy : Good (zeros x 26 2) := good_zeros.2 (by omega)
    simp only [sB, sBok, bitAt_eq, h0, h1, this]
    simp [hz, hy, good_append]
  | imm i =>
    simp only [encSB] at e
    obtain rfl : sb = 1 := by omega
    have : fieldBV x 22 12 = i := fieldBV_eq (by omega)
    simp only [sB, sBok, bitAt_eq, h0, h1, this]
    simp [good_lim]
theorem srcBr {b : SSrc} (h : SWord x op r n sa va sb vb p) (e : encSBr b = sb * 2 ^ 20 + vb * 2 ^ 22) :
    sBr x = b ∧ Good (sBrok x) := by
  obtain ⟨v, _, _, _, _, _, _, _, _⟩ := h
  have h0 : x.toNat / 2 ^ 20 % 2 = sb % 2 := by omega
  have h1 : x.toNat / 2 ^ 21 % 2 = sb / 2 := by omega
  cases b with
  | reg q =>
    simp only [encSBr] at e
    obtain rfl : sb = 0 := by omega
    have : fieldFin x 22 64 = q := fieldFin_eq (by omega)
    have hz : Good (zeros x 28 6) := good_zeros.2 (by omega)
    simp only [sBr, sBrok, bitAt_eq, h0, h1, this]
    simp [hz, good_cons]
  | latch q =>
    simp only [encSBr] at e
    obtain rfl : sb = 2 := by omega
    have : fieldFin x 22 16 = q := fieldFin_eq (by omega)
    have hz : Good (zeros x 28 6) := good_zeros.2 (by omega)
    have hy : Good (zeros x 26 2) := good_zeros.2 (by omega)
    simp only [sBr, sBrok, bitAt_eq, h0, h1, this]
    simp [hz, hy, good_append, good_cons]
theorem noB (h : SWord x op r n sa va 0 0 p) : Good (sNoB x) := by
  obtain ⟨v, _, _, _, _, _, _, _, _⟩ := h
  exact good_zeros.2 (by omega)
theorem noA (h : SWord x op r n 0 0 sb vb p) : Good (sNoA x) := by
  obtain ⟨v, _, _, _, _, _, _, _, _⟩ := h
  exact good_zeros.2 (by omega)
theorem imm (h : SWord x op r n sa va 1 vb p) : Good (sImm x) := by
  obtain ⟨v, _, _, _, _, _, _, _, _⟩ := h
  have h0 : x.toNat / 2 ^ 20 % 2 = 1 := by omega
  have h1 : x.toNat / 2 ^ 21 % 2 = 0 := by omega
  simp only [sImm, bitAt_eq, h0, h1]
  simp [good_append, good_lim]
end SWord

theorem encSA_form (a : SSrc) : ∃ sa va, sa < 2 ∧ va < 64 ∧ encSA a = sa * 2 ^ 13 + va * 2 ^ 14 := by
  cases a with
  | reg r => exact ⟨0, r.val, by omega, r.isLt, by simp [encSA]⟩
  | latch q => exact ⟨1, q.val, by omega, by omega, by simp [encSA]⟩
theorem encSB_form (b : SBSrc) : ∃ sb vb, sb < 4 ∧ vb < 4096 ∧ encSB b = sb * 2 ^ 20 + vb * 2 ^ 22 := by
  cases b with
  | reg r => exact ⟨0, r.val, by omega, by omega, by simp [encSB]⟩
  | latch q => exact ⟨2, q.val, by omega, by omega, by simp [encSB]⟩
  | imm v => exact ⟨1, v.toNat, by omega, v.isLt, by simp [encSB]⟩
theorem encSBr_form (b : SSrc) : ∃ sb vb, sb < 4 ∧ vb < 4096 ∧ encSBr b = sb * 2 ^ 20 + vb * 2 ^ 22 := by
  cases b with
  | reg r => exact ⟨0, r.val, by omega, by omega, by simp [encSBr]⟩
  | latch q => exact ⟨2, q.val, by omega, by omega, by simp [encSBr]⟩

/-- The word of a head, a source a and a source b has these fields. -/
theorem SWord.of {k n A B sa va sb vb : Nat} {p : Fin 64} {d : Dst n} (hk : k < 64) (hn : n ≤ 64) (ha : sa < 2) (hv : va < 64)
    (hb : sb < 4) (hw : vb < 4096) (hA : A = sa * 2 ^ 13 + va * 2 ^ 14) (hB : B = sb * 2 ^ 20 + vb * 2 ^ 22) :
    SWord (BitVec.ofNat 40 (encSH k p d + A + B)) k d.reg.val (bit d.nowb) sa va sb vb p.val ∧ encSH k p d + A + B < 2 ^ 40 := by
  have := bit_le d.nowb
  have := d.reg.isLt
  have : encSH k p d + A + B < 2 ^ 40 := by rw [encSH]; omega
  refine ⟨⟨?_, hk, by omega, by omega, ha, hv, hb, hw, p.isLt⟩, this⟩
  rw [BitVec.toNat_ofNat, Nat.mod_eq_of_lt this, encSH]
  omega

/-- What is stated of an encoding: its word fits its slot and decodes to its instruction. -/
def Fits (i : Instr) (sl : Slot) (w : Nat) : Prop := decodeSlot sl w = .ok (some i) ∧ w < 2 ^ (match sl with
      | .c => 32
      | .o => 32
      | .v0 => 48
      | .v1 => 48
      | .m => 48
      | _ => 40)

theorem fitsS {u : SUnit} {i : Instr} {w : Nat} (h : decodeS u (BitVec.ofNat 40 w) = .ok (some i)) (hw : w < 2 ^ 40) :
    Fits i u.slot w := by cases u <;> exact ⟨h, hw⟩

theorem fits_s2 (k : Nat) (C : SUnit → Fin 64 → Dst 64 → SSrc → SBSrc → Instr) (hk : 0 < k ∧ k < 64)
    (hd : ∀ u x, x ≠ 0 → bits x 0 6 = k → decodeS u x =
      some <$> judge (sAok x ++ sBok x) (C u (fieldFin x 34 64) (sDst x) (sA x) (sB x)))
    (u : SUnit) (p : Fin 64) (d : Dst 64) (a : SSrc) (b : SBSrc) :
    Fits (C u p d a b) u.slot (encSH k p d + encSA a + encSB b) := by
  obtain ⟨sa, va, h1, h2, hA⟩ := encSA_form a
  obtain ⟨sb, vb, h3, h4, hB⟩ := encSB_form b
  obtain ⟨X, hw⟩ := SWord.of (p := p) (d := d) hk.2 (Nat.le_refl _) h1 h2 h3 h4 hA hB
  refine fitsS ?_ hw
  rw [hd u _ (ne_zero X.bop hk.1) X.bop, X.pred, X.dst, (X.srcA hA).1, (X.srcB hB).1,
    judge_good (good_append.2 ⟨(X.srcA hA).2, (X.srcB hB).2⟩)]
  rfl


theorem fits_s2r (k : Nat) (C : SUnit → Fin 64 → Dst 64 → SSrc → SSrc → Instr) (hk : 0 < k ∧ k < 64)
    (hd : ∀ u x, x ≠ 0 → bits x 0 6 = k → decodeS u x =
      some <$> judge (sAok x ++ sBrok x) (C u (fieldFin x 34 64) (sDst x) (sA x) (sBr x)))
    (u : SUnit) (p : Fin 64) (d : Dst 64) (a b : SSrc) :
    Fits (C u p d a b) u.slot (encSH k p d + encSA a + encSBr b) := by
  obtain ⟨sa, va, h1, h2, hA⟩ := encSA_form a
  obtain ⟨sb, vb, h3, h4, hB⟩ := encSBr_form b
  obtain ⟨X, hw⟩ := SWord.of (p := p) (d := d) hk.2 (Nat.le_refl _) h1 h2 h3 h4 hA hB
  refine fitsS ?_ hw
  rw [hd u _ (ne_zero X.bop hk.1) X.bop, X.pred, X.dst, (X.srcA hA).1, (X.srcBr hB).1,
    judge_good (good_append.2 ⟨(X.srcA hA).2, (X.srcBr hB).2⟩)]
  rfl

theorem fits_s1 (k : Nat) (C : SUnit → Fin 64 → Dst 64 → SSrc → Instr) (hk : 0 < k ∧ k < 64)
    (hd : ∀ u x, x ≠ 0 → bits x 0 6 = k → decodeS u x =
      some <$> judge (sAok x ++ sNoB x) (C u (fieldFin x 34 64) (sDst x) (sA x)))
    (u : SUnit) (p : Fin 64) (d : Dst 64) (a : SSrc) :
    Fits (C u p d a) u.slot (encSH k p d + encSA a) := by
  obtain ⟨sa, va, h1, h2, hA⟩ := encSA_form a
  obtain ⟨X, hw⟩ := SWord.of (B := 0) (sb := 0) (vb := 0) (p := p) (d := d) hk.2 (Nat.le_refl _) h1 h2 (by omega) (by omega) hA rfl
  rw [Nat.add_zero] at X hw
  refine fitsS ?_ hw
  rw [hd u _ (ne_zero X.bop hk.1) X.bop, X.pred, X.dst, (X.srcA hA).1, judge_good (good_append.2 ⟨(X.srcA hA).2, X.noB⟩)]
  rfl

/-- A decoding that comes to an instruction whose checks hold. -/
theorem decoded {o : Except DecErr (Option Instr)} {l : List (Nat × Bool)} {i j : Instr} (h : o = some <$> judge l i)
    (hg : Good l) (hi : i = j) : o = .ok (some j) := by
  subst hi; rw [h, judge_good hg]; rfl

theorem encSI_form (v : Nat) : encSI v = 1 * 2 ^ 20 + v * 2 ^ 22 := by simp [encSI]

/-! ## C format -/

/-- The fields of a C word. -/
structure CWord (x : BitVec 32) (op p a b i : Nat) : Prop where
  val : x.toNat = op + p * 2 ^ 6 + a * 2 ^ 12 + b * 2 ^ 18 + i * 2 ^ 24
  op  : op < 64
  p   : p < 64
  a   : a < 64
  b   : b < 64
  i   : i < 256

namespace CWord
variable {x : BitVec 32} {op p a b i : Nat}
theorem of {p : Fin 64} (hk : op < 64) (ha : a < 64) (hb : b < 64) (hi : i < 256) :
    CWord (BitVec.ofNat 32 (encC op p a b i)) op p.val a b i ∧ encC op p a b i < 2 ^ 32 := by
  have : encC op p a b i < 2 ^ 32 := by rw [encC]; omega
  exact ⟨⟨by rw [BitVec.toNat_ofNat, Nat.mod_eq_of_lt this, encC], hk, p.isLt, ha, hb, hi⟩, this⟩
theorem bop (h : CWord x op p a b i) : bits x 0 6 = op := bits_eq (by obtain ⟨e, _, _, _, _, _⟩ := h; omega)
theorem pred {q : Fin 64} (h : CWord x op q.val a b i) : fieldFin x 6 64 = q :=
  fieldFin_eq (by obtain ⟨e, _, _, _, _, _⟩ := h; omega)
theorem ra {q : Fin 64} (h : CWord x op p q.val b i) : fieldFin x 12 64 = q :=
  fieldFin_eq (by obtain ⟨e, _, _, _, _, _⟩ := h; omega)
theorem rb {q : Fin 64} (h : CWord x op p a q.val i) : fieldFin x 18 64 = q :=
  fieldFin_eq (by obtain ⟨e, _, _, _, _, _⟩ := h; omega)
theorem i8 {q : Byte} (h : CWord x op p a b q.toNat) : fieldBV x 24 8 = q :=
  fieldBV_eq (by obtain ⟨e, _, _, _, _, _⟩ := h; omega)
theorem h8 {q : Fin 8} (h : CWord x op p a b i) (e : i % 8 = q.val) : fieldFin x 24 8 = q :=
  fieldFin_eq (by obtain ⟨e, _, _, _, _, _⟩ := h; omega)
theorem noA (h : CWord x op p 0 b i) : Good (zeros x 12 6) := good_zeros.2 (by obtain ⟨e, _, _, _, _, _⟩ := h; omega)
theorem noB (h : CWord x op p a 0 i) : Good (zeros x 18 6) := good_zeros.2 (by obtain ⟨e, _, _, _, _, _⟩ := h; omega)
theorem noI (h : CWord x op p a b 0) : Good (zeros x 24 8) := good_zeros.2 (by obtain ⟨e, _, _, _, _, _⟩ := h; omega)
theorem top (h : CWord x op p a b i) {n w : Nat} (hi : i < 2 ^ n) : Good (zeros x (24 + n) w) := by
  obtain ⟨e, _, _, _, _, _⟩ := h
  refine good_zeros.2 ?_
  have : x.toNat / 2 ^ (24 + n) = i / 2 ^ n := by
    rw [Nat.pow_add, ← Nat.div_div_eq_div_mul, show x.toNat / 2 ^ 24 = i by omega]
  rw [this, Nat.div_eq_of_lt hi, Nat.zero_mod]
end CWord

/-! ## M format -/

/-- The fields of an M word. -/
structure MWord (x : BitVec 48) (op r n b f o t p : Nat) : Prop where
  val : x.toNat = op + r * 2 ^ 6 + n * 2 ^ 12 + b * 2 ^ 13 + f * 2 ^ 19 + o * 2 ^ 20 + t * 2 ^ 36 + p * 2 ^ 42
  op  : op < 64
  r   : r < 64
  n   : n < 2
  b   : b < 64
  f   : f < 2
  o   : o < 65536
  t   : t < 16
  p   : p < 64

theorem encMOff_form (o : MOff) : ∃ f v, f < 2 ∧ v < 65536 ∧ encMOff o = f * 2 ^ 19 + v * 2 ^ 20 := by
  cases o with
  | imm v => exact ⟨0, v.toNat, by omega, v.isLt, by simp [encMOff]⟩
  | index r sc =>
    have := sc.isLt
    exact ⟨1, r.val + sc.toNat * 64, by omega, by omega, by rw [encMOff]; omega⟩

namespace MWord
variable {x : BitVec 48} {op r n b f o t p : Nat}
theorem of {p b : Fin 64} {d : Nat} {nw : Bool} {O f v : Nat} {ty : BitVec 4} (hk : op < 64) (hd : d < 64) (hf : f < 2)
    (hv : v < 65536) (hO : O = f * 2 ^ 19 + v * 2 ^ 20) :
    MWord (BitVec.ofNat 48 (encM op p d nw b O ty)) op d (bit nw) b.val f v ty.toNat p.val ∧ encM op p d nw b O ty < 2 ^ 48 := by
  have := bit_le nw
  have := ty.isLt
  have : encM op p d nw b O ty < 2 ^ 48 := by rw [encM]; omega
  refine ⟨⟨?_, hk, hd, by omega, b.isLt, hf, hv, ty.isLt, p.isLt⟩, this⟩
  rw [BitVec.toNat_ofNat, Nat.mod_eq_of_lt this, encM]
  omega
theorem bop (h : MWord x op r n b f o t p) : bits x 0 6 = op := bits_eq (by obtain ⟨e, _, _, _, _, _, _, _, _⟩ := h; omega)
theorem pred {q : Fin 64} (h : MWord x op r n b f o t q.val) : fieldFin x 42 64 = q :=
  fieldFin_eq (by obtain ⟨e, _, _, _, _, _, _, _, _⟩ := h; omega)
theorem reg {m : Nat} [NeZero m] {q : Fin m} (h : MWord x op q.val n b f o t p) (hm : m = 64 ∨ m = 32 ∨ m = 16) :
    fieldFin x 6 m = q := fieldFin_eq (by
  obtain ⟨e, _, _, _, _, _, _, _, _⟩ := h
  have := q.isLt
  rcases hm with rfl | rfl | rfl <;> omega)
theorem nw {q : Bool} (h : MWord x op r (bit q) b f o t p) : bitAt x 12 = q := by
  obtain ⟨e, _, _, _, _, _, _, _, _⟩ := h
  rw [bitAt_eq, show x.toNat / 2 ^ 12 % 2 = bit q by omega, bit_one]
theorem noNw (h : MWord x op r 0 b f o t p) : Good (lim 12 (!bitAt x 12)) := by
  obtain ⟨e, _, _, _, _, _, _, _, _⟩ := h
  rw [good_lim, bitAt_eq, show x.toNat / 2 ^ 12 % 2 = 0 by omega]; rfl
theorem base {q : Fin 64} (h : MWord x op r n q.val f o t p) : fieldFin x 13 64 = q :=
  fieldFin_eq (by obtain ⟨e, _, _, _, _, _, _, _, _⟩ := h; omega)
theorem ty {q : BitVec 4} (h : MWord x op r n b f o q.toNat p) : fieldBV x 36 4 = q :=
  fieldBV_eq (by obtain ⟨e, _, _, _, _, _, _, _, _⟩ := h; omega)
theorem res (h : MWord x op r n b f o t p) : Good (zeros x 40 2) :=
  good_zeros.2 (by obtain ⟨e, _, _, _, _, _, _, _, _⟩ := h; omega)
theorem vok (h : MWord x op r n b f o t p) (hr : r < 32) : Good (zeros x 11 1) :=
  good_zeros.2 (by obtain ⟨e, _, _, _, _, _, _, _, _⟩ := h; omega)
theorem dok (h : MWord x op r n b f o t p) (hr : r < 16) : Good (zeros x 10 2) :=
  good_zeros.2 (by obtain ⟨e, _, _, _, _, _, _, _, _⟩ := h; omega)
theorem off {q : MOff} (h : MWord x op r n b f o t p) (e : encMOff q = f * 2 ^ 19 + o * 2 ^ 20) :
    mOff x = q ∧ Good (mOffok x) := by
  obtain ⟨v, _, _, _, _, _, _, _, _⟩ := h
  have hf : x.toNat / 2 ^ 19 % 2 = f := by omega
  cases q with
  | imm q =>
    simp only [encMOff] at e
    obtain rfl : f = 0 := by omega
    have : fieldBV x 20 16 = q := fieldBV_eq (by omega)
    simp only [mOff, mOffok, bitAt_eq, hf, this]
    simp [good_nil]
  | index r sc =>
    have := sc.isLt
    simp only [encMOff] at e
    obtain rfl : f = 1 := by omega
    have h1 : fieldFin x 20 64 = r := fieldFin_eq (by omega)
    have h2 : fieldBV x 26 2 = sc := fieldBV_eq (by omega)
    have hz : Good (zeros x 28 8) := good_zeros.2 (by omega)
    simp only [mOff, mOffok, bitAt_eq, hf, h1, h2]
    simp [hz]
theorem index {i : Fin 32} {sc : BitVec 2} (h : MWord x op r n b 1 (i.val + sc.toNat * 64) t p) :
    fieldFin x 20 32 = i ∧ fieldBV x 26 2 = sc ∧
    Good ((19, bitAt x 19) :: zeros x 25 1 ++ zeros x 28 8 ++ zeros x 40 2) := by
  obtain ⟨v, _, _, _, _, _, _, _, _⟩ := h
  have := sc.isLt
  refine ⟨fieldFin_eq (by omega), fieldBV_eq (by omega), ?_⟩
  rw [List.cons_append, List.cons_append, good_cons, good_append, good_append, good_zeros, good_zeros, good_zeros, bitAt_eq,
    decide_eq_true_eq]
  omega
theorem tile {i : Fin 16} (h : MWord x op r n b 0 i.val 0 p) : fieldFin x 20 16 = i ∧
    Good (zeros x 19 1 ++ zeros x 24 12 ++ lim 36 (decide (fieldBV x 36 4 = (0 : BitVec 4))) ++ zeros x 40 2) := by
  obtain ⟨v, _, _, _, _, _, _, _, _⟩ := h
  refine ⟨fieldFin_eq (by omega), ?_⟩
  have : fieldBV x 36 4 = (0 : BitVec 4) := fieldBV_eq (by show x.toNat / 2 ^ 36 % 2 ^ 4 = 0; omega)
  rw [this, good_append, good_append, good_append, good_zeros, good_zeros, good_zeros, good_lim]
  exact ⟨⟨⟨by omega, by omega⟩, rfl⟩, by omega⟩
end MWord

theorem fitsM {i : Instr} {w : Nat} (h : decodeM (BitVec.ofNat 48 w) = .ok (some i)) (hw : w < 2 ^ 48) : Fits i .m w := ⟨h, hw⟩

/-! ## V format -/

/-- The fields of a V word. -/
structure VWord (x : BitVec 48) (op r n sa va sb vb sc vc k e m s p : Nat) : Prop where
  val : x.toNat = op + r * 2 ^ 7 + n * 2 ^ 12 + sa * 2 ^ 13 + va * 2 ^ 14 + sb * 2 ^ 19 + vb * 2 ^ 20 + sc * 2 ^ 25 +
    vc * 2 ^ 26 + k * 2 ^ 31 + e * 2 ^ 34 + m * 2 ^ 38 + s * 2 ^ 40 + p * 2 ^ 41
  op  : op < 128
  r   : r < 32
  n   : n < 2
  sa  : sa < 2
  va  : va < 32
  sb  : sb < 2
  vb  : vb < 32
  sc  : sc < 2
  vc  : vc < 32
  k   : k < 8
  e   : e < 16
  m   : m < 4
  s   : s < 2
  p   : p < 64

theorem encVSrc_form (a : VSrc) : ∃ s v, s < 2 ∧ v < 32 ∧ ∀ sel, encVSrc sel a = s * 2 ^ sel + v * 2 ^ (sel + 1) := by
  cases a with
  | reg r => exact ⟨0, r.val, by omega, r.isLt, by simp [encVSrc]⟩
  | latch q => exact ⟨1, q.val, by omega, by omega, by simp [encVSrc]⟩
  | bcast q => exact ⟨1, 16 + q.val, by omega, by omega, by simp [encVSrc]⟩

theorem vSrc_of {x : BitVec 48} {sel s v : Nat} {a : VSrc} (hs : x.toNat / 2 ^ sel % 2 = s)
    (hv : x.toNat / 2 ^ (sel + 1) % 32 = v) (he : s < 2) (h : encVSrc 0 a = s * 2 ^ 0 + v * 2 ^ 1) :
    vSrc x sel (sel + 1) = a := by
  have h4 : x.toNat / 2 ^ (sel + 1 + 4) % 2 = v / 16 := by
    rw [Nat.pow_add, ← Nat.div_div_eq_div_mul]; omega
  cases a with
  | reg r =>
    simp only [encVSrc] at h
    obtain rfl : s = 0 := by omega
    have : fieldFin x (sel + 1) 32 = r := fieldFin_eq (by omega)
    simp only [vSrc, bitAt_eq, hs, this]
    simp
  | latch q =>
    simp only [encVSrc] at h
    obtain rfl : s = 1 := by omega
    have : fieldFin x (sel + 1) 16 = q := fieldFin_eq (by omega)
    simp only [vSrc, bitAt_eq, hs, this]
    simp [h4]
    omega
  | bcast q =>
    simp only [encVSrc] at h
    obtain rfl : s = 1 := by omega
    have : fieldFin x (sel + 1) 16 = q := fieldFin_eq (by omega)
    simp only [vSrc, bitAt_eq, hs, this]
    simp [h4]
    omega

namespace VWord
variable {x : BitVec 48} {op r n sa va sb vb sc vc k e m s p : Nat}
theorem of {q : Nat} {p : Fin 64} {d : Dst q} {A B C : Nat} {w : VMods} (hk : op < 128) (hq : q ≤ 32)
    (h1 : sa < 2) (h2 : va < 32) (h3 : sb < 2) (h4 : vb < 32) (h5 : sc < 2) (h6 : vc < 32)
    (hA : A = sa * 2 ^ 13 + va * 2 ^ 14) (hB : B = sb * 2 ^ 19 + vb * 2 ^ 20) (hC : C = sc * 2 ^ 25 + vc * 2 ^ 26) :
    VWord (BitVec.ofNat 48 (encVH op p d + A + B + encVMods w + C)) op d.reg.val (bit d.nowb) sa va sb vb sc vc w.mask.val
      w.ety.toNat w.rnd.toNat (bit w.sat) p.val ∧ encVH op p d + A + B + encVMods w + C < 2 ^ 48 := by
  have := bit_le d.nowb
  have := bit_le w.sat
  have := d.reg.isLt
  have he := w.ety.isLt
  have hr := w.rnd.isLt
  have : encVH op p d + A + B + encVMods w + C < 2 ^ 48 := by rw [encVH, encVMods]; omega
  refine ⟨⟨?_, hk, by omega, by omega, h1, h2, h3, h4, h5, h6, w.mask.isLt, he, hr, by omega, p.isLt⟩, this⟩
  rw [BitVec.toNat_ofNat, Nat.mod_eq_of_lt this, encVH, encVMods]
  omega
theorem bop (h : VWord x op r n sa va sb vb sc vc k e m s p) : bits x 0 7 = op := bits_eq (by
  obtain ⟨v, _, _, _, _, _, _, _, _, _, _, _, _, _, _⟩ := h; omega)
theorem pred {q : Fin 64} (h : VWord x op r n sa va sb vb sc vc k e m s q.val) : fieldFin x 41 64 = q := fieldFin_eq (by
  obtain ⟨v, _, _, _, _, _, _, _, _, _, _, _, _, _, _⟩ := h; omega)
theorem reg {q : Nat} [NeZero q] {d : Fin q} (h : VWord x op d.val n sa va sb vb sc vc k e m s p) (hq : q = 32 ∨ q = 8) :
    fieldFin x 7 q = d := fieldFin_eq (by
  obtain ⟨v, _, _, _, _, _, _, _, _, _, _, _, _, _, _⟩ := h
  have := d.isLt
  rcases hq with rfl | rfl <;> omega)
theorem nw {q : Bool} (h : VWord x op r (bit q) sa va sb vb sc vc k e m s p) : bitAt x 12 = q := by
  obtain ⟨v, _, _, _, _, _, _, _, _, _, _, _, _, _, _⟩ := h
  rw [bitAt_eq, show x.toNat / 2 ^ 12 % 2 = bit q by omega, bit_one]
theorem kdok (h : VWord x op r n sa va sb vb sc vc k e m s p) (hr : r < 8) : Good (zeros x 10 2) := good_zeros.2 (by
  obtain ⟨v, _, _, _, _, _, _, _, _, _, _, _, _, _, _⟩ := h; omega)
theorem srcA {a : VSrc} (h : VWord x op r n sa va sb vb sc vc k e m s p)
    (ha : ∀ sel, encVSrc sel a = sa * 2 ^ sel + va * 2 ^ (sel + 1)) : vSrc x 13 14 = a := by
  obtain ⟨v, _, _, _, _, _, _, _, _, _, _, _, _, _, _⟩ := h
  exact vSrc_of (by omega) (by omega) (by assumption) (ha 0)
theorem srcB {a : VSrc} (h : VWord x op r n sa va sb vb sc vc k e m s p)
    (ha : ∀ sel, encVSrc sel a = sb * 2 ^ sel + vb * 2 ^ (sel + 1)) : vSrc x 19 20 = a := by
  obtain ⟨v, _, _, _, _, _, _, _, _, _, _, _, _, _, _⟩ := h
  exact vSrc_of (by omega) (by omega) (by assumption) (ha 0)
theorem srcC {a : VSrc} (h : VWord x op r n sa va sb vb sc vc k e m s p)
    (ha : ∀ sel, encVSrc sel a = sc * 2 ^ sel + vc * 2 ^ (sel + 1)) : vSrc x 25 26 = a := by
  obtain ⟨v, _, _, _, _, _, _, _, _, _, _, _, _, _, _⟩ := h
  exact vSrc_of (by omega) (by omega) (by assumption) (ha 0)
theorem mask {q : Fin 8} (h : VWord x op r n sa va sb vb sc vc q.val e m s p) : fieldFin x 31 8 = q := fieldFin_eq (by
  obtain ⟨v, _, _, _, _, _, _, _, _, _, _, _, _, _, _⟩ := h; omega)
theorem ety {q : BitVec 4} (h : VWord x op r n sa va sb vb sc vc k q.toNat m s p) : fieldBV x 34 4 = q := fieldBV_eq (by
  obtain ⟨v, _, _, _, _, _, _, _, _, _, _, _, _, _, _⟩ := h; omega)
theorem mods {q : VMods} (h : VWord x op r n sa va sb vb sc vc q.mask.val q.ety.toNat q.rnd.toNat (bit q.sat) p) :
    vMods x = q := by
  obtain ⟨v, _, _, _, _, _, _, _, _, _, _, _, _, _, _⟩ := id h
  rw [vMods, h.mask, h.ety, show fieldBV x 38 2 = q.rnd from fieldBV_eq (by omega), bitAt_eq,
    show x.toNat / 2 ^ 40 % 2 = bit q.sat by omega, bit_one]
theorem top (h : VWord x op r n sa va sb vb sc vc k e m s p) : Good (zeros x 47 1) := good_zeros.2 (by
  obtain ⟨v, _, _, _, _, _, _, _, _, _, _, _, _, _, _⟩ := h; omega)
theorem noRnd (h : VWord x op r n sa va sb vb sc vc k e 0 s p) : Good (vNoRnd x) := good_zeros.2 (by
  obtain ⟨v, _, _, _, _, _, _, _, _, _, _, _, _, _, _⟩ := h; omega)
theorem noSat (h : VWord x op r n sa va sb vb sc vc k e m 0 p) : Good (vNoSat x) := good_zeros.2 (by
  obtain ⟨v, _, _, _, _, _, _, _, _, _, _, _, _, _, _⟩ := h; omega)
theorem noB (h : VWord x op r n sa va 0 0 sc vc k e m s p) : Good (vNoB x) := good_zeros.2 (by
  obtain ⟨v, _, _, _, _, _, _, _, _, _, _, _, _, _, _⟩ := h; omega)
theorem noC (h : VWord x op r n sa va sb vb 0 0 k e m s p) : Good (vNoC x) := good_zeros.2 (by
  obtain ⟨v, _, _, _, _, _, _, _, _, _, _, _, _, _, _⟩ := h; omega)
theorem noMask (h : VWord x op r n sa va sb vb sc vc 0 e m s p) : Good (vNoMask x) := good_zeros.2 (by
  obtain ⟨v, _, _, _, _, _, _, _, _, _, _, _, _, _, _⟩ := h; omega)
theorem noMods (h : VWord x op r n sa va sb vb sc vc k (0 : BitVec 4).toNat 0 0 p) : Good (vNoMods x) := by
  rw [vNoMods, good_append, good_append, vEt, good_lim, h.ety]
  exact ⟨⟨rfl, h.noRnd⟩, h.noSat⟩
end VWord

theorem fitsV {u : VUnit} {i : Instr} {w : Nat} (h : decodeV u (BitVec.ofNat 48 w) = .ok (some i)) (hw : w < 2 ^ 48) :
    Fits i u.slot w := by cases u <;> exact ⟨h, hw⟩

/-! ## X, K and O formats -/

/-- The fields of an X word. -/
structure XWord (x : BitVec 40) (op zd da db zs bar shp var p : Nat) : Prop where
  val : x.toNat = op + zd * 2 ^ 6 + da * 2 ^ 9 + db * 2 ^ 13 + zs * 2 ^ 17 + bar * 2 ^ 20 + shp * 2 ^ 26 + var * 2 ^ 32 + p * 2 ^ 34
  op  : op < 64
  zd  : zd < 8
  da  : da < 16
  db  : db < 16
  zs  : zs < 8
  bar : bar < 64
  shp : shp < 64
  var : var < 4
  p   : p < 64

namespace XWord
variable {x : BitVec 40} {op zd da db zs bar shp var p : Nat}
theorem of {p : Fin 64} (hk : op < 64) (h1 : zd < 8) (h2 : da < 16) (h3 : db < 16) (h4 : zs < 8) (h5 : bar < 64)
    (h6 : shp < 64) (h7 : var < 4) :
    XWord (BitVec.ofNat 40 (encX op p zd da db zs bar shp var)) op zd da db zs bar shp var p.val ∧
      encX op p zd da db zs bar shp var < 2 ^ 40 := by
  have : encX op p zd da db zs bar shp var < 2 ^ 40 := by rw [encX]; omega
  exact ⟨⟨by rw [BitVec.toNat_ofNat, Nat.mod_eq_of_lt this, encX], hk, h1, h2, h3, h4, h5, h6, h7, p.isLt⟩, this⟩
theorem bop (h : XWord x op zd da db zs bar shp var p) : bits x 0 6 = op := bits_eq (by
  obtain ⟨e, _, _, _, _, _, _, _, _, _⟩ := h; omega)
theorem pred {q : Fin 64} (h : XWord x op zd da db zs bar shp var q.val) : fieldFin x 34 64 = q := fieldFin_eq (by
  obtain ⟨e, _, _, _, _, _, _, _, _, _⟩ := h; omega)
theorem rzd {q : Fin 8} (h : XWord x op q.val da db zs bar shp var p) : fieldFin x 6 8 = q := fieldFin_eq (by
  obtain ⟨e, _, _, _, _, _, _, _, _, _⟩ := h; omega)
theorem rda {q : Fin 16} (h : XWord x op zd q.val db zs bar shp var p) : fieldFin x 9 16 = q := fieldFin_eq (by
  obtain ⟨e, _, _, _, _, _, _, _, _, _⟩ := h; omega)
theorem rdb {q : Fin 16} (h : XWord x op zd da q.val zs bar shp var p) : fieldFin x 13 16 = q := fieldFin_eq (by
  obtain ⟨e, _, _, _, _, _, _, _, _, _⟩ := h; omega)
theorem rzs {q : Fin 8} (h : XWord x op zd da db q.val bar shp var p) : fieldFin x 17 8 = q := fieldFin_eq (by
  obtain ⟨e, _, _, _, _, _, _, _, _, _⟩ := h; omega)
theorem rbar {q : Fin 64} (h : XWord x op zd da db zs q.val shp var p) : fieldFin x 20 64 = q := fieldFin_eq (by
  obtain ⟨e, _, _, _, _, _, _, _, _, _⟩ := h; omega)
theorem rshp {q : Fin 64} (h : XWord x op zd da db zs bar q.val var p) : fieldFin x 26 64 = q := fieldFin_eq (by
  obtain ⟨e, _, _, _, _, _, _, _, _, _⟩ := h; omega)
theorem rpv {q : Fin 4} (h : XWord x op zd da db zs bar shp q.val p) : fieldFin x 32 4 = q := fieldFin_eq (by
  obtain ⟨e, _, _, _, _, _, _, _, _, _⟩ := h; omega)
theorem b32 {q r : Bool} (h : XWord x op zd da db zs bar shp (bit q + bit r * 2) p) : bitAt x 32 = q := by
  obtain ⟨e, _, _, _, _, _, _, _, _, _⟩ := h
  have := bit_le q
  rw [bitAt_eq, show x.toNat / 2 ^ 32 % 2 = bit q by omega, bit_one]
theorem b33 {q r : Bool} (h : XWord x op zd da db zs bar shp (bit q + bit r * 2) p) : bitAt x 33 = r := by
  obtain ⟨e, _, _, _, _, _, _, _, _, _⟩ := h
  have := bit_le q
  have := bit_le r
  rw [bitAt_eq, show x.toNat / 2 ^ 33 % 2 = bit r by omega, bit_one]
theorem noZd (h : XWord x op 0 da db zs bar shp var p) : Good (zeros x 6 3) := good_zeros.2 (by
  obtain ⟨e, _, _, _, _, _, _, _, _, _⟩ := h; omega)
theorem noDa (h : XWord x op zd 0 db zs bar shp var p) : Good (zeros x 9 4) := good_zeros.2 (by
  obtain ⟨e, _, _, _, _, _, _, _, _, _⟩ := h; omega)
theorem noDb (h : XWord x op zd da 0 zs bar shp var p) : Good (zeros x 13 4) := good_zeros.2 (by
  obtain ⟨e, _, _, _, _, _, _, _, _, _⟩ := h; omega)
theorem noZs (h : XWord x op zd da db 0 bar shp var p) : Good (zeros x 17 3) := good_zeros.2 (by
  obtain ⟨e, _, _, _, _, _, _, _, _, _⟩ := h; omega)
theorem noShp (h : XWord x op zd da db zs bar 0 var p) : Good (zeros x 26 6) := good_zeros.2 (by
  obtain ⟨e, _, _, _, _, _, _, _, _, _⟩ := h; omega)
theorem noVar (h : XWord x op zd da db zs bar shp 0 p) : Good (zeros x 32 2) := good_zeros.2 (by
  obtain ⟨e, _, _, _, _, _, _, _, _, _⟩ := h; omega)
theorem barOk {q : Fin 64} (h : XWord x op zd da db zs q.val shp var p) (hq : Sys2Proof.barOk q = true) :
    Good (lim 20 (Sys2Proof.barOk (fieldFin x 20 64))) := by rw [h.rbar, good_lim, hq]
theorem var1 {q : Bool} (h : XWord x op zd da db zs bar shp (bit q + bit false * 2) p) : Good (lim 32 (!bitAt x 33)) := by
  rw [h.b33, good_lim]; rfl
theorem noD {sh : XShape} (h : XWord x op zd sh.da.val sh.db.val zs bar sh.shp.val var p) (hs : sh.wf2 = true) :
    Good (if fieldFin x 26 64 = 0 then [] else zeros x 9 4 ++ zeros x 13 4) := by
  rw [h.rshp]
  split
  · exact good_nil
  · rename_i hn
    simp [XShape.wf2, hn] at hs
    rw [hs.1, hs.2] at h
    exact good_append.2 ⟨h.noDa, h.noDb⟩
theorem noD1 {sh : XShape} (h : XWord x op zd sh.da.val sh.db.val zs bar sh.shp.val var p) (hs : sh.wf1 = true) :
    Good ((if fieldFin x 26 64 = 0 then [] else zeros x 9 4 ++ zeros x 13 4) ++ zeros x 13 4) := by
  simp only [XShape.wf1, Bool.and_eq_true, decide_eq_true_eq] at hs
  refine good_append.2 ⟨h.noD hs.1, ?_⟩
  rw [hs.2] at h
  exact h.noDb
end XWord

/-- The fields of a K word. -/
structure KWord (x : BitVec 40) (op ds dd sa sc lvl sb p : Nat) : Prop where
  val : x.toNat = op + ds * 2 ^ 6 + dd * 2 ^ 10 + sa * 2 ^ 14 + sc * 2 ^ 20 + lvl * 2 ^ 26 + sb * 2 ^ 28 + p * 2 ^ 34
  op  : op < 64
  ds  : ds < 16
  dd  : dd < 16
  sa  : sa < 64
  sc  : sc < 64
  lvl : lvl < 4
  sb  : sb < 64
  p   : p < 64

namespace KWord
variable {x : BitVec 40} {op ds dd sa sc lvl sb p : Nat}
theorem of {p : Fin 64} {k : KDone} (hk : op < 64) (h1 : ds < 16) (h2 : dd < 16) (h3 : sa < 64) (h4 : sb < 64) :
    KWord (BitVec.ofNat 40 (encK op p ds dd sa sb k)) op ds dd sa k.sc.val k.lvl.toNat sb p.val ∧
      encK op p ds dd sa sb k < 2 ^ 40 := by
  have hl := k.lvl.isLt
  have : encK op p ds dd sa sb k < 2 ^ 40 := by rw [encK]; omega
  exact ⟨⟨by rw [BitVec.toNat_ofNat, Nat.mod_eq_of_lt this, encK], hk, h1, h2, h3, k.sc.isLt, hl, h4, p.isLt⟩, this⟩
theorem bop (h : KWord x op ds dd sa sc lvl sb p) : bits x 0 6 = op := bits_eq (by
  obtain ⟨e, _, _, _, _, _, _, _, _⟩ := h; omega)
theorem pred {q : Fin 64} (h : KWord x op ds dd sa sc lvl sb q.val) : fieldFin x 34 64 = q := fieldFin_eq (by
  obtain ⟨e, _, _, _, _, _, _, _, _⟩ := h; omega)
theorem rds {q : Fin 16} (h : KWord x op q.val dd sa sc lvl sb p) : fieldFin x 6 16 = q := fieldFin_eq (by
  obtain ⟨e, _, _, _, _, _, _, _, _⟩ := h; omega)
theorem rdd {q : Fin 16} (h : KWord x op ds q.val sa sc lvl sb p) : fieldFin x 10 16 = q := fieldFin_eq (by
  obtain ⟨e, _, _, _, _, _, _, _, _⟩ := h; omega)
theorem rsa {q : Fin 64} (h : KWord x op ds dd q.val sc lvl sb p) : fieldFin x 14 64 = q := fieldFin_eq (by
  obtain ⟨e, _, _, _, _, _, _, _, _⟩ := h; omega)
theorem rsb {q : Fin 64} (h : KWord x op ds dd sa sc lvl q.val p) : fieldFin x 28 64 = q := fieldFin_eq (by
  obtain ⟨e, _, _, _, _, _, _, _, _⟩ := h; omega)
theorem rsc {q : Fin 64} (h : KWord x op ds dd sa q.val lvl sb p) : fieldFin x 20 64 = q := fieldFin_eq (by
  obtain ⟨e, _, _, _, _, _, _, _, _⟩ := h; omega)
theorem rlvl {q : BitVec 2} (h : KWord x op ds dd sa sc q.toNat sb p) : fieldBV x 26 2 = q := fieldBV_eq (by
  obtain ⟨e, _, _, _, _, _, _, _, _⟩ := h; omega)
theorem b10 {q : Bool} (h : KWord x op ds (bit q) sa sc lvl sb p) : bitAt x 10 = q ∧ Good (zeros x 11 3) := by
  obtain ⟨e, _, _, _, _, _, _, _, _⟩ := h
  have := bit_le q
  refine ⟨?_, good_zeros.2 (by omega)⟩
  rw [bitAt_eq, show x.toNat / 2 ^ 10 % 2 = bit q by omega, bit_one]
theorem kok {k : KDone} (h : KWord x op ds dd sa k.sc.val k.lvl.toNat sb p) (hk : k.wf = true) :
    Good (lim 20 (KDone.wf ⟨fieldFin x 20 64, fieldBV x 26 2⟩)) := by rw [h.rsc, h.rlvl, good_lim]; exact hk
theorem noDs (h : KWord x op 0 dd sa sc lvl sb p) : Good (zeros x 6 4) := good_zeros.2 (by
  obtain ⟨e, _, _, _, _, _, _, _, _⟩ := h; omega)
theorem noDd (h : KWord x op ds 0 sa sc lvl sb p) : Good (zeros x 10 4) := good_zeros.2 (by
  obtain ⟨e, _, _, _, _, _, _, _, _⟩ := h; omega)
theorem noSa (h : KWord x op ds dd 0 sc lvl sb p) : Good (zeros x 14 6) := good_zeros.2 (by
  obtain ⟨e, _, _, _, _, _, _, _, _⟩ := h; omega)
theorem noSb (h : KWord x op ds dd sa sc lvl 0 p) : Good (zeros x 28 6) := good_zeros.2 (by
  obtain ⟨e, _, _, _, _, _, _, _, _⟩ := h; omega)
theorem noDone (h : KWord x op ds dd sa 0 0 sb p) : Good (zeros x 20 8) := good_zeros.2 (by
  obtain ⟨e, _, _, _, _, _, _, _, _⟩ := h; omega)
end KWord

/-- The fields of an O word. -/
structure OWord (x : BitVec 32) (op z row dw dx p : Nat) : Prop where
  val : x.toNat = op + z * 2 ^ 5 + row * 2 ^ 8 + dw * 2 ^ 15 + dx * 2 ^ 19 + p * 2 ^ 26
  op  : op < 32
  z   : z < 8
  row : row < 128
  dw  : dw < 16
  dx  : dx < 16
  p   : p < 64

namespace OWord
variable {x : BitVec 32} {op z row dw dx p : Nat}
theorem of {p : Fin 64} (hk : op < 32) (h1 : z < 8) (h2 : row < 128) (h3 : dw < 16) (h4 : dx < 16) :
    OWord (BitVec.ofNat 32 (encO op p z row dw dx)) op z row dw dx p.val ∧ encO op p z row dw dx < 2 ^ 32 := by
  have : encO op p z row dw dx < 2 ^ 32 := by rw [encO]; omega
  exact ⟨⟨by rw [BitVec.toNat_ofNat, Nat.mod_eq_of_lt this, encO], hk, h1, h2, h3, h4, p.isLt⟩, this⟩
theorem bop (h : OWord x op z row dw dx p) : bits x 0 5 = op := bits_eq (by obtain ⟨e, _, _, _, _, _, _⟩ := h; omega)
theorem pred {q : Fin 64} (h : OWord x op z row dw dx q.val) : fieldFin x 26 64 = q := fieldFin_eq (by
  obtain ⟨e, _, _, _, _, _, _⟩ := h; omega)
theorem rz {q : Fin 8} (h : OWord x op q.val row dw dx p) : fieldFin x 5 8 = q := fieldFin_eq (by
  obtain ⟨e, _, _, _, _, _, _⟩ := h; omega)
theorem rrow {q : Fin 128} (h : OWord x op z q.val dw dx p) : fieldFin x 8 128 = q := fieldFin_eq (by
  obtain ⟨e, _, _, _, _, _, _⟩ := h; omega)
theorem rdw {q : Fin 16} (h : OWord x op z row q.val dx p) : fieldFin x 15 16 = q := fieldFin_eq (by
  obtain ⟨e, _, _, _, _, _, _⟩ := h; omega)
theorem rdx {q : Fin 16} (h : OWord x op z row dw q.val p) : fieldFin x 19 16 = q := fieldFin_eq (by
  obtain ⟨e, _, _, _, _, _, _⟩ := h; omega)
theorem rda {q a : Fin 8} (h : OWord x op z (q.val + a.val * 8) dw dx p) :
    fieldFin x 8 8 = q ∧ fieldFin x 11 8 = a ∧ Good (zeros x 14 1) := by
  obtain ⟨e, _, _, _, _, _, _⟩ := h
  exact ⟨fieldFin_eq (by omega), fieldFin_eq (by omega), good_zeros.2 (by omega)⟩
theorem res (h : OWord x op z row dw dx p) : Good (zeros x 23 3) := good_zeros.2 (by obtain ⟨e, _, _, _, _, _, _⟩ := h; omega)
theorem noZ (h : OWord x op 0 row dw dx p) : Good (zeros x 5 3) := good_zeros.2 (by obtain ⟨e, _, _, _, _, _, _⟩ := h; omega)
theorem noDw (h : OWord x op z row 0 dx p) : Good (zeros x 15 4) := good_zeros.2 (by obtain ⟨e, _, _, _, _, _, _⟩ := h; omega)
theorem noDx (h : OWord x op z row dw 0 p) : Good (zeros x 19 4) := good_zeros.2 (by obtain ⟨e, _, _, _, _, _, _⟩ := h; omega)
end OWord

namespace SWord
variable {x : BitVec 40} {op r n sa va sb vb p : Nat}
theorem imm12 {v : BitVec 12} (h : SWord x op r n sa va sb v.toNat p) : fieldBV x 22 12 = v :=
  fieldBV_eq (by obtain ⟨e, _, _, _, _, _, _, _, _⟩ := h; omega)
theorem nw {q : Bool} (h : SWord x op r (bit q) sa va sb vb p) : bitAt x 12 = q := by
  obtain ⟨e, _, _, _, _, _, _, _, _⟩ := h
  have := bit_le q
  rw [bitAt_eq, show x.toNat / 2 ^ 12 % 2 = bit q by omega, bit_one]
end SWord

namespace VWord
variable {x : BitVec 48} {op r n sa va sb vb sc vc p : Nat} {q : VMods}
theorem row {k m s : Nat} {q : BitVec 4} (h : VWord x op r n sa va sb vb sc vc k q.toNat m s p) {ok : BitVec 4 → Bool} {rs un}
    (h1 : ok q = true) (h2 : Good rs) (h3 : Good un) : Good (vRow x ok rs un) := by
  rw [vRow, good_append, good_append, good_append, vEt, good_lim, h.ety]
  exact ⟨⟨⟨h1, h2⟩, h3⟩, h.top⟩
theorem both (h : VWord x op r n sa va sb vb sc vc q.mask.val q.ety.toNat q.rnd.toNat (bit q.sat) p) (hq : vBoth q = true) :
    etFI q.ety = true ∧ Good (vBothOk x) := by
  rw [vBoth, Bool.or_eq_true, Bool.and_eq_true, decide_eq_true_eq] at hq
  rw [etFI, Bool.or_eq_true, vBothOk, h.ety]
  rcases hq with ⟨h1, h2⟩ | h1
  · rw [h2] at h
    exact ⟨.inl h1, by rw [if_pos h1]; exact h.noRnd⟩
  · refine ⟨.inr h1, ?_⟩
    rw [if_neg]
    · exact good_nil
    · exact (show ∀ e : BitVec 4, etFloat e = true → ¬etInt e = true by decide) _ h1
theorem plain (h : VWord x op r n sa va sb vb sc vc q.mask.val q.ety.toNat q.rnd.toNat (bit q.sat) p) (hq : vPlain q = true) :
    Good (vNoRnd x ++ vNoSat x) := by
  simp only [vPlain, Bool.and_eq_true, decide_eq_true_eq, Bool.not_eq_true'] at hq
  rw [hq.1, hq.2] at h
  exact good_append.2 ⟨h.noRnd, h.noSat⟩
theorem signs (h : VWord x op r n sa va sb vb sc vc q.mask.val q.ety.toNat q.rnd.toNat (bit q.sat) p)
    (hq : (decide (q.rnd = 0) && (etInt q.ety || (etFloat q.ety && !q.sat))) = true) :
    etFI q.ety = true ∧ Good (vNoRnd x ++ if etInt q.ety then [] else vNoSat x) := by
  simp only [Bool.and_eq_true, Bool.or_eq_true, decide_eq_true_eq, Bool.not_eq_true'] at hq
  have h0 := h
  rw [hq.1] at h0
  rw [etFI, Bool.or_eq_true, good_append]
  rcases hq.2 with h1 | ⟨h1, h2⟩
  · exact ⟨.inl h1, h0.noRnd, by rw [if_pos h1]; exact good_nil⟩
  · refine ⟨.inr h1, h0.noRnd, ?_⟩
    split
    · exact good_nil
    · rw [h2] at h
      exact h.noSat
end VWord

theorem encVMods_zero : encVMods ⟨0, 0, false, 0⟩ = 0 := rfl
theorem encVMods_mask (k : Fin 8) : encVMods ⟨0, 0, false, k⟩ = k.val * 2 ^ 31 := by
  simp [encVMods, bit]
theorem add_bit_false (n : Nat) : n = n + bit false * 2 := by
  rw [show bit false = 0 from rfl, Nat.zero_mul, Nat.add_zero]
theorem fitsS_all {u : SUnit} {i : Instr} {w : Nat} (hw : w < 2 ^ 40)
    (h : ∀ x : BitVec 40, x.toNat = w → decodeS u x = .ok (some i)) : Fits i u.slot w :=
  fitsS (h _ (by rw [BitVec.toNat_ofNat, Nat.mod_eq_of_lt hw])) hw
theorem fitsC_all {i : Instr} {w : Nat} (hw : w < 2 ^ 32)
    (h : ∀ x : BitVec 32, x.toNat = w → decodeC x = .ok (some i)) : Fits i .c w :=
  ⟨h _ (by rw [BitVec.toNat_ofNat, Nat.mod_eq_of_lt hw]), hw⟩
theorem SWord.fits {u : SUnit} {i : Instr} {k n A B sa va sb vb : Nat} {p : Fin 64} {d : Dst n} (hk : k < 64) (hn : n ≤ 64)
    (ha : sa < 2) (hv : va < 64) (hb : sb < 4) (hw : vb < 4096) (hA : A = sa * 2 ^ 13 + va * 2 ^ 14)
    (hB : B = sb * 2 ^ 20 + vb * 2 ^ 22)
    (h : ∀ x, SWord x k d.reg.val (bit d.nowb) sa va sb vb p.val → decodeS u x = .ok (some i)) :
    Fits i u.slot (encSH k p d + A + B) :=
  let X := SWord.of (p := p) (d := d) hk hn ha hv hb hw hA hB
  fitsS (h _ X.1) X.2
theorem CWord.fits {i : Instr} {op a b v : Nat} {p : Fin 64} (hk : op < 64) (ha : a < 64) (hb : b < 64) (hi : v < 256)
    (h : ∀ x, CWord x op p.val a b v → decodeC x = .ok (some i)) : Fits i .c (encC op p a b v) :=
  let X := CWord.of (p := p) hk ha hb hi
  ⟨h _ X.1, X.2⟩
theorem MWord.fits {i : Instr} {op d O f v : Nat} {p b : Fin 64} {nw : Bool} {ty : BitVec 4} (hk : op < 64) (hd : d < 64)
    (hf : f < 2) (hv : v < 65536) (hO : O = f * 2 ^ 19 + v * 2 ^ 20)
    (h : ∀ x, MWord x op d (bit nw) b.val f v ty.toNat p.val → decodeM x = .ok (some i)) :
    Fits i .m (encM op p d nw b O ty) :=
  let X := MWord.of (p := p) (b := b) (nw := nw) (ty := ty) hk hd hf hv hO
  fitsM (h _ X.1) X.2
theorem VWord.fits {u : VUnit} {i : Instr} {op q A B C sa va sb vb sc vc : Nat} {p : Fin 64} {d : Dst q} {w : VMods}
    (hk : op < 128) (hq : q ≤ 32) (h1 : sa < 2) (h2 : va < 32) (h3 : sb < 2) (h4 : vb < 32) (h5 : sc < 2) (h6 : vc < 32)
    (hA : A = sa * 2 ^ 13 + va * 2 ^ 14) (hB : B = sb * 2 ^ 19 + vb * 2 ^ 20) (hC : C = sc * 2 ^ 25 + vc * 2 ^ 26)
    (h : ∀ x, VWord x op d.reg.val (bit d.nowb) sa va sb vb sc vc w.mask.val w.ety.toNat w.rnd.toNat (bit w.sat) p.val →
      decodeV u x = .ok (some i)) : Fits i u.slot (encVH op p d + A + B + encVMods w + C) :=
  let X := VWord.of (p := p) (d := d) (w := w) hk hq h1 h2 h3 h4 h5 h6 hA hB hC
  fitsV (h _ X.1) X.2
theorem XWord.fits {i : Instr} {op zd da db zs bar shp var : Nat} {p : Fin 64} (hk : op < 64) (h1 : zd < 8) (h2 : da < 16)
    (h3 : db < 16) (h4 : zs < 8) (h5 : bar < 64) (h6 : shp < 64) (h7 : var < 4)
    (h : ∀ x, XWord x op zd da db zs bar shp var p.val → decodeX x = .ok (some i)) :
    Fits i .x (encX op p zd da db zs bar shp var) :=
  let X := XWord.of (p := p) hk h1 h2 h3 h4 h5 h6 h7
  ⟨h _ X.1, X.2⟩
theorem KWord.fits {i : Instr} {op ds dd sa sb : Nat} {p : Fin 64} {k : KDone} (hk : op < 64) (h1 : ds < 16) (h2 : dd < 16)
    (h3 : sa < 64) (h4 : sb < 64)
    (h : ∀ x, KWord x op ds dd sa k.sc.val k.lvl.toNat sb p.val → decodeK x = .ok (some i)) :
    Fits i .k (encK op p ds dd sa sb k) :=
  let X := KWord.of (p := p) (k := k) hk h1 h2 h3 h4
  ⟨h _ X.1, X.2⟩
theorem OWord.fits {i : Instr} {op z row dw dx : Nat} {p : Fin 64} (hk : op < 32) (h1 : z < 8) (h2 : row < 128) (h3 : dw < 16)
    (h4 : dx < 16) (h : ∀ x, OWord x op z row dw dx p.val → decodeO x = .ok (some i)) :
    Fits i .o (encO op p z row dw dx) :=
  let X := OWord.of (p := p) hk h1 h2 h3 h4
  ⟨h _ X.1, X.2⟩

namespace VWord
variable {x : BitVec 48} {op r n sa va sb vb sc vc k e m s p : Nat}
theorem ka {q : Fin 8} (h : VWord x op r n sa q.val sb vb sc vc k e m s p) : fieldFin x 14 8 = q := fieldFin_eq (by
  obtain ⟨v, _, _, _, _, _, _, _, _, _, _, _, _, _, _⟩ := h; omega)
theorem kb {q : Fin 8} (h : VWord x op r n sa va sb q.val sc vc k e m s p) : fieldFin x 20 8 = q := fieldFin_eq (by
  obtain ⟨v, _, _, _, _, _, _, _, _, _, _, _, _, _, _⟩ := h; omega)
theorem karg {q : Fin 8} (h : VWord x op r n 0 q.val sb vb sc vc k e m s p) : Good ((13, !bitAt x 13) :: zeros x 17 2) := by
  obtain ⟨v, _, _, _, _, _, _, _, _, _, _, _, _, _, _⟩ := h
  rw [good_cons, bitAt_eq, good_zeros, show x.toNat / 2 ^ 13 % 2 = 0 by omega]
  exact ⟨rfl, by omega⟩
theorem kbrg {q : Fin 8} (h : VWord x op r n sa va 0 q.val sc vc k e m s p) : Good ((19, !bitAt x 19) :: zeros x 23 2) := by
  obtain ⟨v, _, _, _, _, _, _, _, _, _, _, _, _, _, _⟩ := h
  rw [good_cons, bitAt_eq, good_zeros, show x.toNat / 2 ^ 19 % 2 = 0 by omega]
  exact ⟨rfl, by omega⟩
theorem kop {q : BitVec 5} (h : VWord x op r n sa va sb vb 0 q.toNat k e m s p) :
    Good (lim 25 (!bitAt x 25)) ∧ fieldBV x 26 5 = q := by
  obtain ⟨v, _, _, _, _, _, _, _, _, _, _, _, _, _, _⟩ := h
  rw [good_lim, bitAt_eq, show x.toNat / 2 ^ 25 % 2 = 0 by omega]
  exact ⟨rfl, fieldBV_eq (by omega)⟩
theorem head {q : Fin 16} (h : VWord x op r n sa va 1 (16 + q.val) sc vc k e m s p) :
    Good (lim 19 (bitAt x 19)) ∧ Good (lim 20 (bitAt x 24)) ∧ fieldFin x 20 16 = q := by
  obtain ⟨v, _, _, _, _, _, _, _, _, _, _, _, _, _, _⟩ := h
  rw [good_lim, good_lim, bitAt_eq, bitAt_eq, show x.toNat / 2 ^ 19 % 2 = 1 by omega,
    show x.toNat / 2 ^ 24 % 2 = 1 by omega]
  exact ⟨rfl, rfl, fieldFin_eq (by omega)⟩
theorem sigety {q : BitVec 4} (h : VWord x op r n sa va sb vb sc vc k q.toNat m s p) : (vMods x).ety = q := h.ety
end VWord

end Sys2Proof
end

