-- ==== Sys2Proof/Laws/PerInstr.lean ====
section
/-!
SUPPORT. For each constructor of `Instr`: the word of its encoding fits its slot and decodes to it (R112 to R136).
-/
open Sys2Proof

/-- Where the instruction is well formed and has an encoding, the word fits its slot and decodes to it. -/
def Sys2Proof.Laws.RoundTrip.Statement (i : Instr) : Prop :=
  Instr.wf i = true → ∀ sl w, encode i = some (sl, w) → Fits i sl w

theorem Sys2Proof.Laws.RoundTrip.of_fits {i : Instr} {sl : Slot} {w : Nat} (e : encode i = some (sl, w))
    (h : Instr.wf i = true → Fits i sl w) : Statement i := by
  intro hw sl' w' e'
  rw [e] at e'
  obtain ⟨rfl, rfl⟩ := Prod.mk.inj (Option.some.inj e')
  exact h hw

/-- An event has no encoding. -/
theorem Sys2Proof.Laws.RoundTrip.event {i : Instr} (e : encode i = none) : Statement i := by
  intro _ sl w h
  rw [e] at h
  cases h

theorem Sys2Proof.Laws.RoundTrip.add (u : SUnit) (p : Fin 64) (d : Dst 64) (a : SSrc) (b : SBSrc) :
    Statement (.add u p d a b) := of_fits (w := encSH 0x01 p d + encSA a + encSB b) rfl fun _ =>
  fits_s2 0x01 .add (by decide) (by intro u x h0 h; unfold decodeS; rw [if_neg h0, h]; rfl) u p d a b
theorem Sys2Proof.Laws.RoundTrip.sub (u : SUnit) (p : Fin 64) (d : Dst 64) (a : SSrc) (b : SBSrc) :
    Statement (.sub u p d a b) := of_fits (w := encSH 0x02 p d + encSA a + encSB b) rfl fun _ =>
  fits_s2 0x02 .sub (by decide) (by intro u x h0 h; unfold decodeS; rw [if_neg h0, h]; rfl) u p d a b
theorem Sys2Proof.Laws.RoundTrip.mul (u : SUnit) (p : Fin 64) (d : Dst 64) (a : SSrc) (b : SBSrc) :
    Statement (.mul u p d a b) := of_fits (w := encSH 0x03 p d + encSA a + encSB b) rfl fun _ =>
  fits_s2 0x03 .mul (by decide) (by intro u x h0 h; unfold decodeS; rw [if_neg h0, h]; rfl) u p d a b
theorem Sys2Proof.Laws.RoundTrip.mulh (u : SUnit) (p : Fin 64) (d : Dst 64) (a : SSrc) (b : SBSrc) :
    Statement (.mulh u p d a b) := of_fits (w := encSH 0x04 p d + encSA a + encSB b) rfl fun _ =>
  fits_s2 0x04 .mulh (by decide) (by intro u x h0 h; unfold decodeS; rw [if_neg h0, h]; rfl) u p d a b
theorem Sys2Proof.Laws.RoundTrip.mulhn (u : SUnit) (p : Fin 64) (d : Dst 64) (a : SSrc) (b : SBSrc) :
    Statement (.mulhn u p d a b) := of_fits (w := encSH 0x05 p d + encSA a + encSB b) rfl fun _ =>
  fits_s2 0x05 .mulhn (by decide) (by intro u x h0 h; unfold decodeS; rw [if_neg h0, h]; rfl) u p d a b
theorem Sys2Proof.Laws.RoundTrip.divs (u : SUnit) (p : Fin 64) (d : Dst 64) (a : SSrc) (b : SBSrc) :
    Statement (.divs u p d a b) := of_fits (w := encSH 0x06 p d + encSA a + encSB b) rfl fun _ =>
  fits_s2 0x06 .divs (by decide) (by intro u x h0 h; unfold decodeS; rw [if_neg h0, h]; rfl) u p d a b
theorem Sys2Proof.Laws.RoundTrip.divn (u : SUnit) (p : Fin 64) (d : Dst 64) (a : SSrc) (b : SBSrc) :
    Statement (.divn u p d a b) := of_fits (w := encSH 0x07 p d + encSA a + encSB b) rfl fun _ =>
  fits_s2 0x07 .divn (by decide) (by intro u x h0 h; unfold decodeS; rw [if_neg h0, h]; rfl) u p d a b
theorem Sys2Proof.Laws.RoundTrip.rems (u : SUnit) (p : Fin 64) (d : Dst 64) (a : SSrc) (b : SBSrc) :
    Statement (.rems u p d a b) := of_fits (w := encSH 0x08 p d + encSA a + encSB b) rfl fun _ =>
  fits_s2 0x08 .rems (by decide) (by intro u x h0 h; unfold decodeS; rw [if_neg h0, h]; rfl) u p d a b
theorem Sys2Proof.Laws.RoundTrip.remn (u : SUnit) (p : Fin 64) (d : Dst 64) (a : SSrc) (b : SBSrc) :
    Statement (.remn u p d a b) := of_fits (w := encSH 0x09 p d + encSA a + encSB b) rfl fun _ =>
  fits_s2 0x09 .remn (by decide) (by intro u x h0 h; unfold decodeS; rw [if_neg h0, h]; rfl) u p d a b
theorem Sys2Proof.Laws.RoundTrip.and (u : SUnit) (p : Fin 64) (d : Dst 64) (a : SSrc) (b : SBSrc) :
    Statement (.and u p d a b) := of_fits (w := encSH 0x0A p d + encSA a + encSB b) rfl fun _ =>
  fits_s2 0x0A .and (by decide) (by intro u x h0 h; unfold decodeS; rw [if_neg h0, h]; rfl) u p d a b
theorem Sys2Proof.Laws.RoundTrip.or (u : SUnit) (p : Fin 64) (d : Dst 64) (a : SSrc) (b : SBSrc) :
    Statement (.or u p d a b) := of_fits (w := encSH 0x0B p d + encSA a + encSB b) rfl fun _ =>
  fits_s2 0x0B .or (by decide) (by intro u x h0 h; unfold decodeS; rw [if_neg h0, h]; rfl) u p d a b
theorem Sys2Proof.Laws.RoundTrip.xor (u : SUnit) (p : Fin 64) (d : Dst 64) (a : SSrc) (b : SBSrc) :
    Statement (.xor u p d a b) := of_fits (w := encSH 0x0C p d + encSA a + encSB b) rfl fun _ =>
  fits_s2 0x0C .xor (by decide) (by intro u x h0 h; unfold decodeS; rw [if_neg h0, h]; rfl) u p d a b
theorem Sys2Proof.Laws.RoundTrip.andn (u : SUnit) (p : Fin 64) (d : Dst 64) (a : SSrc) (b : SBSrc) :
    Statement (.andn u p d a b) := of_fits (w := encSH 0x0D p d + encSA a + encSB b) rfl fun _ =>
  fits_s2 0x0D .andn (by decide) (by intro u x h0 h; unfold decodeS; rw [if_neg h0, h]; rfl) u p d a b
theorem Sys2Proof.Laws.RoundTrip.shl (u : SUnit) (p : Fin 64) (d : Dst 64) (a : SSrc) (b : SBSrc) :
    Statement (.shl u p d a b) := of_fits (w := encSH 0x0E p d + encSA a + encSB b) rfl fun _ =>
  fits_s2 0x0E .shl (by decide) (by intro u x h0 h; unfold decodeS; rw [if_neg h0, h]; rfl) u p d a b
theorem Sys2Proof.Laws.RoundTrip.shr (u : SUnit) (p : Fin 64) (d : Dst 64) (a : SSrc) (b : SBSrc) :
    Statement (.shr u p d a b) := of_fits (w := encSH 0x0F p d + encSA a + encSB b) rfl fun _ =>
  fits_s2 0x0F .shr (by decide) (by intro u x h0 h; unfold decodeS; rw [if_neg h0, h]; rfl) u p d a b
theorem Sys2Proof.Laws.RoundTrip.sra (u : SUnit) (p : Fin 64) (d : Dst 64) (a : SSrc) (b : SBSrc) :
    Statement (.sra u p d a b) := of_fits (w := encSH 0x10 p d + encSA a + encSB b) rfl fun _ =>
  fits_s2 0x10 .sra (by decide) (by intro u x h0 h; unfold decodeS; rw [if_neg h0, h]; rfl) u p d a b
theorem Sys2Proof.Laws.RoundTrip.min (u : SUnit) (p : Fin 64) (d : Dst 64) (a : SSrc) (b : SBSrc) :
    Statement (.min u p d a b) := of_fits (w := encSH 0x11 p d + encSA a + encSB b) rfl fun _ =>
  fits_s2 0x11 .min (by decide) (by intro u x h0 h; unfold decodeS; rw [if_neg h0, h]; rfl) u p d a b
theorem Sys2Proof.Laws.RoundTrip.max (u : SUnit) (p : Fin 64) (d : Dst 64) (a : SSrc) (b : SBSrc) :
    Statement (.max u p d a b) := of_fits (w := encSH 0x12 p d + encSA a + encSB b) rfl fun _ =>
  fits_s2 0x12 .max (by decide) (by intro u x h0 h; unfold decodeS; rw [if_neg h0, h]; rfl) u p d a b
theorem Sys2Proof.Laws.RoundTrip.minn (u : SUnit) (p : Fin 64) (d : Dst 64) (a : SSrc) (b : SBSrc) :
    Statement (.minn u p d a b) := of_fits (w := encSH 0x13 p d + encSA a + encSB b) rfl fun _ =>
  fits_s2 0x13 .minn (by decide) (by intro u x h0 h; unfold decodeS; rw [if_neg h0, h]; rfl) u p d a b
theorem Sys2Proof.Laws.RoundTrip.maxn (u : SUnit) (p : Fin 64) (d : Dst 64) (a : SSrc) (b : SBSrc) :
    Statement (.maxn u p d a b) := of_fits (w := encSH 0x14 p d + encSA a + encSB b) rfl fun _ =>
  fits_s2 0x14 .maxn (by decide) (by intro u x h0 h; unfold decodeS; rw [if_neg h0, h]; rfl) u p d a b
theorem Sys2Proof.Laws.RoundTrip.movi (u : SUnit) (p : Fin 64) (d : Dst 64) (imm : BitVec 20) :
    Statement (.movi u p d imm) := of_fits (w := encSH 0x15 p d + imm.toNat * 2 ^ 14) rfl fun hw => by
  have hb := bit_le d.nowb
  have hr := d.reg.isLt
  have hp := p.isLt
  have hv := imm.isLt
  have hN : encSH 0x15 p d + imm.toNat * 2 ^ 14 < 2 ^ 40 := by rw [encSH]; omega
  refine fitsS_all hN fun x v => ?_
  rw [encSH] at v
  have X : SWord x 0x15 d.reg.val (bit d.nowb) 0 (imm.toNat % 64) (imm.toNat / 64 % 4) (imm.toNat / 256) p.val :=
    ⟨by omega, by decide, hr, by omega, by decide, by omega, by omega, by omega, hp⟩
  refine decoded (by unfold decodeS; rw [if_neg (ne_zero X.bop (by decide)), X.bop]; rfl) ?_ ?_
  · rw [good_lim, bitAt_eq, show x.toNat / 2 ^ 13 % 2 = 0 by omega]; rfl
  · rw [X.pred, X.dst, show fieldBV x 14 20 = imm from fieldBV_eq (by omega)]
theorem Sys2Proof.Laws.RoundTrip.movk (u : SUnit) (p : Fin 64) (d : Dst 64) (v : Half) (h : BitVec 2) :
    Statement (.movk u p d v h) := of_fits (w := encSH 0x16 p d + v.toNat * 2 ^ 14 + h.toNat * 2 ^ 30) rfl fun hw => by
  have hb := bit_le d.nowb
  have hr := d.reg.isLt
  have hp := p.isLt
  have hv := v.isLt
  have hh := h.isLt
  have hN : encSH 0x16 p d + v.toNat * 2 ^ 14 + h.toNat * 2 ^ 30 < 2 ^ 40 := by rw [encSH]; omega
  refine fitsS_all hN fun x e => ?_
  rw [encSH] at e
  have X : SWord x 0x16 d.reg.val (bit d.nowb) 0 (v.toNat % 64) (v.toNat / 64 % 4) (v.toNat / 256 + h.toNat * 256) p.val :=
    ⟨by omega, by decide, hr, by omega, by decide, by omega, by omega, by omega, hp⟩
  refine decoded (by unfold decodeS; rw [if_neg (ne_zero X.bop (by decide)), X.bop]; rfl) ?_ ?_
  · rw [good_cons, good_zeros, bitAt_eq, show x.toNat / 2 ^ 13 % 2 = 0 by omega]
    exact ⟨rfl, by omega⟩
  · rw [X.pred, X.dst, show fieldBV x 14 16 = v from fieldBV_eq (by omega), show fieldBV x 30 2 = h from fieldBV_eq (by omega)]
theorem Sys2Proof.Laws.RoundTrip.lea (u : SUnit) (p : Fin 64) (d : Dst 64) (a : SSrc) (b : SBSrc) :
    Statement (.lea u p d a b) := of_fits (w := encSH 0x17 p d + encSA a + encSB b) rfl fun _ =>
  fits_s2 0x17 .lea (by decide) (by intro u x h0 h; unfold decodeS; rw [if_neg h0, h]; rfl) u p d a b
theorem Sys2Proof.Laws.RoundTrip.sext (u : SUnit) (p : Fin 64) (d : Dst 64) (a : SSrc) (w : BitVec 12) :
    Statement (.sext u p d a w) := of_fits (w := encSH 0x18 p d + encSA a + encSI w.toNat) rfl fun hw => by
  obtain ⟨sa, va, h1, h2, hA⟩ := encSA_form a
  refine SWord.fits (p := p) (d := d) (k := 0x18) (vb := w.toNat)  (by decide) (by decide) h1 h2 (by decide) w.isLt hA (encSI_form _) fun x X =>
    decoded (by unfold decodeS; rw [if_neg (ne_zero X.bop (by decide)), X.bop]; rfl) ?_ ?_
  · exact good_append.2 ⟨good_append.2 ⟨(X.srcA hA).2, X.imm⟩, by rw [X.imm12, good_lim]; exact hw⟩
  · rw [X.pred, X.dst, (X.srcA hA).1, X.imm12]
theorem Sys2Proof.Laws.RoundTrip.zext (u : SUnit) (p : Fin 64) (d : Dst 64) (a : SSrc) (w : BitVec 12) :
    Statement (.zext u p d a w) := of_fits (w := encSH 0x19 p d + encSA a + encSI w.toNat) rfl fun hw => by
  obtain ⟨sa, va, h1, h2, hA⟩ := encSA_form a
  refine SWord.fits (p := p) (d := d) (k := 0x19) (vb := w.toNat)  (by decide) (by decide) h1 h2 (by decide) w.isLt hA (encSI_form _) fun x X =>
    decoded (by unfold decodeS; rw [if_neg (ne_zero X.bop (by decide)), X.bop]; rfl) ?_ ?_
  · exact good_append.2 ⟨good_append.2 ⟨(X.srcA hA).2, X.imm⟩, by rw [X.imm12, good_lim]; exact hw⟩
  · rw [X.pred, X.dst, (X.srcA hA).1, X.imm12]
theorem Sys2Proof.Laws.RoundTrip.popc (u : SUnit) (p : Fin 64) (d : Dst 64) (a : SSrc) :
    Statement (.popc u p d a) := of_fits (w := encSH 0x1A p d + encSA a) rfl fun _ =>
  fits_s1 0x1A .popc (by decide) (by intro u x h0 h; unfold decodeS; rw [if_neg h0, h]; rfl) u p d a
theorem Sys2Proof.Laws.RoundTrip.clz (u : SUnit) (p : Fin 64) (d : Dst 64) (a : SSrc) :
    Statement (.clz u p d a) := of_fits (w := encSH 0x1B p d + encSA a) rfl fun _ =>
  fits_s1 0x1B .clz (by decide) (by intro u x h0 h; unfold decodeS; rw [if_neg h0, h]; rfl) u p d a
theorem Sys2Proof.Laws.RoundTrip.ctz (u : SUnit) (p : Fin 64) (d : Dst 64) (a : SSrc) :
    Statement (.ctz u p d a) := of_fits (w := encSH 0x1C p d + encSA a) rfl fun _ =>
  fits_s1 0x1C .ctz (by decide) (by intro u x h0 h; unfold decodeS; rw [if_neg h0, h]; rfl) u p d a
theorem Sys2Proof.Laws.RoundTrip.bext (u : SUnit) (p : Fin 64) (d : Dst 64) (a : SSrc) (b : SBSrc) :
    Statement (.bext u p d a b) := of_fits (w := encSH 0x1D p d + encSA a + encSB b) rfl fun _ =>
  fits_s2 0x1D .bext (by decide) (by intro u x h0 h; unfold decodeS; rw [if_neg h0, h]; rfl) u p d a b
theorem Sys2Proof.Laws.RoundTrip.bins (u : SUnit) (p : Fin 64) (d : Dst 64) (a : SSrc) (b : SBSrc) :
    Statement (.bins u p d a b) := of_fits (w := encSH 0x1E p d + encSA a + encSB b) rfl fun _ =>
  fits_s2 0x1E .bins (by decide) (by intro u x h0 h; unfold decodeS; rw [if_neg h0, h]; rfl) u p d a b
theorem Sys2Proof.Laws.RoundTrip.cmpeq (u : SUnit) (p : Fin 64) (d : Dst 64) (a : SSrc) (b : SBSrc) :
    Statement (.cmpeq u p d a b) := of_fits (w := encSH 0x1F p d + encSA a + encSB b) rfl fun _ =>
  fits_s2 0x1F .cmpeq (by decide) (by intro u x h0 h; unfold decodeS; rw [if_neg h0, h]; rfl) u p d a b
theorem Sys2Proof.Laws.RoundTrip.cmpne (u : SUnit) (p : Fin 64) (d : Dst 64) (a : SSrc) (b : SBSrc) :
    Statement (.cmpne u p d a b) := of_fits (w := encSH 0x20 p d + encSA a + encSB b) rfl fun _ =>
  fits_s2 0x20 .cmpne (by decide) (by intro u x h0 h; unfold decodeS; rw [if_neg h0, h]; rfl) u p d a b
theorem Sys2Proof.Laws.RoundTrip.cmplt (u : SUnit) (p : Fin 64) (d : Dst 64) (a : SSrc) (b : SBSrc) :
    Statement (.cmplt u p d a b) := of_fits (w := encSH 0x21 p d + encSA a + encSB b) rfl fun _ =>
  fits_s2 0x21 .cmplt (by decide) (by intro u x h0 h; unfold decodeS; rw [if_neg h0, h]; rfl) u p d a b
theorem Sys2Proof.Laws.RoundTrip.cmple (u : SUnit) (p : Fin 64) (d : Dst 64) (a : SSrc) (b : SBSrc) :
    Statement (.cmple u p d a b) := of_fits (w := encSH 0x22 p d + encSA a + encSB b) rfl fun _ =>
  fits_s2 0x22 .cmple (by decide) (by intro u x h0 h; unfold decodeS; rw [if_neg h0, h]; rfl) u p d a b
theorem Sys2Proof.Laws.RoundTrip.cmpltn (u : SUnit) (p : Fin 64) (d : Dst 64) (a : SSrc) (b : SBSrc) :
    Statement (.cmpltn u p d a b) := of_fits (w := encSH 0x23 p d + encSA a + encSB b) rfl fun _ =>
  fits_s2 0x23 .cmpltn (by decide) (by intro u x h0 h; unfold decodeS; rw [if_neg h0, h]; rfl) u p d a b
theorem Sys2Proof.Laws.RoundTrip.cmplen (u : SUnit) (p : Fin 64) (d : Dst 64) (a : SSrc) (b : SBSrc) :
    Statement (.cmplen u p d a b) := of_fits (w := encSH 0x24 p d + encSA a + encSB b) rfl fun _ =>
  fits_s2 0x24 .cmplen (by decide) (by intro u x h0 h; unfold decodeS; rw [if_neg h0, h]; rfl) u p d a b
theorem Sys2Proof.Laws.RoundTrip.sel (u : SUnit) (p : Fin 64) (d : Dst 64) (a : SSrc) (b : SBSrc) :
    Statement (.sel u p d a b) := of_fits (w := encSH 0x25 p d + encSA a + encSB b) rfl fun _ =>
  fits_s2 0x25 .sel (by decide) (by intro u x h0 h; unfold decodeS; rw [if_neg h0, h]; rfl) u p d a b
theorem Sys2Proof.Laws.RoundTrip.pand (u : SUnit) (p : Fin 64) (d : Dst 64) (a : SSrc) (b : SSrc) :
    Statement (.pand u p d a b) := of_fits (w := encSH 0x26 p d + encSA a + encSBr b) rfl fun _ =>
  fits_s2r 0x26 .pand (by decide) (by intro u x h0 h; unfold decodeS; rw [if_neg h0, h]; rfl) u p d a b
theorem Sys2Proof.Laws.RoundTrip.por (u : SUnit) (p : Fin 64) (d : Dst 64) (a : SSrc) (b : SSrc) :
    Statement (.por u p d a b) := of_fits (w := encSH 0x27 p d + encSA a + encSBr b) rfl fun _ =>
  fits_s2r 0x27 .por (by decide) (by intro u x h0 h; unfold decodeS; rw [if_neg h0, h]; rfl) u p d a b
theorem Sys2Proof.Laws.RoundTrip.pxor (u : SUnit) (p : Fin 64) (d : Dst 64) (a : SSrc) (b : SSrc) :
    Statement (.pxor u p d a b) := of_fits (w := encSH 0x28 p d + encSA a + encSBr b) rfl fun _ =>
  fits_s2r 0x28 .pxor (by decide) (by intro u x h0 h; unfold decodeS; rw [if_neg h0, h]; rfl) u p d a b
theorem Sys2Proof.Laws.RoundTrip.pandn (u : SUnit) (p : Fin 64) (d : Dst 64) (a : SSrc) (b : SSrc) :
    Statement (.pandn u p d a b) := of_fits (w := encSH 0x29 p d + encSA a + encSBr b) rfl fun _ =>
  fits_s2r 0x29 .pandn (by decide) (by intro u x h0 h; unfold decodeS; rw [if_neg h0, h]; rfl) u p d a b
theorem Sys2Proof.Laws.RoundTrip.pmov (u : SUnit) (p : Fin 64) (d : Dst 64) (a : SSrc) :
    Statement (.pmov u p d a) := of_fits (w := encSH 0x2A p d + encSA a) rfl fun _ =>
  fits_s1 0x2A .pmov (by decide) (by intro u x h0 h; unfold decodeS; rw [if_neg h0, h]; rfl) u p d a
theorem Sys2Proof.Laws.RoundTrip.ptos (u : SUnit) (p : Fin 64) (d : Dst 64) (a : SSrc) :
    Statement (.ptos u p d a) := of_fits (w := encSH 0x2B p d + encSA a) rfl fun _ =>
  fits_s1 0x2B .ptos (by decide) (by intro u x h0 h; unfold decodeS; rw [if_neg h0, h]; rfl) u p d a
theorem Sys2Proof.Laws.RoundTrip.dset (u : SUnit) (p : Fin 64) (d : Dst 16) (a : SSrc) (f : Fin 8) :
    Statement (.dset u p d a f) := of_fits (w := encSH 0x2C p d + encSA a + encSI f.val) rfl fun hw => by
  obtain ⟨sa, va, h1, h2, hA⟩ := encSA_form a
  refine SWord.fits (p := p) (d := d) (k := 0x2C) (vb := f.val)  (by decide) (by decide) h1 h2 (by decide) (by omega) hA (encSI_form _) fun x X =>
    decoded (by unfold decodeS; rw [if_neg (ne_zero X.bop (by decide)), X.bop]; rfl) ?_ ?_
  · refine good_append.2 ⟨good_append.2 ⟨good_append.2 ⟨good_zeros.2 (by obtain ⟨e, _, _, _, _, _, _, _, _⟩ := id X; omega), (X.srcA hA).2⟩, X.imm⟩, ?_⟩
    rw [show fieldBV x 22 12 = BitVec.ofNat 12 f.val from fieldBV_eq (by obtain ⟨e, _, _, _, _, _, _, _, _⟩ := id X; rw [BitVec.toNat_ofNat]; omega), good_lim, BitVec.toNat_ofNat]; simp only [decide_eq_true_eq]; omega
  · rw [X.pred, (X.srcA hA).1, X.nw, show fieldFin _ 6 16 = d.reg from fieldFin_eq (by obtain ⟨e, _, _, _, _, _, _, _, _⟩ := id X; omega), show fieldFin _ 22 8 = f from fieldFin_eq (by obtain ⟨e, _, _, _, _, _, _, _, _⟩ := id X; omega)]
theorem Sys2Proof.Laws.RoundTrip.dget (u : SUnit) (p : Fin 64) (d : Dst 64) (a : Fin 16) (f : Fin 8) :
    Statement (.dget u p d a f) := of_fits (w := encSH 0x2D p d + a.val * 2 ^ 14 + encSI f.val) rfl fun hw => by
  refine SWord.fits (p := p) (d := d) (k := 0x2D) (vb := f.val) (sa := 0) (va := a.val) (A := a.val * 2 ^ 14) (by decide) (by decide) (by decide) (by omega) (by decide) (by omega) (by omega) (encSI_form _) fun x X =>
    decoded (by unfold decodeS; rw [if_neg (ne_zero X.bop (by decide)), X.bop]; rfl) ?_ ?_
  · refine good_append.2 ⟨good_append.2 ⟨?_, X.imm⟩, ?_⟩
    · rw [good_cons, bitAt_eq, good_zeros, show x.toNat / 2 ^ 13 % 2 = 0
        by obtain ⟨e, _, _, _, _, _, _, _, _⟩ := id X; omega]
      exact ⟨rfl, by obtain ⟨e, _, _, _, _, _, _, _, _⟩ := id X; omega⟩
    · rw [show fieldBV x 22 12 = BitVec.ofNat 12 f.val from fieldBV_eq (by obtain ⟨e, _, _, _, _, _, _, _, _⟩ := id X; rw [BitVec.toNat_ofNat]; omega), good_lim, BitVec.toNat_ofNat]; simp only [decide_eq_true_eq]; omega
  · rw [X.pred, X.dst, show fieldFin _ 14 16 = a from fieldFin_eq (by obtain ⟨e, _, _, _, _, _, _, _, _⟩ := id X; omega), show fieldFin _ 22 8 = f from fieldFin_eq (by obtain ⟨e, _, _, _, _, _, _, _, _⟩ := id X; omega)]
theorem Sys2Proof.Laws.RoundTrip.crrd (u : SUnit) (p : Fin 64) (d : Dst 64) (num : BitVec 12) :
    Statement (.crrd u p d num) := of_fits (w := encSH 0x2E p d + encSI num.toNat) rfl fun hw => by
  rw [← Nat.add_zero (encSH 0x2E p d)]
  refine SWord.fits (p := p) (d := d) (k := 0x2E) (vb := num.toNat) (sa := 0) (va := 0) (A := 0) (by decide) (by decide) (by decide) (by decide) (by decide) num.isLt rfl (encSI_form _) fun x X =>
    decoded (by unfold decodeS; rw [if_neg (ne_zero X.bop (by decide)), X.bop]; rfl) ?_ ?_
  · exact good_append.2 ⟨good_append.2 ⟨X.noA, X.imm⟩, by rw [X.imm12, good_lim]; exact hw⟩
  · rw [X.pred, X.dst, X.imm12]
theorem Sys2Proof.Laws.RoundTrip.crwr (u : SUnit) (p : Fin 64) (a : SSrc) (num : BitVec 12) :
    Statement (.crwr u p a num) := of_fits (w := 0x2F + p.val * 2 ^ 34 + encSA a + encSI num.toNat) rfl fun hw => by
  obtain ⟨sa, va, h1, h2, hA⟩ := encSA_form a
  rw [show 0x2F + p.val * 2 ^ 34 = encSH 0x2F p (⟨0, false⟩ : Dst 64) by simp [encSH, bit]]
  refine SWord.fits (p := p) (d := (⟨0, false⟩ : Dst 64)) (k := 0x2F) (vb := num.toNat)  (by decide) (by decide) h1 h2 (by decide) num.isLt hA (encSI_form _) fun x X =>
    decoded (by unfold decodeS; rw [if_neg (ne_zero X.bop (by decide)), X.bop]; rfl) ?_ ?_
  · exact good_append.2 ⟨good_append.2 ⟨good_append.2 ⟨good_zeros.2 (by obtain ⟨e, _, _, _, _, _, _, _, _⟩ := id X; have : bit (Dst.nowb (⟨0, false⟩ : Dst 64)) = 0 := rfl; have : (Dst.reg (⟨0, false⟩ : Dst 64)).val = 0 := rfl; omega), (X.srcA hA).2⟩, X.imm⟩, by rw [X.imm12, good_lim]; exact hw⟩
  · rw [X.pred, (X.srcA hA).1, X.imm12]
theorem Sys2Proof.Laws.RoundTrip.sfld (u : SUnit) (p : Fin 64) (d : Dst 64) (a : SSrc) (i : BitVec 12) :
    Statement (.sfld u p d a i) := of_fits (w := encSH 0x30 p d + encSA a + encSI i.toNat) rfl fun hw => by
  obtain ⟨sa, va, h1, h2, hA⟩ := encSA_form a
  refine SWord.fits (p := p) (d := d) (k := 0x30) (vb := i.toNat)  (by decide) (by decide) h1 h2 (by decide) i.isLt hA (encSI_form _) fun x X =>
    decoded (by unfold decodeS; rw [if_neg (ne_zero X.bop (by decide)), X.bop]; rfl) ?_ ?_
  · exact good_append.2 ⟨good_append.2 ⟨(X.srcA hA).2, X.imm⟩, by rw [X.imm12, good_lim]; exact hw⟩
  · rw [X.pred, X.dst, (X.srcA hA).1, X.imm12]
theorem Sys2Proof.Laws.RoundTrip.fadds (u : SUnit) (p : Fin 64) (d : Dst 64) (a : SSrc) (b : SSrc) :
    Statement (.fadds u p d a b) := of_fits (w := encSH 0x31 p d + encSA a + encSBr b) rfl fun _ =>
  fits_s2r 0x31 .fadds (by decide) (by intro u x h0 h; unfold decodeS; rw [if_neg h0, h]; rfl) u p d a b
theorem Sys2Proof.Laws.RoundTrip.fmuls (u : SUnit) (p : Fin 64) (d : Dst 64) (a : SSrc) (b : SSrc) :
    Statement (.fmuls u p d a b) := of_fits (w := encSH 0x32 p d + encSA a + encSBr b) rfl fun _ =>
  fits_s2r 0x32 .fmuls (by decide) (by intro u x h0 h; unfold decodeS; rw [if_neg h0, h]; rfl) u p d a b
theorem Sys2Proof.Laws.RoundTrip.fcmplt (u : SUnit) (p : Fin 64) (d : Dst 64) (a : SSrc) (b : SSrc) :
    Statement (.fcmplt u p d a b) := of_fits (w := encSH 0x33 p d + encSA a + encSBr b) rfl fun _ =>
  fits_s2r 0x33 .fcmplt (by decide) (by intro u x h0 h; unfold decodeS; rw [if_neg h0, h]; rfl) u p d a b
theorem Sys2Proof.Laws.RoundTrip.fcvtis (u : SUnit) (p : Fin 64) (d : Dst 64) (a : SSrc) (rm : BitVec 2) :
    Statement (.fcvtis u p d a rm) := of_fits (w := encSH 0x34 p d + encSA a + encSI rm.toNat) rfl fun hw => by
  obtain ⟨sa, va, h1, h2, hA⟩ := encSA_form a
  have hm := rm.isLt
  refine SWord.fits (p := p) (d := d) (k := 0x34) (vb := rm.toNat)  (by decide) (by decide) h1 h2 (by decide) (by omega) hA (encSI_form _) fun x X =>
    decoded (by unfold decodeS; rw [if_neg (ne_zero X.bop (by decide)), X.bop]; rfl) ?_ ?_
  · exact good_append.2 ⟨good_append.2 ⟨(X.srcA hA).2, X.imm⟩, good_zeros.2 (by obtain ⟨e, _, _, _, _, _, _, _, _⟩ := id X; omega)⟩
  · rw [X.pred, X.dst, (X.srcA hA).1, show fieldBV _ 22 2 = rm from fieldBV_eq (by obtain ⟨e, _, _, _, _, _, _, _, _⟩ := id X; omega)]
theorem Sys2Proof.Laws.RoundTrip.fcvtsi (u : SUnit) (p : Fin 64) (d : Dst 64) (a : SSrc) (rm : BitVec 2) (sat : Bool) :
    Statement (.fcvtsi u p d a rm sat) := of_fits (w := encSH 0x35 p d + encSA a + encSI (rm.toNat + bit sat * 4)) rfl fun hw => by
  obtain ⟨sa, va, h1, h2, hA⟩ := encSA_form a
  have hm := rm.isLt
  have hs := bit_le sat
  refine SWord.fits (p := p) (d := d) (k := 0x35) (vb := (rm.toNat + bit sat * 4))  (by decide) (by decide) h1 h2 (by decide) (by omega) hA (encSI_form _) fun x X =>
    decoded (by unfold decodeS; rw [if_neg (ne_zero X.bop (by decide)), X.bop]; rfl) ?_ ?_
  · exact good_append.2 ⟨good_append.2 ⟨(X.srcA hA).2, X.imm⟩, good_zeros.2 (by obtain ⟨e, _, _, _, _, _, _, _, _⟩ := id X; omega)⟩
  · rw [X.pred, X.dst, (X.srcA hA).1, show fieldBV _ 22 2 = rm from fieldBV_eq (by obtain ⟨e, _, _, _, _, _, _, _, _⟩ := id X; omega), bitAt_eq,
      show x.toNat / 2 ^ 24 % 2 = bit sat
        by obtain ⟨e, _, _, _, _, _, _, _, _⟩ := id X; omega, bit_one]
theorem Sys2Proof.Laws.RoundTrip.br (p : Fin 64) (off : BitVec 20) :
    Statement (.br p off) := of_fits (w := 0x01 + p.val * 2 ^ 6 + off.toNat * 2 ^ 12) rfl fun _ => by
  have hv := off.isLt
  have hN : 0x01 + p.val * 2 ^ 6 + off.toNat * 2 ^ 12 < 2 ^ 32 := by omega
  refine fitsC_all hN fun x v => ?_
  have X : CWord x 0x01 p.val (off.toNat % 64) (off.toNat / 64 % 64) (off.toNat / 4096) :=
    ⟨by omega, by decide, p.isLt, by omega, by omega, by omega⟩
  unfold decodeC
  rw [if_neg (ne_zero X.bop (by decide)), X.bop]
  show Except.ok (some (Instr.br (fieldFin x 6 64) (fieldBV x 12 20))) = _
  rw [X.pred, show fieldBV x 12 20 = off from fieldBV_eq (by omega)]
theorem Sys2Proof.Laws.RoundTrip.brs (p : Fin 64) (a : Fin 64) :
    Statement (.brs p a) := of_fits (w := encC 0x02 p a.val 0 0) rfl fun hw => by
  refine CWord.fits (p := p) (op := 0x02) (a := a.val) (b := 0) (v := 0) (by decide) (by omega) (by decide) (by decide) fun x X =>
    decoded (by unfold decodeC; rw [if_neg (ne_zero X.bop (by decide)), X.bop]; rfl) ?_ ?_
  · exact good_append.2 ⟨good_append.2 ⟨by rw [X.ra, good_lim]; exact hw, X.noB⟩, X.noI⟩
  · rw [X.pred, X.ra]
theorem Sys2Proof.Laws.RoundTrip.call (p : Fin 64) (off : BitVec 20) :
    Statement (.call p off) := of_fits (w := 0x03 + p.val * 2 ^ 6 + off.toNat * 2 ^ 12) rfl fun _ => by
  have hv := off.isLt
  have hN : 0x03 + p.val * 2 ^ 6 + off.toNat * 2 ^ 12 < 2 ^ 32 := by omega
  refine fitsC_all hN fun x v => ?_
  have X : CWord x 0x03 p.val (off.toNat % 64) (off.toNat / 64 % 64) (off.toNat / 4096) :=
    ⟨by omega, by decide, p.isLt, by omega, by omega, by omega⟩
  unfold decodeC
  rw [if_neg (ne_zero X.bop (by decide)), X.bop]
  show Except.ok (some (Instr.call (fieldFin x 6 64) (fieldBV x 12 20))) = _
  rw [X.pred, show fieldBV x 12 20 = off from fieldBV_eq (by omega)]
theorem Sys2Proof.Laws.RoundTrip.ret (p : Fin 64) (a : Fin 64) :
    Statement (.ret p a) := of_fits (w := encC 0x04 p a.val 0 0) rfl fun hw => by
  refine CWord.fits (p := p) (op := 0x04) (a := a.val) (b := 0) (v := 0) (by decide) (by omega) (by decide) (by decide) fun x X =>
    decoded (by unfold decodeC; rw [if_neg (ne_zero X.bop (by decide)), X.bop]; rfl) ?_ ?_
  · exact good_append.2 ⟨good_append.2 ⟨by rw [X.ra, good_lim]; exact hw, X.noB⟩, X.noI⟩
  · rw [X.pred, X.ra]
theorem Sys2Proof.Laws.RoundTrip.loop (p : Fin 64) (a : Fin 64) (e : Byte) :
    Statement (.loop p a e) := of_fits (w := encC 0x05 p a.val 0 e.toNat) rfl fun hw => by
  refine CWord.fits (p := p) (op := 0x05) (a := a.val) (b := 0) (v := e.toNat) (by decide) (by omega) (by decide) e.isLt fun x X =>
    decoded (by unfold decodeC; rw [if_neg (ne_zero X.bop (by decide)), X.bop]; rfl) ?_ ?_
  · exact good_append.2 ⟨X.noB, by rw [X.i8, good_lim]; exact hw⟩
  · rw [X.pred, X.ra, X.i8]
theorem Sys2Proof.Laws.RoundTrip.loopi (p : Fin 64) (n : BitVec 12) (e : Byte) :
    Statement (.loopi p n e) := of_fits (w := 0x06 + p.val * 2 ^ 6 + n.toNat * 2 ^ 12 + e.toNat * 2 ^ 24) rfl fun hw => by
  have hn := n.isLt
  have he := e.isLt
  have hN : 0x06 + p.val * 2 ^ 6 + n.toNat * 2 ^ 12 + e.toNat * 2 ^ 24 < 2 ^ 32 := by omega
  refine fitsC_all hN fun x v => ?_
  have X : CWord x 0x06 p.val (n.toNat % 64) (n.toNat / 64) e.toNat :=
    ⟨by omega, by decide, p.isLt, by omega, by omega, he⟩
  refine decoded (by unfold decodeC; rw [if_neg (ne_zero X.bop (by decide)), X.bop]; rfl) ?_ ?_
  · rw [X.i8, good_lim]; exact hw
  · rw [X.pred, X.i8, show fieldBV x 12 12 = n from fieldBV_eq (by omega)]
theorem Sys2Proof.Laws.RoundTrip.tail (p : Fin 64) (a : Fin 64) :
    Statement (.tail p a) := of_fits (w := encC 0x07 p a.val 0 0) rfl fun hw => by
  refine CWord.fits (p := p) (op := 0x07) (a := a.val) (b := 0) (v := 0) (by decide) (by omega) (by decide) (by decide) fun x X =>
    decoded (by unfold decodeC; rw [if_neg (ne_zero X.bop (by decide)), X.bop]; rfl) ?_ ?_
  · exact good_append.2 ⟨good_append.2 ⟨by rw [X.ra, good_lim]; exact hw, X.noB⟩, X.noI⟩
  · rw [X.pred, X.ra]
theorem Sys2Proof.Laws.RoundTrip.phase (p : Fin 64) :
    Statement (.phase p) := of_fits (w := encC 0x08 p 0 0 0) rfl fun _ => by
  refine CWord.fits (p := p) (op := 0x08) (a := 0) (b := 0) (v := 0) (by decide) (by decide) (by decide) (by decide) fun x X =>
    decoded (by unfold decodeC; rw [if_neg (ne_zero X.bop (by decide)), X.bop]; rfl) ?_ ?_
  · exact good_append.2 ⟨good_append.2 ⟨X.noA, X.noB⟩, X.noI⟩
  · rw [X.pred]
theorem Sys2Proof.Laws.RoundTrip.fence (p : Fin 64) (m : BitVec 5) :
    Statement (.fence p m) := of_fits (w := encC 0x09 p 0 0 m.toNat) rfl fun hw => by
  have hm := m.isLt
  refine CWord.fits (p := p) (op := 0x09) (a := 0) (b := 0) (v := m.toNat) (by decide) (by decide) (by decide) (by omega) fun x X =>
    decoded (by unfold decodeC; rw [if_neg (ne_zero X.bop (by decide)), X.bop]; rfl) ?_ ?_
  · exact good_append.2 ⟨good_append.2 ⟨good_append.2 ⟨X.noA, X.noB⟩, X.top (n := 5) (by omega)⟩, by rw [show fieldBV _ 24 5 = m from fieldBV_eq (by obtain ⟨e, _, _, _, _, _⟩ := id X; omega), good_lim]; exact hw⟩
  · rw [X.pred, show fieldBV _ 24 5 = m from fieldBV_eq (by obtain ⟨e, _, _, _, _, _⟩ := id X; omega)]
theorem Sys2Proof.Laws.RoundTrip.waiteq (p : Fin 64) (a : Fin 64) (b : Fin 64) :
    Statement (.waiteq p a b) := of_fits (w := encC 0x0A p a.val b.val 0) rfl fun hw => by
  refine CWord.fits (p := p) (op := 0x0A) (a := a.val) (b := b.val) (v := 0) (by decide) (by omega) (by omega) (by decide) fun x X =>
    decoded (by unfold decodeC; rw [if_neg (ne_zero X.bop (by decide)), X.bop]; rfl) ?_ ?_
  · exact good_append.2 ⟨by rw [X.ra, good_lim]; exact hw, X.noI⟩
  · rw [X.pred, X.ra, X.rb]
theorem Sys2Proof.Laws.RoundTrip.waitge (p : Fin 64) (a : Fin 64) (b : Fin 64) :
    Statement (.waitge p a b) := of_fits (w := encC 0x0B p a.val b.val 0) rfl fun hw => by
  refine CWord.fits (p := p) (op := 0x0B) (a := a.val) (b := b.val) (v := 0) (by decide) (by omega) (by omega) (by decide) fun x X =>
    decoded (by unfold decodeC; rw [if_neg (ne_zero X.bop (by decide)), X.bop]; rfl) ?_ ?_
  · exact good_append.2 ⟨by rw [X.ra, good_lim]; exact hw, X.noI⟩
  · rw [X.pred, X.ra, X.rb]
theorem Sys2Proof.Laws.RoundTrip.hwait (p : Fin 64) (h : Fin 8) (b : Fin 64) :
    Statement (.hwait p h b) := of_fits (w := encC 0x0C p 0 b.val h.val) rfl fun hw => by
  refine CWord.fits (p := p) (op := 0x0C) (a := 0) (b := b.val) (v := h.val) (by decide) (by decide) (by omega) (by omega) fun x X =>
    decoded (by unfold decodeC; rw [if_neg (ne_zero X.bop (by decide)), X.bop]; rfl) ?_ ?_
  · exact good_append.2 ⟨good_append.2 ⟨X.noA, by rw [X.rb, good_lim]; exact hw⟩, X.top (n := 3) (by omega)⟩
  · rw [X.pred, X.rb, X.h8 (q := h) (by omega)]
theorem Sys2Proof.Laws.RoundTrip.hrel (p : Fin 64) (h : Fin 8) (b : Fin 64) :
    Statement (.hrel p h b) := of_fits (w := encC 0x0D p 0 b.val h.val) rfl fun hw => by
  refine CWord.fits (p := p) (op := 0x0D) (a := 0) (b := b.val) (v := h.val) (by decide) (by decide) (by omega) (by omega) fun x X =>
    decoded (by unfold decodeC; rw [if_neg (ne_zero X.bop (by decide)), X.bop]; rfl) ?_ ?_
  · exact good_append.2 ⟨good_append.2 ⟨X.noA, by rw [X.rb, good_lim]; exact hw⟩, X.top (n := 3) (by omega)⟩
  · rw [X.pred, X.rb, X.h8 (q := h) (by omega)]
theorem Sys2Proof.Laws.RoundTrip.hset (p : Fin 64) (h : Fin 8) (a : Fin 64) (sp : BitVec 3) :
    Statement (.hset p h a sp) := of_fits (w := encC 0x0E p a.val 0 (h.val + sp.toNat * 8)) rfl fun hw => by
  have hs := sp.isLt
  change (_ && _) = true at hw
  simp only [Bool.and_eq_true] at hw
  refine CWord.fits (p := p) (op := 0x0E) (a := a.val) (b := 0) (v := (h.val + sp.toNat * 8)) (by decide) (by omega) (by decide) (by omega) fun x X =>
    decoded (by unfold decodeC; rw [if_neg (ne_zero X.bop (by decide)), X.bop]; rfl) ?_ ?_
  · exact good_append.2 ⟨good_append.2 ⟨good_append.2 ⟨by rw [X.ra, good_lim]; exact hw.1, X.noB⟩, X.top (n := 6) (by omega)⟩, by rw [show fieldBV _ 27 3 = sp from fieldBV_eq (by obtain ⟨e, _, _, _, _, _⟩ := id X; omega), good_lim]; simpa [or_assoc] using hw.2⟩
  · rw [X.pred, X.ra, X.h8 (q := h) (by omega), show fieldBV _ 27 3 = sp from fieldBV_eq (by obtain ⟨e, _, _, _, _, _⟩ := id X; omega)]
theorem Sys2Proof.Laws.RoundTrip.trap (p : Fin 64) (c : Byte) (a : Fin 64) :
    Statement (.trap p c a) := of_fits (w := encC 0x0F p a.val 0 c.toNat) rfl fun _ => by
  refine CWord.fits (p := p) (op := 0x0F) (a := a.val) (b := 0) (v := c.toNat) (by decide) (by omega) (by decide) c.isLt fun x X =>
    decoded (by unfold decodeC; rw [if_neg (ne_zero X.bop (by decide)), X.bop]; rfl) ?_ ?_
  · exact X.noB
  · rw [X.pred, X.ra, X.i8]
theorem Sys2Proof.Laws.RoundTrip.bkpt (p : Fin 64) (c : Byte) :
    Statement (.bkpt p c) := of_fits (w := encC 0x10 p 0 0 c.toNat) rfl fun _ => by
  refine CWord.fits (p := p) (op := 0x10) (a := 0) (b := 0) (v := c.toNat) (by decide) (by decide) (by decide) c.isLt fun x X =>
    decoded (by unfold decodeC; rw [if_neg (ne_zero X.bop (by decide)), X.bop]; rfl) ?_ ?_
  · exact good_append.2 ⟨X.noA, X.noB⟩
  · rw [X.pred, X.i8]
theorem Sys2Proof.Laws.RoundTrip.ld (p : Fin 64) (d : Dst 64) (base : Fin 64) (off : MOff) (ty : BitVec 4) :
    Statement (.ld p d base off ty) := of_fits (w := encM 0x01 p d.reg.val d.nowb base (encMOff off) ty) rfl fun hw => by
  obtain ⟨f, v, h1, h2, hO⟩ := encMOff_form off
  refine MWord.fits (op := 0x01) (p := p) (b := base) (d := d.reg.val) (nw := d.nowb) (ty := ty) (by decide) (by omega) h1 h2 hO fun x X =>
    decoded (by unfold decodeM; rw [if_neg (ne_zero X.bop (by decide)), X.bop]; rfl) ?_ ?_
  · exact good_append.2 ⟨(good_append.2 ⟨(X.off hO).2, X.res⟩), (by rw [X.ty, good_lim]; exact hw)⟩
  · rw [X.pred, X.reg (.inl rfl), X.nw, X.base, (X.off hO).1, X.ty]
theorem Sys2Proof.Laws.RoundTrip.st (p : Fin 64) (d : Fin 64) (base : Fin 64) (off : MOff) (ty : BitVec 4) :
    Statement (.st p d base off ty) := of_fits (w := encM 0x02 p d.val false base (encMOff off) ty) rfl fun hw => by
  obtain ⟨f, v, h1, h2, hO⟩ := encMOff_form off
  refine MWord.fits (op := 0x02) (p := p) (b := base) (d := d.val) (nw := false) (ty := ty) (by decide) (by omega) h1 h2 hO fun x X =>
    decoded (by unfold decodeM; rw [if_neg (ne_zero X.bop (by decide)), X.bop]; rfl) ?_ ?_
  · exact good_append.2 ⟨good_append.2 ⟨X.noNw, (good_append.2 ⟨(X.off hO).2, X.res⟩)⟩, (by rw [X.ty, good_lim]; exact hw)⟩
  · rw [X.pred, X.reg (.inl rfl), X.base, (X.off hO).1, X.ty]
theorem Sys2Proof.Laws.RoundTrip.ldg (p : Fin 64) (d : Dst 64) (base : Fin 64) (off : MOff) (ty : BitVec 4) :
    Statement (.ldg p d base off ty) := of_fits (w := encM 0x03 p d.reg.val d.nowb base (encMOff off) ty) rfl fun hw => by
  obtain ⟨f, v, h1, h2, hO⟩ := encMOff_form off
  refine MWord.fits (op := 0x03) (p := p) (b := base) (d := d.reg.val) (nw := d.nowb) (ty := ty) (by decide) (by omega) h1 h2 hO fun x X =>
    decoded (by unfold decodeM; rw [if_neg (ne_zero X.bop (by decide)), X.bop]; rfl) ?_ ?_
  · exact good_append.2 ⟨(good_append.2 ⟨(X.off hO).2, X.res⟩), (by rw [X.ty, good_lim]; exact hw)⟩
  · rw [X.pred, X.reg (.inl rfl), X.nw, X.base, (X.off hO).1, X.ty]
theorem Sys2Proof.Laws.RoundTrip.stg (p : Fin 64) (d : Fin 64) (base : Fin 64) (off : MOff) (ty : BitVec 4) :
    Statement (.stg p d base off ty) := of_fits (w := encM 0x04 p d.val false base (encMOff off) ty) rfl fun hw => by
  obtain ⟨f, v, h1, h2, hO⟩ := encMOff_form off
  refine MWord.fits (op := 0x04) (p := p) (b := base) (d := d.val) (nw := false) (ty := ty) (by decide) (by omega) h1 h2 hO fun x X =>
    decoded (by unfold decodeM; rw [if_neg (ne_zero X.bop (by decide)), X.bop]; rfl) ?_ ?_
  · exact good_append.2 ⟨good_append.2 ⟨X.noNw, (good_append.2 ⟨(X.off hO).2, X.res⟩)⟩, (by rw [X.ty, good_lim]; exact hw)⟩
  · rw [X.pred, X.reg (.inl rfl), X.base, (X.off hO).1, X.ty]
theorem Sys2Proof.Laws.RoundTrip.vld (p : Fin 64) (d : Dst 32) (base : Fin 64) (off : MOff) (ty : BitVec 4) :
    Statement (.vld p d base off ty) := of_fits (w := encM 0x05 p d.reg.val d.nowb base (encMOff off) ty) rfl fun hw => by
  obtain ⟨f, v, h1, h2, hO⟩ := encMOff_form off
  refine MWord.fits (op := 0x05) (p := p) (b := base) (d := d.reg.val) (nw := d.nowb) (ty := ty) (by decide) (by omega) h1 h2 hO fun x X =>
    decoded (by unfold decodeM; rw [if_neg (ne_zero X.bop (by decide)), X.bop]; rfl) ?_ ?_
  · exact good_append.2 ⟨good_append.2 ⟨(X.vok (by omega)), (good_append.2 ⟨(X.off hO).2, X.res⟩)⟩, (by rw [X.ty, good_lim]; exact hw)⟩
  · rw [X.pred, X.reg (.inr (.inl rfl)), X.nw, X.base, (X.off hO).1, X.ty]
theorem Sys2Proof.Laws.RoundTrip.vst (p : Fin 64) (d : Fin 32) (base : Fin 64) (off : MOff) (ty : BitVec 4) :
    Statement (.vst p d base off ty) := of_fits (w := encM 0x06 p d.val false base (encMOff off) ty) rfl fun hw => by
  obtain ⟨f, v, h1, h2, hO⟩ := encMOff_form off
  refine MWord.fits (op := 0x06) (p := p) (b := base) (d := d.val) (nw := false) (ty := ty) (by decide) (by omega) h1 h2 hO fun x X =>
    decoded (by unfold decodeM; rw [if_neg (ne_zero X.bop (by decide)), X.bop]; rfl) ?_ ?_
  · exact good_append.2 ⟨good_append.2 ⟨good_append.2 ⟨(X.vok (by omega)), X.noNw⟩, (good_append.2 ⟨(X.off hO).2, X.res⟩)⟩, (by rw [X.ty, good_lim]; exact hw)⟩
  · rw [X.pred, X.reg (.inr (.inl rfl)), X.base, (X.off hO).1, X.ty]
theorem Sys2Proof.Laws.RoundTrip.vlds (p : Fin 64) (d : Dst 32) (base : Fin 64) (pitch : MOff) (ty : BitVec 4) :
    Statement (.vlds p d base pitch ty) := of_fits (w := encM 0x07 p d.reg.val d.nowb base (encMOff pitch) ty) rfl fun hw => by
  obtain ⟨f, v, h1, h2, hO⟩ := encMOff_form pitch
  refine MWord.fits (op := 0x07) (p := p) (b := base) (d := d.reg.val) (nw := d.nowb) (ty := ty) (by decide) (by omega) h1 h2 hO fun x X =>
    decoded (by unfold decodeM; rw [if_neg (ne_zero X.bop (by decide)), X.bop]; rfl) ?_ ?_
  · exact good_append.2 ⟨good_append.2 ⟨(X.vok (by omega)), (good_append.2 ⟨(X.off hO).2, X.res⟩)⟩, (by rw [X.ty, good_lim]; exact hw)⟩
  · rw [X.pred, X.reg (.inr (.inl rfl)), X.nw, X.base, (X.off hO).1, X.ty]
theorem Sys2Proof.Laws.RoundTrip.vsts (p : Fin 64) (d : Fin 32) (base : Fin 64) (pitch : MOff) (ty : BitVec 4) :
    Statement (.vsts p d base pitch ty) := of_fits (w := encM 0x08 p d.val false base (encMOff pitch) ty) rfl fun hw => by
  obtain ⟨f, v, h1, h2, hO⟩ := encMOff_form pitch
  refine MWord.fits (op := 0x08) (p := p) (b := base) (d := d.val) (nw := false) (ty := ty) (by decide) (by omega) h1 h2 hO fun x X =>
    decoded (by unfold decodeM; rw [if_neg (ne_zero X.bop (by decide)), X.bop]; rfl) ?_ ?_
  · exact good_append.2 ⟨good_append.2 ⟨good_append.2 ⟨(X.vok (by omega)), X.noNw⟩, (good_append.2 ⟨(X.off hO).2, X.res⟩)⟩, (by rw [X.ty, good_lim]; exact hw)⟩
  · rw [X.pred, X.reg (.inr (.inl rfl)), X.base, (X.off hO).1, X.ty]
theorem Sys2Proof.Laws.RoundTrip.vldx (p : Fin 64) (d : Dst 32) (base : Fin 64) (vi : Fin 32) (sc : BitVec 2) (ty : BitVec 4) :
    Statement (.vldx p d base vi sc ty) := of_fits (w := encM 0x09 p d.reg.val d.nowb base (2 ^ 19 + vi.val * 2 ^ 20 + sc.toNat * 2 ^ 26) ty) rfl fun hw => by
  have hs := sc.isLt
  refine MWord.fits (op := 0x09) (p := p) (b := base) (d := d.reg.val) (nw := d.nowb) (ty := ty) (f := 1) (v := vi.val + sc.toNat * 64) (O := 2 ^ 19 + vi.val * 2 ^ 20 + sc.toNat * 2 ^ 26) (by decide) (by omega) (by decide) (by omega) (by omega) fun x X =>
    decoded (by unfold decodeM; rw [if_neg (ne_zero X.bop (by decide)), X.bop]; rfl) ?_ ?_
  · exact good_append.2 ⟨good_append.2 ⟨(X.vok (by omega)), X.index.2.2⟩, (by rw [X.ty, good_lim]; exact hw)⟩
  · rw [X.pred, X.reg (.inr (.inl rfl)), X.nw, X.base, X.index.1, X.index.2.1, X.ty]
theorem Sys2Proof.Laws.RoundTrip.vstx (p : Fin 64) (d : Fin 32) (base : Fin 64) (vi : Fin 32) (sc : BitVec 2) (ty : BitVec 4) :
    Statement (.vstx p d base vi sc ty) := of_fits (w := encM 0x0A p d.val false base (2 ^ 19 + vi.val * 2 ^ 20 + sc.toNat * 2 ^ 26) ty) rfl fun hw => by
  have hs := sc.isLt
  refine MWord.fits (op := 0x0A) (p := p) (b := base) (d := d.val) (nw := false) (ty := ty) (f := 1) (v := vi.val + sc.toNat * 64) (O := 2 ^ 19 + vi.val * 2 ^ 20 + sc.toNat * 2 ^ 26) (by decide) (by omega) (by decide) (by omega) (by omega) fun x X =>
    decoded (by unfold decodeM; rw [if_neg (ne_zero X.bop (by decide)), X.bop]; rfl) ?_ ?_
  · exact good_append.2 ⟨good_append.2 ⟨good_append.2 ⟨(X.vok (by omega)), X.noNw⟩, X.index.2.2⟩, (by rw [X.ty, good_lim]; exact hw)⟩
  · rw [X.pred, X.reg (.inr (.inl rfl)), X.base, X.index.1, X.index.2.1, X.ty]
theorem Sys2Proof.Laws.RoundTrip.vldt (p : Fin 64) (d : Dst 32) (base : Fin 64) (dn : Fin 16) :
    Statement (.vldt p d base dn) := of_fits (w := encM 0x0B p d.reg.val d.nowb base (dn.val * 2 ^ 20) 0) rfl fun _ => by
  refine MWord.fits (op := 0x0B) (p := p) (b := base) (d := d.reg.val) (nw := d.nowb) (ty := (0 : BitVec 4)) (f := 0) (v := dn.val) (O := dn.val * 2 ^ 20) (by decide) (by omega) (by decide) (by omega) (by omega) fun x X =>
    decoded (by unfold decodeM; rw [if_neg (ne_zero X.bop (by decide)), X.bop]; rfl) ?_ ?_
  · exact good_append.2 ⟨(X.vok (by omega)), X.tile.2⟩
  · rw [X.pred, X.reg (.inr (.inl rfl)), X.nw, X.base, X.tile.1]
theorem Sys2Proof.Laws.RoundTrip.vstt (p : Fin 64) (d : Fin 32) (base : Fin 64) (dn : Fin 16) :
    Statement (.vstt p d base dn) := of_fits (w := encM 0x0C p d.val false base (dn.val * 2 ^ 20) 0) rfl fun _ => by
  refine MWord.fits (op := 0x0C) (p := p) (b := base) (d := d.val) (nw := false) (ty := (0 : BitVec 4)) (f := 0) (v := dn.val) (O := dn.val * 2 ^ 20) (by decide) (by omega) (by decide) (by omega) (by omega) fun x X =>
    decoded (by unfold decodeM; rw [if_neg (ne_zero X.bop (by decide)), X.bop]; rfl) ?_ ?_
  · exact good_append.2 ⟨good_append.2 ⟨(X.vok (by omega)), X.noNw⟩, X.tile.2⟩
  · rw [X.pred, X.reg (.inr (.inl rfl)), X.base, X.tile.1]
theorem Sys2Proof.Laws.RoundTrip.ldb (p : Fin 64) (d : Fin 64) (base : Fin 64) (off : MOff) :
    Statement (.ldb p d base off) := of_fits (w := encM 0x0D p d.val false base (encMOff off) 0) rfl fun hw => by
  obtain ⟨f, v, h1, h2, hO⟩ := encMOff_form off
  refine MWord.fits (op := 0x0D) (p := p) (b := base) (d := d.val) (nw := false) (ty := (0 : BitVec 4)) (by decide) (by omega) h1 h2 hO fun x X =>
    decoded (by unfold decodeM; rw [if_neg (ne_zero X.bop (by decide)), X.bop]; rfl) ?_ ?_
  · exact good_append.2 ⟨good_append.2 ⟨good_append.2 ⟨X.noNw, (by rw [X.ty (q := 0), good_lim]; rfl)⟩, (good_append.2 ⟨(X.off hO).2, X.res⟩)⟩, (by rw [X.reg (.inl rfl), good_lim]; exact hw)⟩
  · rw [X.pred, X.reg (.inl rfl), X.base, (X.off hO).1]
theorem Sys2Proof.Laws.RoundTrip.amadd (p : Fin 64) (d : Fin 64) (base : Fin 64) (off : MOff) (ty : BitVec 4) :
    Statement (.amadd p d base off ty) := of_fits (w := encM 0x0E p d.val false base (encMOff off) ty) rfl fun hw => by
  obtain ⟨f, v, h1, h2, hO⟩ := encMOff_form off
  refine MWord.fits (op := 0x0E) (p := p) (b := base) (d := d.val) (nw := false) (ty := ty) (by decide) (by omega) h1 h2 hO fun x X =>
    decoded (by unfold decodeM; rw [if_neg (ne_zero X.bop (by decide)), X.bop]; rfl) ?_ ?_
  · exact good_append.2 ⟨good_append.2 ⟨X.noNw, (good_append.2 ⟨(X.off hO).2, X.res⟩)⟩, (by rw [X.ty, good_lim]; exact hw)⟩
  · rw [X.pred, X.reg (.inl rfl), X.base, (X.off hO).1, X.ty]
theorem Sys2Proof.Laws.RoundTrip.ammax (p : Fin 64) (d : Fin 64) (base : Fin 64) (off : MOff) (ty : BitVec 4) :
    Statement (.ammax p d base off ty) := of_fits (w := encM 0x0F p d.val false base (encMOff off) ty) rfl fun hw => by
  obtain ⟨f, v, h1, h2, hO⟩ := encMOff_form off
  refine MWord.fits (op := 0x0F) (p := p) (b := base) (d := d.val) (nw := false) (ty := ty) (by decide) (by omega) h1 h2 hO fun x X =>
    decoded (by unfold decodeM; rw [if_neg (ne_zero X.bop (by decide)), X.bop]; rfl) ?_ ?_
  · exact good_append.2 ⟨good_append.2 ⟨X.noNw, (good_append.2 ⟨(X.off hO).2, X.res⟩)⟩, (by rw [X.ty, good_lim]; exact hw)⟩
  · rw [X.pred, X.reg (.inl rfl), X.base, (X.off hO).1, X.ty]
theorem Sys2Proof.Laws.RoundTrip.ammin (p : Fin 64) (d : Fin 64) (base : Fin 64) (off : MOff) (ty : BitVec 4) :
    Statement (.ammin p d base off ty) := of_fits (w := encM 0x10 p d.val false base (encMOff off) ty) rfl fun hw => by
  obtain ⟨f, v, h1, h2, hO⟩ := encMOff_form off
  refine MWord.fits (op := 0x10) (p := p) (b := base) (d := d.val) (nw := false) (ty := ty) (by decide) (by omega) h1 h2 hO fun x X =>
    decoded (by unfold decodeM; rw [if_neg (ne_zero X.bop (by decide)), X.bop]; rfl) ?_ ?_
  · exact good_append.2 ⟨good_append.2 ⟨X.noNw, (good_append.2 ⟨(X.off hO).2, X.res⟩)⟩, (by rw [X.ty, good_lim]; exact hw)⟩
  · rw [X.pred, X.reg (.inl rfl), X.base, (X.off hO).1, X.ty]
theorem Sys2Proof.Laws.RoundTrip.amand (p : Fin 64) (d : Fin 64) (base : Fin 64) (off : MOff) (ty : BitVec 4) :
    Statement (.amand p d base off ty) := of_fits (w := encM 0x11 p d.val false base (encMOff off) ty) rfl fun hw => by
  obtain ⟨f, v, h1, h2, hO⟩ := encMOff_form off
  refine MWord.fits (op := 0x11) (p := p) (b := base) (d := d.val) (nw := false) (ty := ty) (by decide) (by omega) h1 h2 hO fun x X =>
    decoded (by unfold decodeM; rw [if_neg (ne_zero X.bop (by decide)), X.bop]; rfl) ?_ ?_
  · exact good_append.2 ⟨good_append.2 ⟨X.noNw, (good_append.2 ⟨(X.off hO).2, X.res⟩)⟩, (by rw [X.ty, good_lim]; exact hw)⟩
  · rw [X.pred, X.reg (.inl rfl), X.base, (X.off hO).1, X.ty]
theorem Sys2Proof.Laws.RoundTrip.amor (p : Fin 64) (d : Fin 64) (base : Fin 64) (off : MOff) (ty : BitVec 4) :
    Statement (.amor p d base off ty) := of_fits (w := encM 0x12 p d.val false base (encMOff off) ty) rfl fun hw => by
  obtain ⟨f, v, h1, h2, hO⟩ := encMOff_form off
  refine MWord.fits (op := 0x12) (p := p) (b := base) (d := d.val) (nw := false) (ty := ty) (by decide) (by omega) h1 h2 hO fun x X =>
    decoded (by unfold decodeM; rw [if_neg (ne_zero X.bop (by decide)), X.bop]; rfl) ?_ ?_
  · exact good_append.2 ⟨good_append.2 ⟨X.noNw, (good_append.2 ⟨(X.off hO).2, X.res⟩)⟩, (by rw [X.ty, good_lim]; exact hw)⟩
  · rw [X.pred, X.reg (.inl rfl), X.base, (X.off hO).1, X.ty]
theorem Sys2Proof.Laws.RoundTrip.futrd (p : Fin 64) (d : Dst 64) (base : Fin 64) (off : MOff) :
    Statement (.futrd p d base off) := of_fits (w := encM 0x13 p d.reg.val d.nowb base (encMOff off) 0) rfl fun _ => by
  obtain ⟨f, v, h1, h2, hO⟩ := encMOff_form off
  refine MWord.fits (op := 0x13) (p := p) (b := base) (d := d.reg.val) (nw := d.nowb) (ty := (0 : BitVec 4)) (by decide) (by omega) h1 h2 hO fun x X =>
    decoded (by unfold decodeM; rw [if_neg (ne_zero X.bop (by decide)), X.bop]; rfl) ?_ ?_
  · exact good_append.2 ⟨(by rw [X.ty (q := 0), good_lim]; rfl), (good_append.2 ⟨(X.off hO).2, X.res⟩)⟩
  · rw [X.pred, X.reg (.inl rfl), X.nw, X.base, (X.off hO).1]
theorem Sys2Proof.Laws.RoundTrip.futfill (p : Fin 64) (d : Fin 64) (base : Fin 64) (off : MOff) :
    Statement (.futfill p d base off) := of_fits (w := encM 0x14 p d.val false base (encMOff off) 0) rfl fun _ => by
  obtain ⟨f, v, h1, h2, hO⟩ := encMOff_form off
  refine MWord.fits (op := 0x14) (p := p) (b := base) (d := d.val) (nw := false) (ty := (0 : BitVec 4)) (by decide) (by omega) h1 h2 hO fun x X =>
    decoded (by unfold decodeM; rw [if_neg (ne_zero X.bop (by decide)), X.bop]; rfl) ?_ ?_
  · exact good_append.2 ⟨good_append.2 ⟨X.noNw, (by rw [X.ty (q := 0), good_lim]; rfl)⟩, (good_append.2 ⟨(X.off hO).2, X.res⟩)⟩
  · rw [X.pred, X.reg (.inl rfl), X.base, (X.off hO).1]
theorem Sys2Proof.Laws.RoundTrip.kst (p : Fin 64) (d : Fin 64) (base : Fin 64) (off : MOff) :
    Statement (.kst p d base off) := of_fits (w := encM 0x15 p d.val false base (encMOff off) 0) rfl fun _ => by
  obtain ⟨f, v, h1, h2, hO⟩ := encMOff_form off
  refine MWord.fits (op := 0x15) (p := p) (b := base) (d := d.val) (nw := false) (ty := (0 : BitVec 4)) (by decide) (by omega) h1 h2 hO fun x X =>
    decoded (by unfold decodeM; rw [if_neg (ne_zero X.bop (by decide)), X.bop]; rfl) ?_ ?_
  · exact good_append.2 ⟨good_append.2 ⟨X.noNw, (by rw [X.ty (q := 0), good_lim]; rfl)⟩, (good_append.2 ⟨(X.off hO).2, X.res⟩)⟩
  · rw [X.pred, X.reg (.inl rfl), X.base, (X.off hO).1]
theorem Sys2Proof.Laws.RoundTrip.dld (p : Fin 64) (d : Fin 16) (base : Fin 64) (off : MOff) :
    Statement (.dld p d base off) := of_fits (w := encM 0x16 p d.val false base (encMOff off) 0) rfl fun _ => by
  obtain ⟨f, v, h1, h2, hO⟩ := encMOff_form off
  refine MWord.fits (op := 0x16) (p := p) (b := base) (d := d.val) (nw := false) (ty := (0 : BitVec 4)) (by decide) (by omega) h1 h2 hO fun x X =>
    decoded (by unfold decodeM; rw [if_neg (ne_zero X.bop (by decide)), X.bop]; rfl) ?_ ?_
  · exact good_append.2 ⟨good_append.2 ⟨good_append.2 ⟨(X.dok (by omega)), X.noNw⟩, (by rw [X.ty (q := 0), good_lim]; rfl)⟩, (good_append.2 ⟨(X.off hO).2, X.res⟩)⟩
  · rw [X.pred, X.reg (.inr (.inr rfl)), X.base, (X.off hO).1]
theorem Sys2Proof.Laws.RoundTrip.dst (p : Fin 64) (d : Fin 16) (base : Fin 64) (off : MOff) :
    Statement (.dst p d base off) := of_fits (w := encM 0x17 p d.val false base (encMOff off) 0) rfl fun _ => by
  obtain ⟨f, v, h1, h2, hO⟩ := encMOff_form off
  refine MWord.fits (op := 0x17) (p := p) (b := base) (d := d.val) (nw := false) (ty := (0 : BitVec 4)) (by decide) (by omega) h1 h2 hO fun x X =>
    decoded (by unfold decodeM; rw [if_neg (ne_zero X.bop (by decide)), X.bop]; rfl) ?_ ?_
  · exact good_append.2 ⟨good_append.2 ⟨good_append.2 ⟨(X.dok (by omega)), X.noNw⟩, (by rw [X.ty (q := 0), good_lim]; rfl)⟩, (good_append.2 ⟨(X.off hO).2, X.res⟩)⟩
  · rw [X.pred, X.reg (.inr (.inr rfl)), X.base, (X.off hO).1]
theorem Sys2Proof.Laws.RoundTrip.vldsc (p : Fin 64) (d : Dst 32) (base : Fin 64) (off : MOff) (ty : BitVec 4) :
    Statement (.vldsc p d base off ty) := of_fits (w := encM 0x18 p d.reg.val d.nowb base (encMOff off) ty) rfl fun hw => by
  obtain ⟨f, v, h1, h2, hO⟩ := encMOff_form off
  refine MWord.fits (op := 0x18) (p := p) (b := base) (d := d.reg.val) (nw := d.nowb) (ty := ty) (by decide) (by omega) h1 h2 hO fun x X =>
    decoded (by unfold decodeM; rw [if_neg (ne_zero X.bop (by decide)), X.bop]; rfl) ?_ ?_
  · exact good_append.2 ⟨good_append.2 ⟨(X.vok (by omega)), (good_append.2 ⟨(X.off hO).2, X.res⟩)⟩, (by rw [X.ty, good_lim]; exact hw)⟩
  · rw [X.pred, X.reg (.inr (.inl rfl)), X.nw, X.base, (X.off hO).1, X.ty]
theorem Sys2Proof.Laws.RoundTrip.vadd (u : VUnit) (p : Fin 64) (d : Dst 32) (a : VSrc) (b : VSrc) (m : VMods) :
    Statement (.vadd u p d a b m) := of_fits (w := encV2 0x01 p d a b m) rfl fun hw => by
  obtain ⟨sa, va, h1, h2, hA⟩ := encVSrc_form a
  obtain ⟨sb, vb, h3, h4, hB⟩ := encVSrc_form b
  rw [show encV2 0x01 p d a b m = encVH 0x01 p d + encVSrc 13 a + encVSrc 19 b + encVMods m + 0 by rw [encV2, Nat.add_zero]]
  refine VWord.fits (op := 0x01) (p := p) (d := d) (w := m) (C := 0) (sc := 0) (vc := 0) (by decide) (by decide) h1 h2 h3 h4 (by decide) (by decide) (hA 13) (hB 19) rfl fun x X =>
    decoded (by unfold decodeV; rw [if_neg (ne_zero X.bop (by decide)), X.bop]; rfl) ?_ ?_
  · exact X.row (X.both hw).1 (X.both hw).2 X.noC
  · rw [X.pred, X.reg (.inl rfl), X.nw, X.srcA hA, X.srcB hB, X.mods]
theorem Sys2Proof.Laws.RoundTrip.vsub (u : VUnit) (p : Fin 64) (d : Dst 32) (a : VSrc) (b : VSrc) (m : VMods) :
    Statement (.vsub u p d a b m) := of_fits (w := encV2 0x02 p d a b m) rfl fun hw => by
  obtain ⟨sa, va, h1, h2, hA⟩ := encVSrc_form a
  obtain ⟨sb, vb, h3, h4, hB⟩ := encVSrc_form b
  rw [show encV2 0x02 p d a b m = encVH 0x02 p d + encVSrc 13 a + encVSrc 19 b + encVMods m + 0 by rw [encV2, Nat.add_zero]]
  refine VWord.fits (op := 0x02) (p := p) (d := d) (w := m) (C := 0) (sc := 0) (vc := 0) (by decide) (by decide) h1 h2 h3 h4 (by decide) (by decide) (hA 13) (hB 19) rfl fun x X =>
    decoded (by unfold decodeV; rw [if_neg (ne_zero X.bop (by decide)), X.bop]; rfl) ?_ ?_
  · exact X.row (X.both hw).1 (X.both hw).2 X.noC
  · rw [X.pred, X.reg (.inl rfl), X.nw, X.srcA hA, X.srcB hB, X.mods]
theorem Sys2Proof.Laws.RoundTrip.vmul (u : VUnit) (p : Fin 64) (d : Dst 32) (a : VSrc) (b : VSrc) (m : VMods) :
    Statement (.vmul u p d a b m) := of_fits (w := encV2 0x03 p d a b m) rfl fun hw => by
  obtain ⟨sa, va, h1, h2, hA⟩ := encVSrc_form a
  obtain ⟨sb, vb, h3, h4, hB⟩ := encVSrc_form b
  rw [show encV2 0x03 p d a b m = encVH 0x03 p d + encVSrc 13 a + encVSrc 19 b + encVMods m + 0 by rw [encV2, Nat.add_zero]]
  refine VWord.fits (op := 0x03) (p := p) (d := d) (w := m) (C := 0) (sc := 0) (vc := 0) (by decide) (by decide) h1 h2 h3 h4 (by decide) (by decide) (hA 13) (hB 19) rfl fun x X =>
    decoded (by unfold decodeV; rw [if_neg (ne_zero X.bop (by decide)), X.bop]; rfl) ?_ ?_
  · exact X.row (X.both hw).1 (X.both hw).2 X.noC
  · rw [X.pred, X.reg (.inl rfl), X.nw, X.srcA hA, X.srcB hB, X.mods]
theorem Sys2Proof.Laws.RoundTrip.vfma (u : VUnit) (p : Fin 64) (d : Dst 32) (a : VSrc) (b : VSrc) (c : VSrc) (m : VMods) :
    Statement (.vfma u p d a b c m) := of_fits (w := encV2 0x04 p d a b m + encVSrc 25 c) rfl fun hw => by
  obtain ⟨sa, va, h1, h2, hA⟩ := encVSrc_form a
  obtain ⟨sb, vb, h3, h4, hB⟩ := encVSrc_form b
  obtain ⟨sc, vc, h5, h6, hC⟩ := encVSrc_form c
  rw [show encV2 0x04 p d a b m + encVSrc 25 c = encVH 0x04 p d + encVSrc 13 a + encVSrc 19 b + encVMods m + encVSrc 25 c by rw [encV2]]
  refine VWord.fits (op := 0x04) (p := p) (d := d) (w := m) (by decide) (by decide) h1 h2 h3 h4 h5 h6 (hA 13) (hB 19) (hC 25) fun x X =>
    decoded (by unfold decodeV; rw [if_neg (ne_zero X.bop (by decide)), X.bop]; rfl) ?_ ?_
  · exact X.row hw good_nil good_nil
  · rw [X.pred, X.reg (.inl rfl), X.nw, X.srcA hA, X.srcB hB, X.srcC hC, X.mods]
theorem Sys2Proof.Laws.RoundTrip.vfms (u : VUnit) (p : Fin 64) (d : Dst 32) (a : VSrc) (b : VSrc) (c : VSrc) (m : VMods) :
    Statement (.vfms u p d a b c m) := of_fits (w := encV2 0x05 p d a b m + encVSrc 25 c) rfl fun hw => by
  obtain ⟨sa, va, h1, h2, hA⟩ := encVSrc_form a
  obtain ⟨sb, vb, h3, h4, hB⟩ := encVSrc_form b
  obtain ⟨sc, vc, h5, h6, hC⟩ := encVSrc_form c
  rw [show encV2 0x05 p d a b m + encVSrc 25 c = encVH 0x05 p d + encVSrc 13 a + encVSrc 19 b + encVMods m + encVSrc 25 c by rw [encV2]]
  refine VWord.fits (op := 0x05) (p := p) (d := d) (w := m) (by decide) (by decide) h1 h2 h3 h4 h5 h6 (hA 13) (hB 19) (hC 25) fun x X =>
    decoded (by unfold decodeV; rw [if_neg (ne_zero X.bop (by decide)), X.bop]; rfl) ?_ ?_
  · exact X.row hw good_nil good_nil
  · rw [X.pred, X.reg (.inl rfl), X.nw, X.srcA hA, X.srcB hB, X.srcC hC, X.mods]
theorem Sys2Proof.Laws.RoundTrip.vfnma (u : VUnit) (p : Fin 64) (d : Dst 32) (a : VSrc) (b : VSrc) (c : VSrc) (m : VMods) :
    Statement (.vfnma u p d a b c m) := of_fits (w := encV2 0x06 p d a b m + encVSrc 25 c) rfl fun hw => by
  obtain ⟨sa, va, h1, h2, hA⟩ := encVSrc_form a
  obtain ⟨sb, vb, h3, h4, hB⟩ := encVSrc_form b
  obtain ⟨sc, vc, h5, h6, hC⟩ := encVSrc_form c
  rw [show encV2 0x06 p d a b m + encVSrc 25 c = encVH 0x06 p d + encVSrc 13 a + encVSrc 19 b + encVMods m + encVSrc 25 c by rw [encV2]]
  refine VWord.fits (op := 0x06) (p := p) (d := d) (w := m) (by decide) (by decide) h1 h2 h3 h4 h5 h6 (hA 13) (hB 19) (hC 25) fun x X =>
    decoded (by unfold decodeV; rw [if_neg (ne_zero X.bop (by decide)), X.bop]; rfl) ?_ ?_
  · exact X.row hw good_nil good_nil
  · rw [X.pred, X.reg (.inl rfl), X.nw, X.srcA hA, X.srcB hB, X.srcC hC, X.mods]
theorem Sys2Proof.Laws.RoundTrip.vmin (u : VUnit) (p : Fin 64) (d : Dst 32) (a : VSrc) (b : VSrc) (m : VMods) :
    Statement (.vmin u p d a b m) := of_fits (w := encV2 0x07 p d a b m) rfl fun hw => by
  obtain ⟨sa, va, h1, h2, hA⟩ := encVSrc_form a
  obtain ⟨sb, vb, h3, h4, hB⟩ := encVSrc_form b
  rw [show encV2 0x07 p d a b m = encVH 0x07 p d + encVSrc 13 a + encVSrc 19 b + encVMods m + 0 by rw [encV2, Nat.add_zero]]
  change (_ && _) = true at hw
  simp only [Bool.and_eq_true] at hw
  refine VWord.fits (op := 0x07) (p := p) (d := d) (w := m) (C := 0) (sc := 0) (vc := 0) (by decide) (by decide) h1 h2 h3 h4 (by decide) (by decide) (hA 13) (hB 19) rfl fun x X =>
    decoded (by unfold decodeV; rw [if_neg (ne_zero X.bop (by decide)), X.bop]; rfl) ?_ ?_
  · exact X.row hw.1 (X.plain hw.2) X.noC
  · rw [X.pred, X.reg (.inl rfl), X.nw, X.srcA hA, X.srcB hB, X.mods]
theorem Sys2Proof.Laws.RoundTrip.vmax (u : VUnit) (p : Fin 64) (d : Dst 32) (a : VSrc) (b : VSrc) (m : VMods) :
    Statement (.vmax u p d a b m) := of_fits (w := encV2 0x08 p d a b m) rfl fun hw => by
  obtain ⟨sa, va, h1, h2, hA⟩ := encVSrc_form a
  obtain ⟨sb, vb, h3, h4, hB⟩ := encVSrc_form b
  rw [show encV2 0x08 p d a b m = encVH 0x08 p d + encVSrc 13 a + encVSrc 19 b + encVMods m + 0 by rw [encV2, Nat.add_zero]]
  change (_ && _) = true at hw
  simp only [Bool.and_eq_true] at hw
  refine VWord.fits (op := 0x08) (p := p) (d := d) (w := m) (C := 0) (sc := 0) (vc := 0) (by decide) (by decide) h1 h2 h3 h4 (by decide) (by decide) (hA 13) (hB 19) rfl fun x X =>
    decoded (by unfold decodeV; rw [if_neg (ne_zero X.bop (by decide)), X.bop]; rfl) ?_ ?_
  · exact X.row hw.1 (X.plain hw.2) X.noC
  · rw [X.pred, X.reg (.inl rfl), X.nw, X.srcA hA, X.srcB hB, X.mods]
theorem Sys2Proof.Laws.RoundTrip.vabs (u : VUnit) (p : Fin 64) (d : Dst 32) (a : VSrc) (m : VMods) :
    Statement (.vabs u p d a m) := of_fits (w := encV1 0x09 p d a m) rfl fun hw => by
  obtain ⟨sa, va, h1, h2, hA⟩ := encVSrc_form a
  rw [show encV1 0x09 p d a m = encVH 0x09 p d + encVSrc 13 a + 0 + encVMods m + 0 by rw [encV1, Nat.add_zero, Nat.add_zero]]
  refine VWord.fits (op := 0x09) (p := p) (d := d) (w := m) (B := 0) (sb := 0) (vb := 0) (C := 0) (sc := 0) (vc := 0) (by decide) (by decide) h1 h2 (by decide) (by decide) (by decide) (by decide) (hA 13) rfl rfl fun x X =>
    decoded (by unfold decodeV; rw [if_neg (ne_zero X.bop (by decide)), X.bop]; rfl) ?_ ?_
  · rw [X.mods]; exact X.row (X.signs hw).1 (X.signs hw).2 (good_append.2 ⟨X.noB, X.noC⟩)
  · rw [X.pred, X.reg (.inl rfl), X.nw, X.srcA hA, X.mods]
theorem Sys2Proof.Laws.RoundTrip.vneg (u : VUnit) (p : Fin 64) (d : Dst 32) (a : VSrc) (m : VMods) :
    Statement (.vneg u p d a m) := of_fits (w := encV1 0x0A p d a m) rfl fun hw => by
  obtain ⟨sa, va, h1, h2, hA⟩ := encVSrc_form a
  rw [show encV1 0x0A p d a m = encVH 0x0A p d + encVSrc 13 a + 0 + encVMods m + 0 by rw [encV1, Nat.add_zero, Nat.add_zero]]
  refine VWord.fits (op := 0x0A) (p := p) (d := d) (w := m) (B := 0) (sb := 0) (vb := 0) (C := 0) (sc := 0) (vc := 0) (by decide) (by decide) h1 h2 (by decide) (by decide) (by decide) (by decide) (hA 13) rfl rfl fun x X =>
    decoded (by unfold decodeV; rw [if_neg (ne_zero X.bop (by decide)), X.bop]; rfl) ?_ ?_
  · rw [X.mods]; exact X.row (X.signs hw).1 (X.signs hw).2 (good_append.2 ⟨X.noB, X.noC⟩)
  · rw [X.pred, X.reg (.inl rfl), X.nw, X.srcA hA, X.mods]
theorem Sys2Proof.Laws.RoundTrip.vcpys (u : VUnit) (p : Fin 64) (d : Dst 32) (a : VSrc) (b : VSrc) (m : VMods) :
    Statement (.vcpys u p d a b m) := of_fits (w := encV2 0x0B p d a b m) rfl fun hw => by
  obtain ⟨sa, va, h1, h2, hA⟩ := encVSrc_form a
  obtain ⟨sb, vb, h3, h4, hB⟩ := encVSrc_form b
  rw [show encV2 0x0B p d a b m = encVH 0x0B p d + encVSrc 13 a + encVSrc 19 b + encVMods m + 0 by rw [encV2, Nat.add_zero]]
  change (_ && _) = true at hw
  simp only [Bool.and_eq_true] at hw
  refine VWord.fits (op := 0x0B) (p := p) (d := d) (w := m) (C := 0) (sc := 0) (vc := 0) (by decide) (by decide) h1 h2 h3 h4 (by decide) (by decide) (hA 13) (hB 19) rfl fun x X =>
    decoded (by unfold decodeV; rw [if_neg (ne_zero X.bop (by decide)), X.bop]; rfl) ?_ ?_
  · exact X.row hw.1 (X.plain hw.2) X.noC
  · rw [X.pred, X.reg (.inl rfl), X.nw, X.srcA hA, X.srcB hB, X.mods]
theorem Sys2Proof.Laws.RoundTrip.vand (u : VUnit) (p : Fin 64) (d : Dst 32) (a : VSrc) (b : VSrc) (m : VMods) :
    Statement (.vand u p d a b m) := of_fits (w := encV2 0x0C p d a b m) rfl fun hw => by
  obtain ⟨sa, va, h1, h2, hA⟩ := encVSrc_form a
  obtain ⟨sb, vb, h3, h4, hB⟩ := encVSrc_form b
  rw [show encV2 0x0C p d a b m = encVH 0x0C p d + encVSrc 13 a + encVSrc 19 b + encVMods m + 0 by rw [encV2, Nat.add_zero]]
  change (_ && _) = true at hw
  simp only [Bool.and_eq_true] at hw
  refine VWord.fits (op := 0x0C) (p := p) (d := d) (w := m) (C := 0) (sc := 0) (vc := 0) (by decide) (by decide) h1 h2 h3 h4 (by decide) (by decide) (hA 13) (hB 19) rfl fun x X =>
    decoded (by unfold decodeV; rw [if_neg (ne_zero X.bop (by decide)), X.bop]; rfl) ?_ ?_
  · exact X.row hw.1 (X.plain hw.2) X.noC
  · rw [X.pred, X.reg (.inl rfl), X.nw, X.srcA hA, X.srcB hB, X.mods]
theorem Sys2Proof.Laws.RoundTrip.vor (u : VUnit) (p : Fin 64) (d : Dst 32) (a : VSrc) (b : VSrc) (m : VMods) :
    Statement (.vor u p d a b m) := of_fits (w := encV2 0x0D p d a b m) rfl fun hw => by
  obtain ⟨sa, va, h1, h2, hA⟩ := encVSrc_form a
  obtain ⟨sb, vb, h3, h4, hB⟩ := encVSrc_form b
  rw [show encV2 0x0D p d a b m = encVH 0x0D p d + encVSrc 13 a + encVSrc 19 b + encVMods m + 0 by rw [encV2, Nat.add_zero]]
  change (_ && _) = true at hw
  simp only [Bool.and_eq_true] at hw
  refine VWord.fits (op := 0x0D) (p := p) (d := d) (w := m) (C := 0) (sc := 0) (vc := 0) (by decide) (by decide) h1 h2 h3 h4 (by decide) (by decide) (hA 13) (hB 19) rfl fun x X =>
    decoded (by unfold decodeV; rw [if_neg (ne_zero X.bop (by decide)), X.bop]; rfl) ?_ ?_
  · exact X.row hw.1 (X.plain hw.2) X.noC
  · rw [X.pred, X.reg (.inl rfl), X.nw, X.srcA hA, X.srcB hB, X.mods]
theorem Sys2Proof.Laws.RoundTrip.vxor (u : VUnit) (p : Fin 64) (d : Dst 32) (a : VSrc) (b : VSrc) (m : VMods) :
    Statement (.vxor u p d a b m) := of_fits (w := encV2 0x0E p d a b m) rfl fun hw => by
  obtain ⟨sa, va, h1, h2, hA⟩ := encVSrc_form a
  obtain ⟨sb, vb, h3, h4, hB⟩ := encVSrc_form b
  rw [show encV2 0x0E p d a b m = encVH 0x0E p d + encVSrc 13 a + encVSrc 19 b + encVMods m + 0 by rw [encV2, Nat.add_zero]]
  change (_ && _) = true at hw
  simp only [Bool.and_eq_true] at hw
  refine VWord.fits (op := 0x0E) (p := p) (d := d) (w := m) (C := 0) (sc := 0) (vc := 0) (by decide) (by decide) h1 h2 h3 h4 (by decide) (by decide) (hA 13) (hB 19) rfl fun x X =>
    decoded (by unfold decodeV; rw [if_neg (ne_zero X.bop (by decide)), X.bop]; rfl) ?_ ?_
  · exact X.row hw.1 (X.plain hw.2) X.noC
  · rw [X.pred, X.reg (.inl rfl), X.nw, X.srcA hA, X.srcB hB, X.mods]
theorem Sys2Proof.Laws.RoundTrip.vshl (u : VUnit) (p : Fin 64) (d : Dst 32) (a : VSrc) (b : VSrc) (m : VMods) :
    Statement (.vshl u p d a b m) := of_fits (w := encV2 0x0F p d a b m) rfl fun hw => by
  obtain ⟨sa, va, h1, h2, hA⟩ := encVSrc_form a
  obtain ⟨sb, vb, h3, h4, hB⟩ := encVSrc_form b
  rw [show encV2 0x0F p d a b m = encVH 0x0F p d + encVSrc 13 a + encVSrc 19 b + encVMods m + 0 by rw [encV2, Nat.add_zero]]
  change (_ && _) = true at hw
  simp only [Bool.and_eq_true] at hw
  refine VWord.fits (op := 0x0F) (p := p) (d := d) (w := m) (C := 0) (sc := 0) (vc := 0) (by decide) (by decide) h1 h2 h3 h4 (by decide) (by decide) (hA 13) (hB 19) rfl fun x X =>
    decoded (by unfold decodeV; rw [if_neg (ne_zero X.bop (by decide)), X.bop]; rfl) ?_ ?_
  · exact X.row hw.1 (X.plain hw.2) X.noC
  · rw [X.pred, X.reg (.inl rfl), X.nw, X.srcA hA, X.srcB hB, X.mods]
theorem Sys2Proof.Laws.RoundTrip.vshr (u : VUnit) (p : Fin 64) (d : Dst 32) (a : VSrc) (b : VSrc) (m : VMods) :
    Statement (.vshr u p d a b m) := of_fits (w := encV2 0x10 p d a b m) rfl fun hw => by
  obtain ⟨sa, va, h1, h2, hA⟩ := encVSrc_form a
  obtain ⟨sb, vb, h3, h4, hB⟩ := encVSrc_form b
  rw [show encV2 0x10 p d a b m = encVH 0x10 p d + encVSrc 13 a + encVSrc 19 b + encVMods m + 0 by rw [encV2, Nat.add_zero]]
  change (_ && _) = true at hw
  simp only [Bool.and_eq_true] at hw
  refine VWord.fits (op := 0x10) (p := p) (d := d) (w := m) (C := 0) (sc := 0) (vc := 0) (by decide) (by decide) h1 h2 h3 h4 (by decide) (by decide) (hA 13) (hB 19) rfl fun x X =>
    decoded (by unfold decodeV; rw [if_neg (ne_zero X.bop (by decide)), X.bop]; rfl) ?_ ?_
  · exact X.row hw.1 (X.plain hw.2) X.noC
  · rw [X.pred, X.reg (.inl rfl), X.nw, X.srcA hA, X.srcB hB, X.mods]
theorem Sys2Proof.Laws.RoundTrip.vsra (u : VUnit) (p : Fin 64) (d : Dst 32) (a : VSrc) (b : VSrc) (m : VMods) :
    Statement (.vsra u p d a b m) := of_fits (w := encV2 0x11 p d a b m) rfl fun hw => by
  obtain ⟨sa, va, h1, h2, hA⟩ := encVSrc_form a
  obtain ⟨sb, vb, h3, h4, hB⟩ := encVSrc_form b
  rw [show encV2 0x11 p d a b m = encVH 0x11 p d + encVSrc 13 a + encVSrc 19 b + encVMods m + 0 by rw [encV2, Nat.add_zero]]
  change (_ && _) = true at hw
  simp only [Bool.and_eq_true] at hw
  refine VWord.fits (op := 0x11) (p := p) (d := d) (w := m) (C := 0) (sc := 0) (vc := 0) (by decide) (by decide) h1 h2 h3 h4 (by decide) (by decide) (hA 13) (hB 19) rfl fun x X =>
    decoded (by unfold decodeV; rw [if_neg (ne_zero X.bop (by decide)), X.bop]; rfl) ?_ ?_
  · exact X.row hw.1 (X.plain hw.2) X.noC
  · rw [X.pred, X.reg (.inl rfl), X.nw, X.srcA hA, X.srcB hB, X.mods]
theorem Sys2Proof.Laws.RoundTrip.vcmpeq (u : VUnit) (p : Fin 64) (d : Dst 8) (a : VSrc) (b : VSrc) (m : VMods) :
    Statement (.vcmpeq u p d a b m) := of_fits (w := encV2 0x12 p d a b m) rfl fun hw => by
  obtain ⟨sa, va, h1, h2, hA⟩ := encVSrc_form a
  obtain ⟨sb, vb, h3, h4, hB⟩ := encVSrc_form b
  rw [show encV2 0x12 p d a b m = encVH 0x12 p d + encVSrc 13 a + encVSrc 19 b + encVMods m + 0 by rw [encV2, Nat.add_zero]]
  change (_ && _) = true at hw
  simp only [Bool.and_eq_true] at hw
  refine VWord.fits (op := 0x12) (p := p) (d := d) (w := m) (C := 0) (sc := 0) (vc := 0) (by decide) (by decide) h1 h2 h3 h4 (by decide) (by decide) (hA 13) (hB 19) rfl fun x X =>
    decoded (by unfold decodeV; rw [if_neg (ne_zero X.bop (by decide)), X.bop]; rfl) ?_ ?_
  · exact good_append.2 ⟨X.kdok (by omega), X.row hw.1 (X.plain hw.2) X.noC⟩
  · rw [X.pred, X.reg (.inr rfl), X.nw, X.srcA hA, X.srcB hB, X.mods]
theorem Sys2Proof.Laws.RoundTrip.vcmplt (u : VUnit) (p : Fin 64) (d : Dst 8) (a : VSrc) (b : VSrc) (m : VMods) :
    Statement (.vcmplt u p d a b m) := of_fits (w := encV2 0x13 p d a b m) rfl fun hw => by
  obtain ⟨sa, va, h1, h2, hA⟩ := encVSrc_form a
  obtain ⟨sb, vb, h3, h4, hB⟩ := encVSrc_form b
  rw [show encV2 0x13 p d a b m = encVH 0x13 p d + encVSrc 13 a + encVSrc 19 b + encVMods m + 0 by rw [encV2, Nat.add_zero]]
  change (_ && _) = true at hw
  simp only [Bool.and_eq_true] at hw
  refine VWord.fits (op := 0x13) (p := p) (d := d) (w := m) (C := 0) (sc := 0) (vc := 0) (by decide) (by decide) h1 h2 h3 h4 (by decide) (by decide) (hA 13) (hB 19) rfl fun x X =>
    decoded (by unfold decodeV; rw [if_neg (ne_zero X.bop (by decide)), X.bop]; rfl) ?_ ?_
  · exact good_append.2 ⟨X.kdok (by omega), X.row hw.1 (X.plain hw.2) X.noC⟩
  · rw [X.pred, X.reg (.inr rfl), X.nw, X.srcA hA, X.srcB hB, X.mods]
theorem Sys2Proof.Laws.RoundTrip.vcmple (u : VUnit) (p : Fin 64) (d : Dst 8) (a : VSrc) (b : VSrc) (m : VMods) :
    Statement (.vcmple u p d a b m) := of_fits (w := encV2 0x14 p d a b m) rfl fun hw => by
  obtain ⟨sa, va, h1, h2, hA⟩ := encVSrc_form a
  obtain ⟨sb, vb, h3, h4, hB⟩ := encVSrc_form b
  rw [show encV2 0x14 p d a b m = encVH 0x14 p d + encVSrc 13 a + encVSrc 19 b + encVMods m + 0 by rw [encV2, Nat.add_zero]]
  change (_ && _) = true at hw
  simp only [Bool.and_eq_true] at hw
  refine VWord.fits (op := 0x14) (p := p) (d := d) (w := m) (C := 0) (sc := 0) (vc := 0) (by decide) (by decide) h1 h2 h3 h4 (by decide) (by decide) (hA 13) (hB 19) rfl fun x X =>
    decoded (by unfold decodeV; rw [if_neg (ne_zero X.bop (by decide)), X.bop]; rfl) ?_ ?_
  · exact good_append.2 ⟨X.kdok (by omega), X.row hw.1 (X.plain hw.2) X.noC⟩
  · rw [X.pred, X.reg (.inr rfl), X.nw, X.srcA hA, X.srcB hB, X.mods]
theorem Sys2Proof.Laws.RoundTrip.vcmpne (u : VUnit) (p : Fin 64) (d : Dst 8) (a : VSrc) (b : VSrc) (m : VMods) :
    Statement (.vcmpne u p d a b m) := of_fits (w := encV2 0x15 p d a b m) rfl fun hw => by
  obtain ⟨sa, va, h1, h2, hA⟩ := encVSrc_form a
  obtain ⟨sb, vb, h3, h4, hB⟩ := encVSrc_form b
  rw [show encV2 0x15 p d a b m = encVH 0x15 p d + encVSrc 13 a + encVSrc 19 b + encVMods m + 0 by rw [encV2, Nat.add_zero]]
  change (_ && _) = true at hw
  simp only [Bool.and_eq_true] at hw
  refine VWord.fits (op := 0x15) (p := p) (d := d) (w := m) (C := 0) (sc := 0) (vc := 0) (by decide) (by decide) h1 h2 h3 h4 (by decide) (by decide) (hA 13) (hB 19) rfl fun x X =>
    decoded (by unfold decodeV; rw [if_neg (ne_zero X.bop (by decide)), X.bop]; rfl) ?_ ?_
  · exact good_append.2 ⟨X.kdok (by omega), X.row hw.1 (X.plain hw.2) X.noC⟩
  · rw [X.pred, X.reg (.inr rfl), X.nw, X.srcA hA, X.srcB hB, X.mods]
theorem Sys2Proof.Laws.RoundTrip.vclass (u : VUnit) (p : Fin 64) (d : Dst 32) (a : VSrc) (m : VMods) :
    Statement (.vclass u p d a m) := of_fits (w := encV1 0x16 p d a m) rfl fun hw => by
  obtain ⟨sa, va, h1, h2, hA⟩ := encVSrc_form a
  rw [show encV1 0x16 p d a m = encVH 0x16 p d + encVSrc 13 a + 0 + encVMods m + 0 by rw [encV1, Nat.add_zero, Nat.add_zero]]
  change (_ && _) = true at hw
  simp only [Bool.and_eq_true] at hw
  refine VWord.fits (op := 0x16) (p := p) (d := d) (w := m) (B := 0) (sb := 0) (vb := 0) (C := 0) (sc := 0) (vc := 0) (by decide) (by decide) h1 h2 (by decide) (by decide) (by decide) (by decide) (hA 13) rfl rfl fun x X =>
    decoded (by unfold decodeV; rw [if_neg (ne_zero X.bop (by decide)), X.bop]; rfl) ?_ ?_
  · exact X.row (by simpa using hw.1) (X.plain hw.2) (good_append.2 ⟨X.noB, X.noC⟩)
  · rw [X.pred, X.reg (.inl rfl), X.nw, X.srcA hA, X.mods]
theorem Sys2Proof.Laws.RoundTrip.vsel (u : VUnit) (p : Fin 64) (d : Dst 32) (a : VSrc) (b : VSrc) (ks : Fin 8) :
    Statement (.vsel u p d a b ks) := of_fits (w := encV2 0x17 p d a b ⟨0, 0, false, ks⟩) rfl fun _ => by
  obtain ⟨sa, va, h1, h2, hA⟩ := encVSrc_form a
  obtain ⟨sb, vb, h3, h4, hB⟩ := encVSrc_form b
  rw [show encV2 0x17 p d a b ⟨0, 0, false, ks⟩ = encVH 0x17 p d + encVSrc 13 a + encVSrc 19 b + encVMods ⟨0, 0, false, ks⟩ + 0 by rw [encV2, Nat.add_zero]]
  refine VWord.fits (op := 0x17) (p := p) (d := d) (w := ⟨0, 0, false, ks⟩) (C := 0) (sc := 0) (vc := 0) (by decide) (by decide) h1 h2 h3 h4 (by decide) (by decide) (hA 13) (hB 19) rfl fun x X =>
    decoded (by unfold decodeV; rw [if_neg (ne_zero X.bop (by decide)), X.bop]; rfl) ?_ ?_
  · exact good_append.2 ⟨good_append.2 ⟨X.noC, X.noMods⟩, X.top⟩
  · rw [X.pred, X.reg (.inl rfl), X.nw, X.srcA hA, X.srcB hB, X.mask]
theorem Sys2Proof.Laws.RoundTrip.vrcp (u : VUnit) (p : Fin 64) (d : Dst 32) (a : VSrc) (m : VMods) :
    Statement (.vrcp u p d a m) := of_fits (w := encV1 0x18 p d a m) rfl fun hw => by
  obtain ⟨sa, va, h1, h2, hA⟩ := encVSrc_form a
  rw [show encV1 0x18 p d a m = encVH 0x18 p d + encVSrc 13 a + 0 + encVMods m + 0 by rw [encV1, Nat.add_zero, Nat.add_zero]]
  refine VWord.fits (op := 0x18) (p := p) (d := d) (w := m) (B := 0) (sb := 0) (vb := 0) (C := 0) (sc := 0) (vc := 0) (by decide) (by decide) h1 h2 (by decide) (by decide) (by decide) (by decide) (hA 13) rfl rfl fun x X =>
    decoded (by unfold decodeV; rw [if_neg (ne_zero X.bop (by decide)), X.bop]; rfl) ?_ ?_
  · exact X.row hw good_nil (good_append.2 ⟨X.noB, X.noC⟩)
  · rw [X.pred, X.reg (.inl rfl), X.nw, X.srcA hA, X.mods]
theorem Sys2Proof.Laws.RoundTrip.vrsqrt (u : VUnit) (p : Fin 64) (d : Dst 32) (a : VSrc) (m : VMods) :
    Statement (.vrsqrt u p d a m) := of_fits (w := encV1 0x19 p d a m) rfl fun hw => by
  obtain ⟨sa, va, h1, h2, hA⟩ := encVSrc_form a
  rw [show encV1 0x19 p d a m = encVH 0x19 p d + encVSrc 13 a + 0 + encVMods m + 0 by rw [encV1, Nat.add_zero, Nat.add_zero]]
  refine VWord.fits (op := 0x19) (p := p) (d := d) (w := m) (B := 0) (sb := 0) (vb := 0) (C := 0) (sc := 0) (vc := 0) (by decide) (by decide) h1 h2 (by decide) (by decide) (by decide) (by decide) (hA 13) rfl rfl fun x X =>
    decoded (by unfold decodeV; rw [if_neg (ne_zero X.bop (by decide)), X.bop]; rfl) ?_ ?_
  · exact X.row hw good_nil (good_append.2 ⟨X.noB, X.noC⟩)
  · rw [X.pred, X.reg (.inl rfl), X.nw, X.srcA hA, X.mods]
theorem Sys2Proof.Laws.RoundTrip.vsqrt (u : VUnit) (p : Fin 64) (d : Dst 32) (a : VSrc) (m : VMods) :
    Statement (.vsqrt u p d a m) := of_fits (w := encV1 0x1A p d a m) rfl fun hw => by
  obtain ⟨sa, va, h1, h2, hA⟩ := encVSrc_form a
  rw [show encV1 0x1A p d a m = encVH 0x1A p d + encVSrc 13 a + 0 + encVMods m + 0 by rw [encV1, Nat.add_zero, Nat.add_zero]]
  refine VWord.fits (op := 0x1A) (p := p) (d := d) (w := m) (B := 0) (sb := 0) (vb := 0) (C := 0) (sc := 0) (vc := 0) (by decide) (by decide) h1 h2 (by decide) (by decide) (by decide) (by decide) (hA 13) rfl rfl fun x X =>
    decoded (by unfold decodeV; rw [if_neg (ne_zero X.bop (by decide)), X.bop]; rfl) ?_ ?_
  · exact X.row hw good_nil (good_append.2 ⟨X.noB, X.noC⟩)
  · rw [X.pred, X.reg (.inl rfl), X.nw, X.srcA hA, X.mods]
theorem Sys2Proof.Laws.RoundTrip.vexp2 (u : VUnit) (p : Fin 64) (d : Dst 32) (a : VSrc) (m : VMods) :
    Statement (.vexp2 u p d a m) := of_fits (w := encV1 0x1B p d a m) rfl fun hw => by
  obtain ⟨sa, va, h1, h2, hA⟩ := encVSrc_form a
  rw [show encV1 0x1B p d a m = encVH 0x1B p d + encVSrc 13 a + 0 + encVMods m + 0 by rw [encV1, Nat.add_zero, Nat.add_zero]]
  refine VWord.fits (op := 0x1B) (p := p) (d := d) (w := m) (B := 0) (sb := 0) (vb := 0) (C := 0) (sc := 0) (vc := 0) (by decide) (by decide) h1 h2 (by decide) (by decide) (by decide) (by decide) (hA 13) rfl rfl fun x X =>
    decoded (by unfold decodeV; rw [if_neg (ne_zero X.bop (by decide)), X.bop]; rfl) ?_ ?_
  · exact X.row hw good_nil (good_append.2 ⟨X.noB, X.noC⟩)
  · rw [X.pred, X.reg (.inl rfl), X.nw, X.srcA hA, X.mods]
theorem Sys2Proof.Laws.RoundTrip.vlog2 (u : VUnit) (p : Fin 64) (d : Dst 32) (a : VSrc) (m : VMods) :
    Statement (.vlog2 u p d a m) := of_fits (w := encV1 0x1C p d a m) rfl fun hw => by
  obtain ⟨sa, va, h1, h2, hA⟩ := encVSrc_form a
  rw [show encV1 0x1C p d a m = encVH 0x1C p d + encVSrc 13 a + 0 + encVMods m + 0 by rw [encV1, Nat.add_zero, Nat.add_zero]]
  refine VWord.fits (op := 0x1C) (p := p) (d := d) (w := m) (B := 0) (sb := 0) (vb := 0) (C := 0) (sc := 0) (vc := 0) (by decide) (by decide) h1 h2 (by decide) (by decide) (by decide) (by decide) (hA 13) rfl rfl fun x X =>
    decoded (by unfold decodeV; rw [if_neg (ne_zero X.bop (by decide)), X.bop]; rfl) ?_ ?_
  · exact X.row hw good_nil (good_append.2 ⟨X.noB, X.noC⟩)
  · rw [X.pred, X.reg (.inl rfl), X.nw, X.srcA hA, X.mods]
theorem Sys2Proof.Laws.RoundTrip.vtanh (u : VUnit) (p : Fin 64) (d : Dst 32) (a : VSrc) (m : VMods) :
    Statement (.vtanh u p d a m) := of_fits (w := encV1 0x1D p d a m) rfl fun hw => by
  obtain ⟨sa, va, h1, h2, hA⟩ := encVSrc_form a
  rw [show encV1 0x1D p d a m = encVH 0x1D p d + encVSrc 13 a + 0 + encVMods m + 0 by rw [encV1, Nat.add_zero, Nat.add_zero]]
  refine VWord.fits (op := 0x1D) (p := p) (d := d) (w := m) (B := 0) (sb := 0) (vb := 0) (C := 0) (sc := 0) (vc := 0) (by decide) (by decide) h1 h2 (by decide) (by decide) (by decide) (by decide) (hA 13) rfl rfl fun x X =>
    decoded (by unfold decodeV; rw [if_neg (ne_zero X.bop (by decide)), X.bop]; rfl) ?_ ?_
  · exact X.row hw good_nil (good_append.2 ⟨X.noB, X.noC⟩)
  · rw [X.pred, X.reg (.inl rfl), X.nw, X.srcA hA, X.mods]
theorem Sys2Proof.Laws.RoundTrip.vcvt (u : VUnit) (p : Fin 64) (d : Dst 32) (a : VSrc) (m : VMods) :
    Statement (.vcvt u p d a m) := of_fits (w := encV1 0x1E p d a m) rfl fun hw => by
  obtain ⟨sa, va, h1, h2, hA⟩ := encVSrc_form a
  rw [show encV1 0x1E p d a m = encVH 0x1E p d + encVSrc 13 a + 0 + encVMods m + 0 by rw [encV1, Nat.add_zero, Nat.add_zero]]
  refine VWord.fits (op := 0x1E) (p := p) (d := d) (w := m) (B := 0) (sb := 0) (vb := 0) (C := 0) (sc := 0) (vc := 0) (by decide) (by decide) h1 h2 (by decide) (by decide) (by decide) (by decide) (hA 13) rfl rfl fun x X =>
    decoded (by unfold decodeV; rw [if_neg (ne_zero X.bop (by decide)), X.bop]; rfl) ?_ ?_
  · exact X.row hw good_nil (good_append.2 ⟨X.noB, X.noC⟩)
  · rw [X.pred, X.reg (.inl rfl), X.nw, X.srcA hA, X.mods]
theorem Sys2Proof.Laws.RoundTrip.vscale (u : VUnit) (p : Fin 64) (d : Dst 32) (a : VSrc) (b : VSrc) (m : VMods) :
    Statement (.vscale u p d a b m) := of_fits (w := encV2 0x1F p d a b m) rfl fun hw => by
  obtain ⟨sa, va, h1, h2, hA⟩ := encVSrc_form a
  obtain ⟨sb, vb, h3, h4, hB⟩ := encVSrc_form b
  rw [show encV2 0x1F p d a b m = encVH 0x1F p d + encVSrc 13 a + encVSrc 19 b + encVMods m + 0 by rw [encV2, Nat.add_zero]]
  refine VWord.fits (op := 0x1F) (p := p) (d := d) (w := m) (C := 0) (sc := 0) (vc := 0) (by decide) (by decide) h1 h2 h3 h4 (by decide) (by decide) (hA 13) (hB 19) rfl fun x X =>
    decoded (by unfold decodeV; rw [if_neg (ne_zero X.bop (by decide)), X.bop]; rfl) ?_ ?_
  · exact X.row hw good_nil X.noC
  · rw [X.pred, X.reg (.inl rfl), X.nw, X.srcA hA, X.srcB hB, X.mods]
theorem Sys2Proof.Laws.RoundTrip.vquant (u : VUnit) (p : Fin 64) (d : Dst 32) (a : VSrc) (b : VSrc) (m : VMods) :
    Statement (.vquant u p d a b m) := of_fits (w := encV2 0x20 p d a b m) rfl fun hw => by
  obtain ⟨sa, va, h1, h2, hA⟩ := encVSrc_form a
  obtain ⟨sb, vb, h3, h4, hB⟩ := encVSrc_form b
  rw [show encV2 0x20 p d a b m = encVH 0x20 p d + encVSrc 13 a + encVSrc 19 b + encVMods m + 0 by rw [encV2, Nat.add_zero]]
  refine VWord.fits (op := 0x20) (p := p) (d := d) (w := m) (C := 0) (sc := 0) (vc := 0) (by decide) (by decide) h1 h2 h3 h4 (by decide) (by decide) (hA 13) (hB 19) rfl fun x X =>
    decoded (by unfold decodeV; rw [if_neg (ne_zero X.bop (by decide)), X.bop]; rfl) ?_ ?_
  · exact X.row hw good_nil X.noC
  · rw [X.pred, X.reg (.inl rfl), X.nw, X.srcA hA, X.srcB hB, X.mods]
theorem Sys2Proof.Laws.RoundTrip.vradd (u : VUnit) (p : Fin 64) (d : Dst 32) (a : VSrc) (m : VMods) :
    Statement (.vradd u p d a m) := of_fits (w := encV1 0x21 p d a m) rfl fun hw => by
  obtain ⟨sa, va, h1, h2, hA⟩ := encVSrc_form a
  rw [show encV1 0x21 p d a m = encVH 0x21 p d + encVSrc 13 a + 0 + encVMods m + 0 by rw [encV1, Nat.add_zero, Nat.add_zero]]
  refine VWord.fits (op := 0x21) (p := p) (d := d) (w := m) (B := 0) (sb := 0) (vb := 0) (C := 0) (sc := 0) (vc := 0) (by decide) (by decide) h1 h2 (by decide) (by decide) (by decide) (by decide) (hA 13) rfl rfl fun x X =>
    decoded (by unfold decodeV; rw [if_neg (ne_zero X.bop (by decide)), X.bop]; rfl) ?_ ?_
  · exact X.row (X.both hw).1 (X.both hw).2 (good_append.2 ⟨X.noB, X.noC⟩)
  · rw [X.pred, X.reg (.inl rfl), X.nw, X.srcA hA, X.mods]
theorem Sys2Proof.Laws.RoundTrip.vrmax (u : VUnit) (p : Fin 64) (d : Dst 32) (a : VSrc) (m : VMods) :
    Statement (.vrmax u p d a m) := of_fits (w := encV1 0x22 p d a m) rfl fun hw => by
  obtain ⟨sa, va, h1, h2, hA⟩ := encVSrc_form a
  rw [show encV1 0x22 p d a m = encVH 0x22 p d + encVSrc 13 a + 0 + encVMods m + 0 by rw [encV1, Nat.add_zero, Nat.add_zero]]
  change (_ && _) = true at hw
  simp only [Bool.and_eq_true] at hw
  refine VWord.fits (op := 0x22) (p := p) (d := d) (w := m) (B := 0) (sb := 0) (vb := 0) (C := 0) (sc := 0) (vc := 0) (by decide) (by decide) h1 h2 (by decide) (by decide) (by decide) (by decide) (hA 13) rfl rfl fun x X =>
    decoded (by unfold decodeV; rw [if_neg (ne_zero X.bop (by decide)), X.bop]; rfl) ?_ ?_
  · exact X.row hw.1 (X.plain hw.2) (good_append.2 ⟨X.noB, X.noC⟩)
  · rw [X.pred, X.reg (.inl rfl), X.nw, X.srcA hA, X.mods]
theorem Sys2Proof.Laws.RoundTrip.vrmin (u : VUnit) (p : Fin 64) (d : Dst 32) (a : VSrc) (m : VMods) :
    Statement (.vrmin u p d a m) := of_fits (w := encV1 0x23 p d a m) rfl fun hw => by
  obtain ⟨sa, va, h1, h2, hA⟩ := encVSrc_form a
  rw [show encV1 0x23 p d a m = encVH 0x23 p d + encVSrc 13 a + 0 + encVMods m + 0 by rw [encV1, Nat.add_zero, Nat.add_zero]]
  change (_ && _) = true at hw
  simp only [Bool.and_eq_true] at hw
  refine VWord.fits (op := 0x23) (p := p) (d := d) (w := m) (B := 0) (sb := 0) (vb := 0) (C := 0) (sc := 0) (vc := 0) (by decide) (by decide) h1 h2 (by decide) (by decide) (by decide) (by decide) (hA 13) rfl rfl fun x X =>
    decoded (by unfold decodeV; rw [if_neg (ne_zero X.bop (by decide)), X.bop]; rfl) ?_ ?_
  · exact X.row hw.1 (X.plain hw.2) (good_append.2 ⟨X.noB, X.noC⟩)
  · rw [X.pred, X.reg (.inl rfl), X.nw, X.srcA hA, X.mods]
theorem Sys2Proof.Laws.RoundTrip.vbcast (u : VUnit) (p : Fin 64) (d : Dst 32) (a : VSrc) (b : VSrc) (mask : Fin 8) :
    Statement (.vbcast u p d a b mask) := of_fits (w := encV2 0x24 p d a b ⟨0, 0, false, mask⟩) rfl fun _ => by
  obtain ⟨sa, va, h1, h2, hA⟩ := encVSrc_form a
  obtain ⟨sb, vb, h3, h4, hB⟩ := encVSrc_form b
  rw [show encV2 0x24 p d a b ⟨0, 0, false, mask⟩ = encVH 0x24 p d + encVSrc 13 a + encVSrc 19 b + encVMods ⟨0, 0, false, mask⟩ + 0 by rw [encV2, Nat.add_zero]]
  refine VWord.fits (op := 0x24) (p := p) (d := d) (w := ⟨0, 0, false, mask⟩) (C := 0) (sc := 0) (vc := 0) (by decide) (by decide) h1 h2 h3 h4 (by decide) (by decide) (hA 13) (hB 19) rfl fun x X =>
    decoded (by unfold decodeV; rw [if_neg (ne_zero X.bop (by decide)), X.bop]; rfl) ?_ ?_
  · exact good_append.2 ⟨good_append.2 ⟨X.noC, X.noMods⟩, X.top⟩
  · rw [X.pred, X.reg (.inl rfl), X.nw, X.srcA hA, X.srcB hB, X.mask]
theorem Sys2Proof.Laws.RoundTrip.vperm (u : VUnit) (p : Fin 64) (d : Dst 32) (a : VSrc) (b : VSrc) (c : VSrc) (mask : Fin 8) :
    Statement (.vperm u p d a b c mask) := of_fits (w := encV2 0x25 p d a b ⟨0, 0, false, mask⟩ + encVSrc 25 c) rfl fun _ => by
  obtain ⟨sa, va, h1, h2, hA⟩ := encVSrc_form a
  obtain ⟨sb, vb, h3, h4, hB⟩ := encVSrc_form b
  obtain ⟨sc, vc, h5, h6, hC⟩ := encVSrc_form c
  rw [show encV2 0x25 p d a b ⟨0, 0, false, mask⟩ + encVSrc 25 c = encVH 0x25 p d + encVSrc 13 a + encVSrc 19 b + encVMods ⟨0, 0, false, mask⟩ + encVSrc 25 c by rw [encV2]]
  refine VWord.fits (op := 0x25) (p := p) (d := d) (w := ⟨0, 0, false, mask⟩) (by decide) (by decide) h1 h2 h3 h4 h5 h6 (hA 13) (hB 19) (hC 25) fun x X =>
    decoded (by unfold decodeV; rw [if_neg (ne_zero X.bop (by decide)), X.bop]; rfl) ?_ ?_
  · exact good_append.2 ⟨X.noMods, X.top⟩
  · rw [X.pred, X.reg (.inl rfl), X.nw, X.srcA hA, X.srcB hB, X.srcC hC, X.mask]
theorem Sys2Proof.Laws.RoundTrip.vrotl (u : VUnit) (p : Fin 64) (d : Dst 32) (a : VSrc) (b : VSrc) (mask : Fin 8) :
    Statement (.vrotl u p d a b mask) := of_fits (w := encV2 0x26 p d a b ⟨0, 0, false, mask⟩) rfl fun _ => by
  obtain ⟨sa, va, h1, h2, hA⟩ := encVSrc_form a
  obtain ⟨sb, vb, h3, h4, hB⟩ := encVSrc_form b
  rw [show encV2 0x26 p d a b ⟨0, 0, false, mask⟩ = encVH 0x26 p d + encVSrc 13 a + encVSrc 19 b + encVMods ⟨0, 0, false, mask⟩ + 0 by rw [encV2, Nat.add_zero]]
  refine VWord.fits (op := 0x26) (p := p) (d := d) (w := ⟨0, 0, false, mask⟩) (C := 0) (sc := 0) (vc := 0) (by decide) (by decide) h1 h2 h3 h4 (by decide) (by decide) (hA 13) (hB 19) rfl fun x X =>
    decoded (by unfold decodeV; rw [if_neg (ne_zero X.bop (by decide)), X.bop]; rfl) ?_ ?_
  · exact good_append.2 ⟨good_append.2 ⟨X.noC, X.noMods⟩, X.top⟩
  · rw [X.pred, X.reg (.inl rfl), X.nw, X.srcA hA, X.srcB hB, X.mask]
theorem Sys2Proof.Laws.RoundTrip.viota (u : VUnit) (p : Fin 64) (d : Dst 32) (a : VSrc) (m : VMods) :
    Statement (.viota u p d a m) := of_fits (w := encV1 0x27 p d a m) rfl fun hw => by
  obtain ⟨sa, va, h1, h2, hA⟩ := encVSrc_form a
  rw [show encV1 0x27 p d a m = encVH 0x27 p d + encVSrc 13 a + 0 + encVMods m + 0 by rw [encV1, Nat.add_zero, Nat.add_zero]]
  change (_ && _) = true at hw
  simp only [Bool.and_eq_true] at hw
  refine VWord.fits (op := 0x27) (p := p) (d := d) (w := m) (B := 0) (sb := 0) (vb := 0) (C := 0) (sc := 0) (vc := 0) (by decide) (by decide) h1 h2 (by decide) (by decide) (by decide) (by decide) (hA 13) rfl rfl fun x X =>
    decoded (by unfold decodeV; rw [if_neg (ne_zero X.bop (by decide)), X.bop]; rfl) ?_ ?_
  · exact X.row hw.1 (X.plain hw.2) (good_append.2 ⟨X.noB, X.noC⟩)
  · rw [X.pred, X.reg (.inl rfl), X.nw, X.srcA hA, X.mods]
theorem Sys2Proof.Laws.RoundTrip.vmovk (u : VUnit) (p : Fin 64) (d : Dst 8) (a : Fin 8) (b : Fin 8) (op : BitVec 5) :
    Statement (.vmovk u p d a b op) := of_fits (w := encVH 0x28 p d + a.val * 2 ^ 14 + b.val * 2 ^ 20 + op.toNat * 2 ^ 26) rfl fun hw => by
  rw [show encVH 0x28 p d + a.val * 2 ^ 14 + b.val * 2 ^ 20 + op.toNat * 2 ^ 26 = encVH 0x28 p d + a.val * 2 ^ 14 + b.val * 2 ^ 20 + encVMods ⟨0, 0, false, 0⟩ + op.toNat * 2 ^ 26 by rw [encVMods_zero, Nat.add_zero]]
  change (_ && _) = true at hw
  simp only [Bool.and_eq_true] at hw
  refine VWord.fits (op := 0x28) (p := p) (d := d) (w := ⟨0, 0, false, 0⟩) (A := a.val * 2 ^ 14) (sa := 0) (va := a.val) (B := b.val * 2 ^ 20) (sb := 0) (vb := b.val) (C := op.toNat * 2 ^ 26) (sc := 0) (vc := op.toNat) (by decide) (by decide) (by decide) (by omega) (by decide) (by omega) (by decide) op.isLt (by omega) (by omega) (by omega) fun x X =>
    decoded (by unfold decodeV; rw [if_neg (ne_zero X.bop (by decide)), X.bop]; rfl) ?_ ?_
  · exact good_append.2 ⟨good_append.2 ⟨good_append.2 ⟨good_append.2 ⟨good_append.2 ⟨good_append.2 ⟨good_append.2 ⟨good_append.2 ⟨(X.kdok (by omega)), (X.karg)⟩, (X.kbrg)⟩, (X.kop.1)⟩, (by rw [X.kop.2, good_lim]; exact hw.1)⟩, (by rw [X.kop.2, X.kb, good_lim]; simpa using hw.2)⟩, X.noMask⟩, X.noMods⟩, X.top⟩
  · rw [X.pred, X.reg (.inr rfl), X.nw, X.ka, X.kb, X.kop.2]
theorem Sys2Proof.Laws.RoundTrip.kpopc (u : VUnit) (p : Fin 64) (d : Dst 32) (a : Fin 8) (mask : Fin 8) :
    Statement (.kpopc u p d a mask) := of_fits (w := encVH 0x29 p d + a.val * 2 ^ 14 + mask.val * 2 ^ 31) rfl fun _ => by
  rw [show encVH 0x29 p d + a.val * 2 ^ 14 + mask.val * 2 ^ 31 = encVH 0x29 p d + a.val * 2 ^ 14 + 0 + encVMods ⟨0, 0, false, mask⟩ + 0 by rw [encVMods_mask, Nat.add_zero, Nat.add_zero]]
  refine VWord.fits (op := 0x29) (p := p) (d := d) (w := ⟨0, 0, false, mask⟩) (A := a.val * 2 ^ 14) (sa := 0) (va := a.val) (B := 0) (sb := 0) (vb := 0) (C := 0) (sc := 0) (vc := 0) (by decide) (by decide) (by decide) (by omega) (by decide) (by decide) (by decide) (by decide) (by omega) rfl rfl fun x X =>
    decoded (by unfold decodeV; rw [if_neg (ne_zero X.bop (by decide)), X.bop]; rfl) ?_ ?_
  · exact good_append.2 ⟨good_append.2 ⟨good_append.2 ⟨good_append.2 ⟨(X.karg), X.noB⟩, X.noC⟩, X.noMods⟩, X.top⟩
  · rw [X.pred, X.reg (.inl rfl), X.nw, X.ka, X.mask]
theorem Sys2Proof.Laws.RoundTrip.vsig (u : VUnit) (p : Fin 64) (d : Dst 32) (a : VSrc) (h : Fin 16) (ety : BitVec 4) :
    Statement (.vsig u p d a h ety) := of_fits (w := encV2 0x2A p d a (.bcast h) ⟨ety, 0, false, 0⟩) rfl fun hw => by
  obtain ⟨sa, va, h1, h2, hA⟩ := encVSrc_form a
  rw [show encV2 0x2A p d a (.bcast h) ⟨ety, 0, false, 0⟩ = encVH 0x2A p d + encVSrc 13 a + encVSrc 19 (.bcast h) + encVMods ⟨ety, 0, false, 0⟩ + 0 by rw [encV2, Nat.add_zero]]
  refine VWord.fits (op := 0x2A) (p := p) (d := d) (w := ⟨ety, 0, false, 0⟩) (B := encVSrc 19 (.bcast h)) (sb := 1) (vb := 16 + h.val) (C := 0) (sc := 0) (vc := 0) (by decide) (by decide) h1 h2 (by decide) (by omega) (by decide) (by decide) (hA 13) (by simp [encVSrc]) rfl fun x X =>
    decoded (by unfold decodeV; rw [if_neg (ne_zero X.bop (by decide)), X.bop]; rfl) ?_ ?_
  · exact good_append.2 ⟨good_append.2 ⟨good_append.2 ⟨good_append.2 ⟨good_append.2 ⟨good_append.2 ⟨X.head.1, X.head.2.1⟩, X.noC⟩, X.noMask⟩, (by rw [vEt, X.ety, good_lim]; exact hw)⟩, (good_append.2 ⟨X.noRnd, X.noSat⟩)⟩, X.top⟩
  · rw [X.pred, X.reg (.inl rfl), X.nw, X.srcA hA, X.head.2.2, X.sigety]
theorem Sys2Proof.Laws.RoundTrip.vmov (u : VUnit) (p : Fin 64) (d : Dst 32) (a : VSrc) (mask : Fin 8) :
    Statement (.vmov u p d a mask) := of_fits (w := encV1 0x2B p d a ⟨0, 0, false, mask⟩) rfl fun _ => by
  obtain ⟨sa, va, h1, h2, hA⟩ := encVSrc_form a
  rw [show encV1 0x2B p d a ⟨0, 0, false, mask⟩ = encVH 0x2B p d + encVSrc 13 a + 0 + encVMods ⟨0, 0, false, mask⟩ + 0 by rw [encV1, Nat.add_zero, Nat.add_zero]]
  refine VWord.fits (op := 0x2B) (p := p) (d := d) (w := ⟨0, 0, false, mask⟩) (B := 0) (sb := 0) (vb := 0) (C := 0) (sc := 0) (vc := 0) (by decide) (by decide) h1 h2 (by decide) (by decide) (by decide) (by decide) (hA 13) rfl rfl fun x X =>
    decoded (by unfold decodeV; rw [if_neg (ne_zero X.bop (by decide)), X.bop]; rfl) ?_ ?_
  · exact good_append.2 ⟨good_append.2 ⟨good_append.2 ⟨X.noB, X.noC⟩, X.noMods⟩, X.top⟩
  · rw [X.pred, X.reg (.inl rfl), X.nw, X.srcA hA, X.mask]
theorem Sys2Proof.Laws.RoundTrip.vextr (u : VUnit) (p : Fin 64) (d : Dst 32) (a : VSrc) (b : VSrc) :
    Statement (.vextr u p d a b) := of_fits (w := encV2 0x2C p d a b ⟨0, 0, false, 0⟩) rfl fun _ => by
  obtain ⟨sa, va, h1, h2, hA⟩ := encVSrc_form a
  obtain ⟨sb, vb, h3, h4, hB⟩ := encVSrc_form b
  rw [show encV2 0x2C p d a b ⟨0, 0, false, 0⟩ = encVH 0x2C p d + encVSrc 13 a + encVSrc 19 b + encVMods ⟨0, 0, false, 0⟩ + 0 by rw [encV2, Nat.add_zero]]
  refine VWord.fits (op := 0x2C) (p := p) (d := d) (w := ⟨0, 0, false, 0⟩) (C := 0) (sc := 0) (vc := 0) (by decide) (by decide) h1 h2 h3 h4 (by decide) (by decide) (hA 13) (hB 19) rfl fun x X =>
    decoded (by unfold decodeV; rw [if_neg (ne_zero X.bop (by decide)), X.bop]; rfl) ?_ ?_
  · exact good_append.2 ⟨good_append.2 ⟨good_append.2 ⟨X.noC, X.noMask⟩, X.noMods⟩, X.top⟩
  · rw [X.pred, X.reg (.inl rfl), X.nw, X.srcA hA, X.srcB hB]
theorem Sys2Proof.Laws.RoundTrip.vins (u : VUnit) (p : Fin 64) (d : Dst 32) (a : VSrc) (b : VSrc) (c : VSrc) :
    Statement (.vins u p d a b c) := of_fits (w := encV2 0x2D p d a b ⟨0, 0, false, 0⟩ + encVSrc 25 c) rfl fun _ => by
  obtain ⟨sa, va, h1, h2, hA⟩ := encVSrc_form a
  obtain ⟨sb, vb, h3, h4, hB⟩ := encVSrc_form b
  obtain ⟨sc, vc, h5, h6, hC⟩ := encVSrc_form c
  rw [show encV2 0x2D p d a b ⟨0, 0, false, 0⟩ + encVSrc 25 c = encVH 0x2D p d + encVSrc 13 a + encVSrc 19 b + encVMods ⟨0, 0, false, 0⟩ + encVSrc 25 c by rw [encV2]]
  refine VWord.fits (op := 0x2D) (p := p) (d := d) (w := ⟨0, 0, false, 0⟩) (by decide) (by decide) h1 h2 h3 h4 h5 h6 (hA 13) (hB 19) (hC 25) fun x X =>
    decoded (by unfold decodeV; rw [if_neg (ne_zero X.bop (by decide)), X.bop]; rfl) ?_ ?_
  · exact good_append.2 ⟨good_append.2 ⟨X.noMask, X.noMods⟩, X.top⟩
  · rw [X.pred, X.reg (.inl rfl), X.nw, X.srcA hA, X.srcB hB, X.srcC hC]
theorem Sys2Proof.Laws.RoundTrip.vscan (u : VUnit) (p : Fin 64) (d : Dst 32) (a : VSrc) (m : VMods) :
    Statement (.vscan u p d a m) := of_fits (w := encV1 0x2E p d a m) rfl fun hw => by
  obtain ⟨sa, va, h1, h2, hA⟩ := encVSrc_form a
  rw [show encV1 0x2E p d a m = encVH 0x2E p d + encVSrc 13 a + 0 + encVMods m + 0 by rw [encV1, Nat.add_zero, Nat.add_zero]]
  refine VWord.fits (op := 0x2E) (p := p) (d := d) (w := m) (B := 0) (sb := 0) (vb := 0) (C := 0) (sc := 0) (vc := 0) (by decide) (by decide) h1 h2 (by decide) (by decide) (by decide) (by decide) (hA 13) rfl rfl fun x X =>
    decoded (by unfold decodeV; rw [if_neg (ne_zero X.bop (by decide)), X.bop]; rfl) ?_ ?_
  · exact X.row (X.both hw).1 (X.both hw).2 (good_append.2 ⟨X.noB, X.noC⟩)
  · rw [X.pred, X.reg (.inl rfl), X.nw, X.srcA hA, X.mods]
theorem Sys2Proof.Laws.RoundTrip.mzero (p : Fin 64) (zd : Fin 8) (bar : Fin 64) :
    Statement (.mzero p zd bar) := of_fits (w := encX 0x01 p zd.val 0 0 0 bar.val 0 0) rfl fun hw => by
  refine XWord.fits (p := p) (op := 0x01) (zd := zd.val) (da := 0) (db := 0) (zs := 0) (bar := bar.val) (shp := 0) (var := 0) (by decide) (by omega) (by omega) (by omega) (by omega) (by omega) (by omega) (by omega) fun x X =>
    decoded (by unfold decodeX; rw [if_neg (ne_zero X.bop (by decide)), X.bop]; rfl) ?_ ?_
  · exact good_append.2 ⟨good_append.2 ⟨good_append.2 ⟨good_append.2 ⟨good_append.2 ⟨(X.barOk hw), X.noDa⟩, X.noDb⟩, X.noZs⟩, X.noShp⟩, X.noVar⟩
  · rw [X.pred, X.rzd, X.rbar]
theorem Sys2Proof.Laws.RoundTrip.mmul (p : Fin 64) (zd : Fin 8) (da : Fin 16) (db : Fin 16) (shp : Fin 64) (set : Bool) (bar : Fin 64) :
    Statement (.mmul p zd da db shp set bar) := of_fits (w := encX 0x02 p zd.val da.val db.val 0 bar.val shp.val (bit set)) rfl fun hw => by
  have hset := bit_le set
  rw [show bit set = bit set + bit false * 2 from add_bit_false _]
  refine XWord.fits (p := p) (op := 0x02) (zd := zd.val) (da := da.val) (db := db.val) (zs := 0) (bar := bar.val) (shp := shp.val) (var := bit set + bit false * 2) (by decide) (by omega) (by omega) (by omega) (by omega) (by omega) (by omega) (by rw [show bit false = 0 from rfl]; omega) fun x X =>
    decoded (by unfold decodeX; rw [if_neg (ne_zero X.bop (by decide)), X.bop]; rfl) ?_ ?_
  · exact good_append.2 ⟨good_append.2 ⟨(X.barOk hw), X.noZs⟩, X.var1⟩
  · rw [X.pred, X.rzd, X.rda, X.rdb, X.rshp, X.rbar, X.b32]
theorem Sys2Proof.Laws.RoundTrip.mopa (p : Fin 64) (zd : Fin 8) (da : Fin 16) (db : Fin 16) (shp : Fin 64) (set : Bool) (bar : Fin 64) :
    Statement (.mopa p zd da db shp set bar) := of_fits (w := encX 0x03 p zd.val da.val db.val 0 bar.val shp.val (bit set)) rfl fun hw => by
  have hset := bit_le set
  rw [show bit set = bit set + bit false * 2 from add_bit_false _]
  refine XWord.fits (p := p) (op := 0x03) (zd := zd.val) (da := da.val) (db := db.val) (zs := 0) (bar := bar.val) (shp := shp.val) (var := bit set + bit false * 2) (by decide) (by omega) (by omega) (by omega) (by omega) (by omega) (by omega) (by rw [show bit false = 0 from rfl]; omega) fun x X =>
    decoded (by unfold decodeX; rw [if_neg (ne_zero X.bop (by decide)), X.bop]; rfl) ?_ ?_
  · exact good_append.2 ⟨good_append.2 ⟨(X.barOk hw), X.noZs⟩, X.var1⟩
  · rw [X.pred, X.rzd, X.rda, X.rdb, X.rshp, X.rbar, X.b32]
theorem Sys2Proof.Laws.RoundTrip.macc (p : Fin 64) (zd : Fin 8) (zs : Fin 8) (bar : Fin 64) :
    Statement (.macc p zd zs bar) := of_fits (w := encX 0x04 p zd.val 0 0 zs.val bar.val 0 0) rfl fun hw => by
  refine XWord.fits (p := p) (op := 0x04) (zd := zd.val) (da := 0) (db := 0) (zs := zs.val) (bar := bar.val) (shp := 0) (var := 0) (by decide) (by omega) (by omega) (by omega) (by omega) (by omega) (by omega) (by omega) fun x X =>
    decoded (by unfold decodeX; rw [if_neg (ne_zero X.bop (by decide)), X.bop]; rfl) ?_ ?_
  · exact good_append.2 ⟨good_append.2 ⟨good_append.2 ⟨good_append.2 ⟨(X.barOk hw), X.noDa⟩, X.noDb⟩, X.noShp⟩, X.noVar⟩
  · rw [X.pred, X.rzd, X.rzs, X.rbar]
theorem Sys2Proof.Laws.RoundTrip.mscl (p : Fin 64) (zd : Fin 8) (shp : Fin 64) (val : Bool) (bar : Fin 64) :
    Statement (.mscl p zd shp val bar) := of_fits (w := encX 0x05 p zd.val 0 0 0 bar.val shp.val (bit val)) rfl fun hw => by
  have hval := bit_le val
  rw [show bit val = bit val + bit false * 2 from add_bit_false _]
  change (_ && _) = true at hw
  simp only [Bool.and_eq_true] at hw
  refine XWord.fits (p := p) (op := 0x05) (zd := zd.val) (da := 0) (db := 0) (zs := 0) (bar := bar.val) (shp := shp.val) (var := bit val + bit false * 2) (by decide) (by omega) (by omega) (by omega) (by omega) (by omega) (by omega) (by rw [show bit false = 0 from rfl]; omega) fun x X =>
    decoded (by unfold decodeX; rw [if_neg (ne_zero X.bop (by decide)), X.bop]; rfl) ?_ ?_
  · exact good_append.2 ⟨good_append.2 ⟨good_append.2 ⟨good_append.2 ⟨good_append.2 ⟨(X.barOk hw.1), X.noDa⟩, X.noDb⟩, X.noZs⟩, X.var1⟩, (by rw [X.b32, X.rshp, good_lim]; simpa using hw.2)⟩
  · rw [X.pred, X.rzd, X.rshp, X.rbar, X.b32]
theorem Sys2Proof.Laws.RoundTrip.mdrn (p : Fin 64) (db : Fin 16) (zs : Fin 8) (sat : Bool) (unscale : Bool) (bar : Fin 64) :
    Statement (.mdrn p db zs sat unscale bar) := of_fits (w := encX 0x06 p 0 0 db.val zs.val bar.val 0 (bit sat + bit unscale * 2)) rfl fun hw => by
  have hsat := bit_le sat
  have hunscale := bit_le unscale
  refine XWord.fits (p := p) (op := 0x06) (zd := 0) (da := 0) (db := db.val) (zs := zs.val) (bar := bar.val) (shp := 0) (var := bit sat + bit unscale * 2) (by decide) (by omega) (by omega) (by omega) (by omega) (by omega) (by omega) (by omega) fun x X =>
    decoded (by unfold decodeX; rw [if_neg (ne_zero X.bop (by decide)), X.bop]; rfl) ?_ ?_
  · exact good_append.2 ⟨good_append.2 ⟨good_append.2 ⟨(X.barOk hw), X.noZd⟩, X.noDa⟩, X.noShp⟩
  · rw [X.pred, X.rdb, X.rzs, X.rbar, X.b32, X.b33]
theorem Sys2Proof.Laws.RoundTrip.mldz (p : Fin 64) (zd : Fin 8) (da : Fin 16) (ls : Bool) (bar : Fin 64) :
    Statement (.mldz p zd da ls bar) := of_fits (w := encX 0x07 p zd.val da.val 0 0 bar.val 0 (bit ls)) rfl fun hw => by
  have hls := bit_le ls
  rw [show bit ls = bit ls + bit false * 2 from add_bit_false _]
  refine XWord.fits (p := p) (op := 0x07) (zd := zd.val) (da := da.val) (db := 0) (zs := 0) (bar := bar.val) (shp := 0) (var := bit ls + bit false * 2) (by decide) (by omega) (by omega) (by omega) (by omega) (by omega) (by omega) (by rw [show bit false = 0 from rfl]; omega) fun x X =>
    decoded (by unfold decodeX; rw [if_neg (ne_zero X.bop (by decide)), X.bop]; rfl) ?_ ?_
  · exact good_append.2 ⟨good_append.2 ⟨good_append.2 ⟨good_append.2 ⟨(X.barOk hw), X.noDb⟩, X.noZs⟩, X.noShp⟩, X.var1⟩
  · rw [X.pred, X.rzd, X.rda, X.rbar, X.b32]
theorem Sys2Proof.Laws.RoundTrip.mtrn (p : Fin 64) (zd : Fin 8) (zs : Fin 8) (bar : Fin 64) :
    Statement (.mtrn p zd zs bar) := of_fits (w := encX 0x08 p zd.val 0 0 zs.val bar.val 0 0) rfl fun hw => by
  refine XWord.fits (p := p) (op := 0x08) (zd := zd.val) (da := 0) (db := 0) (zs := zs.val) (bar := bar.val) (shp := 0) (var := 0) (by decide) (by omega) (by omega) (by omega) (by omega) (by omega) (by omega) (by omega) fun x X =>
    decoded (by unfold decodeX; rw [if_neg (ne_zero X.bop (by decide)), X.bop]; rfl) ?_ ?_
  · exact good_append.2 ⟨good_append.2 ⟨good_append.2 ⟨good_append.2 ⟨(X.barOk hw), X.noDa⟩, X.noDb⟩, X.noShp⟩, X.noVar⟩
  · rw [X.pred, X.rzd, X.rzs, X.rbar]
theorem Sys2Proof.Laws.RoundTrip.mcopy (p : Fin 64) (zd : Fin 8) (zs : Fin 8) (bar : Fin 64) :
    Statement (.mcopy p zd zs bar) := of_fits (w := encX 0x09 p zd.val 0 0 zs.val bar.val 0 0) rfl fun hw => by
  refine XWord.fits (p := p) (op := 0x09) (zd := zd.val) (da := 0) (db := 0) (zs := zs.val) (bar := bar.val) (shp := 0) (var := 0) (by decide) (by omega) (by omega) (by omega) (by omega) (by omega) (by omega) (by omega) fun x X =>
    decoded (by unfold decodeX; rw [if_neg (ne_zero X.bop (by decide)), X.bop]; rfl) ?_ ?_
  · exact good_append.2 ⟨good_append.2 ⟨good_append.2 ⟨good_append.2 ⟨(X.barOk hw), X.noDa⟩, X.noDb⟩, X.noShp⟩, X.noVar⟩
  · rw [X.pred, X.rzd, X.rzs, X.rbar]
theorem Sys2Proof.Laws.RoundTrip.mlu (p : Fin 64) (zd : Fin 8) (pv : Fin 4) (sh : XShape) (bar : Fin 64) :
    Statement (.mlu p zd pv sh bar) := of_fits (w := encX 0x0A p zd.val sh.da.val sh.db.val 0 bar.val sh.shp.val pv.val) rfl fun hw => by
  change (_ && _) = true at hw
  simp only [Bool.and_eq_true] at hw
  refine XWord.fits (p := p) (op := 0x0A) (zd := zd.val) (da := sh.da.val) (db := sh.db.val) (zs := 0) (bar := bar.val) (shp := sh.shp.val) (var := pv.val) (by decide) (by omega) (by omega) (by omega) (by omega) (by omega) (by omega) (by omega) fun x X =>
    decoded (by unfold decodeX; rw [if_neg (ne_zero X.bop (by decide)), X.bop]; rfl) ?_ ?_
  · exact good_append.2 ⟨good_append.2 ⟨(X.barOk hw.1), X.noZs⟩, (X.noD1 (sh := sh) hw.2)⟩
  · rw [X.pred, X.rzd, X.rpv, X.rbar, X.rshp, X.rda (q := sh.da), X.rdb (q := sh.db)]
theorem Sys2Proof.Laws.RoundTrip.mchol (p : Fin 64) (zd : Fin 8) (sh : XShape) (bar : Fin 64) :
    Statement (.mchol p zd sh bar) := of_fits (w := encX 0x0B p zd.val sh.da.val sh.db.val 0 bar.val sh.shp.val 0) rfl fun hw => by
  change (_ && _) = true at hw
  simp only [Bool.and_eq_true] at hw
  refine XWord.fits (p := p) (op := 0x0B) (zd := zd.val) (da := sh.da.val) (db := sh.db.val) (zs := 0) (bar := bar.val) (shp := sh.shp.val) (var := 0) (by decide) (by omega) (by omega) (by omega) (by omega) (by omega) (by omega) (by omega) fun x X =>
    decoded (by unfold decodeX; rw [if_neg (ne_zero X.bop (by decide)), X.bop]; rfl) ?_ ?_
  · exact good_append.2 ⟨good_append.2 ⟨good_append.2 ⟨(X.barOk hw.1), X.noZs⟩, (X.noD1 (sh := sh) hw.2)⟩, X.noVar⟩
  · rw [X.pred, X.rzd, X.rbar, X.rshp, X.rda (q := sh.da), X.rdb (q := sh.db)]
theorem Sys2Proof.Laws.RoundTrip.mtrs (p : Fin 64) (zd : Fin 8) (zs : Fin 8) (up : Bool) (unit : Bool) (sh : XShape) (bar : Fin 64) :
    Statement (.mtrs p zd zs up unit sh bar) := of_fits (w := encX 0x0C p zd.val sh.da.val sh.db.val zs.val bar.val sh.shp.val (bit up + bit unit * 2)) rfl fun hw => by
  have hup := bit_le up
  have hunit := bit_le unit
  change (_ && _) = true at hw
  simp only [Bool.and_eq_true] at hw
  refine XWord.fits (p := p) (op := 0x0C) (zd := zd.val) (da := sh.da.val) (db := sh.db.val) (zs := zs.val) (bar := bar.val) (shp := sh.shp.val) (var := bit up + bit unit * 2) (by decide) (by omega) (by omega) (by omega) (by omega) (by omega) (by omega) (by omega) fun x X =>
    decoded (by unfold decodeX; rw [if_neg (ne_zero X.bop (by decide)), X.bop]; rfl) ?_ ?_
  · exact good_append.2 ⟨good_append.2 ⟨(X.barOk hw.1.1), (X.noD (sh := sh) hw.1.2)⟩, (by rw [X.rzd, X.rzs, good_lim]; exact hw.2)⟩
  · rw [X.pred, X.rzd, X.rzs, X.rbar, X.rshp, X.rda (q := sh.da), X.rdb (q := sh.db), X.b32, X.b33]
theorem Sys2Proof.Laws.RoundTrip.mqr (p : Fin 64) (zd : Fin 8) (zs : Fin 8) (sh : XShape) (bar : Fin 64) :
    Statement (.mqr p zd zs sh bar) := of_fits (w := encX 0x0D p zd.val sh.da.val sh.db.val zs.val bar.val sh.shp.val 0) rfl fun hw => by
  change (_ && _) = true at hw
  simp only [Bool.and_eq_true] at hw
  refine XWord.fits (p := p) (op := 0x0D) (zd := zd.val) (da := sh.da.val) (db := sh.db.val) (zs := zs.val) (bar := bar.val) (shp := sh.shp.val) (var := 0) (by decide) (by omega) (by omega) (by omega) (by omega) (by omega) (by omega) (by omega) fun x X =>
    decoded (by unfold decodeX; rw [if_neg (ne_zero X.bop (by decide)), X.bop]; rfl) ?_ ?_
  · exact good_append.2 ⟨good_append.2 ⟨good_append.2 ⟨(X.barOk hw.1.1), (X.noD (sh := sh) hw.1.2)⟩, X.noVar⟩, (by rw [X.rzd, X.rzs, good_lim]; exact hw.2)⟩
  · rw [X.pred, X.rzd, X.rzs, X.rbar, X.rshp, X.rda (q := sh.da), X.rdb (q := sh.db)]
theorem Sys2Proof.Laws.RoundTrip.msolve (p : Fin 64) (zd : Fin 8) (zs : Fin 8) (pv : Fin 4) (sh : XShape) (bar : Fin 64) :
    Statement (.msolve p zd zs pv sh bar) := of_fits (w := encX 0x0E p zd.val sh.da.val sh.db.val zs.val bar.val sh.shp.val pv.val) rfl fun hw => by
  change (_ && _) = true at hw
  simp only [Bool.and_eq_true] at hw
  refine XWord.fits (p := p) (op := 0x0E) (zd := zd.val) (da := sh.da.val) (db := sh.db.val) (zs := zs.val) (bar := bar.val) (shp := sh.shp.val) (var := pv.val) (by decide) (by omega) (by omega) (by omega) (by omega) (by omega) (by omega) (by omega) fun x X =>
    decoded (by unfold decodeX; rw [if_neg (ne_zero X.bop (by decide)), X.bop]; rfl) ?_ ?_
  · exact good_append.2 ⟨good_append.2 ⟨(X.barOk hw.1.1.1), (X.noD (sh := sh) hw.1.1.2)⟩, (by rw [X.rzd, X.rzs, good_lim, Bool.and_eq_true]; exact ⟨hw.1.2, hw.2⟩)⟩
  · rw [X.pred, X.rzd, X.rzs, X.rpv, X.rbar, X.rshp, X.rda (q := sh.da), X.rdb (q := sh.db)]
theorem Sys2Proof.Laws.RoundTrip.mresume (p : Fin 64) (bar : Fin 64) :
    Statement (.mresume p bar) := of_fits (w := encX 0x0F p 0 0 0 0 bar.val 0 0) rfl fun hw => by
  refine XWord.fits (p := p) (op := 0x0F) (zd := 0) (da := 0) (db := 0) (zs := 0) (bar := bar.val) (shp := 0) (var := 0) (by decide) (by omega) (by omega) (by omega) (by omega) (by omega) (by omega) (by omega) fun x X =>
    decoded (by unfold decodeX; rw [if_neg (ne_zero X.bop (by decide)), X.bop]; rfl) ?_ ?_
  · exact good_append.2 ⟨good_append.2 ⟨good_append.2 ⟨good_append.2 ⟨good_append.2 ⟨good_append.2 ⟨(X.barOk hw), X.noZd⟩, X.noDa⟩, X.noDb⟩, X.noZs⟩, X.noShp⟩, X.noVar⟩
  · rw [X.pred, X.rbar]
theorem Sys2Proof.Laws.RoundTrip.mperm (p : Fin 64) (zd : Fin 8) (pv : Fin 4) (sh : XShape) (bar : Fin 64) :
    Statement (.mperm p zd pv sh bar) := of_fits (w := encX 0x10 p zd.val sh.da.val sh.db.val 0 bar.val sh.shp.val pv.val) rfl fun hw => by
  change (_ && _) = true at hw
  simp only [Bool.and_eq_true] at hw
  refine XWord.fits (p := p) (op := 0x10) (zd := zd.val) (da := sh.da.val) (db := sh.db.val) (zs := 0) (bar := bar.val) (shp := sh.shp.val) (var := pv.val) (by decide) (by omega) (by omega) (by omega) (by omega) (by omega) (by omega) (by omega) fun x X =>
    decoded (by unfold decodeX; rw [if_neg (ne_zero X.bop (by decide)), X.bop]; rfl) ?_ ?_
  · exact good_append.2 ⟨good_append.2 ⟨(X.barOk hw.1), X.noZs⟩, (X.noD1 (sh := sh) hw.2)⟩
  · rw [X.pred, X.rzd, X.rpv, X.rbar, X.rshp, X.rda (q := sh.da), X.rdb (q := sh.db)]
theorem Sys2Proof.Laws.RoundTrip.mnorm (p : Fin 64) (zs : Fin 8) (sh : XShape) (bar : Fin 64) :
    Statement (.mnorm p zs sh bar) := of_fits (w := encX 0x11 p 0 sh.da.val sh.db.val zs.val bar.val sh.shp.val 0) rfl fun hw => by
  change (_ && _) = true at hw
  simp only [Bool.and_eq_true] at hw
  refine XWord.fits (p := p) (op := 0x11) (zd := 0) (da := sh.da.val) (db := sh.db.val) (zs := zs.val) (bar := bar.val) (shp := sh.shp.val) (var := 0) (by decide) (by omega) (by omega) (by omega) (by omega) (by omega) (by omega) (by omega) fun x X =>
    decoded (by unfold decodeX; rw [if_neg (ne_zero X.bop (by decide)), X.bop]; rfl) ?_ ?_
  · exact good_append.2 ⟨good_append.2 ⟨good_append.2 ⟨(X.barOk hw.1), X.noZd⟩, (X.noD1 (sh := sh) hw.2)⟩, X.noVar⟩
  · rw [X.pred, X.rzs, X.rbar, X.rshp, X.rda (q := sh.da), X.rdb (q := sh.db)]
theorem Sys2Proof.Laws.RoundTrip.kcpy (p : Fin 64) (dd : Fin 16) (ds : Fin 16) (k : KDone) :
    Statement (.kcpy p dd ds k) := of_fits (w := encK 0x01 p ds.val dd.val 0 0 k) rfl fun hw => by
  refine KWord.fits (p := p) (op := 0x01) (ds := ds.val) (dd := dd.val) (sa := 0) (sb := 0) (k := k) (by decide) (by omega) (by omega) (by omega) (by omega) fun x X =>
    decoded (by unfold decodeK; rw [if_neg (ne_zero X.bop (by decide)), X.bop]; rfl) ?_ ?_
  · exact good_append.2 ⟨good_append.2 ⟨(X.kok hw), X.noSa⟩, X.noSb⟩
  · rw [X.pred, X.rds, X.rdd, X.rsc, X.rlvl]
theorem Sys2Proof.Laws.RoundTrip.kmcst (p : Fin 64) (dd : Fin 16) (ds : Fin 16) (sa : Fin 64) (k : KDone) :
    Statement (.kmcst p dd ds sa k) := of_fits (w := encK 0x02 p ds.val dd.val sa.val 0 k) rfl fun hw => by
  refine KWord.fits (p := p) (op := 0x02) (ds := ds.val) (dd := dd.val) (sa := sa.val) (sb := 0) (k := k) (by decide) (by omega) (by omega) (by omega) (by omega) fun x X =>
    decoded (by unfold decodeK; rw [if_neg (ne_zero X.bop (by decide)), X.bop]; rfl) ?_ ?_
  · exact good_append.2 ⟨(X.kok hw), X.noSb⟩
  · rw [X.pred, X.rds, X.rdd, X.rsa, X.rsc, X.rlvl]
theorem Sys2Proof.Laws.RoundTrip.kred (p : Fin 64) (dd : Fin 16) (ds : Fin 16) (k : KDone) :
    Statement (.kred p dd ds k) := of_fits (w := encK 0x03 p ds.val dd.val 0 0 k) rfl fun hw => by
  refine KWord.fits (p := p) (op := 0x03) (ds := ds.val) (dd := dd.val) (sa := 0) (sb := 0) (k := k) (by decide) (by omega) (by omega) (by omega) (by omega) fun x X =>
    decoded (by unfold decodeK; rw [if_neg (ne_zero X.bop (by decide)), X.bop]; rfl) ?_ ?_
  · exact good_append.2 ⟨good_append.2 ⟨(X.kok hw), X.noSa⟩, X.noSb⟩
  · rw [X.pred, X.rds, X.rdd, X.rsc, X.rlvl]
theorem Sys2Proof.Laws.RoundTrip.kidx (p : Fin 64) (sa : Fin 64) :
    Statement (.kidx p sa) := of_fits (w := encK 0x04 p 0 0 sa.val 0 ⟨0, 0⟩) rfl fun _ => by
  refine KWord.fits (p := p) (op := 0x04) (ds := 0) (dd := 0) (sa := sa.val) (sb := 0) (k := ⟨0, 0⟩) (by decide) (by omega) (by omega) (by omega) (by omega) fun x X =>
    decoded (by unfold decodeK; rw [if_neg (ne_zero X.bop (by decide)), X.bop]; rfl) ?_ ?_
  · exact good_append.2 ⟨good_append.2 ⟨good_append.2 ⟨X.noDs, X.noDd⟩, X.noDone⟩, X.noSb⟩
  · rw [X.pred, X.rsa]
theorem Sys2Proof.Laws.RoundTrip.kgth (p : Fin 64) (dd : Fin 16) (ds : Fin 16) (sa : Fin 64) (k : KDone) :
    Statement (.kgth p dd ds sa k) := of_fits (w := encK 0x05 p ds.val dd.val sa.val 0 k) rfl fun hw => by
  refine KWord.fits (p := p) (op := 0x05) (ds := ds.val) (dd := dd.val) (sa := sa.val) (sb := 0) (k := k) (by decide) (by omega) (by omega) (by omega) (by omega) fun x X =>
    decoded (by unfold decodeK; rw [if_neg (ne_zero X.bop (by decide)), X.bop]; rfl) ?_ ?_
  · exact good_append.2 ⟨(X.kok hw), X.noSb⟩
  · rw [X.pred, X.rds, X.rdd, X.rsa, X.rsc, X.rlvl]
theorem Sys2Proof.Laws.RoundTrip.ksct (p : Fin 64) (dd : Fin 16) (ds : Fin 16) (sa : Fin 64) (k : KDone) :
    Statement (.ksct p dd ds sa k) := of_fits (w := encK 0x06 p ds.val dd.val sa.val 0 k) rfl fun hw => by
  refine KWord.fits (p := p) (op := 0x06) (ds := ds.val) (dd := dd.val) (sa := sa.val) (sb := 0) (k := k) (by decide) (by omega) (by omega) (by omega) (by omega) fun x X =>
    decoded (by unfold decodeK; rw [if_neg (ne_zero X.bop (by decide)), X.bop]; rfl) ?_ ?_
  · exact good_append.2 ⟨(X.kok hw), X.noSb⟩
  · rw [X.pred, X.rds, X.rdd, X.rsa, X.rsc, X.rlvl]
theorem Sys2Proof.Laws.RoundTrip.kroute (p : Fin 64) (dd : Fin 16) (ds : Fin 16) (sa : Fin 64) (sb : Fin 64) (k : KDone) :
    Statement (.kroute p dd ds sa sb k) := of_fits (w := encK 0x07 p ds.val dd.val sa.val sb.val k) rfl fun hw => by
  refine KWord.fits (p := p) (op := 0x07) (ds := ds.val) (dd := dd.val) (sa := sa.val) (sb := sb.val) (k := k) (by decide) (by omega) (by omega) (by omega) (by omega) fun x X =>
    decoded (by unfold decodeK; rw [if_neg (ne_zero X.bop (by decide)), X.bop]; rfl) ?_ ?_
  · exact (X.kok hw)
  · rw [X.pred, X.rds, X.rdd, X.rsa, X.rsb, X.rsc, X.rlvl]
theorem Sys2Proof.Laws.RoundTrip.ka2a (p : Fin 64) (dd : Fin 16) (ds : Fin 16) (sa : Fin 64) (sb : Fin 64) (k : KDone) :
    Statement (.ka2a p dd ds sa sb k) := of_fits (w := encK 0x08 p ds.val dd.val sa.val sb.val k) rfl fun hw => by
  refine KWord.fits (p := p) (op := 0x08) (ds := ds.val) (dd := dd.val) (sa := sa.val) (sb := sb.val) (k := k) (by decide) (by omega) (by omega) (by omega) (by omega) fun x X =>
    decoded (by unfold decodeK; rw [if_neg (ne_zero X.bop (by decide)), X.bop]; rfl) ?_ ?_
  · exact (X.kok hw)
  · rw [X.pred, X.rds, X.rdd, X.rsa, X.rsb, X.rsc, X.rlvl]
theorem Sys2Proof.Laws.RoundTrip.kgat (p : Fin 64) (dd : Fin 16) (sa : Fin 64) (sb : Fin 64) (k : KDone) :
    Statement (.kgat p dd sa sb k) := of_fits (w := encK 0x09 p 0 dd.val sa.val sb.val k) rfl fun hw => by
  refine KWord.fits (p := p) (op := 0x09) (ds := 0) (dd := dd.val) (sa := sa.val) (sb := sb.val) (k := k) (by decide) (by omega) (by omega) (by omega) (by omega) fun x X =>
    decoded (by unfold decodeK; rw [if_neg (ne_zero X.bop (by decide)), X.bop]; rfl) ?_ ?_
  · exact good_append.2 ⟨(X.kok hw), X.noDs⟩
  · rw [X.pred, X.rdd, X.rsa, X.rsb, X.rsc, X.rlvl]
theorem Sys2Proof.Laws.RoundTrip.kring (p : Fin 64) (ds : Fin 16) (e : Bool) (k : KDone) :
    Statement (.kring p ds e k) := of_fits (w := encK 0x0A p ds.val (bit e) 0 0 k) rfl fun hw => by
  have he := bit_le e
  refine KWord.fits (p := p) (op := 0x0A) (ds := ds.val) (dd := bit e) (sa := 0) (sb := 0) (k := k) (by decide) (by omega) (by omega) (by omega) (by omega) fun x X =>
    decoded (by unfold decodeK; rw [if_neg (ne_zero X.bop (by decide)), X.bop]; rfl) ?_ ?_
  · exact good_append.2 ⟨good_append.2 ⟨good_append.2 ⟨(X.kok hw), X.b10.2⟩, X.noSa⟩, X.noSb⟩
  · rw [X.pred, X.rds, X.rsc, X.rlvl, X.b10.1]
theorem Sys2Proof.Laws.RoundTrip.kfill (p : Fin 64) (dd : Fin 16) (sa : Fin 64) (k : KDone) :
    Statement (.kfill p dd sa k) := of_fits (w := encK 0x0B p 0 dd.val sa.val 0 k) rfl fun hw => by
  refine KWord.fits (p := p) (op := 0x0B) (ds := 0) (dd := dd.val) (sa := sa.val) (sb := 0) (k := k) (by decide) (by omega) (by omega) (by omega) (by omega) fun x X =>
    decoded (by unfold decodeK; rw [if_neg (ne_zero X.bop (by decide)), X.bop]; rfl) ?_ ?_
  · exact good_append.2 ⟨good_append.2 ⟨(X.kok hw), X.noDs⟩, X.noSb⟩
  · rw [X.pred, X.rdd, X.rsa, X.rsc, X.rlvl]
theorem Sys2Proof.Laws.RoundTrip.osgd (p : Fin 64) (z : Fin 8) (row : Fin 128) (dw : Fin 16) :
    Statement (.osgd p z row dw) := of_fits (w := encO 0x01 p z.val row.val dw.val 0) rfl fun _ => by
  refine OWord.fits (p := p) (op := 0x01) (z := z.val) (row := row.val) (dw := dw.val) (dx := 0) (by decide) (by omega) (by omega) (by omega) (by omega) fun x X =>
    decoded (by unfold decodeO; rw [if_neg (ne_zero X.bop (by decide)), X.bop]; rfl) ?_ ?_
  · exact good_append.2 ⟨X.noDx, X.res⟩
  · rw [X.pred, X.rz, X.rrow, X.rdw]
theorem Sys2Proof.Laws.RoundTrip.omom (p : Fin 64) (z : Fin 8) (row : Fin 128) (dw : Fin 16) (dx : Fin 16) :
    Statement (.omom p z row dw dx) := of_fits (w := encO 0x02 p z.val row.val dw.val dx.val) rfl fun _ => by
  refine OWord.fits (p := p) (op := 0x02) (z := z.val) (row := row.val) (dw := dw.val) (dx := dx.val) (by decide) (by omega) (by omega) (by omega) (by omega) fun x X =>
    decoded (by unfold decodeO; rw [if_neg (ne_zero X.bop (by decide)), X.bop]; rfl) ?_ ?_
  · exact X.res
  · rw [X.pred, X.rz, X.rrow, X.rdw, X.rdx]
theorem Sys2Proof.Laws.RoundTrip.oadam (p : Fin 64) (z : Fin 8) (row : Fin 128) (dw : Fin 16) (dx : Fin 16) :
    Statement (.oadam p z row dw dx) := of_fits (w := encO 0x03 p z.val row.val dw.val dx.val) rfl fun _ => by
  refine OWord.fits (p := p) (op := 0x03) (z := z.val) (row := row.val) (dw := dw.val) (dx := dx.val) (by decide) (by omega) (by omega) (by omega) (by omega) fun x X =>
    decoded (by unfold decodeO; rw [if_neg (ne_zero X.bop (by decide)), X.bop]; rfl) ?_ ?_
  · exact X.res
  · rw [X.pred, X.rz, X.rrow, X.rdw, X.rdx]
theorem Sys2Proof.Laws.RoundTrip.oclip (p : Fin 64) (d : Fin 8) (a : Fin 8) (b : Fin 8) :
    Statement (.oclip p d a b) := of_fits (w := encO 0x04 p b.val (d.val + a.val * 8) 0 0) rfl fun _ => by
  refine OWord.fits (p := p) (op := 0x04) (z := b.val) (row := d.val + a.val * 8) (dw := 0) (dx := 0) (by decide) (by omega) (by omega) (by omega) (by omega) fun x X =>
    decoded (by unfold decodeO; rw [if_neg (ne_zero X.bop (by decide)), X.bop]; rfl) ?_ ?_
  · exact good_append.2 ⟨good_append.2 ⟨good_append.2 ⟨X.rda.2.2, X.noDw⟩, X.noDx⟩, X.res⟩
  · rw [X.pred, X.rda.1, X.rda.2.1, X.rz]
theorem Sys2Proof.Laws.RoundTrip.oscl (p : Fin 64) (ds : Fin 16) (n : Fin 128) :
    Statement (.oscl p ds n) := of_fits (w := encO 0x05 p 0 n.val ds.val 0) rfl fun _ => by
  refine OWord.fits (p := p) (op := 0x05) (z := 0) (row := n.val) (dw := ds.val) (dx := 0) (by decide) (by omega) (by omega) (by omega) (by omega) fun x X =>
    decoded (by unfold decodeO; rw [if_neg (ne_zero X.bop (by decide)), X.bop]; rfl) ?_ ?_
  · exact good_append.2 ⟨good_append.2 ⟨X.noZ, X.noDx⟩, X.res⟩
  · rw [X.pred, X.rrow, X.rdw]
theorem Sys2Proof.Laws.RoundTrip.ogsq (p : Fin 64) (z : Fin 8) (row : Fin 128) (dx : Fin 16) :
    Statement (.ogsq p z row dx) := of_fits (w := encO 0x06 p z.val row.val 0 dx.val) rfl fun _ => by
  refine OWord.fits (p := p) (op := 0x06) (z := z.val) (row := row.val) (dw := 0) (dx := dx.val) (by decide) (by omega) (by omega) (by omega) (by omega) fun x X =>
    decoded (by unfold decodeO; rw [if_neg (ne_zero X.bop (by decide)), X.bop]; rfl) ?_ ?_
  · exact good_append.2 ⟨X.noDw, X.res⟩
  · rw [X.pred, X.rz, X.rrow, X.rdx]
theorem Sys2Proof.Laws.RoundTrip.syncBundle (c : CtxId) :
    Statement (.syncBundle c) := event rfl
theorem Sys2Proof.Laws.RoundTrip.syncRelease (c : CtxId) :
    Statement (.syncRelease c) := event rfl
theorem Sys2Proof.Laws.RoundTrip.endOfStepBundle (c : CtxId) :
    Statement (.endOfStepBundle c) := event rfl
theorem Sys2Proof.Laws.RoundTrip.laneFinish (c : CtxId) :
    Statement (.laneFinish c) := event rfl
theorem Sys2Proof.Laws.RoundTrip.resultLand (c : CtxId) :
    Statement (.resultLand c) := event rfl
theorem Sys2Proof.Laws.RoundTrip.bankSwitch (core : Fin 128) :
    Statement (.bankSwitch core) := event rfl
theorem Sys2Proof.Laws.RoundTrip.waitSatisfied (c : CtxId) :
    Statement (.waitSatisfied c) := event rfl
theorem Sys2Proof.Laws.RoundTrip.hwaitSatisfied (c : CtxId) :
    Statement (.hwaitSatisfied c) := event rfl
theorem Sys2Proof.Laws.RoundTrip.remoteFutureAnswer (c : CtxId) (r : FutureReply) :
    Statement (.remoteFutureAnswer c r) := event rfl
theorem Sys2Proof.Laws.RoundTrip.remoteWakeUp (die : Fin 4) (record : Nat) (v : Word) :
    Statement (.remoteWakeUp die record v) := event rfl
theorem Sys2Proof.Laws.RoundTrip.projectionCacheFill (core : Fin 128) (hcb : Nat) :
    Statement (.projectionCacheFill core hcb) := event rfl
theorem Sys2Proof.Laws.RoundTrip.xBarrierSatisfied (c : CtxId) :
    Statement (.xBarrierSatisfied c) := event rfl
theorem Sys2Proof.Laws.RoundTrip.matrixEngineStep (c : CtxId) :
    Statement (.matrixEngineStep c) := event rfl
theorem Sys2Proof.Laws.RoundTrip.matrixStepReplay (c : CtxId) :
    Statement (.matrixStepReplay c) := event rfl
theorem Sys2Proof.Laws.RoundTrip.kCommandStart (id : Nat) :
    Statement (.kCommandStart id) := event rfl
theorem Sys2Proof.Laws.RoundTrip.sourceReadDone (id : Nat) :
    Statement (.sourceReadDone id) := event rfl
theorem Sys2Proof.Laws.RoundTrip.visibleLevel (id : Nat) :
    Statement (.visibleLevel id) := event rfl
theorem Sys2Proof.Laws.RoundTrip.commandError (id : Nat) :
    Statement (.commandError id) := event rfl
theorem Sys2Proof.Laws.RoundTrip.kredAccept (id : Nat) :
    Statement (.kredAccept id) := event rfl
theorem Sys2Proof.Laws.RoundTrip.kringClaim (id : Nat) :
    Statement (.kringClaim id) := event rfl
theorem Sys2Proof.Laws.RoundTrip.ka2aSend (id : Nat) (party : Nat) :
    Statement (.ka2aSend id party) := event rfl
theorem Sys2Proof.Laws.RoundTrip.ka2aRoundAdvance (asid : BitVec 12) (record : Nat) :
    Statement (.ka2aRoundAdvance asid record) := event rfl
theorem Sys2Proof.Laws.RoundTrip.loadBlockResident (id : Nat) :
    Statement (.loadBlockResident id) := event rfl
theorem Sys2Proof.Laws.RoundTrip.closeWriteArrival (c : CtxId) :
    Statement (.closeWriteArrival c) := event rfl
theorem Sys2Proof.Laws.RoundTrip.trapRingConsume (r : RingId) (cons : W32) :
    Statement (.trapRingConsume r cons) := event rfl
theorem Sys2Proof.Laws.RoundTrip.dataPoison (loc : Nat) :
    Statement (.dataPoison loc) := event rfl
theorem Sys2Proof.Laws.RoundTrip.faultAnswer (who : FaultParty) (r : FaultReply) :
    Statement (.faultAnswer who r) := event rfl
theorem Sys2Proof.Laws.RoundTrip.submitGraph (mb : Fin 16) :
    Statement (.submitGraph mb) := event rfl
theorem Sys2Proof.Laws.RoundTrip.loadModule (mb : Fin 16) :
    Statement (.loadModule mb) := event rfl
theorem Sys2Proof.Laws.RoundTrip.preemptNode (mb : Fin 16) :
    Statement (.preemptNode mb) := event rfl
theorem Sys2Proof.Laws.RoundTrip.preemptAsid (mb : Fin 16) :
    Statement (.preemptAsid mb) := event rfl
theorem Sys2Proof.Laws.RoundTrip.resumeNode (mb : Fin 16) :
    Statement (.resumeNode mb) := event rfl
theorem Sys2Proof.Laws.RoundTrip.setDebugging (mb : Fin 16) :
    Statement (.setDebugging mb) := event rfl
theorem Sys2Proof.Laws.RoundTrip.releaseBreakpoint (mb : Fin 16) :
    Statement (.releaseBreakpoint mb) := event rfl
theorem Sys2Proof.Laws.RoundTrip.abortNodes (mb : Fin 16) :
    Statement (.abortNodes mb) := event rfl
theorem Sys2Proof.Laws.RoundTrip.poisonFuture (mb : Fin 16) :
    Statement (.poisonFuture mb) := event rfl
theorem Sys2Proof.Laws.RoundTrip.mailboxReservedCommand (mb : Fin 16) :
    Statement (.mailboxReservedCommand mb) := event rfl
theorem Sys2Proof.Laws.RoundTrip.dispatchDecision (die : Fin 4) :
    Statement (.dispatchDecision die) := event rfl
theorem Sys2Proof.Laws.RoundTrip.clusterClaim (die : Fin 4) :
    Statement (.clusterClaim die) := event rfl
theorem Sys2Proof.Laws.RoundTrip.traceReplayDispatch (core : Fin 128) :
    Statement (.traceReplayDispatch core) := event rfl
theorem Sys2Proof.Laws.RoundTrip.traceWaitTimeout (core : Fin 128) :
    Statement (.traceWaitTimeout core) := event rfl
theorem Sys2Proof.Laws.RoundTrip.traceFullClear (asid : BitVec 12) (base : Nat) (nrec : W32) :
    Statement (.traceFullClear asid base nrec) := event rfl
theorem Sys2Proof.Laws.RoundTrip.stepSnapshotSave (c : CtxId) :
    Statement (.stepSnapshotSave c) := event rfl
theorem Sys2Proof.Laws.RoundTrip.stepStart (c : CtxId) :
    Statement (.stepStart c) := event rfl
theorem Sys2Proof.Laws.RoundTrip.nodeActivation (asid : BitVec 12) (opb : Nat) :
    Statement (.nodeActivation asid opb) := event rfl
theorem Sys2Proof.Laws.RoundTrip.randomBufferFill (asid : BitVec 12) (opb : Nat) :
    Statement (.randomBufferFill asid opb) := event rfl
theorem Sys2Proof.Laws.RoundTrip.nodeRetirement (asid : BitVec 12) (opb : Nat) :
    Statement (.nodeRetirement asid opb) := event rfl
theorem Sys2Proof.Laws.RoundTrip.slotBoundary  :
    Statement (.slotBoundary ) := event rfl
theorem Sys2Proof.Laws.RoundTrip.watchdogExpiry (c : CtxId) :
    Statement (.watchdogExpiry c) := event rfl
theorem Sys2Proof.Laws.RoundTrip.preemptionSave (asid : BitVec 12) (opb : Nat) :
    Statement (.preemptionSave asid opb) := event rfl
theorem Sys2Proof.Laws.RoundTrip.saveAbandon (c : CtxId) :
    Statement (.saveAbandon c) := event rfl
theorem Sys2Proof.Laws.RoundTrip.moduleReset  :
    Statement (.moduleReset ) := event rfl
theorem Sys2Proof.Laws.RoundTrip.bootStageComplete (d : BootData) :
    Statement (.bootStageComplete d) := event rfl
theorem Sys2Proof.Laws.RoundTrip.configRegisterWrite (off : Nat) (v : Word) :
    Statement (.configRegisterWrite off v) := event rfl
theorem Sys2Proof.Laws.RoundTrip.monitorSample (i : Fin 32) (v : Word) :
    Statement (.monitorSample i v) := event rfl
theorem Sys2Proof.Laws.RoundTrip.monitorClear (i : Fin 32) :
    Statement (.monitorClear i) := event rfl
theorem Sys2Proof.Laws.RoundTrip.counterClear (core : Fin 128) :
    Statement (.counterClear core) := event rfl
theorem Sys2Proof.Laws.RoundTrip.flitReceive (port : Fin 16) (vl : Fin 4) (seq : Nat) (chk : FlitCheck) :
    Statement (.flitReceive port vl seq chk) := event rfl
theorem Sys2Proof.Laws.RoundTrip.flitReplay (port : Fin 16) (vl : Fin 4) (seq : Nat) :
    Statement (.flitReplay port vl seq) := event rfl
theorem Sys2Proof.Laws.RoundTrip.pauseFlit (port : Fin 16) (vl : Fin 3) :
    Statement (.pauseFlit port vl) := event rfl
theorem Sys2Proof.Laws.RoundTrip.resumeFlit (port : Fin 16) (vl : Fin 3) :
    Statement (.resumeFlit port vl) := event rfl
theorem Sys2Proof.Laws.RoundTrip.portDown (port : Fin 16) :
    Statement (.portDown port) := event rfl
theorem Sys2Proof.Laws.RoundTrip.remoteKcpyArrival (device : Nat) (copy : FarCopy) :
    Statement (.remoteKcpyArrival device copy) := event rfl
theorem Sys2Proof.Laws.RoundTrip.heartbeatSend (core : Fin 128) :
    Statement (.heartbeatSend core) := event rfl
theorem Sys2Proof.Laws.RoundTrip.heartbeatReceive (core : Fin 128) (dir : Fin 4) (f : NFlit) :
    Statement (.heartbeatReceive core dir f) := event rfl
theorem Sys2Proof.Laws.RoundTrip.heartbeatPeriodEnd (core : Fin 128) :
    Statement (.heartbeatPeriodEnd core) := event rfl
theorem Sys2Proof.Laws.RoundTrip.voteReceive (core : Fin 128) (f : NFlit) :
    Statement (.voteReceive core f) := event rfl
theorem Sys2Proof.Laws.RoundTrip.fenceNotice (core : Fin 128) (f : NFlit) :
    Statement (.fenceNotice core f) := event rfl
theorem Sys2Proof.Laws.RoundTrip.selfTestComplete (core : Fin 128) (sig : W32) :
    Statement (.selfTestComplete core sig) := event rfl
theorem Sys2Proof.Laws.RoundTrip.appealReceive (core : Fin 128) (f : NFlit) :
    Statement (.appealReceive core f) := event rfl
theorem Sys2Proof.Laws.RoundTrip.reinstatementNotice (core : Fin 128) (f : NFlit) :
    Statement (.reinstatementNotice core f) := event rfl
theorem Sys2Proof.Laws.RoundTrip.controlHeartbeat (i : Fin 8) :
    Statement (.controlHeartbeat i) := event rfl
theorem Sys2Proof.Laws.RoundTrip.standbyTakeover (i : Fin 8) :
    Statement (.standbyTakeover i) := event rfl
theorem Sys2Proof.Laws.RoundTrip.cxlDeviceRemoved (port : Fin 4) (base : Nat) (size : Nat) :
    Statement (.cxlDeviceRemoved port base size) := event rfl
theorem Sys2Proof.Laws.RoundTrip.portRetrained (port : Fin 16) :
    Statement (.portRetrained port) := event rfl
theorem Sys2Proof.Laws.RoundTrip.softError (c : CtxId) (during : Bool) (t : SoftTarget) :
    Statement (.softError c during t) := event rfl
theorem Sys2Proof.Laws.RoundTrip.translationInvalidation (asid : BitVec 12) (va : Nat) (writes : List ExtWrite) :
    Statement (.translationInvalidation asid va writes) := event rfl
theorem Sys2Proof.Laws.RoundTrip.remoteFutureAccess (asid : BitVec 12) (addr : Nat) (a : RemoteAccess) :
    Statement (.remoteFutureAccess asid addr a) := event rfl
end

