-- ==== Sys2Proof/Laws/Slots.lean ====
section
/-!
SUPPORT. What the shared forms of a slot operation come to, one lemma for each.
-/
namespace Sys2Proof.Laws
open Sys2Proof Sys2Proof.Machine

variable {s t : State} {sl : Slot} {p : Fin 64}

/-! ## slotOp (R47, R334) -/

/-- An operation that takes effect issues. -/
theorem slotOp_done (h : s.me.pget p = true) : s.slotOp sl p (.done t) = .next t.issued := by
  simp [State.slotOp, h, State.issued]
/-- An operation that fails takes the precise trap. -/
theorem slotOp_fail {f : Fail} (h : s.me.pget p = true) :
    s.slotOp sl p (.fail f) = .next { s.trap s.cur sl 0 s.me.pc s.me.pc f with verdict := .failed sl f } := by
  simp [State.slotOp, h]
/-- An operation whose bundle does not issue yet. -/
theorem slotOp_hold (h : s.me.pget p = true) : s.slotOp sl p (.hold t) = .next { t with verdict := .held } := by
  simp [State.slotOp, h]
/-- Without its predicate an operation has no effect. -/
theorem slotOp_off {r : Res} (h : s.me.pget p = false) : s.slotOp sl p r = .next s.issued := by
  simp [State.slotOp, h, State.issued]
/-- A slot operation always answers a next state. -/
theorem slotOp_next (s : State) (sl : Slot) (p : Fin 64) (r : Res) : ∃ t, s.slotOp sl p r = .next t := by
  unfold State.slotOp; split
  · cases r <;> exact ⟨_, rfl⟩
  · exact ⟨_, rfl⟩
/-- Only an operation that issued has the verdict that it did: it was done, or its predicate was false. -/
theorem slotOp_ok {r : Res} (h : s.slotOp sl p r = .next t) (hv : t.verdict = .ok) :
    t = s.issued ∨ ∃ u, r = .done u ∧ t = u.issued := by
  unfold State.slotOp at h; split at h
  · cases r <;> simp only [Host.Outcome.next.injEq] at h <;> subst h
    · exact .inr ⟨_, rfl, rfl⟩
    all_goals simp at hv
  · simp only [Host.Outcome.next.injEq] at h; exact .inl h.symm

/-! ## need -/

@[simp] theorem need_ok {α : Type} (a : α) (k : α → Res) : Res.need (.ok a) k = k a := rfl
@[simp] theorem need_error {α : Type} (f : Fail) (k : α → Res) : Res.need (.error f) k = .fail f := rfl
/-- A continuation is reached only with its value. -/
theorem need_done {α : Type} {e : Except Fail α} {k : α → Res} {u : State} (h : Res.need e k = .done u) :
    ∃ a, e = .ok a ∧ k a = .done u := by
  cases e with
  | ok a => exact ⟨a, rfl, h⟩
  | error f => simp at h

/-! ## The forms of the scalar slots -/

section
variable {u : SUnit} {d : Dst 64} {a c : SSrc} {b : SBSrc} {lat : Nat} {x y : SVal}

theorem sop2_ok {f : Word → Word → Word × Flags} (h : s.me.pget p = true) (ha : s.me.readS a = .ok x)
    (hb : s.me.readSB b = .ok y) :
    sop2 u p d a b lat f s = .next (s.landS u.slot lat d (f x.val y.val).1 (f x.val y.val).2).issued := by
  simp [sop2, ha, hb, slotOp_done h]
theorem sop1_ok {f : Word → Word × Flags} (h : s.me.pget p = true) (ha : s.me.readS a = .ok x) :
    sop1 u p d a lat f s = .next (s.landS u.slot lat d (f x.val).1 (f x.val).2).issued := by
  simp [sop1, ha, slotOp_done h]
theorem scmp_ok {f : Word → Word → Bool} (h : s.me.pget p = true) (ha : s.me.readS a = .ok x)
    (hb : s.me.readSB b = .ok y) : scmp u p d a b f s = .next (s.landP u.slot 1 d (f x.val y.val) 0).issued := by
  simp [scmp, ha, hb, slotOp_done h]
theorem pop2_ok {f : Bool → Bool → Bool} {v w : Bool} (h : s.me.pget p = true) (ha : s.me.readP a = .ok v)
    (hb : s.me.readP c = .ok w) : pop2 u p d a c f s = .next (s.landP u.slot 1 d (f v w) 0).issued := by
  simp [pop2, ha, hb, slotOp_done h]
theorem sop2_fail {f : Word → Word → Word × Flags} {e : Fail} (h : s.me.pget p = true) (ha : s.me.readS a = .error e) :
    sop2 u p d a b lat f s = .next { s.trap s.cur u.slot 0 s.me.pc s.me.pc e with verdict := .failed u.slot e } := by
  simp [sop2, ha, slotOp_fail h]
theorem sop1_fail {f : Word → Word × Flags} {e : Fail} (h : s.me.pget p = true) (ha : s.me.readS a = .error e) :
    sop1 u p d a lat f s = .next { s.trap s.cur u.slot 0 s.me.pc s.me.pc e with verdict := .failed u.slot e } := by
  simp [sop1, ha, slotOp_fail h]
theorem scmp_fail {f : Word → Word → Bool} {e : Fail} (h : s.me.pget p = true) (ha : s.me.readS a = .error e) :
    scmp u p d a b f s = .next { s.trap s.cur u.slot 0 s.me.pc s.me.pc e with verdict := .failed u.slot e } := by
  simp [scmp, ha, slotOp_fail h]
end

/-! ## Accesses of the M slot (R178, R257) -/

/-- A clear access is logged. -/
theorem mTouchAll_clear {k : AKind} {l : List Span} (h : s.Clear k l) : s.mTouchAll k l = .ok (s.logged k l) := by
  simp [State.mTouchAll, h.1, State.touchAs, h.2, State.logged]
/-- An access that is not refused was clear, and is logged. -/
theorem mTouchAll_ok {k : AKind} {l : List Span} (h : s.mTouchAll k l = .ok t) : s.Clear k l ∧ t = s.logged k l := by
  unfold State.mTouchAll State.touchAs at h
  split at h
  · cases h
  · rename_i h1
    split at h
    · cases h
    · rename_i h2; exact ⟨⟨h1, h2⟩, by cases h; rfl⟩

/-- A clear access by location and name is logged, and noted where it lies outside the scratchpads (R254). -/
theorem mTouch_clear {k : AKind} {ls : List Nat} {a : Word} (h : s.Clear k (spansOf [(a, ls)])) :
    s.mTouch k ls a = .ok ((s.logged k (spansOf [(a, ls)])).noted k (spansOf [(a, ls)])) := by
  simp [State.mTouch, mTouchAll_clear h, Except.map]

/-- A scratchpad read that passes its checks. -/
theorem spadRead_ok {us : Units} {al : Nat} {k : List Byte → State → Res} (hc : us.check al = .ok ())
    (hw : s.waits (us.locs s.cur.core) = false) (hp : s.spadPoison us = none) (ht : s.Clear .read (s.unitSpans 0 us)) :
    s.spadRead us al k = k ((us.locs s.cur.core).map s.byte) (s.logged .read (s.unitSpans 0 us)) := by
  have h : s.touchUnits .read 0 us = .ok (s.logged .read (s.unitSpans 0 us)) := mTouchAll_clear ht
  simp [State.spadRead, hc, hw, hp, h]
/-- A scratchpad write that passes its checks. -/
theorem spadStore_ok {us : Units} {al f : Nat} {cs : List Host.Cell} (hc : us.check al = .ok ())
    (hw : s.waits (us.locs s.cur.core) = false) (hp : s.poisonWrite cs = none) (ht : s.Clear .write (s.unitSpans f us)) :
    s.spadStore us al f cs = .done ((s.logged .write (s.unitSpans f us)).spadWrite s.cur cs) := by
  have h : s.touchUnits .write f us = .ok (s.logged .write (s.unitSpans f us)) := mTouchAll_clear ht
  simp [State.spadStore, hc, hw, hp, h]
/-- A global access whose bytes are reached and not in transit. -/
theorem globalUse_ok {va : Word} {n : Nat} {w : Want} {k : List Nat → Res} {ls : List Nat}
    (hg : s.gate1 s.me.asid va.toNat n w = .ok ls) (ht : s.waits ls = false) :
    s.globalUse va n w k = k ls := by
  simp [State.globalUse, hg, ht]

end Sys2Proof.Laws
end

