-- ==== Sys2Proof/Laws/Vector.lean ====
section
/-!
SUPPORT. What a V-slot operation with a vector result delivers.
-/
namespace Sys2Proof.Laws
open Sys2Proof Sys2Proof.Machine

/-- A bit of the union of the flags of a list. -/
theorem foldl_or_bit {α : Type} (l : List (α × Flags)) (f : Flags) (b : Nat) :
    (l.foldl (fun f x => f ||| x.2) f).getLsbD b = true ↔ f.getLsbD b = true ∨ ∃ x ∈ l, x.2.getLsbD b = true := by
  induction l generalizing f with
  | nil => simp
  | cons x l ih => simp [ih, or_assoc]

/-- An element of a table. -/
theorem tab_get {α : Type} (n : Nat) (f : Nat → α) (i : Nat) (h : i < n) : (tab n f)[i] = f i := by
  simp [tab]

/-- A lane of a list of patterns. -/
theorem lanesOf_get (ps : List Nat) (j : Fin 128) : (lanesOf ps)[j] = BitVec.ofNat 32 (ps.getD j 0) := by
  show (tab 128 _)[j.val] = _
  rw [tab_get _ _ _ j.isLt]

/-- The summaries of 128 lanes, as one number. -/
theorem summary_lanes (f : Nat) (v : Vector W32 128) :
    ∃ a b : Bool, summary f (v.toList.map BitVec.toNat) = a.toNat * 2 ^ 10 + b.toNat * 2 ^ 11 ∧
      (a = true ↔ someNonfin f v) ∧ (b = true ↔ allZeros f v) := by
  have mem (P : W32 → Prop) : (∀ x ∈ v.toList, P x) ↔ ∀ j : Fin 128, P v[j] := by
    constructor
    · intro h j; exact h _ (by simp)
    · intro h x hx
      obtain ⟨i, hi, rfl⟩ := List.mem_iff_getElem.1 hx
      simpa using h ⟨i, by simpa using hi⟩
  have memE (P : W32 → Prop) : (∃ x ∈ v.toList, P x) ↔ ∃ j : Fin 128, P v[j] := by
    have := mem (fun x => ¬ P x)
    constructor
    · rintro ⟨x, hx, hp⟩
      exact Classical.byContradiction fun hn => this.2 (fun j hj => hn ⟨j, hj⟩) x hx hp
    · rintro ⟨j, hj⟩; exact ⟨_, by simp, hj⟩
  unfold summary someNonfin allZeros
  have num (x : Bool) (k : Nat) : (if x = true then 2 ^ k else 0) = x.toNat * 2 ^ k := by cases x <;> simp
  have zero : (v.toList.all fun x => decide (x.toNat = 0)) = true ↔ ∀ j : Fin 128, v[j] = 0 := by
    rw [List.all_eq_true, ← mem (· = 0)]
    simp only [decide_eq_true_eq]
    exact ⟨fun h x hx => BitVec.eq_of_toNat_eq (h x hx), fun h x hx => by rw [h x hx]; rfl⟩
  cases h : fmtOf f with
  | none =>
    refine ⟨false, v.toList.all fun x => decide (x.toNat = 0), ?_, by simp, zero⟩
    simp only [List.all_map, Function.comp_def]
    rw [num]; simp
  | some q =>
    refine ⟨v.toList.any fun x => (q.dec x.toNat).isNan || (q.dec x.toNat).isInf, v.toList.all fun x => (q.dec x.toNat).isZero,
      ?_, ?_, ?_⟩
    · simp only [List.map_map, List.any_map, List.all_map, Function.comp_def, num]
    · rw [List.any_eq_true]
      simp only [Option.some.injEq, exists_eq_left', Bool.or_eq_true]
      exact memE fun x => (q.dec x.toNat).isNan = true ∨ (q.dec x.toNat).isInf = true
    · rw [List.all_eq_true]; exact mem fun x => (q.dec x.toNat).isZero = true

/-- The fields of a tag put together of its parts. -/
theorem tag_parts (f h : Nat) (a b : Bool) (hf : f < 16) (hh : h < 64) :
    let t : Half := BitVec.ofNat 16 (f + 16 * h + (a.toNat * 2 ^ 10 + b.toNat * 2 ^ 11))
    bits t 0 4 = f ∧ bits t 4 6 = h ∧ t.getLsbD 10 = a ∧ t.getLsbD 11 = b ∧ bits t 12 4 = 0 := by
  have ha : a.toNat < 2 := Bool.toNat_lt a
  have hb : b.toNat < 2 := Bool.toNat_lt b
  have hx : (BitVec.ofNat 16 (f + 16 * h + (a.toNat * 2 ^ 10 + b.toNat * 2 ^ 11)) : Half).toNat =
      f + 16 * h + (a.toNat * 2 ^ 10 + b.toNat * 2 ^ 11) := by
    rw [BitVec.toNat_ofNat]; omega
  simp only [bits, hx, Nat.shiftRight_eq_div_pow, BitVec.getLsbD, Nat.testBit_eq_decide_div_mod_eq]
  refine ⟨by omega, by omega, ?_, ?_, by omega⟩
  · cases a <;> simp <;> omega
  · cases b <;> simp <;> omega

/-- What `VRes.reg` builds. -/
theorem reg_spec (r : VRes) (old : VReg) (k : Mask) (h : Nat) (hf : r.fmt < 16) (hh : r.head = 16 * h) (h6 : h < 64) :
    let v := r.reg old k
    (∀ j : Fin 128, v.1.lanes[j] = BitVec.ofNat 32 (if k.getLsbD j.val then (r.lane j.val).1
      else old.lanes[j].toNat % 2 ^ fmtBits r.fmt)) ∧
    v.1.scale = r.scale ∧ bits v.1.tag 0 4 = r.fmt ∧ bits v.1.tag 4 6 = h ∧
    (v.1.tag.getLsbD 10 = true ↔ someNonfin r.fmt v.1.lanes) ∧ (v.1.tag.getLsbD 11 = true ↔ allZeros r.fmt v.1.lanes) ∧
    bits v.1.tag 12 4 = 0 ∧
    ∀ b : Nat, v.2.getLsbD b = true ↔ ∃ j : Fin 128, k.getLsbD j.val = true ∧ (r.lane j.val).2.getLsbD b = true := by
  intro v
  obtain ⟨a, b, hs, ha, hb⟩ := summary_lanes r.fmt v.1.lanes
  have ht : v.1.tag = BitVec.ofNat 16 (r.fmt + 16 * h + (a.toNat * 2 ^ 10 + b.toNat * 2 ^ 11)) := by
    rw [← hs, ← hh]; rfl
  obtain ⟨t1, t2, t3, t4, t5⟩ := tag_parts r.fmt h a b hf h6
  refine ⟨?_, rfl, by rw [ht]; exact t1, by rw [ht]; exact t2, by rw [ht, t3]; exact ha, by rw [ht, t4]; exact hb,
    by rw [ht]; exact t5, ?_⟩
  · intro j
    show (lanesOf _)[j] = _
    rw [lanesOf_get]
    simp only [bitAt, List.map_map, Function.comp_def]
    rw [List.getD_eq_getElem?_getD, List.getElem?_map, List.getElem?_range j.isLt]
    simp only [Option.map_some, Option.getD_some]
    split <;> simp_all
  · intro i
    show (VRes.reg r old k).2.getLsbD i = true ↔ _
    unfold VRes.reg
    unfold bitAt
    simp only [foldl_or_bit, List.mem_map, List.mem_range]
    constructor
    · rintro (h | ⟨x, ⟨j, hj, rfl⟩, hx⟩)
      · simp at h
      · split at hx
        · rename_i hk; exact ⟨⟨j, hj⟩, hk, hx⟩
        · simp at hx
    · rintro ⟨j, hk, hx⟩
      exact .inr ⟨_, ⟨j.val, j.isLt, rfl⟩, by simp only [hk]; exact hx⟩

/-- Tracked tags that agree pass the check. -/
theorem trackOk_agree {ts : List Half} (h : Agree ts) : trackOk ts = .ok () := by
  have dis (code : Nat) (f : Half → Nat) (l : List Half) (hl : ∀ t ∈ l, ∀ u ∈ l, f t = f u) : disagree code f l = .ok () := by
    cases l with
    | nil => rfl
    | cons t r =>
      have : r.find? (fun u => decide (f u ≠ f t)) = none := by
        rw [List.find?_eq_none]; intro u hu; simp [hl u (by simp [hu]) t (by simp)]
      simp only [disagree]; rw [this]
  have hm : ∀ t ∈ ts.filter (fun t => decide (tagVer t ≠ 0)), ∀ u ∈ ts.filter (fun t => decide (tagVer t ≠ 0)),
      tagVer t = tagVer u ∧ bits t 5 1 = bits u 5 1 := by
    intro t ht u hu
    simp only [List.mem_filter, decide_eq_true_eq] at ht hu
    exact h t ht.1 u hu.1 ht.2 hu.2
  unfold trackOk
  simp only [dis _ _ _ (fun t ht u hu => (hm t ht u hu).1), dis _ _ _ (fun t ht u hu => (hm t ht u hu).2)]

/-- A plain source of arithmetic passes its check. -/
theorem arithOk_plain {e : Nat} {x : VIn} (h : Plain e x) : arithOk e x = .ok () := by
  unfold arithOk tagFmt
  rcases h with h | ⟨h, h'⟩ <;> simp [h]
  simp [h']
/-- The sources of arithmetic that are plain pass its check. -/
theorem allOk_arith {e : Nat} {xs : List VIn} (h : ∀ x ∈ xs, Plain e x) : allOk (xs.map (arithOk e)) = .ok () := by
  have h1 : ∀ x ∈ xs, arithOk e x = .ok () := fun x hx => arithOk_plain (h x hx)
  have h2 : (xs.map (arithOk e)).mapM id = .ok (xs.map fun _ => ()) := by
    clear h
    induction xs with
    | nil => rfl
    | cons x l ih =>
      simp only [List.map_cons, List.mapM_cons, id_eq]
      rw [h1 x (by simp)]
      have := ih (fun y hy => h1 y (by simp [hy]))
      rw [this]; rfl
  simp [allOk, h2, Except.map]

/-- A destination of the result's format, or of none, passes the check of one that is merged into. -/
theorem State.Sources.old_ok {s : State} {d : Dst 32} {mask : Fin 8} {fmt : Nat} {a : List VSrc} {xs : List VIn}
    (h : s.Sources d mask fmt a xs) (h0 : mask ≠ 0) : fmtOk fmt (.reg s.me.vreg[d.reg]) = .ok () := by
  rcases h.old h0 with h | h <;> simp only [fmtOk, tagFmt, VIn.tag, h] <;> simp
/-- A V-slot operation with a vector result, where its checks pass, delivers what it computes. -/
theorem vop_delivers {i : Instr} {s : State} {u : VUnit} {p : Fin 64} {d : Dst 32} {mask : Fin 8}
    {merge : Option (Nat → VIn → Except Fail Unit)} {lat : Nat} {srcs : List VSrc} {xs : List VIn} {chk : List VIn → Except Fail Unit} {f : List VIn → Nat → VRes} {h : Nat}
    (he : exec i s = vop u p d mask merge lat srcs chk f s) (hp : s.me.pget p = true)
    (hm : merge = none → mask = 0) {r : VRes} (hr : f xs (commonPv (s.vtags d mask xs)) = r)
    (ho : mask ≠ 0 → merge.getD fmtOk r.fmt (.reg s.me.vreg[d.reg]) = .ok ()) (hs : s.Sources d mask r.fmt srcs xs) (hc : chk xs = .ok ()) (hf : r.fmt < 16) (hh : r.head = 16 * h) (h6 : h < 64) :
    DeliversV i s u d lat (s.me.kget mask) r.fmt h r.scale r.lane := by
  have hmg : (merge.isSome && decide (mask ≠ 0)) = decide (mask ≠ 0) := by cases merge <;> simp_all
  have hts : (xs.map VIn.tag ++ if (merge.isSome && decide (mask ≠ 0)) = true then [s.me.vreg[d.reg].tag] else []) = s.vtags d mask xs := by
    unfold State.vtags; rw [hmg]; by_cases h0 : mask = 0 <;> simp [h0]
  have hk : (if (merge.isSome && decide (mask ≠ 0)) = true then s.me.kget mask else BitVec.allOnes 128) = s.me.kget mask := by
    rw [hmg]; by_cases h0 : mask = 0 <;> simp [h0, Ctx.kget]
  have hold : (if (merge.isSome && decide (mask ≠ 0)) = true then merge.getD fmtOk r.fmt (.reg s.me.vreg[d.reg]) else .ok ()) =
      .ok () := by
    rw [hmg]; by_cases h0 : mask = 0
    · simp [h0]
    · simpa [h0] using ho h0
  have := reg_spec r s.me.vreg[d.reg] (s.me.kget mask) h hf hh h6
  refine ⟨(r.reg s.me.vreg[d.reg] (s.me.kget mask)).1, (r.reg s.me.vreg[d.reg] (s.me.kget mask)).2, ?_, this⟩
  rw [he]
  unfold vop
  simp only [hs.read, need_ok, hts, hr, hc, hold, trackOk_agree hs.agree, hk, slotOp_done hp, dstV]

/-- The common prov and ver bits are in place in the head of a result's tag. -/
theorem commonPv_head (s : State) (d : Dst 32) (mask : Fin 8) (xs : List VIn) :
    commonPv (s.vtags d mask xs) = 16 * s.common d mask xs ∧ s.common d mask xs < 64 := by
  unfold commonPv State.common tagVer
  cases h : (s.vtags d mask xs).find? (fun t => decide (bits t 6 4 ≠ 0)) with
  | none => simp
  | some t =>
    have : bits t 5 5 < 32 := Nat.mod_lt _ (by decide)
    simp only; omega

/-- Delivery depends on the selected lanes alone. -/
theorem DeliversV.congr {i : Instr} {s : State} {u : VUnit} {d : Dst 32} {lat : Nat} {k : Mask} {fmt head : Nat} {sc : W32}
    {f g : Nat → Nat × Flags} (h : DeliversV i s u d lat k fmt head sc f) (e : ∀ j < 128, f j = g j) :
    DeliversV i s u d lat k fmt head sc g := by
  obtain ⟨x, y, h1, h2, h3, h4, h5, h6, h7, h8, h9⟩ := h
  refine ⟨x, y, h1, fun j => ?_, h3, h4, h5, h6, h7, h8, fun b => ?_⟩
  · rw [h2 j, e _ j.isLt]
  · rw [h9 b]
    constructor <;> rintro ⟨j, hk, hj⟩ <;> exact ⟨j, hk, by simpa [e j.val j.isLt] using hj⟩

/-- Arithmetic on plain sources delivers its lanes with the common prov and ver bits and no scale. -/
theorem varith_delivers {i : Instr} {s : State} {u : VUnit} {p : Fin 64} {d : Dst 32} {srcs : List VSrc} {m : VMods} {lat : Nat}
    {g : List Nat → Nat × Flags} {xs : List VIn} (he : exec i s = varith u p d srcs m lat g s) (hp : s.me.pget p = true)
    (hs : s.Sources d m.mask m.ety.toNat srcs xs) (ho : s.OldPlain d m.mask m.ety.toNat) (hx : ∀ x ∈ xs, Plain m.ety.toNat x) :
    DeliversV i s u d lat (s.me.kget m.mask) m.ety.toNat (s.common d m.mask xs) one32
      (fun j => g (xs.map fun x => x.lane (fmtBits m.ety.toNat) j)) := by
  have hc := allOk_arith hx
  have hh := commonPv_head s d m.mask xs
  unfold varith at he
  refine vop_delivers (h := s.common d m.mask xs) he hp (fun h => nomatch h) rfl (fun h => arithOk_plain (ho h)) hs hc
    m.ety.isLt hh.1 hh.2

end Sys2Proof.Laws
end

