-- ==== Sys2Proof/Tests/Slice0.lean ====
section
/-!
SUPPORT. The model's own tests: ill-formed terms, words written out from the formats, results worked out by hand, and for
every statement with hypotheses a state and operands that meet them.
-/
open Sys2Proof Sys2Proof.Machine
namespace Sys2Proof.Tests
set_option Elab.async false

/-! ## Well-formedness: a term that breaks each limit, and is refused (R116, R137 to R149, R164, R172, R188, R189, R211) -/

/-- Every term is refused. -/
def noneWf (l : List Instr) : Bool := l.all fun i => !Instr.wf i
/-- Every term is accepted. -/
def allWf (l : List Instr) : Bool := l.all Instr.wf

theorem test_wf_refuses_scalar : noneWf [
    .sext .s0 0 ⟨1, false⟩ (.reg 1) 0, .sext .s0 0 ⟨1, false⟩ (.reg 1) 65, .zext .s0 0 ⟨1, false⟩ (.reg 1) 0,
    .zext .s0 0 ⟨1, false⟩ (.reg 1) 65, .crrd .s0 0 ⟨1, false⟩ 0x009, .crrd .s0 0 ⟨1, false⟩ 0x02C,
    .crrd .s0 0 ⟨1, false⟩ 0x800, .crwr .s0 0 (.reg 1) 0x018, .crwr .s0 0 (.reg 1) 0x042,
    .sfld .s0 0 ⟨1, false⟩ (.reg 1) 6] = true := by
  decide +kernel

theorem test_wf_refuses_control : noneWf [
    .brs 0 0, .ret 0 0, .tail 0 0, .loop 0 1 0, .loopi 0 1 0, .fence 0 0, .waiteq 0 0 1, .waitge 0 0 1, .hwait 0 1 0,
    .hrel 0 1 0, .hset 0 1 0 0, .hset 0 1 1 2, .hset 0 1 1 3, .hset 0 1 1 5] = true := by
  decide +kernel

theorem test_wf_refuses_memory : noneWf [
    .ld 0 ⟨1, false⟩ 2 (.imm 0) 6, .st 0 1 2 (.imm 0) 13, .ldg 0 ⟨1, false⟩ 2 (.imm 0) 6, .stg 0 1 2 (.imm 0) 13,
    .vld 0 ⟨1, false⟩ 2 (.imm 0) 13, .vst 0 1 2 (.imm 0) 13, .vlds 0 ⟨1, false⟩ 2 (.imm 0) 6, .vsts 0 1 2 (.imm 0) 6,
    .vldx 0 ⟨1, false⟩ 2 3 0 6, .vstx 0 1 2 3 0 13, .ldb 0 0 2 (.imm 0), .ldb 0 63 2 (.imm 0), .amadd 0 1 2 (.imm 0) 4,
    .ammax 0 1 2 (.imm 0) 6, .ammin 0 1 2 (.imm 0) 13, .amand 0 1 2 (.imm 0) 1, .amor 0 1 2 (.imm 0) 3,
    .vldsc 0 ⟨1, false⟩ 2 (.imm 0) 0, .vldsc 0 ⟨1, false⟩ 2 (.imm 0) 7] = true := by
  decide +kernel

theorem test_wf_refuses_vector_1 : noneWf [
    .vadd .v0 0 ⟨1, false⟩ (.reg 1) (.reg 2) ⟨7, 1, false, 0⟩, .vsub .v0 0 ⟨1, false⟩ (.reg 1) (.reg 2) ⟨4, 0, false, 0⟩,
    .vmul .v0 0 ⟨1, false⟩ (.reg 1) (.reg 2) ⟨13, 0, false, 0⟩, .vfma .v0 0 ⟨1, false⟩ (.reg 1) (.reg 2) (.reg 3) ⟨7, 0, false, 0⟩,
    .vfms .v0 0 ⟨1, false⟩ (.reg 1) (.reg 2) (.reg 3) ⟨0, 0, false, 0⟩,
    .vfnma .v0 0 ⟨1, false⟩ (.reg 1) (.reg 2) (.reg 3) ⟨4, 0, false, 0⟩,
    .vmin .v0 0 ⟨1, false⟩ (.reg 1) (.reg 2) ⟨1, 1, false, 0⟩, .vmax .v0 0 ⟨1, false⟩ (.reg 1) (.reg 2) ⟨1, 0, true, 0⟩,
    .vmin .v0 0 ⟨1, false⟩ (.reg 1) (.reg 2) ⟨5, 0, false, 0⟩, .vabs .v0 0 ⟨1, false⟩ (.reg 1) ⟨1, 0, true, 0⟩,
    .vneg .v0 0 ⟨1, false⟩ (.reg 1) ⟨7, 1, false, 0⟩, .vcpys .v0 0 ⟨1, false⟩ (.reg 1) (.reg 2) ⟨7, 0, false, 0⟩,
    .vcpys .v0 0 ⟨1, false⟩ (.reg 1) (.reg 2) ⟨1, 1, false, 0⟩] = true := by
  decide +kernel

theorem test_wf_refuses_vector_2 : noneWf [
    .vand .v0 0 ⟨1, false⟩ (.reg 1) (.reg 2) ⟨6, 0, false, 0⟩, .vor .v0 0 ⟨1, false⟩ (.reg 1) (.reg 2) ⟨7, 1, false, 0⟩,
    .vxor .v0 0 ⟨1, false⟩ (.reg 1) (.reg 2) ⟨7, 0, true, 0⟩, .vshl .v0 0 ⟨1, false⟩ (.reg 1) (.reg 2) ⟨1, 0, false, 0⟩,
    .vshr .v0 0 ⟨1, false⟩ (.reg 1) (.reg 2) ⟨7, 1, false, 0⟩, .vsra .v0 0 ⟨1, false⟩ (.reg 1) (.reg 2) ⟨7, 0, true, 0⟩,
    .vcmpeq .v0 0 ⟨1, false⟩ (.reg 1) (.reg 2) ⟨4, 0, false, 0⟩, .vcmplt .v0 0 ⟨1, false⟩ (.reg 1) (.reg 2) ⟨1, 1, false, 0⟩,
    .vcmple .v0 0 ⟨1, false⟩ (.reg 1) (.reg 2) ⟨1, 0, true, 0⟩, .vcmpne .v0 0 ⟨1, false⟩ (.reg 1) (.reg 2) ⟨6, 0, false, 0⟩,
    .vclass .v0 0 ⟨1, false⟩ (.reg 1) ⟨0, 0, false, 0⟩, .vclass .v0 0 ⟨1, false⟩ (.reg 1) ⟨6, 0, false, 0⟩,
    .vclass .v0 0 ⟨1, false⟩ (.reg 1) ⟨1, 1, false, 0⟩] = true := by
  decide +kernel

theorem test_wf_refuses_vector_3 : noneWf [
    .vrcp .v0 0 ⟨1, false⟩ (.reg 1) ⟨4, 0, false, 0⟩, .vrsqrt .v0 0 ⟨1, false⟩ (.reg 1) ⟨0, 0, false, 0⟩,
    .vsqrt .v0 0 ⟨1, false⟩ (.reg 1) ⟨7, 0, false, 0⟩, .vexp2 .v0 0 ⟨1, false⟩ (.reg 1) ⟨5, 0, false, 0⟩,
    .vlog2 .v0 0 ⟨1, false⟩ (.reg 1) ⟨6, 0, false, 0⟩, .vtanh .v0 0 ⟨1, false⟩ (.reg 1) ⟨12, 0, false, 0⟩,
    .vcvt .v0 0 ⟨1, false⟩ (.reg 1) ⟨0, 0, false, 0⟩, .vcvt .v0 0 ⟨1, false⟩ (.reg 1) ⟨6, 0, false, 0⟩,
    .vscale .v0 0 ⟨1, false⟩ (.reg 1) (.reg 2) ⟨7, 0, false, 0⟩, .vquant .v0 0 ⟨1, false⟩ (.reg 1) (.reg 2) ⟨1, 0, false, 0⟩,
    .vquant .v0 0 ⟨1, false⟩ (.reg 1) (.reg 2) ⟨6, 0, false, 0⟩, .vradd .v0 0 ⟨1, false⟩ (.reg 1) ⟨11, 1, false, 0⟩,
    .vscan .v0 0 ⟨1, false⟩ (.reg 1) ⟨4, 0, false, 0⟩, .vrmax .v0 0 ⟨1, false⟩ (.reg 1) ⟨1, 0, true, 0⟩,
    .vrmin .v0 0 ⟨1, false⟩ (.reg 1) ⟨5, 0, false, 0⟩, .viota .v0 0 ⟨1, false⟩ (.reg 1) ⟨1, 0, false, 0⟩,
    .vmovk .v0 0 ⟨1, false⟩ 1 0 7, .vmovk .v0 0 ⟨1, false⟩ 1 2 4, .vsig .v0 0 ⟨1, false⟩ (.reg 1) 2 3] = true := by
  decide +kernel

theorem test_wf_refuses_engines : noneWf [
    .mzero 0 1 63, .macc 0 1 2 63, .mdrn 0 1 2 false false 63, .mldz 0 1 2 false 63, .mtrn 0 1 2 63, .mcopy 0 1 2 63,
    .mresume 0 63, .mmul 0 1 2 3 0 false 63, .mopa 0 1 2 3 0 false 63, .mscl 0 1 0 true 0, .mscl 0 1 5 false 0,
    .mlu 0 1 0 ⟨5, 1, 0⟩ 0, .mchol 0 1 ⟨0, 1, 1⟩ 0, .mtrs 0 1 1 false false ⟨0, 1, 2⟩ 0, .mtrs 0 1 2 false false ⟨5, 0, 2⟩ 0,
    .mqr 0 3 3 ⟨0, 1, 2⟩ 0, .msolve 0 1 1 0 ⟨0, 1, 2⟩ 0, .msolve 0 3 2 0 ⟨0, 1, 2⟩ 0, .msolve 0 0 7 0 ⟨0, 1, 2⟩ 0,
    .mperm 0 1 0 ⟨0, 1, 1⟩ 0, .mnorm 0 1 ⟨5, 1, 0⟩ 0, .kcpy 0 1 2 ⟨1, 0⟩, .kcpy 0 1 2 ⟨0, 1⟩, .kred 0 1 2 ⟨63, 2⟩,
    .kmcst 0 1 2 3 ⟨61, 3⟩, .kgth 0 1 2 3 ⟨0, 3⟩, .ksct 0 1 2 3 ⟨63, 1⟩, .kroute 0 1 2 3 4 ⟨61, 3⟩, .ka2a 0 1 2 3 4 ⟨0, 2⟩,
    .kgat 0 1 2 3 ⟨1, 0⟩, .kring 0 1 true ⟨61, 3⟩, .kfill 0 1 2 ⟨63, 2⟩] = true := by
  decide +kernel

theorem test_wf_accepts_limits : allWf [
    .sext .s0 0 ⟨1, false⟩ (.reg 1) 1, .zext .s0 0 ⟨1, false⟩ (.reg 1) 64, .crrd .s0 0 ⟨1, false⟩ 0x041, .sfld .s0 0 ⟨1, false⟩ (.reg 1) 5,
    .loop 0 0 1, .hset 0 1 1 4, .ld 0 ⟨1, false⟩ 2 (.imm 0) 12, .vld 0 ⟨1, false⟩ 2 (.imm 0) 6, .ldb 0 62 2 (.imm 0),
    .vquant .v0 0 ⟨1, false⟩ (.reg 1) (.reg 2) ⟨7, 3, true, 0⟩, .vmovk .v0 0 ⟨1, false⟩ 1 0 6, .msolve 0 1 7 0 ⟨0, 1, 2⟩ 62,
    .mscl 0 1 5 true 0, .kcpy 0 1 2 ⟨0, 0⟩, .kmcst 0 1 2 3 ⟨60, 3⟩, .kring 0 1 true ⟨62, 2⟩] = true := by
  decide +kernel

/-! ## Decoding: for every constructor of a slot a word written field by field, as (value, lowest bit), from R117 to R126 and
the opcodes of R135 -/

/-- A word from its fields. -/
def word (fs : List (Nat × Nat)) : Nat := fs.foldl (fun w f => w + f.1 * 2 ^ f.2) 0
/-- Each word of a slot decodes to its instruction. -/
def readAll (l : List (Slot × Nat × Instr)) : Bool := l.all fun t =>
  match decodeSlot t.1 t.2.1 with
  | .ok (some i) => decide (i = t.2.2)
  | _ => false
/-- Each word of a slot is rejected, with this code and this lowest offending bit (R367). -/
def rejectAll (l : List (Slot × Nat × Byte × Nat)) : Bool := l.all fun t =>
  match decodeSlot t.1 t.2.1 with
  | .error e => decide (e = ⟨t.2.2.1, t.2.2.2⟩)
  | _ => false

theorem test_decode_scalar_1 : readAll [
    (.s0, word [(1, 0), (5, 6), (9, 14), (17, 22), (3, 34)], .add .s0 3 ⟨5, false⟩ (.reg 9) (.reg 17)),
    (.s0, word [(2, 0), (5, 6), (9, 14), (17, 22), (3, 34)], .sub .s0 3 ⟨5, false⟩ (.reg 9) (.reg 17)),
    (.s0, word [(3, 0), (5, 6), (9, 14), (17, 22), (3, 34)], .mul .s0 3 ⟨5, false⟩ (.reg 9) (.reg 17)),
    (.s0, word [(4, 0), (5, 6), (9, 14), (17, 22), (3, 34)], .mulh .s0 3 ⟨5, false⟩ (.reg 9) (.reg 17)),
    (.s0, word [(5, 0), (5, 6), (9, 14), (17, 22), (3, 34)], .mulhn .s0 3 ⟨5, false⟩ (.reg 9) (.reg 17)),
    (.s0, word [(6, 0), (5, 6), (9, 14), (17, 22), (3, 34)], .divs .s0 3 ⟨5, false⟩ (.reg 9) (.reg 17)),
    (.s0, word [(7, 0), (5, 6), (9, 14), (17, 22), (3, 34)], .divn .s0 3 ⟨5, false⟩ (.reg 9) (.reg 17)),
    (.s0, word [(8, 0), (5, 6), (9, 14), (17, 22), (3, 34)], .rems .s0 3 ⟨5, false⟩ (.reg 9) (.reg 17)),
    (.s0, word [(9, 0), (5, 6), (9, 14), (17, 22), (3, 34)], .remn .s0 3 ⟨5, false⟩ (.reg 9) (.reg 17)),
    (.s0, word [(0xa, 0), (5, 6), (9, 14), (17, 22), (3, 34)], .and .s0 3 ⟨5, false⟩ (.reg 9) (.reg 17)),
    (.s0, word [(0xb, 0), (5, 6), (9, 14), (17, 22), (3, 34)], .or .s0 3 ⟨5, false⟩ (.reg 9) (.reg 17)),
    (.s0, word [(0xc, 0), (5, 6), (9, 14), (17, 22), (3, 34)], .xor .s0 3 ⟨5, false⟩ (.reg 9) (.reg 17))] = true := by
  decide +kernel
theorem test_decode_scalar_2 : readAll [
    (.s0, word [(0xd, 0), (5, 6), (9, 14), (17, 22), (3, 34)], .andn .s0 3 ⟨5, false⟩ (.reg 9) (.reg 17)),
    (.s0, word [(0xe, 0), (5, 6), (9, 14), (17, 22), (3, 34)], .shl .s0 3 ⟨5, false⟩ (.reg 9) (.reg 17)),
    (.s0, word [(0xf, 0), (5, 6), (9, 14), (17, 22), (3, 34)], .shr .s0 3 ⟨5, false⟩ (.reg 9) (.reg 17)),
    (.s0, word [(0x10, 0), (5, 6), (9, 14), (17, 22), (3, 34)], .sra .s0 3 ⟨5, false⟩ (.reg 9) (.reg 17)),
    (.s0, word [(0x11, 0), (5, 6), (9, 14), (17, 22), (3, 34)], .min .s0 3 ⟨5, false⟩ (.reg 9) (.reg 17)),
    (.s0, word [(0x12, 0), (5, 6), (9, 14), (17, 22), (3, 34)], .max .s0 3 ⟨5, false⟩ (.reg 9) (.reg 17)),
    (.s0, word [(0x13, 0), (5, 6), (9, 14), (17, 22), (3, 34)], .minn .s0 3 ⟨5, false⟩ (.reg 9) (.reg 17)),
    (.s0, word [(0x14, 0), (5, 6), (9, 14), (17, 22), (3, 34)], .maxn .s0 3 ⟨5, false⟩ (.reg 9) (.reg 17)),
    (.s0, word [(0x17, 0), (5, 6), (9, 14), (17, 22), (3, 34)], .lea .s0 3 ⟨5, false⟩ (.reg 9) (.reg 17)),
    (.s0, word [(0x1d, 0), (5, 6), (9, 14), (17, 22), (3, 34)], .bext .s0 3 ⟨5, false⟩ (.reg 9) (.reg 17)),
    (.s0, word [(0x1e, 0), (5, 6), (9, 14), (17, 22), (3, 34)], .bins .s0 3 ⟨5, false⟩ (.reg 9) (.reg 17)),
    (.s0, word [(0x1f, 0), (5, 6), (9, 14), (17, 22), (3, 34)], .cmpeq .s0 3 ⟨5, false⟩ (.reg 9) (.reg 17))] = true := by
  decide +kernel
theorem test_decode_scalar_3 : readAll [
    (.s0, word [(0x20, 0), (5, 6), (9, 14), (17, 22), (3, 34)], .cmpne .s0 3 ⟨5, false⟩ (.reg 9) (.reg 17)),
    (.s0, word [(0x21, 0), (5, 6), (9, 14), (17, 22), (3, 34)], .cmplt .s0 3 ⟨5, false⟩ (.reg 9) (.reg 17)),
    (.s0, word [(0x22, 0), (5, 6), (9, 14), (17, 22), (3, 34)], .cmple .s0 3 ⟨5, false⟩ (.reg 9) (.reg 17)),
    (.s0, word [(0x23, 0), (5, 6), (9, 14), (17, 22), (3, 34)], .cmpltn .s0 3 ⟨5, false⟩ (.reg 9) (.reg 17)),
    (.s0, word [(0x24, 0), (5, 6), (9, 14), (17, 22), (3, 34)], .cmplen .s0 3 ⟨5, false⟩ (.reg 9) (.reg 17)),
    (.s0, word [(0x25, 0), (5, 6), (9, 14), (17, 22), (3, 34)], .sel .s0 3 ⟨5, false⟩ (.reg 9) (.reg 17)),
    (.s0, word [(0x26, 0), (5, 6), (1, 12), (9, 14), (1, 21), (7, 22), (3, 34)], .pand .s0 3 ⟨5, true⟩ (.reg 9) (.latch 7)),
    (.s0, word [(0x27, 0), (5, 6), (1, 12), (9, 14), (1, 21), (7, 22), (3, 34)], .por .s0 3 ⟨5, true⟩ (.reg 9) (.latch 7)),
    (.s0, word [(0x28, 0), (5, 6), (1, 12), (9, 14), (1, 21), (7, 22), (3, 34)], .pxor .s0 3 ⟨5, true⟩ (.reg 9) (.latch 7)),
    (.s0, word [(0x29, 0), (5, 6), (1, 12), (9, 14), (1, 21), (7, 22), (3, 34)], .pandn .s0 3 ⟨5, true⟩ (.reg 9) (.latch 7)),
    (.s0, word [(0x31, 0), (5, 6), (1, 12), (9, 14), (1, 21), (7, 22), (3, 34)], .fadds .s0 3 ⟨5, true⟩ (.reg 9) (.latch 7)),
    (.s0, word [(0x32, 0), (5, 6), (1, 12), (9, 14), (1, 21), (7, 22), (3, 34)], .fmuls .s0 3 ⟨5, true⟩ (.reg 9) (.latch 7))] = true := by
  decide +kernel
theorem test_decode_scalar_4 : readAll [
    (.s0, word [(0x33, 0), (5, 6), (1, 12), (9, 14), (1, 21), (7, 22), (3, 34)], .fcmplt .s0 3 ⟨5, true⟩ (.reg 9) (.latch 7)),
    (.s0, word [(0x1a, 0), (5, 6), (1, 13), (12, 14), (3, 34)], .popc .s0 3 ⟨5, false⟩ (.latch 12)),
    (.s0, word [(0x1b, 0), (5, 6), (1, 13), (12, 14), (3, 34)], .clz .s0 3 ⟨5, false⟩ (.latch 12)),
    (.s0, word [(0x1c, 0), (5, 6), (1, 13), (12, 14), (3, 34)], .ctz .s0 3 ⟨5, false⟩ (.latch 12)),
    (.s0, word [(0x2a, 0), (5, 6), (1, 13), (12, 14), (3, 34)], .pmov .s0 3 ⟨5, false⟩ (.latch 12)),
    (.s0, word [(0x2b, 0), (5, 6), (1, 13), (12, 14), (3, 34)], .ptos .s0 3 ⟨5, false⟩ (.latch 12)),
    (.s0, word [(0x15, 0), (5, 6), (524289, 14), (3, 34)], .movi .s0 3 ⟨5, false⟩ 0x80001),
    (.s0, word [(0x16, 0), (5, 6), (48879, 14), (2, 30), (3, 34)], .movk .s0 3 ⟨5, false⟩ 0xBEEF 2),
    (.s0, word [(0x18, 0), (5, 6), (9, 14), (1, 20), (64, 22), (3, 34)], .sext .s0 3 ⟨5, false⟩ (.reg 9) 64),
    (.s0, word [(0x19, 0), (5, 6), (9, 14), (1, 20), (64, 22), (3, 34)], .zext .s0 3 ⟨5, false⟩ (.reg 9) 64),
    (.s0, word [(0x2c, 0), (11, 6), (9, 14), (1, 20), (6, 22), (3, 34)], .dset .s0 3 ⟨11, false⟩ (.reg 9) 6),
    (.s0, word [(0x2d, 0), (5, 6), (11, 14), (1, 20), (6, 22), (3, 34)], .dget .s0 3 ⟨5, false⟩ 11 6)] = true := by
  decide +kernel
theorem test_decode_scalar_5 : readAll [
    (.s0, word [(0x2e, 0), (5, 6), (1, 20), (43, 22), (3, 34)], .crrd .s0 3 ⟨5, false⟩ 0x02B),
    (.s0, word [(0x2f, 0), (9, 14), (1, 20), (55, 22), (3, 34)], .crwr .s0 3 (.reg 9) 0x037),
    (.s0, word [(0x30, 0), (5, 6), (9, 14), (1, 20), (5, 22), (3, 34)], .sfld .s0 3 ⟨5, false⟩ (.reg 9) 5),
    (.s0, word [(0x34, 0), (5, 6), (9, 14), (1, 20), (2, 22), (3, 34)], .fcvtis .s0 3 ⟨5, false⟩ (.reg 9) 2),
    (.s0, word [(0x35, 0), (5, 6), (9, 14), (1, 20), (1, 22), (1, 24), (3, 34)], .fcvtsi .s0 3 ⟨5, false⟩ (.reg 9) 1 true)] = true := by
  decide +kernel
theorem test_decode_control_1 : readAll [
    (.c, word [(1, 0), (3, 6), (1048574, 12)], .br 3 0xFFFFE),
    (.c, word [(2, 0), (3, 6), (9, 12)], .brs 3 9),
    (.c, word [(3, 0), (3, 6), (74565, 12)], .call 3 0x12345),
    (.c, word [(4, 0), (3, 6), (9, 12)], .ret 3 9),
    (.c, word [(5, 0), (3, 6), (9, 12), (200, 24)], .loop 3 9 200),
    (.c, word [(6, 0), (3, 6), (2748, 12), (200, 24)], .loopi 3 0xABC 200),
    (.c, word [(7, 0), (3, 6), (9, 12)], .tail 3 9),
    (.c, word [(8, 0), (3, 6)], .phase 3),
    (.c, word [(9, 0), (3, 6), (17, 24)], .fence 3 17),
    (.c, word [(0xa, 0), (3, 6), (9, 12), (17, 18)], .waiteq 3 9 17),
    (.c, word [(0xb, 0), (3, 6), (9, 12), (17, 18)], .waitge 3 9 17),
    (.c, word [(0xc, 0), (3, 6), (17, 18), (6, 24)], .hwait 3 6 17)] = true := by
  decide +kernel
theorem test_decode_control_2 : readAll [
    (.c, word [(0xd, 0), (3, 6), (17, 18), (6, 24)], .hrel 3 6 17),
    (.c, word [(0xe, 0), (3, 6), (9, 12), (6, 24), (4, 27)], .hset 3 6 9 4),
    (.c, word [(0xf, 0), (3, 6), (9, 12), (129, 24)], .trap 3 0x81 9),
    (.c, word [(0x10, 0), (3, 6), (129, 24)], .bkpt 3 0x81)] = true := by
  decide +kernel
theorem test_decode_memory_1 : readAll [
    (.m, word [(1, 0), (5, 6), (1, 12), (11, 13), (65528, 20), (9, 36), (3, 42)], .ld 3 ⟨5, true⟩ 11 (.imm 0xFFF8) 9),
    (.m, word [(2, 0), (5, 6), (11, 13), (65528, 20), (9, 36), (3, 42)], .st 3 5 11 (.imm 0xFFF8) 9),
    (.m, word [(3, 0), (5, 6), (11, 13), (1, 19), (33, 20), (2, 26), (8, 36), (3, 42)], .ldg 3 ⟨5, false⟩ 11 (.index 33 2) 8),
    (.m, word [(4, 0), (5, 6), (11, 13), (1, 19), (33, 20), (2, 26), (8, 36), (3, 42)], .stg 3 5 11 (.index 33 2) 8),
    (.m, word [(5, 0), (5, 6), (11, 13), (65528, 20), (6, 36), (3, 42)], .vld 3 ⟨5, false⟩ 11 (.imm 0xFFF8) 6),
    (.m, word [(6, 0), (5, 6), (11, 13), (65528, 20), (6, 36), (3, 42)], .vst 3 5 11 (.imm 0xFFF8) 6),
    (.m, word [(7, 0), (5, 6), (11, 13), (1, 19), (33, 20), (2, 26), (1, 36), (3, 42)], .vlds 3 ⟨5, false⟩ 11 (.index 33 2) 1),
    (.m, word [(8, 0), (5, 6), (11, 13), (1, 19), (33, 20), (2, 26), (1, 36), (3, 42)], .vsts 3 5 11 (.index 33 2) 1),
    (.m, word [(9, 0), (5, 6), (11, 13), (1, 19), (19, 20), (2, 26), (1, 36), (3, 42)], .vldx 3 ⟨5, false⟩ 11 19 2 1),
    (.m, word [(0xa, 0), (5, 6), (11, 13), (1, 19), (19, 20), (2, 26), (1, 36), (3, 42)], .vstx 3 5 11 19 2 1),
    (.m, word [(0xb, 0), (5, 6), (11, 13), (13, 20), (3, 42)], .vldt 3 ⟨5, false⟩ 11 13),
    (.m, word [(0xc, 0), (5, 6), (11, 13), (13, 20), (3, 42)], .vstt 3 5 11 13)] = true := by
  decide +kernel
theorem test_decode_memory_2 : readAll [
    (.m, word [(0xd, 0), (5, 6), (11, 13), (65528, 20), (3, 42)], .ldb 3 5 11 (.imm 0xFFF8)),
    (.m, word [(0xe, 0), (5, 6), (11, 13), (65528, 20), (7, 36), (3, 42)], .amadd 3 5 11 (.imm 0xFFF8) 7),
    (.m, word [(0xf, 0), (5, 6), (11, 13), (65528, 20), (7, 36), (3, 42)], .ammax 3 5 11 (.imm 0xFFF8) 7),
    (.m, word [(0x10, 0), (5, 6), (11, 13), (65528, 20), (7, 36), (3, 42)], .ammin 3 5 11 (.imm 0xFFF8) 7),
    (.m, word [(0x11, 0), (5, 6), (11, 13), (65528, 20), (7, 36), (3, 42)], .amand 3 5 11 (.imm 0xFFF8) 7),
    (.m, word [(0x12, 0), (5, 6), (11, 13), (65528, 20), (7, 36), (3, 42)], .amor 3 5 11 (.imm 0xFFF8) 7),
    (.m, word [(0x13, 0), (5, 6), (11, 13), (65528, 20), (3, 42)], .futrd 3 ⟨5, false⟩ 11 (.imm 0xFFF8)),
    (.m, word [(0x14, 0), (5, 6), (11, 13), (65528, 20), (3, 42)], .futfill 3 5 11 (.imm 0xFFF8)),
    (.m, word [(0x15, 0), (5, 6), (11, 13), (65528, 20), (3, 42)], .kst 3 5 11 (.imm 0xFFF8)),
    (.m, word [(0x16, 0), (5, 6), (11, 13), (65528, 20), (3, 42)], .dld 3 5 11 (.imm 0xFFF8)),
    (.m, word [(0x17, 0), (5, 6), (11, 13), (65528, 20), (3, 42)], .dst 3 5 11 (.imm 0xFFF8)),
    (.m, word [(0x18, 0), (5, 6), (11, 13), (65528, 20), (4, 36), (3, 42)], .vldsc 3 ⟨5, false⟩ 11 (.imm 0xFFF8) 4)] = true := by
  decide +kernel
theorem test_decode_vector_1 : readAll [
    (.v1, word [(1, 0), (5, 7), (9, 14), (1, 19), (7, 20), (6, 31), (2, 34), (3, 38), (1, 40), (3, 41)], .vadd .v1 3 ⟨5, false⟩ (.reg 9) (.latch 7) ⟨2, 3, true, 6⟩),
    (.v1, word [(2, 0), (5, 7), (9, 14), (1, 19), (7, 20), (6, 31), (2, 34), (3, 38), (1, 40), (3, 41)], .vsub .v1 3 ⟨5, false⟩ (.reg 9) (.latch 7) ⟨2, 3, true, 6⟩),
    (.v1, word [(3, 0), (5, 7), (9, 14), (1, 19), (7, 20), (6, 31), (2, 34), (3, 38), (1, 40), (3, 41)], .vmul .v1 3 ⟨5, false⟩ (.reg 9) (.latch 7) ⟨2, 3, true, 6⟩),
    (.v1, word [(0x1f, 0), (5, 7), (9, 14), (1, 19), (7, 20), (6, 31), (2, 34), (3, 38), (1, 40), (3, 41)], .vscale .v1 3 ⟨5, false⟩ (.reg 9) (.latch 7) ⟨2, 3, true, 6⟩),
    (.v1, word [(4, 0), (5, 7), (1, 12), (9, 14), (1, 19), (7, 20), (1, 25), (26, 26), (6, 31), (1, 34), (2, 38), (3, 41)], .vfma .v1 3 ⟨5, true⟩ (.reg 9) (.latch 7) (.bcast 10) ⟨1, 2, false, 6⟩),
    (.v1, word [(5, 0), (5, 7), (1, 12), (9, 14), (1, 19), (7, 20), (1, 25), (26, 26), (6, 31), (1, 34), (2, 38), (3, 41)], .vfms .v1 3 ⟨5, true⟩ (.reg 9) (.latch 7) (.bcast 10) ⟨1, 2, false, 6⟩),
    (.v1, word [(6, 0), (5, 7), (1, 12), (9, 14), (1, 19), (7, 20), (1, 25), (26, 26), (6, 31), (1, 34), (2, 38), (3, 41)], .vfnma .v1 3 ⟨5, true⟩ (.reg 9) (.latch 7) (.bcast 10) ⟨1, 2, false, 6⟩),
    (.v1, word [(7, 0), (5, 7), (9, 14), (1, 19), (7, 20), (6, 31), (3, 34), (3, 41)], .vmin .v1 3 ⟨5, false⟩ (.reg 9) (.latch 7) ⟨3, 0, false, 6⟩),
    (.v1, word [(8, 0), (5, 7), (9, 14), (1, 19), (7, 20), (6, 31), (3, 34), (3, 41)], .vmax .v1 3 ⟨5, false⟩ (.reg 9) (.latch 7) ⟨3, 0, false, 6⟩),
    (.v1, word [(0xb, 0), (5, 7), (9, 14), (1, 19), (7, 20), (6, 31), (3, 34), (3, 41)], .vcpys .v1 3 ⟨5, false⟩ (.reg 9) (.latch 7) ⟨3, 0, false, 6⟩),
    (.v1, word [(9, 0), (5, 7), (9, 14), (6, 31), (7, 34), (1, 40), (3, 41)], .vabs .v1 3 ⟨5, false⟩ (.reg 9) ⟨7, 0, true, 6⟩),
    (.v1, word [(0xa, 0), (5, 7), (9, 14), (6, 31), (7, 34), (1, 40), (3, 41)], .vneg .v1 3 ⟨5, false⟩ (.reg 9) ⟨7, 0, true, 6⟩)] = true := by
  decide +kernel
theorem test_decode_vector_2 : readAll [
    (.v1, word [(0xc, 0), (5, 7), (9, 14), (1, 19), (7, 20), (6, 31), (8, 34), (3, 41)], .vand .v1 3 ⟨5, false⟩ (.reg 9) (.latch 7) ⟨8, 0, false, 6⟩),
    (.v1, word [(0xd, 0), (5, 7), (9, 14), (1, 19), (7, 20), (6, 31), (8, 34), (3, 41)], .vor .v1 3 ⟨5, false⟩ (.reg 9) (.latch 7) ⟨8, 0, false, 6⟩),
    (.v1, word [(0xe, 0), (5, 7), (9, 14), (1, 19), (7, 20), (6, 31), (8, 34), (3, 41)], .vxor .v1 3 ⟨5, false⟩ (.reg 9) (.latch 7) ⟨8, 0, false, 6⟩),
    (.v1, word [(0xf, 0), (5, 7), (9, 14), (1, 19), (7, 20), (6, 31), (8, 34), (3, 41)], .vshl .v1 3 ⟨5, false⟩ (.reg 9) (.latch 7) ⟨8, 0, false, 6⟩),
    (.v1, word [(0x10, 0), (5, 7), (9, 14), (1, 19), (7, 20), (6, 31), (8, 34), (3, 41)], .vshr .v1 3 ⟨5, false⟩ (.reg 9) (.latch 7) ⟨8, 0, false, 6⟩),
    (.v1, word [(0x11, 0), (5, 7), (9, 14), (1, 19), (7, 20), (6, 31), (8, 34), (3, 41)], .vsra .v1 3 ⟨5, false⟩ (.reg 9) (.latch 7) ⟨8, 0, false, 6⟩),
    (.v1, word [(0x12, 0), (5, 7), (9, 14), (1, 19), (7, 20), (6, 31), (1, 34), (3, 41)], .vcmpeq .v1 3 ⟨5, false⟩ (.reg 9) (.latch 7) ⟨1, 0, false, 6⟩),
    (.v1, word [(0x13, 0), (5, 7), (9, 14), (1, 19), (7, 20), (6, 31), (1, 34), (3, 41)], .vcmplt .v1 3 ⟨5, false⟩ (.reg 9) (.latch 7) ⟨1, 0, false, 6⟩),
    (.v1, word [(0x14, 0), (5, 7), (9, 14), (1, 19), (7, 20), (6, 31), (1, 34), (3, 41)], .vcmple .v1 3 ⟨5, false⟩ (.reg 9) (.latch 7) ⟨1, 0, false, 6⟩),
    (.v1, word [(0x15, 0), (5, 7), (9, 14), (1, 19), (7, 20), (6, 31), (1, 34), (3, 41)], .vcmpne .v1 3 ⟨5, false⟩ (.reg 9) (.latch 7) ⟨1, 0, false, 6⟩),
    (.v1, word [(0x16, 0), (5, 7), (9, 14), (6, 31), (5, 34), (3, 41)], .vclass .v1 3 ⟨5, false⟩ (.reg 9) ⟨5, 0, false, 6⟩),
    (.v1, word [(0x17, 0), (5, 7), (9, 14), (1, 19), (7, 20), (6, 31), (3, 41)], .vsel .v1 3 ⟨5, false⟩ (.reg 9) (.latch 7) 6)] = true := by
  decide +kernel
theorem test_decode_vector_3 : readAll [
    (.v1, word [(0x18, 0), (5, 7), (9, 14), (6, 31), (2, 34), (1, 38), (1, 40), (3, 41)], .vrcp .v1 3 ⟨5, false⟩ (.reg 9) ⟨2, 1, true, 6⟩),
    (.v1, word [(0x19, 0), (5, 7), (9, 14), (6, 31), (2, 34), (1, 38), (1, 40), (3, 41)], .vrsqrt .v1 3 ⟨5, false⟩ (.reg 9) ⟨2, 1, true, 6⟩),
    (.v1, word [(0x1a, 0), (5, 7), (9, 14), (6, 31), (2, 34), (1, 38), (1, 40), (3, 41)], .vsqrt .v1 3 ⟨5, false⟩ (.reg 9) ⟨2, 1, true, 6⟩),
    (.v1, word [(0x1b, 0), (5, 7), (9, 14), (6, 31), (2, 34), (1, 38), (1, 40), (3, 41)], .vexp2 .v1 3 ⟨5, false⟩ (.reg 9) ⟨2, 1, true, 6⟩),
    (.v1, word [(0x1c, 0), (5, 7), (9, 14), (6, 31), (2, 34), (1, 38), (1, 40), (3, 41)], .vlog2 .v1 3 ⟨5, false⟩ (.reg 9) ⟨2, 1, true, 6⟩),
    (.v1, word [(0x1d, 0), (5, 7), (9, 14), (6, 31), (2, 34), (1, 38), (1, 40), (3, 41)], .vtanh .v1 3 ⟨5, false⟩ (.reg 9) ⟨2, 1, true, 6⟩),
    (.v1, word [(0x1e, 0), (5, 7), (9, 14), (6, 31), (2, 34), (1, 38), (1, 40), (3, 41)], .vcvt .v1 3 ⟨5, false⟩ (.reg 9) ⟨2, 1, true, 6⟩),
    (.v1, word [(0x21, 0), (5, 7), (9, 14), (6, 31), (2, 34), (1, 38), (1, 40), (3, 41)], .vradd .v1 3 ⟨5, false⟩ (.reg 9) ⟨2, 1, true, 6⟩),
    (.v1, word [(0x2e, 0), (5, 7), (9, 14), (6, 31), (2, 34), (1, 38), (1, 40), (3, 41)], .vscan .v1 3 ⟨5, false⟩ (.reg 9) ⟨2, 1, true, 6⟩),
    (.v1, word [(0x20, 0), (5, 7), (9, 14), (1, 19), (7, 20), (6, 31), (4, 34), (1, 38), (1, 40), (3, 41)], .vquant .v1 3 ⟨5, false⟩ (.reg 9) (.latch 7) ⟨4, 1, true, 6⟩),
    (.v1, word [(0x22, 0), (5, 7), (9, 14), (6, 31), (12, 34), (3, 41)], .vrmax .v1 3 ⟨5, false⟩ (.reg 9) ⟨12, 0, false, 6⟩),
    (.v1, word [(0x23, 0), (5, 7), (9, 14), (6, 31), (12, 34), (3, 41)], .vrmin .v1 3 ⟨5, false⟩ (.reg 9) ⟨12, 0, false, 6⟩)] = true := by
  decide +kernel
theorem test_decode_vector_4 : readAll [
    (.v1, word [(0x24, 0), (5, 7), (9, 14), (1, 19), (7, 20), (6, 31), (3, 41)], .vbcast .v1 3 ⟨5, false⟩ (.reg 9) (.latch 7) 6),
    (.v1, word [(0x26, 0), (5, 7), (9, 14), (1, 19), (7, 20), (6, 31), (3, 41)], .vrotl .v1 3 ⟨5, false⟩ (.reg 9) (.latch 7) 6),
    (.v1, word [(0x25, 0), (5, 7), (9, 14), (1, 19), (7, 20), (1, 25), (26, 26), (6, 31), (3, 41)], .vperm .v1 3 ⟨5, false⟩ (.reg 9) (.latch 7) (.bcast 10) 6),
    (.v1, word [(0x27, 0), (5, 7), (9, 14), (6, 31), (3, 41)], .viota .v1 3 ⟨5, false⟩ (.reg 9) ⟨0, 0, false, 6⟩),
    (.v1, word [(0x28, 0), (5, 7), (6, 14), (7, 20), (3, 26), (3, 41)], .vmovk .v1 3 ⟨5, false⟩ 6 7 3),
    (.v1, word [(0x29, 0), (5, 7), (6, 14), (7, 31), (3, 41)], .kpopc .v1 3 ⟨5, false⟩ 6 7),
    (.v1, word [(0x2a, 0), (5, 7), (9, 14), (1, 19), (26, 20), (1, 34), (3, 41)], .vsig .v1 3 ⟨5, false⟩ (.reg 9) 10 1),
    (.v1, word [(0x2b, 0), (5, 7), (9, 14), (6, 31), (3, 41)], .vmov .v1 3 ⟨5, false⟩ (.reg 9) 6),
    (.v1, word [(0x2c, 0), (5, 7), (9, 14), (1, 19), (7, 20), (3, 41)], .vextr .v1 3 ⟨5, false⟩ (.reg 9) (.latch 7)),
    (.v1, word [(0x2d, 0), (5, 7), (9, 14), (1, 19), (7, 20), (1, 25), (26, 26), (3, 41)], .vins .v1 3 ⟨5, false⟩ (.reg 9) (.latch 7) (.bcast 10))] = true := by
  decide +kernel
theorem test_decode_matrix_1 : readAll [
    (.x, word [(1, 0), (5, 6), (62, 20), (3, 34)], .mzero 3 5 62),
    (.x, word [(2, 0), (5, 6), (9, 9), (14, 13), (62, 20), (40, 26), (1, 32), (3, 34)], .mmul 3 5 9 14 40 true 62),
    (.x, word [(3, 0), (5, 6), (9, 9), (14, 13), (62, 20), (40, 26), (1, 32), (3, 34)], .mopa 3 5 9 14 40 true 62),
    (.x, word [(4, 0), (5, 6), (6, 17), (62, 20), (3, 34)], .macc 3 5 6 62),
    (.x, word [(8, 0), (5, 6), (6, 17), (62, 20), (3, 34)], .mtrn 3 5 6 62),
    (.x, word [(9, 0), (5, 6), (6, 17), (62, 20), (3, 34)], .mcopy 3 5 6 62),
    (.x, word [(5, 0), (5, 6), (62, 20), (40, 26), (1, 32), (3, 34)], .mscl 3 5 40 true 62),
    (.x, word [(6, 0), (14, 13), (6, 17), (62, 20), (1, 32), (3, 34)], .mdrn 3 14 6 true false 62),
    (.x, word [(7, 0), (5, 6), (9, 9), (62, 20), (1, 32), (3, 34)], .mldz 3 5 9 true 62),
    (.x, word [(0xa, 0), (5, 6), (9, 9), (62, 20), (2, 32), (3, 34)], .mlu 3 5 2 ⟨0, 9, 0⟩ 62),
    (.x, word [(0xb, 0), (5, 6), (62, 20), (40, 26), (3, 34)], .mchol 3 5 ⟨40, 0, 0⟩ 62),
    (.x, word [(0xc, 0), (5, 6), (9, 9), (14, 13), (6, 17), (62, 20), (2, 32), (3, 34)], .mtrs 3 5 6 false true ⟨0, 9, 14⟩ 62)] = true := by
  decide +kernel
theorem test_decode_matrix_2 : readAll [
    (.x, word [(0xd, 0), (5, 6), (9, 9), (14, 13), (6, 17), (62, 20), (3, 34)], .mqr 3 5 6 ⟨0, 9, 14⟩ 62),
    (.x, word [(0xe, 0), (5, 6), (6, 17), (62, 20), (40, 26), (3, 32), (3, 34)], .msolve 3 5 6 3 ⟨40, 0, 0⟩ 62),
    (.x, word [(0xf, 0), (62, 20), (3, 34)], .mresume 3 62),
    (.x, word [(0x10, 0), (5, 6), (9, 9), (62, 20), (2, 32), (3, 34)], .mperm 3 5 2 ⟨0, 9, 0⟩ 62),
    (.x, word [(0x11, 0), (9, 9), (6, 17), (62, 20), (3, 34)], .mnorm 3 6 ⟨0, 9, 0⟩ 62)] = true := by
  decide +kernel
theorem test_decode_copy : readAll [
    (.k, word [(1, 0), (9, 6), (14, 10), (60, 20), (3, 26), (3, 34)], .kcpy 3 14 9 ⟨60, 3⟩),
    (.k, word [(2, 0), (9, 6), (14, 10), (40, 14), (60, 20), (3, 26), (3, 34)], .kmcst 3 14 9 40 ⟨60, 3⟩),
    (.k, word [(3, 0), (9, 6), (14, 10), (60, 20), (3, 26), (3, 34)], .kred 3 14 9 ⟨60, 3⟩),
    (.k, word [(4, 0), (40, 14), (3, 34)], .kidx 3 40),
    (.k, word [(5, 0), (9, 6), (14, 10), (40, 14), (60, 20), (3, 26), (3, 34)], .kgth 3 14 9 40 ⟨60, 3⟩),
    (.k, word [(6, 0), (9, 6), (14, 10), (40, 14), (60, 20), (3, 26), (3, 34)], .ksct 3 14 9 40 ⟨60, 3⟩),
    (.k, word [(7, 0), (9, 6), (14, 10), (40, 14), (62, 20), (1, 26), (33, 28), (3, 34)], .kroute 3 14 9 40 33 ⟨62, 1⟩),
    (.k, word [(8, 0), (9, 6), (14, 10), (40, 14), (62, 20), (1, 26), (33, 28), (3, 34)], .ka2a 3 14 9 40 33 ⟨62, 1⟩),
    (.k, word [(9, 0), (14, 10), (40, 14), (62, 20), (1, 26), (33, 28), (3, 34)], .kgat 3 14 40 33 ⟨62, 1⟩),
    (.k, word [(0xa, 0), (9, 6), (1, 10), (60, 20), (3, 26), (3, 34)], .kring 3 9 true ⟨60, 3⟩),
    (.k, word [(0xb, 0), (14, 10), (40, 14), (3, 34)], .kfill 3 14 40 ⟨0, 0⟩)] = true := by
  decide +kernel
theorem test_decode_optimiser : readAll [
    (.o, word [(1, 0), (5, 5), (100, 8), (9, 15), (3, 26)], .osgd 3 5 100 9),
    (.o, word [(2, 0), (5, 5), (100, 8), (9, 15), (14, 19), (3, 26)], .omom 3 5 100 9 14),
    (.o, word [(3, 0), (5, 5), (100, 8), (9, 15), (14, 19), (3, 26)], .oadam 3 5 100 9 14),
    (.o, word [(4, 0), (5, 5), (6, 8), (7, 11), (3, 26)], .oclip 3 6 7 5),
    (.o, word [(5, 0), (100, 8), (9, 15), (3, 26)], .oscl 3 9 100),
    (.o, word [(6, 0), (5, 5), (100, 8), (14, 19), (3, 26)], .ogsq 3 5 100 14)] = true := by
  decide +kernel

/-- R116, R135, R367: reserved opcodes are 0x03; reserved bits and fields beyond their limit 0x04 with the lowest bit. -/
theorem test_decode_rejects : rejectAll [
    (.s1, word [(0x36, 0)], 0x03, 0), (.c, word [(0x11, 0)], 0x03, 0), (.m, word [(0x19, 0)], 0x03, 0),
    (.v0, word [(0x2F, 0)], 0x03, 0), (.x, word [(0x12, 0)], 0x03, 0), (.k, word [(0x0C, 0)], 0x03, 0), (.o, word [(7, 0)], 0x03, 0),
    (.s0, word [(1, 39)], 0x04, 39), (.v0, word [(1, 7), (1, 40)], 0x04, 7),
    -- POPC with a bit of b; SEXT of width 65; PHASE with a bit of a; a latch number above 15
    (.s0, word [(0x1A, 0), (1, 30)], 0x04, 30), (.s0, word [(0x18, 0), (1, 20), (65, 22)], 0x04, 22), (.c, word [(8, 0), (1, 17)], 0x04, 17),
    (.s0, word [(1, 0), (1, 13), (16, 14)], 0x04, 18),
    -- ST with nowb; VADD with bit 47; MZERO with barrier register 63; KCPY level 3 with register 61; OSGD with bit 25
    (.m, word [(2, 0), (1, 12)], 0x04, 12), (.v0, word [(1, 0), (1, 34), (1, 47)], 0x04, 47), (.x, word [(1, 0), (63, 20)], 0x04, 20),
    (.k, word [(1, 0), (61, 20), (3, 26)], 0x04, 20), (.o, word [(1, 0), (1, 25)], 0x04, 25)] = true := by
  decide +kernel

/-- R112, R113: the header, and the slots in ascending bit position. -/
theorem test_decode_bundle :
    let b := decodeBundle (BitVec.ofNat 384 (word [(1, 0), (3, 2), (1, 8), (1, 16), (8, 96), (1, 352)]))
    b.kind = 1 ∧ b.bpred = 3 ∧ b.inv = true ∧ b.resv = 0 ∧
    b.slots = [(.s0, .ok (.add .s0 0 ⟨0, false⟩ (.reg 0) (.reg 0))), (.c, .ok (.phase 0)), (.o, .ok (.osgd 0 0 0 0))] := by
  exact ⟨rfl, rfl, rfl, rfl, rfl⟩

/-! ## Results of one operation, on small states; the expected values are worked out by hand from the rules named -/

/-- The state an operation answers, or reset where it answers none. -/
def after (i : Instr) (s : State) : State := match exec i s with
  | .next t => t
  | _ => State.reset
/-- The register writes in flight after it. -/
def writes (i : Instr) (s : State) : List RegWrite := (after i s).me.pipe.flatMap (·.writes)
/-- The flags in flight after it. -/
def flags (i : Instr) (s : State) : Flags := (after i s).me.pipe.foldl (fun f l => f ||| l.flags) 0
/-- Each operation delivers these writes. -/
def gives (s : State) (l : List (Instr × List RegWrite)) : Bool := l.all fun t => decide (writes t.1 s = t.2)
/-- A write of scalar register 20. -/
def to20 (w : Word) : List RegWrite := [.s 20 (SVal.of w)]
/-- Destination s20. -/
def d20 : Dst 64 := ⟨20, false⟩
/-- Destination v5. -/
def d5 : Dst 32 := ⟨5, false⟩

/-- A lane that runs on core 0, bank 0, with these scalars. -/
def lane (l : List (Fin 64 × Word)) : State := State.reset.modMe fun c => { c with
  stat := .running
  run := 1
  sreg := l.foldl (fun r t => r.set t.1 (SVal.of t.2)) c.sreg }
/-- s1 = 7, s2 = -3, s3 = 0, s4 = the least number, s5 = -1, s20 = 0. -/
def small : State := lane [(1, 7), (2, -3), (3, 0), (4, 0x8000000000000000), (5, -1)]
/-- A vector register of format `f` whose lanes are all `w`, but lane 0, which is `w0`. -/
def vec (f : Half) (w0 w : W32) : VReg := ⟨(Vector.replicate 128 w).set 0 w0, f, one32⟩
/-- A lane with v1 and v2; k1 selects lanes 0 and 1. -/
def vlane (x y : VReg) : State := (lane [(1, 7), (2, -3)]).modMe fun c => { c with
  vreg := (c.vreg.set 1 x).set 2 y
  kreg := c.kreg.set 1 3 }

-- R139
theorem test_scalar_integers : gives small [
    (.add .s0 0 d20 (.reg 1) (.reg 2), to20 4), (.add .s0 0 d20 (.reg 1) (.imm 0xFFF), to20 6),
    (.sub .s0 0 d20 (.reg 1) (.reg 2), to20 10), (.mul .s0 0 d20 (.reg 1) (.reg 2), to20 (-21)),
    (.mulh .s0 0 d20 (.reg 1) (.reg 2), to20 (-1)), (.mulhn .s0 0 d20 (.reg 1) (.reg 2), to20 6),
    (.and .s0 0 d20 (.reg 1) (.reg 2), to20 5), (.or .s0 0 d20 (.reg 1) (.reg 2), to20 (-1)),
    (.xor .s0 0 d20 (.reg 1) (.reg 2), to20 (-6)), (.andn .s0 0 d20 (.reg 1) (.reg 2), to20 2),
    (.shl .s0 0 d20 (.reg 1) (.reg 2), to20 0xE000000000000000), (.shr .s0 0 d20 (.reg 2) (.imm 60), to20 15),
    (.sra .s0 0 d20 (.reg 2) (.imm 1), to20 (-2)), (.min .s0 0 d20 (.reg 1) (.reg 2), to20 (-3)),
    (.max .s0 0 d20 (.reg 1) (.reg 2), to20 7), (.minn .s0 0 d20 (.reg 1) (.reg 2), to20 7),
    (.maxn .s0 0 d20 (.reg 1) (.reg 2), to20 (-3)), (.lea .s0 0 d20 (.reg 2) (.imm 0), to20 0xFFFFFFFFFFFFFD)] = true := by
  decide +kernel

-- R140
theorem test_scalar_division : gives small [
    (.divs .s0 0 d20 (.reg 1) (.reg 2), to20 (-2)), (.rems .s0 0 d20 (.reg 1) (.reg 2), to20 1),
    (.divn .s0 0 d20 (.reg 1) (.reg 2), to20 0), (.remn .s0 0 d20 (.reg 1) (.reg 2), to20 7),
    (.divs .s0 0 d20 (.reg 1) (.reg 3), to20 (-1)), (.remn .s0 0 d20 (.reg 1) (.reg 3), to20 7),
    (.divs .s0 0 d20 (.reg 4) (.reg 5), to20 0x8000000000000000), (.rems .s0 0 d20 (.reg 4) (.reg 5), to20 0)] = true := by
  decide +kernel
theorem test_division_flags : flags (.divs .s0 0 d20 (.reg 1) (.reg 3)) small = fDz ∧
    flags (.rems .s0 0 d20 (.reg 4) (.reg 5)) small = fOvf ∧ flags (.divn .s0 0 d20 (.reg 1) (.reg 2)) small = 0 := by
  decide +kernel

-- R141, R142
theorem test_bit_fields : gives small [
    (.movi .s0 0 d20 0x80001, to20 (-0x7FFFF)), (.movk .s0 0 ⟨2, false⟩ 0xBEEF 2, [.s 2 (SVal.of 0xFFFFBEEFFFFFFFFD)]),
    (.sext .s0 0 d20 (.reg 1) 3, to20 (-1)), (.zext .s0 0 d20 (.reg 2) 4, to20 13), (.popc .s0 0 d20 (.reg 2), to20 63),
    (.clz .s0 0 d20 (.reg 1), to20 61), (.ctz .s0 0 d20 (.reg 4), to20 63), (.ctz .s0 0 d20 (.reg 3), to20 64),
    (.bext .s0 0 d20 (.reg 2) (.imm 129), to20 6), (.bins .s0 0 d20 (.reg 1) (.imm 196), to20 0x70)] = true := by
  decide +kernel

-- R143, R144
theorem test_predicates : gives small [
    (.cmpeq .s0 0 d20 (.reg 1) (.imm 7), [.p 20 true]), (.cmpne .s0 0 d20 (.reg 1) (.imm 7), [.p 20 false]),
    (.cmplt .s0 0 d20 (.reg 2) (.reg 1), [.p 20 true]), (.cmple .s0 0 d20 (.reg 1) (.reg 2), [.p 20 false]),
    (.cmpltn .s0 0 d20 (.reg 2) (.reg 1), [.p 20 false]), (.cmplen .s0 0 d20 (.reg 1) (.reg 2), [.p 20 true]),
    (.pand .s0 0 d20 (.reg 0) (.reg 1), [.p 20 false]), (.por .s0 0 d20 (.reg 0) (.reg 1), [.p 20 true]),
    (.pxor .s0 0 d20 (.reg 0) (.reg 0), [.p 20 false]), (.pandn .s0 0 d20 (.reg 0) (.reg 1), [.p 20 true]),
    (.pmov .s0 0 d20 (.reg 0), [.p 20 true]), (.ptos .s0 0 d20 (.reg 0), to20 1),
    (.sel .s0 0 d20 (.reg 0) (.reg 2), to20 (-3)), (.sel .s0 0 ⟨1, false⟩ (.reg 1) (.reg 2), [.s 1 (SVal.of 7)])] = true := by
  decide +kernel

-- R145, R146
theorem test_fields_and_control_registers : gives (small.modMe fun c => { c with
    step := 0x3A5
    fields := [] }) [
    (.dset .s0 0 ⟨3, false⟩ (.reg 1) 2, [.df 3 2 7]), (.dget .s0 0 d20 3 2, to20 0), (.crrd .s0 0 d20 0x000, to20 0x3A5),
    (.crrd .s0 0 d20 0x008, to20 0x3F800000), (.crwr .s0 0 (.reg 1) 0x029, [.cr 0x29 7])] = true := by
  decide +kernel

-- R148: 1 + 2 = 3, 2 * 3 = 6, 1 < 2, 5 to 5.0, 2.5 to 2 under round to nearest even
theorem test_scalar_float : gives (lane [(1, 0x3F800000), (2, 0x40000000), (3, 0x40400000), (4, 5), (6, 0x40200000)]) [
    (.fadds .s0 0 d20 (.reg 1) (.reg 2), to20 0x40400000), (.fmuls .s0 0 d20 (.reg 2) (.reg 3), to20 0x40C00000),
    (.fcmplt .s0 0 d20 (.reg 1) (.reg 2), [.p 20 true]), (.fcvtis .s0 0 d20 (.reg 4) 0, to20 0x40A00000),
    (.fcvtsi .s0 0 d20 (.reg 6) 0 false, to20 2)] = true := by
  decide +kernel

-- R50, R51: a landed result, its residue and its latch; s0 stays zero
theorem test_landing : let l : Landing := ⟨.s0, 4, 9, some 5, [.s 20 (SVal.of 31), .s 0 (SVal.of 1)], some (.scalar (SVal.of 31)), 0, [], 7, false⟩
    let c := Ctx.blank.landed l
    c.sget 20 = ⟨31, 1⟩ ∧ c.sget 0 = ⟨0, 0⟩ ∧ c.qreg[(0 : Fin 16)] = .scalar ⟨31, 1⟩ := by
  decide +kernel

/-- The lanes 0 and 1 and the tag of the vector that is in flight. -/
def vres (i : Instr) (s : State) : Option (W32 × W32 × Half) := ((after i s).me.pipe.head?.bind (·.latch)).bind fun
  | .vec v => some (v.lanes[0], v.lanes[1], v.tag)
  | _ => none
/-- FP32 and no rounding fields, under k1. -/
def f32 : VMods := ⟨1, 0, false, 1⟩
/-- i8 wrapping, under k1. -/
def i8 : VMods := ⟨7, 0, false, 1⟩
/-- u8 saturating, under k1. -/
def u8s : VMods := ⟨8, 0, true, 1⟩

-- R194, R196: v1 = (3, 1, 1, ...), v2 = (-2, 2, 2, ...)
theorem test_vector_float : let s := vlane (vec 1 0x40400000 0x3F800000) (vec 1 0xC0000000 0x40000000)
    vres (.vadd .v0 0 d5 (.reg 1) (.reg 2) f32) s = some (0x3F800000, 0x40400000, 1) ∧
    vres (.vsub .v0 0 d5 (.reg 1) (.reg 2) f32) s = some (0x40A00000, 0xBF800000, 1) ∧
    vres (.vmul .v0 0 d5 (.reg 1) (.reg 2) f32) s = some (0xC0C00000, 0x40000000, 1) := by
  decide +kernel
theorem test_vector_fused : let s := vlane (vec 1 0x40400000 0x3F800000) (vec 1 0xC0000000 0x40000000)
    vres (.vfma .v0 0 d5 (.reg 1) (.reg 2) (.reg 1) f32) s = some (0xC0400000, 0x40400000, 1) ∧
    vres (.vfms .v0 0 d5 (.reg 1) (.reg 2) (.reg 1) f32) s = some (0xC1100000, 0x3F800000, 1) ∧
    vres (.vfnma .v0 0 d5 (.reg 1) (.reg 2) (.reg 1) f32) s = some (0x41100000, 0xBF800000, 1) := by
  decide +kernel
theorem test_vector_signs : let s := vlane (vec 1 0x40400000 0x3F800000) (vec 1 0xC0000000 0x40000000)
    vres (.vmin .v0 0 d5 (.reg 1) (.reg 2) f32) s = some (0xC0000000, 0x3F800000, 1) ∧
    vres (.vmax .v0 0 d5 (.reg 1) (.reg 2) f32) s = some (0x40400000, 0x40000000, 1) ∧
    vres (.vabs .v0 0 d5 (.reg 2) f32) s = some (0x40000000, 0x40000000, 1) ∧
    vres (.vneg .v0 0 d5 (.reg 2) f32) s = some (0x40000000, 0xC0000000, 1) ∧
    vres (.vcpys .v0 0 d5 (.reg 1) (.reg 2) f32) s = some (0xC0400000, 0x3F800000, 1) := by
  decide +kernel

-- R195, R197: i8 100 + 100 wraps to -56; u8 200 + 100 is clamped; shifts by the width or more
theorem test_vector_integer : let s := vlane (vec 7 100 3) (vec 7 100 0xFE)
    vres (.vadd .v0 0 d5 (.reg 1) (.reg 2) i8) s = some (200, 1, 7) ∧
    vres (.vmul .v0 0 d5 (.reg 1) (.reg 2) i8) s = some (16, 0xFA, 7) ∧
    vres (.vshl .v0 0 d5 (.reg 1) (.reg 2) i8) s = some (0, 0, 0x807) ∧
    vres (.vsra .v0 0 d5 (.reg 2) (.reg 1) i8) s = some (0, 0xFF, 7) ∧
    vres (.vxor .v0 0 d5 (.reg 1) (.reg 2) i8) s = some (0, 0xFD, 7) := by
  decide +kernel
theorem test_vector_saturates : let s := vlane (vec 8 200 3) (vec 8 100 5)
    vres (.vadd .v0 0 d5 (.reg 1) (.reg 2) u8s) s = some (255, 8, 8) ∧
    vres (.vsub .v0 0 d5 (.reg 1) (.reg 2) u8s) s = some (100, 0, 8) ∧
    flags (.vadd .v0 0 d5 (.reg 1) (.reg 2) u8s) s = fSat := by
  decide +kernel

-- R198, R208, R209: 3 < -2 is false in lane 0 and 1 < 2 true in lane 1
theorem test_masks : let s := vlane (vec 1 0x40400000 0x3F800000) (vec 1 0xC0000000 0x40000000)
    writes (.vcmplt .v0 0 ⟨3, false⟩ (.reg 1) (.reg 2) f32) s = [.k 3 2] ∧
    writes (.vcmpne .v0 0 ⟨3, false⟩ (.reg 1) (.reg 2) f32) s = [.k 3 3] ∧
    writes (.vmovk .v0 0 ⟨3, false⟩ 0 1 3) s = [.k 3 (BitVec.allOnes 128 - 3)] ∧
    writes (.vmovk .v0 0 ⟨3, false⟩ 0 0 6) s = [.k 3 1] ∧
    writes (.kpopc .v0 0 ⟨20, false⟩ 0 0) s = to20 128 := by
  decide +kernel

-- R190, R200, R207
theorem test_vector_moves : let s := vlane (vec 1 0x40400000 0x3F800000) (vec 1 0xC0000000 0x40000000)
    vres (.vmov .v0 0 d5 (.reg 2) 0) s = some (0xC0000000, 0x40000000, 1) ∧
    vres (.vrotl .v0 0 d5 (.reg 1) (.bcast 1) 0) s = some (0x3F800000, 0x3F800000, 1) ∧
    vres (.vbcast .v0 0 d5 (.reg 1) (.bcast 0) 0) s = some (0x40400000, 0x40400000, 1) ∧
    vres (.vsel .v0 0 d5 (.reg 1) (.reg 2) 1) s = some (0x40400000, 0x3F800000, 1) ∧
    writes (.vextr .v0 0 ⟨20, false⟩ (.reg 2) (.bcast 0)) s = to20 0xC0000000 := by
  decide +kernel

-- R199, R201: 1/4, 1/sqrt 4, sqrt 4, 2^2 and log2 4, class of a positive normal
theorem test_vector_functions : let s := vlane (vec 1 0x40000000 0x40800000) (vec 1 0 0)
    (vres (.vrcp .v0 0 d5 (.reg 1) f32) s).map (·.2.1) = some 0x3E800000 ∧
    (vres (.vrsqrt .v0 0 d5 (.reg 1) f32) s).map (·.2.1) = some 0x3F000000 ∧
    (vres (.vsqrt .v0 0 d5 (.reg 1) f32) s).map (·.2.1) = some 0x40000000 ∧
    (vres (.vexp2 .v0 0 d5 (.reg 1) f32) s).map (·.1) = some 0x40800000 ∧
    (vres (.vlog2 .v0 0 d5 (.reg 1) f32) s).map (·.2.1) = some 0x40000000 ∧
    (vres (.vtanh .v0 0 d5 (.reg 2) f32) s).map (·.1) = some 0 ∧
    (vres (.vclass .v0 0 d5 (.reg 1) f32) s).map (·.1) = some 0x40 := by
  decide +kernel

-- R202, R203: 3.0 to i32 is 3; 3.0 scaled by 2^7 is 384.0
theorem test_vector_conversions : let s := vlane (vec 1 0x40400000 0x3F800000) (vec 11 7 0)
    vres (.vcvt .v0 0 d5 (.reg 1) ⟨11, 0, false, 1⟩) s = some (3, 1, 11) ∧
    vres (.vscale .v0 0 d5 (.reg 1) (.reg 2) f32) s = some (0x43C00000, 0x3F800000, 1) := by
  decide +kernel

-- R205, R206: 3 + 1 = 4; the running sums 3, 4; the greatest is 3
theorem test_reductions : let s := vlane (vec 1 0x40400000 0x3F800000) (vec 1 0 0)
    vres (.vradd .v0 0 d5 (.reg 1) f32) s = some (0x40800000, 0x40800000, 1) ∧
    vres (.vscan .v0 0 d5 (.reg 1) f32) s = some (0x40400000, 0x40800000, 1) ∧
    vres (.vrmax .v0 0 d5 (.reg 1) f32) s = some (0x40400000, 0x40400000, 1) := by
  decide +kernel

-- R151 to R153: BR from 10 to 8 takes effect three bundles on; LOOP of count 0 skips past its end
theorem test_branch_and_loop : let s := small.modMe fun c => { c with
      pc := 10
      n := 4 }
    (after (.br 0 0xFFFFE) s).me.redir = [(7, 8)] ∧ (after (.brs 0 1) s).me.redir = [(7, 7)] ∧
    (after (.loop 0 3 2) s).me.skip = some 13 ∧ (after (.loopi 0 5 2) s).me.loops = [⟨11, 12, 5⟩] := by
  decide +kernel

-- R165: -3 as four bytes at scratchpad address 8, read back signed and unsigned
theorem test_store_and_load : let s := after (.st 0 2 3 (.imm 8) 11) small
    s.num (spadLoc 0 8) 4 = 0xFFFFFFFD ∧ s.byte (spadLoc 0 12) = 0 ∧
    writes (.ld 0 d20 3 (.imm 8) 11) s = to20 (-3) ∧ writes (.ld 0 d20 3 (.imm 8) 12) s = to20 0xFFFFFFFD := by
  decide +kernel
theorem test_misaligned_store_traps : (after (.st 0 2 3 (.imm 9) 11) small).verdict = .failed .m { code := 0x27, faddr := 9 } := by
  decide +kernel

-- R212, R224, R229: an X command queues; OCLIP of o1 = 2 and o2 = 1 gives 1, as 1 <= 4
theorem test_engine_queue : (after (.mzero 0 3 0) small).me.xq.map XCmd.op = [.mzero 0 3 0] := by
  decide +kernel
theorem test_clip : writes (.oclip 0 4 1 2) (small.modMe fun c => { c with oreg := (c.oreg.set 1 0x40000000).set 2 0x3F800000 }) =
    [.o 4 0x3F800000] := by
  decide +kernel

-- R176: KIDX leaves 255 free entries; R312: an in-sequence flit; R303: a reserved mailbox command has status 0x50
theorem test_index_queue : (after (.kidx 0 1) small).me.idxq = [7] ∧
    ((after (.kidx 0 1) small).me.pipe.map (·.latch)) = [some (.scalar (SVal.of 255))] := by
  decide +kernel
theorem test_reserved_mailbox_command : let s : State := { State.reset with
      time := 1
      mail := State.reset.mail.set 2 ⟨10, true, 0, 0, 0, 0⟩
      mbQueue := [(0, 2)] }
    (after (.mailboxReservedCommand 2) s).mail[(2 : Fin 16)] = ⟨10, false, 0, 0, 0, 0x50⟩ := by
  decide +kernel

/-! ## Witnesses: for every statement with hypotheses, states and operands that meet them -/

/-- An answer that is no error. -/
theorem ok_of {ε α : Type} {x : Except ε α} (h : x.isOk = true) : ∃ t, x = .ok t := by
  cases x with
  | ok t => exact ⟨t, rfl⟩
  | error e => cases h
/-- Two answers, one made from the other. -/
theorem ok_both {ε α β : Type} {x : Except ε α} {f : α → Except ε β} (h : (x >>= f).isOk = true) :
    ∃ t u, x = .ok t ∧ f t = .ok u := by
  cases x with
  | error e => cases h
  | ok t => exact (ok_of h).elim fun u hu => ⟨t, u, rfl, hu⟩

/-- A state whose four stores are in canonical form. -/
theorem canonical_of {s : State} (h : (Memory.wf s.mem && Sparse.wf none s.exact && Sparse.wf 0 s.policy &&
    Sparse.wf Arena.none s.arenas) = true) : s.Canonical := by
  simp only [Bool.and_eq_true] at h
  exact ⟨h.1.1.1, h.1.1.2, h.1.2, h.2⟩

/-- A lane that has a node, a step and a trap ring of four slots at 0x10000 (R338), stopped nowhere. -/
def running : State := { (small.modMe fun c => { c with
    asid := 1
    opb := 0x4000
    trapring := 0x10000 }) with
  runs := [⟨1, 1, 0x4000, 0, [⟨0, 0⟩], [Vector.replicate 4 0], false, 0, false, false⟩] }

theorem witness_ScalarIntegersDeliver : small.me.pget 0 = true ∧ small.me.readS (.reg 1) = .ok (SVal.of 7) ∧
    small.me.readSB (.reg 2) = .ok (SVal.of (-3)) ∧ (SVal.of (-3)).val ≠ 0 := by
  refine ⟨rfl, rfl, rfl, by decide⟩
theorem witness_ScalarIntegersDeliver_zero : small.me.readSB (.reg 3) = .ok (SVal.of 0) ∧ (SVal.of 0).val = 0 := ⟨rfl, rfl⟩
theorem witness_ScalarIntegersDeliver_least : small.me.readS (.reg 4) = .ok (SVal.of (BitVec.intMin 64)) ∧
    small.me.readSB (.reg 5) = .ok (SVal.of (BitVec.allOnes 64)) := ⟨rfl, rfl⟩

theorem witness_BitFieldsDeliver : small.me.pget 0 = true ∧ small.me.readS (.reg 4) = .ok (SVal.of (BitVec.intMin 64)) ∧
    small.me.readSB (.imm 0x7FF) = .ok (SVal.of 0x7FF) := ⟨rfl, rfl, rfl⟩

theorem witness_ComparesAndPredicatesDeliver : small.me.pget 0 = true ∧ small.me.readS (.reg 1) = .ok (SVal.of 7) ∧
    small.me.readSB (.reg 5) = .ok (SVal.of (-1)) ∧ small.me.readP (.reg 0) = .ok true ∧ small.me.readP (.reg 1) = .ok false :=
  ⟨rfl, rfl, rfl, rfl, rfl⟩

theorem witness_ScalarFloatDelivers : small.me.pget 0 = true ∧ small.me.readS (.reg 1) = .ok (SVal.of 7) ∧
    small.me.readS (.reg 5) = .ok (SVal.of (-1)) := ⟨rfl, rfl, rfl⟩

theorem witness_FalsePredicateTakesNoEffect : ∃ sl w, encode (.add .s0 7 d20 (.reg 1) (.reg 2)) = some (sl, w) ∧
    small.me.pget (Instr.pred (.add .s0 7 d20 (.reg 1) (.reg 2))) = false := ⟨_, _, rfl, rfl⟩

theorem witness_LandingWrites : latchIdx .s0 = some 0 ∧ latchIdx .o = some 5 ∧ fxIdx .s0 = some 0 ∧ fxIdx .v1 = some 3 := by
  decide +kernel

theorem witness_PipelinedSlotFrame : ∃ sl w t, encode (.divs .s1 0 d20 (.reg 1) (.reg 3)) = some (sl, w) ∧ sl = .s1 ∧
    (∀ u p d a h e, Instr.divs .s1 0 d20 (.reg 1) (.reg 3) ≠ .vsig u p d a h e) ∧
    exec (.divs .s1 0 d20 (.reg 1) (.reg 3)) small = .next t ∧ t.verdict = .ok :=
  ⟨_, _, _, rfl, rfl, by intros; simp, rfl, rfl⟩

theorem witness_FieldsAndControlRegistersDeliver : small.me.pget 0 = true ∧ small.me.checkedS (.reg 1) = .ok 7 ∧
    small.me.readS (.reg 5) = .ok (SVal.of (-1)) := ⟨rfl, rfl, rfl⟩

theorem witness_BranchesRedirect : small.me.pget 0 = true ∧ small.me.checked 1 = .ok 7 := ⟨rfl, rfl⟩

/-- Ten bundles in, at index address 5 of a stream of plain halfwords. -/
def fetching : Ctx := { Ctx.blank with
  n := 9
  pc := 5 }
theorem witness_FetchFollowsBranchesThenLoops_branch : let c : Ctx := { fetching with redir := [(10, 2)] }
    c.redir.find? (fun r => r.1 = c.n + 1) = some (c.n + 1, 2) := by
  decide +kernel
theorem witness_FetchFollowsBranchesThenLoops_skip : let c : Ctx := { fetching with
      redir := [(11, 2)]
      skip := some 8 }
    (∀ r ∈ c.redir, r.1 ≠ c.n + 1) ∧ c.skip = some 8 := by
  decide +kernel
theorem witness_FetchFollowsBranchesThenLoops_loop : let c : Ctx := { fetching with loops := [⟨3, 5, 1⟩, ⟨1, 5, 2⟩] }
    (∀ r ∈ c.redir, r.1 ≠ c.n + 1) ∧ c.skip = none ∧ c.loops = [⟨3, 5, 1⟩, ⟨1, 5, 2⟩] ∧ c.pc = 5 ∧ (1 : W32).toNat ≤ 1 ∧
    1 < (2 : W32).toNat := by
  decide +kernel

theorem witness_LoopsTailsAndRingBindings : let s := lane [(1, 0x100), (2, 0x101), (3, 0xFFFFFFFFFFFFFF00), (4, 0x40)]
    s.me.pget 0 = true ∧ s.me.checked 1 = .ok 0x100 ∧ s.me.checked 2 = .ok 0x101 ∧
    s.me.checked 3 = .ok 0xFFFFFFFFFFFFFF00 ∧ s.me.checked 4 = .ok 0x40 ∧ (0x100 : Word).toNat % 256 = 0 ∧
    (0x101 : Word).toNat % 64 ≠ 0 ∧ 2 ^ 56 ≤ (0xFFFFFFFFFFFFFF00 : Word).toNat ∧ (0x40 : Word).toNat % 64 = 0 := by
  refine ⟨rfl, rfl, rfl, rfl, rfl, ?_⟩ <;> decide +kernel

/-- A lane with a write held to a byte of its own die, and one with a write held to die 1. -/
def holding (loc : Nat) : State := running.modMe fun c => { c with pend := [⟨.bytes [(loc, 7)], BitVec.ofNat 64 loc, false, false, some 0⟩] }
theorem witness_PhaseClosesAndOpens : (holding 0x20000).me.pget 0 = true ∧ (holding 0x20000).doomed ⟨0, 0⟩ = none ∧
    (∀ w ∈ closeOrder (holding 0x20000).me.pend, w.sure = false → ∀ l ∈ w.locs, (holding 0x20000).home l = coreDie 0) ∧
    (∃ u, (holding 0x20000).applyAll (closeOrder (holding 0x20000).me.pend) = .ok u) := by
  refine ⟨rfl, rfl, by decide +kernel, _, rfl⟩
theorem witness_PhaseClosesAndOpens_far : (holding 0xC00000000).me.pget 0 = true ∧ (holding 0xC00000000).doomed ⟨0, 0⟩ = none ∧
    ¬ (∀ w ∈ closeOrder (holding 0xC00000000).me.pend, w.sure = false → ∀ l ∈ w.locs,
      (holding 0xC00000000).home l = coreDie 0) := by
  decide +kernel
theorem witness_PhaseClosesAndOpens_refused : let s : State := { holding 0x20000 with poison := [0x20000] }
    s.me.pget 0 = true ∧ ∃ f, s.closePhase s.cur .c s.me.pc false = .error f := ⟨rfl, _, rfl⟩

/-- A lane with a K command still under way. -/
def copying : State := after (.kcpy 0 2 1 ⟨0, 0⟩) running
theorem witness_FenceStallsUntilSettled : copying.me.pget 0 = true ∧ copying.fenceDone copying.cur 2 = false ∧
    copying.fenceDone copying.cur 4 = true := by
  decide +kernel
/-- A lane with a load in flight, which a FENCE of the memory path lands. -/
def loading : State := { after (.ld 0 d20 3 (.imm 8) 11) running with time := 9 }
theorem witness_FenceStallsUntilSettled_lands : loading.me.pget 0 = true ∧ loading.fenceDone loading.cur 1 = true ∧
    (loading.me.pipe.filter fun l => l.slot = .m).length = 1 := by
  decide +kernel

/-- A lane whose scratchpad word at 0x40 holds 5. -/
def waiting : State := (lane [(1, 0x40), (2, 5), (3, 6), (4, 4), (5, 0x41), (6, 0x400000)]).setNum (spadLoc 0 0x40) 5 8
theorem witness_WordWaits : waiting.me.pget 0 = true ∧ waiting.me.checked 1 = .ok 0x40 ∧ waiting.me.checked 2 = .ok 5 ∧
    waiting.me.checked 3 = .ok 6 ∧ waiting.me.checked 4 = .ok 4 ∧ waiting.num (spadLoc 0 0x40) 8 = 5 ∧
    waiting.wordWaits waiting.cur (spadLoc 0 0x40) = false ∧
    waiting.poisonIn (spadLoc 0 0x40) 8 = none ∧ waiting.fresh (spadLoc 0 0x40) 8 = false ∧
    waiting.firstClash waiting.cur waiting.me.run .observe waiting.time none
      (spansOf [(BitVec.ofNat 64 ((spadLoc 0 0x40 - 2 ^ 52) % 2 ^ 22), (List.range 8).map (spadLoc 0 0x40 + ·))]) = none := by
  refine ⟨rfl, rfl, rfl, rfl, rfl, ?_⟩ <;> decide +kernel
theorem witness_WordWaits_outside : waiting.me.checked 5 = .ok 0x41 ∧ (0x41 : Word).toNat % 8 ≠ 0 ∧
    waiting.me.checked 6 = .ok 0x400000 ∧ (0x400000 : Word).toNat % 8 = 0 ∧ 0x400000 ≤ (0x400000 : Word).toNat := by
  refine ⟨rfl, ?_, rfl, ?_⟩ <;> decide +kernel

/-- A ring object at scratchpad address 0x100: 4 slots of 32 bytes, one producer, `wp` claimed and none released. -/
def ringed (wp eosseen : Nat) : State :=
  let l := spadLoc 0 0x100
  ((((lane [(1, 1), (2, 2), (3, 3)]).setNum l 0x1000 8).setNum (l + 8) (32 + 4 * 2 ^ 16 + 2 ^ 25 + eosseen * 2 ^ 32) 8).setNum
    (l + 16) wp 4).modMe fun c => { c with hreg := c.hreg.set 2 (some ⟨0x100, 0⟩) }
/-- The locations of that object. -/
def ringLocs : List Nat := (List.range 64).map fun i => spadLoc 0 (0x100 + i)
theorem witness_RingWaitsAndRelease : let s := ringed 2 0
    s.me.pget 0 = true ∧ s.me.checked 2 = .ok 2 ∧ s.me.hreg[(1 : Fin 8)] = none ∧ s.me.hreg[(2 : Fin 8)] = some ⟨0x100, 0⟩ ∧
    s.ringGate s.cur ⟨0x100, 0⟩ ⟨false, false⟩ = .ok ringLocs ∧ s.waits ringLocs = false ∧ ringLocs.any s.poisoned = false ∧
    (s.ringObj ringLocs).malformed ⟨0x100, 0⟩ = false ∧ (s.ringObj ringLocs).nslot = 4 ∧ (s.ringObj ringLocs).filled = 2 ∧
    s.fresh (ringLocs.headD 0) 64 = false ∧
    s.firstClash s.cur s.me.run .observe s.time none (ringSpans ringLocs 0x100) = none := by
  refine ⟨rfl, rfl, rfl, rfl, rfl, ?_⟩
  decide +kernel
theorem witness_RingWaitsAndRelease_sleeps : let s := ringed 2 0
    s.me.checked 3 = .ok 3 ∧ (3 : Word).toNat ≤ (s.ringObj ringLocs).nslot ∧ (s.ringObj ringLocs).filled < (3 : Word).toNat ∧
    (s.ringObj ringLocs).eosseen ≠ (s.ringObj ringLocs).nprod := by
  refine ⟨rfl, ?_⟩ <;> decide +kernel
theorem witness_RingWaitsAndRelease_over : let s := ringed 0 1
    (s.ringObj ringLocs).eosseen = (s.ringObj ringLocs).nprod ∧ (s.ringObj ringLocs).filled < (1 : Word).toNat := by
  decide +kernel
theorem witness_RingWaitsAndRelease_releases : let s := ringed 2 0
    s.me.checked 1 = .ok 1 ∧ s.ringGate s.cur ⟨0x100, 0⟩ ⟨true, false⟩ = .ok ringLocs ∧ (1 : Word).toNat ≤ (s.ringObj ringLocs).filled ∧
    (s.ringObj ringLocs).eosseen + ([] : List Nat).length ≤ (s.ringObj ringLocs).nprod ∧ leNat ((ringLocs.drop 32).map s.byte) = 0 ∧
    ∃ t u, s.ringTouch s.cur .sync s.time ringLocs 0x100 = .ok t ∧ t.closePhase s.cur .c s.me.pc true = .ok u := by
  exact ⟨rfl, rfl, by decide +kernel, by decide +kernel, by decide +kernel, ok_both (by decide +kernel)⟩
-- slots 0 and 1 of a ring of one producer, both released, each at an end of stream (R408)
theorem witness_RingWaitsAndRelease_ended : let s := (ringed 2 0).setNum (spadLoc 0 0x120) 3 8
    let r := s.ringObj ringLocs
    let released (i : Nat) : Prop := ∃ j < 2, (r.rp + j) % r.nslot = i
    leNat ((ringLocs.drop 32).map s.byte) = 3 ∧ [0, 1].Nodup ∧ (∀ i, i ∈ [0, 1] ↔ released i ∧ (3 : Nat).testBit i = true) ∧
    (∀ i < 256, (0 : Nat).testBit i = true ↔ (3 : Nat).testBit i = true ∧ ¬ released i) ∧ 2 ≤ r.filled ∧
    r.nprod < r.eosseen + [0, 1].length := by
  have h : ∀ j, j < 2 → (((ringed 2 0).setNum (spadLoc 0 0x120) 3 8).ringObj ringLocs).rp + j = j := by
    intro j _
    have : (((ringed 2 0).setNum (spadLoc 0 0x120) 3 8).ringObj ringLocs).rp = 0 := by decide +kernel
    omega
  have n4 : (((ringed 2 0).setNum (spadLoc 0 0x120) 3 8).ringObj ringLocs).nslot = 4 := by decide +kernel
  refine ⟨by decide +kernel, by decide, fun i => ⟨fun m => ?_, fun m => ?_⟩, by decide +kernel, by decide +kernel, by decide +kernel⟩
  · rcases List.mem_cons.mp m with rfl | m
    · exact ⟨⟨0, by decide, by rw [h 0 (by decide), n4]⟩, rfl⟩
    · rcases List.mem_singleton.mp m with rfl
      exact ⟨⟨1, by decide, by rw [h 1 (by decide), n4]⟩, rfl⟩
  · obtain ⟨⟨j, hj, e⟩, -⟩ := m
    rw [h j hj, n4] at e
    have : i = 0 ∨ i = 1 := by omega
    simpa using this
theorem witness_RingWaitsAndRelease_too_many : let s := ringed 2 0
    (s.ringObj ringLocs).filled < (3 : Word).toNat := by
  decide +kernel

theorem witness_TrapAndBreakpointRecord : running.me.pget 0 = true ∧ running.me.checked 1 = .ok 7 ∧
    (0x05 : Byte).getLsbD 7 = false ∧ (0x85 : Byte).getLsbD 7 = true ∧ running.me.debug = false ∧
    (running.modMe fun c => { c with debug := true }).me.debug = true := by
  refine ⟨rfl, rfl, ?_⟩ <;> decide +kernel

theorem witness_StopDiscardsTheOpenPhase_undo : let s := running.modMe fun c => { c with undo := [(spadLoc 0 0x40, 9), (spadLoc 0 0x40, 5)] }
    s.Canonical ∧ (s.ctx ⟨0, 0⟩).undo.reverse.find? (fun u => u.1 = spadLoc 0 0x40) = some (spadLoc 0 0x40, 5) :=
  ⟨canonical_of (by decide +kernel), by decide +kernel⟩
theorem witness_StopDiscardsTheOpenPhase : ∃ r, running.getRun r.id = some r ∧ (⟨0, 0⟩ : CtxId) ∈ r.gang ∧
    (running.ctx ⟨0, 0⟩).run = r.id ∧ r.gang.Nodup :=
  ⟨⟨1, 1, 0x4000, 0, [⟨0, 0⟩], [Vector.replicate 4 0], false, 0, false, false⟩, rfl, by decide, rfl, by decide⟩

/-- A lane whose trap ring has four slots at 0x10100, of which `prod` are in use. -/
def trapping (prod : Nat) : State := ((running.setNum 0x10000 0x10100 8).setNum 0x10008 2 8).setNum 0x10010 prod 4
theorem witness_TrapRecordIsWrittenThenRecovered : let s := trapping 0
    s.Canonical ∧ ([1, 2, 3, 4, 5, 6, 7, 8] : List Word).length = 8 ∧ s.field 0x10000 0 52 = 0x10100 ∧ s.field 0x10008 0 5 = 2 ∧
    0x10000 + 64 ≤ s.field 0x10000 0 52 + 64 * (s.num 0x10010 4 % 2 ^ s.field 0x10008 0 5) ∧ s.exact = [] :=
  ⟨canonical_of (by decide +kernel), by decide +kernel⟩
theorem witness_TrapRecordIsWrittenThenRecovered_space : let s := trapping 0
    let s1 := s.stopRun 1
    let s2 := (if (s1.ctx s.cur).stat = .stopped then s1 else s1.stopLane s.cur).failSide s.cur 1 { code := 0x27 }
    let q := s2.ringSeq (s2.ringOf s.cur)
    s2.ringOf s.cur = 0x10000 ∧ (q.2.ctx s.cur).ringQ = [] ∧ q.2.ringSpace 0x10000 = true := by
  decide +kernel
theorem witness_TrapRecordIsWrittenThenRecovered_full : let s := trapping 4
    let s1 := s.stopRun 1
    let s2 := (if (s1.ctx s.cur).stat = .stopped then s1 else s1.stopLane s.cur).failSide s.cur 1 { code := 0x27 }
    (s2.ringSeq (s2.ringOf s.cur)).2.ringSpace 0x10000 = false := by
  decide +kernel

/-- What a gate lets through. -/
def got {α : Type} (d : α) : Gate α → α
  | .ok a => a
  | _ => d
theorem got_eq {α : Type} {g : Gate α} (d : α) (h : (match g with
    | .ok _ => true
    | _ => false) = true) : g = .ok (got d g) := by
  cases g with
  | ok a => rfl
  | fault f => cases h
  | fail f => cases h
/-- What a check answers. -/
def val {α : Type} (d : α) : Except Fail α → α
  | .ok a => a
  | .error _ => d
theorem val_eq {α : Type} {x : Except Fail α} (d : α) (h : x.isOk = true) : x = .ok (val d x) := by
  cases x with
  | ok a => rfl
  | error e => cases h
theorem unit_ok {x : Except Fail Unit} (h : x.isOk = true) : x = .ok () := val_eq () h
theorem clear_of {s : State} {k : AKind} {l : List Span} (h : lowestAddr (spanNames (s.ownOpen s.cur k) l) = none ∧
    s.firstClash s.cur s.me.run k s.me.phaseOpen none l = none) : s.Clear k l := h

/-- ASID 1 maps the page at 0x30000 to the frame at 0x300000, for reads and writes (R79, R80, R318). -/
def mapping (s : State) : State := (((({ s with cfg := { s.cfg with asidtab := 0x100000 } } : State).setNum 0x100040 0x200000 8).setNum
  0x200000 0x210001 8).setNum 0x210000 0x220001 8).setNum 0x220018 0x300007 8
/-- A lane of ASID 1 whose s1 is 0x30040 (page offset 0x40), s2 = -3, s3 = 0, s4 = 0x80, s5 = 0x30100, s6 = 0x100. -/
def mapped : State := mapping ({ ((lane [(1, 0x30040), (2, -3), (3, 0), (4, 0x80), (5, 0x30100), (6, 0x100)]).modMe fun c =>
    { c with
      asid := 1
      opb := 0x4000 }) with
  runs := [⟨1, 1, 0x4000, 0, [⟨0, 0⟩], [Vector.replicate 4 0], false, 0, false, false⟩] })
/-- The locations of n bytes at page offset 0x40. -/
def at40 (n : Nat) : List Nat := (List.range n).map (0x300040 + ·)

theorem witness_ScalarLoadsAndStoresMove_load : mapped.Canonical ∧ mapped.me.pget 0 = true ∧ mapped.me.ea 4 (.imm 0) = .ok 0x80 ∧
    Units.check [(0x80, 4)] 4 = .ok () ∧ mapped.waits (Units.locs [(0x80, 4)] mapped.cur.core) = false ∧ mapped.spadPoison [(0x80, 4)] = none ∧
    mapped.Clear .read (mapped.unitSpans 0 [(0x80, 4)]) := by
  refine ⟨canonical_of (by decide +kernel), rfl, rfl, rfl, by decide +kernel, by decide +kernel, clear_of (by decide +kernel)⟩
theorem witness_ScalarLoadsAndStoresMove_store : mapped.me.checked 2 = .ok (-3) ∧
    mapped.poisonWrite (cellsAt (spadLoc 0 0x80) (leBytes (-3 : Word).toNat 4)) = none ∧
    mapped.Clear .write (mapped.unitSpans 0 [(0x80, 4)]) := by
  refine ⟨rfl, by decide +kernel, clear_of (by decide +kernel)⟩
theorem witness_ScalarLoadsAndStoresMove_descriptor : Units.check [(0x80, 64)] 8 = .ok () ∧
    mapped.waits (Units.locs [(0x80, 64)] mapped.cur.core) = false ∧ mapped.spadPoison [(0x80, 64)] = none ∧ mapped.Clear .read (mapped.unitSpans 0 [(0x80, 64)]) ∧
    mapped.poisonWrite (cellsAt (spadLoc 0 0x80) (mapped.me.dreg[(1 : Fin 16)].toList.flatMap fun w => leBytes w.toNat 8)) = none ∧
    mapped.Clear .write (mapped.unitSpans 0 [(0x80, 64)]) := by
  refine ⟨unit_ok (by decide +kernel), by decide +kernel, by decide +kernel, clear_of (by decide +kernel), by decide +kernel,
    clear_of (by decide +kernel)⟩
theorem witness_ScalarLoadsAndStoresMove_global : mapped.me.ea 1 (.imm 0) = .ok 0x30040 ∧
    mapped.Clear .read (spansOf [(0x30040, at40 4)]) ∧ mapped.Clear .write (spansOf [(0x30040, at40 4)]) ∧
    (0x30040 : Word).toNat % 4 = 0 ∧ mapped.gate1 mapped.me.asid 0x30040 4 ⟨false, false⟩ = .ok (at40 4) ∧
    mapped.gate1 mapped.me.asid 0x30040 4 ⟨true, false⟩ = .ok (at40 4) ∧ mapped.waits (at40 4) = false ∧
    (at40 4).find? mapped.poisoned = none ∧ (∀ l ∈ at40 4, mapped.lineExact l = [] ∧ (mapped.view mapped.cur).lineExact l = []) ∧
    mapped.poisonWrite ((at40 4).zip (leBytes (-3 : Word).toNat 4)) = none := by
  refine ⟨rfl, clear_of ?_, clear_of ?_, ?_⟩ <;> decide +kernel

/-- A lane with an i8 vector in v1, indices 0, 1, 2, ... in v2, and an address and a pitch. -/
def vmem : State := (lane [(1, 0x1000), (2, 1)]).modMe fun c => { c with
  vreg := (c.vreg.set 1 (vec 7 3 4)).set 2 ⟨Vector.ofFn fun i : Fin 128 => BitVec.ofNat 32 i.val, 12, one32⟩ }
/-- The cells a store of v1 writes at units. -/
def vcells (us : Units) : List Host.Cell :=
  (us.zip (storedUnits 7 vmem.me.vreg[(1 : Fin 32)]).1).flatMap fun u => cellsAt (spadLoc 0 u.1.1.toNat) u.2
theorem witness_VectorStoresMove : vmem.Canonical ∧ vmem.me.pget 0 = true ∧ vmem.me.vreg[(1 : Fin 32)].tag.toNat % 16 = (7 : BitVec 4).toNat ∧
    vmem.me.ea 1 (.imm 0) = .ok 0x1000 ∧ Units.check (unitsVld 7 0x1000) (vecAlign 7) = .ok () ∧
    vmem.waits ((unitsVld 7 0x1000).locs vmem.cur.core) = false ∧ vmem.poisonWrite (vcells (unitsVld 7 0x1000)) = none ∧ vmem.Clear .write (vmem.unitSpans 7 (unitsVld 7 0x1000)) := by
  refine ⟨canonical_of ?_, rfl, ?_, rfl, unit_ok ?_, ?_, ?_, clear_of ?_⟩ <;> decide +kernel
theorem witness_VectorStoresMove_strided : vmem.me.checked 1 = .ok 0x1000 ∧ vmem.me.offset (.index 2 0) = .ok 1 ∧
    Units.check (unitsVlds 7 0x1000 1) (vecAlign 7) = .ok () ∧ vmem.waits ((unitsVlds 7 0x1000 1).locs vmem.cur.core) = false ∧
    vmem.poisonWrite (vcells (unitsVlds 7 0x1000 1)) = none ∧ vmem.Clear .write (vmem.unitSpans 7 (unitsVlds 7 0x1000 1)) := by
  refine ⟨rfl, rfl, unit_ok ?_, ?_, ?_, clear_of ?_⟩ <;> decide +kernel
theorem witness_VectorStoresMove_indexed : let us := unitsVldx 7 0x1000 vmem.me.vreg[(2 : Fin 32)] 0
    Units.check us (vecAlign 7) = .ok () ∧ vmem.waits (us.locs vmem.cur.core) = false ∧ vmem.poisonWrite (vcells us) = none ∧
    vmem.Clear .write (vmem.unitSpans 7 us) := by
  refine ⟨unit_ok ?_, ?_, ?_, clear_of ?_⟩ <;> decide +kernel
theorem witness_VectorStoresMove_mismatch : let g := vmem.me.vreg[(1 : Fin 32)].tag.toNat % 16
    ¬(g = 0 ∨ g = (1 : BitVec 4).toNat ∨ ((1 : BitVec 4) = 6 ∧ g = 4)) := by
  decide +kernel

theorem witness_VectorLoadsDeliver : vmem.me.pget 0 = true ∧ vmem.me.ea 1 (.imm 0) = .ok 0x1000 ∧
    Units.check (unitsVld 7 0x1000) (vecAlign 7) = .ok () ∧ vmem.waits ((unitsVld 7 0x1000).locs vmem.cur.core) = false ∧
    vmem.spadPoison (unitsVld 7 0x1000) = none ∧ vmem.Clear .read (vmem.unitSpans 0 (unitsVld 7 0x1000)) := by
  refine ⟨rfl, rfl, unit_ok ?_, ?_, ?_, clear_of ?_⟩ <;> decide +kernel
theorem witness_VectorLoadsDeliver_strided_and_indexed : vmem.spadPoison (unitsVlds 7 0x1000 1) = none ∧
    vmem.Clear .read (vmem.unitSpans 0 (unitsVlds 7 0x1000 1)) ∧
    vmem.spadPoison (unitsVldx 7 0x1000 vmem.me.vreg[(2 : Fin 32)] 0) = none ∧
    vmem.Clear .read (vmem.unitSpans 0 (unitsVldx 7 0x1000 vmem.me.vreg[(2 : Fin 32)] 0)) := by
  refine ⟨by decide +kernel, clear_of (by decide +kernel), by decide +kernel, clear_of (by decide +kernel)⟩
theorem witness_VectorLoadsDeliver_scaled : let us := unitsVld 7 0x1000 ++ [(0x1080, 4)]
    us.check 1 = .ok () ∧ vmem.waits (us.locs vmem.cur.core) = false ∧ vmem.spadPoison us = none ∧
    vmem.Clear .read (vmem.unitSpans 0 us) := by
  refine ⟨unit_ok ?_, ?_, ?_, clear_of ?_⟩ <;> decide +kernel

/-- A descriptor of a tile of `r` rows and `c` FP32 columns in a space, at an address, with its pitch. -/
def tile (sp r c : Nat) (a : Word) (pitch : Nat) : Desc :=
  #v[a, BitVec.ofNat 64 (r + c * 2 ^ 32), BitVec.ofNat 64 pitch, BitVec.ofNat 64 (1 + sp * 2 ^ 16), 0, 0, 7 * 2 ^ 32 + 7 * 2 ^ 35, 0]
/-- A lane of ASID 1 with a tile of two rows of two in the scratchpad in d1 and one in memory in d2; v1 is FP32. -/
def tiled : State := mapped.modMe fun c => { c with
  dreg := (c.dreg.set 1 (tile 0 2 2 0x200 8)).set 2 (tile 1 2 2 0x30040 8)
  vreg := c.vreg.set 1 (vec 1 0x40400000 0x3F800000) }
/-- Row 0 of the tile in d1, and of the tile in d2. -/
def row1 : List (List Nat) := [(List.range 4).map fun i => spadLoc 0 (0x200 + i), (List.range 4).map fun i => spadLoc 0 (0x204 + i)]
def row2 : List (List Nat) := [(List.range 4).map (0x300040 + ·), (List.range 4).map (0x300044 + ·)]
theorem witness_DescriptorRowsMove : let q := tile 0 2 2 0x200 8
    let a := tiled.me.actor 0
    let named := (List.range 2).zipWith (fun j l => q.named a 0 j l) row1
    tiled.Canonical ∧ tiled.me.pget 0 = true ∧ tiled.me.checked 3 = .ok 0 ∧ tiled.me.dreg[(1 : Fin 16)] = q ∧ min q.cols 128 = 2 ∧
    0 < q.rows ∧ q.rowMisaligned a 0 2 = none ∧ (q.rowUnits a 0 2 false).check 1 = .ok () ∧
    tiled.waits row1.flatten = false ∧ tiled.waits [] = false ∧ Desc.bad (q.set 7 0) (rowUse false) = none ∧
    gateAll (fun j => tiled.elemGate a q q.fmt 0 j ⟨false, false⟩) (List.range 2) = .ok row1 ∧ tiled.rowScale a q 0 = .ok [] ∧
    tiled.namedPoison (named ++ [(q.flatName 0, [])]) = none ∧
    ∃ t, tiled.touchRow .read (named ++ [(q.flatName 0, [])]) = .ok t := by
  refine ⟨canonical_of ?_, rfl, rfl, ?_, ?_, ?_, ?_, unit_ok ?_, ?_, ?_, ?_, ?_, ?_, ?_, ok_of ?_⟩ <;> decide +kernel
theorem witness_DescriptorRowsMove_store : let q := tile 1 2 2 0x30040 8
    let a := tiled.me.actor 0
    tiled.me.dreg[(2 : Fin 16)] = q ∧ q.rowMisaligned a 0 2 = none ∧ tiled.waits row2.flatten = false ∧
    Desc.bad (q.set 7 0) (rowUse true) = none ∧
    storeFmt tiled.me.vreg[(1 : Fin 32)] q.fmt = .ok () ∧
    gateAll (fun j => tiled.elemGate a q q.fmt 0 j ⟨true, false⟩) (List.range 2) = .ok row2 ∧
    (∃ t, tiled.touchRow .write (((List.range 2).zipWith (fun j l => q.named a 0 j l) row2).map (widenNamed q.fmt)) = .ok t) ∧
    tiled.poisonWrite (cellsOf (putAll q.fmt (tiled.view tiled.cur).plainByte ((List.range 2).map fun j => (row2.getD j [],
      q.sub a 0 j, (tiled.me.vreg[(1 : Fin 32)].lanes[j]?.getD 0).toNat)) [])) = none := by
  refine ⟨?_, ?_, ?_, ?_, unit_ok ?_, ?_, ok_of ?_, ?_⟩ <;> decide +kernel

theorem witness_CommutativeUpdatesJoinTheirPhase : mapped.me.pget 0 = true ∧ mapped.me.ea 1 (.imm 0) = .ok 0x30040 ∧
    mapped.me.checked 2 = .ok (-3) ∧ mapped.gate1 mapped.me.asid 0x30040 8 ⟨true, false⟩ = .ok (at40 8) ∧
    mapped.waits (at40 8) = false ∧ (at40 8).find? mapped.poisoned = none ∧
    mapped.Clear .update (spansOf [(0x30040, at40 8)]) := by
  refine ⟨rfl, rfl, rfl, by decide +kernel, by decide +kernel, by decide +kernel, clear_of (by decide +kernel)⟩

theorem witness_LoadBlockIssues : mapped.me.pget 0 = true ∧ mapped.me.ea 6 (.imm 0) = .ok 0x100 ∧ mapped.me.checked 4 = .ok 0x80 ∧
    mapped.me.checked (Fin.ofNat 64 5) = .ok 0x30100 ∧ (0x80 : Word).toNat / 2 ^ 22 % 2 ^ 36 = 0 ∧
    (0x100 : Word).toNat % 65536 + 128 * ((0x80 : Word).toNat / 2 ^ 58 + 1) ≤ 65536 ∧ (0x100 : Word).toNat % 128 = 0 ∧
    mapped.me.checked 2 = .ok (-3) ∧ (-3 : Word).toNat / 2 ^ 22 % 2 ^ 36 ≠ 0 := by
  refine ⟨rfl, rfl, rfl, rfl, by decide +kernel, by decide +kernel, by decide +kernel, rfl, by decide +kernel⟩

/-- `mapped`, with a future at page offset 0x40 in state `st` (R37). -/
def future (st : Nat) : State := mapped.setNum 0x300048 st 1
theorem witness_FuturesReadAndFill : let s := future 0
    s.me.pget 0 = true ∧ s.me.ea 1 (.imm 0) = .ok 0x30040 ∧ (0x30040 : Word).toNat % 16 = 0 ∧
    s.Canonical ∧ s.me.checked 2 = .ok (-3) ∧ s.Clear .observe (spansOf [(0x30040, at40 16)]) ∧ s.Clear .sync (spansOf [(0x30040, at40 16)]) ∧
    s.waits (at40 16) = false ∧ (at40 16).any s.poisoned = false ∧ remoteWindow ((at40 16).headD 0) = none ∧
    s.gate1 s.me.asid 0x30040 16 ⟨false, true⟩ = .ok (at40 16) ∧ s.gate1 s.me.asid 0x30040 16 ⟨true, true⟩ = .ok (at40 16) ∧
    s.byte 0x300048 = 0 ∧ (s.freeWaiter (s.home 0x300040)).isSome := by
  refine ⟨rfl, rfl, by decide, canonical_of (by decide +kernel), rfl, clear_of (by decide +kernel), clear_of (by decide +kernel), ?_⟩
  decide +kernel
theorem witness_FuturesReadAndFill_runs : (∃ r, (future 0).getRun (future 0).me.run = some r ∧ r.closed = false) ∧
    (∃ r, ((future 0).modRun 1 fun r => { r with closed := true }).getRun 1 = some r ∧ r.closed = true) ∧
    (∃ u, (((future 0).logged .sync (spansOf [(0x30040, at40 16)])).noted .sync (spansOf [(0x30040, at40 16)])).closePhase (future 0).cur .m (future 0).me.pc false = .ok u) ∧
    (future 1).byte 0x300048 = 1 ∧ (future 2).byte 0x300048 ≠ 0 ∧ (future 2).byte 0x300048 ≠ 1 := by
  refine ⟨⟨_, rfl, rfl⟩, ⟨_, rfl, rfl⟩, ok_of (by decide +kernel), ?_⟩ <;> decide +kernel

/-- `mapped`, with a head-control block at page offset 0x100: one table of one bit, its projection at offset 0x200. -/
def heads : State := [(0x300100, 0x30200), (0x300108, 33), (0x300110, 0x31000), (0x300118, 0x32000), (0x300120, 0x30400),
  (0x300128, 0x30800), (0x300130, 4), (0x300138, 8 * 2 ^ 32)].foldl (fun s x => s.setNum x.1 x.2 8) mapped
/-- Its block, its projection and the key at scratchpad address 0x100, all zeros but the block. -/
def hc0 : List Nat × Hcb := ((List.range 256).map (0x300100 + ·), ⟨0x30200, 1, 1, false, 0x31000, 0x32000, 0x30400, 0x30800, 4, 0, 0, 8, false⟩)
def pr0 : List Nat × List Byte := ((List.range 256).map (0x300200 + ·), List.replicate 256 0)
def kb0 : List Byte := List.replicate 256 0
/-- What it appends for the signature 0. -/
def app0 : Gate KstAcc := KstAcc.appendAll heads (heads.view heads.cur).plainByte 1 0x30100 hc0.2 0 (List.range 1)
  ⟨hc0.2.bump, [], [], [(0x30100, hc0.1), (hc0.2.proj, pr0.1)]⟩
def k0 : KstAcc := got ⟨0, [], [], []⟩ app0
def ws0 : List (Nat × List Host.Cell) := got [] (heads.gateWrites 1 (k0.writes 0x30100 hc0.2 kb0))
-- no close is on its way: memory as VSIG and KST find it is memory as it stands (R75)
theorem settled_of {s : State} (c : CtxId) (h : s.closing = []) : s.settled c = s := by
  unfold State.settled
  rw [h]
  simp only [List.filter_nil, List.foldl_nil]
  exact (congrArg (fun q => ({ s with closing := q } : State)) h.symm).trans (by cases s; rfl)
theorem witness_HeadOperationsComplete_block : heads.Canonical ∧ heads.settled heads.cur = heads ∧ heads.me.pget 0 = true ∧ heads.me.asid = 1 ∧ heads.me.ea 6 (.imm 0) = .ok 0x100 ∧
    heads.me.checked 5 = .ok 0x30100 ∧ (0x100 : Word).toNat % 32 = 0 ∧ (0x30100 : Word).toNat % 256 = 0 ∧
    heads.readHcb (heads.view heads.cur).plainByte 1 0x30100 = .ok hc0 ∧ hc0.2.tables = 1 ∧
    heads.projection (heads.view heads.cur).plainByte heads.cur hc0.2 = .ok pr0 := by
  refine ⟨canonical_of (by decide +kernel), settled_of _ (by decide +kernel), rfl, rfl, rfl, rfl, by decide +kernel, by decide +kernel, by decide +kernel, by decide +kernel, by decide +kernel⟩
theorem witness_HeadOperationsComplete_append : (Units.locs [(0x100, 256)] 0).map heads.byte = kb0 ∧
    signature hc0.2 pr0.2 ((List.range 128).map fun j => bf16.dec (leNat ((kb0.drop (2 * j)).take 2))) = 0 ∧ app0 = .ok k0 ∧
    heads.gateWrites 1 (k0.writes 0x30100 hc0.2 kb0) = .ok ws0 := by
  refine ⟨by decide +kernel, by decide +kernel, got_eq _ (by decide +kernel), got_eq _ (by decide +kernel)⟩
theorem witness_HeadOperationsComplete_key : Units.check [(0x100, 256)] 32 = .ok () ∧ heads.spadPoison [(0x100, 256)] = none ∧
    heads.Clear .read (heads.unitSpans 0 [(0x100, 256)]) ∧
    (heads.waits (Units.locs [(0x100, 256)] heads.cur.core) = false ∧
      heads.waits (k0.reads.flatMap Prod.snd ++ ws0.flatMap fun x => x.2.map Prod.fst) = false) ∧
    ∃ t u, (heads.logged .read (heads.unitSpans 0 [(0x100, 256)])).touchReads k0.reads = .ok t ∧ t.holdWrites true ws0 = .ok u := by
  refine ⟨unit_ok (by decide +kernel), by decide +kernel, clear_of (by decide +kernel), by decide +kernel,
    ok_both (by decide +kernel)⟩
theorem witness_HeadOperationsComplete_signature : ∃ x y t, heads.me.readVs [.reg 1, .bcast 5] = .ok [x, y] ∧
    arithOk 1 x = .ok () ∧ trackOk [x.tag] = .ok () ∧ (heads.me.sget 5).val.toNat = 0x30100 ∧
    heads.waits (hc0.1 ++ pr0.1) = false ∧ heads.touchReads [(0x30100, hc0.1), (hc0.2.proj, pr0.1)] = .ok t := by
  refine ⟨_, _, val heads (heads.touchReads [(0x30100, hc0.1), (hc0.2.proj, pr0.1)]), rfl, unit_ok (by decide +kernel),
    unit_ok (by decide +kernel), by decide +kernel, by decide +kernel, val_eq _ (by decide +kernel)⟩

/-- A vector register as a source. -/
abbrev src (s : State) (r : Fin 32) : VIn := .reg s.me.vreg[r]
theorem agree_of {ts : List Half} (h : (ts.all fun t => ts.all fun u => bits t 6 4 == 0 || bits u 6 4 == 0 ||
    (bits t 6 4 == bits u 6 4 && bits t 5 1 == bits u 5 1)) = true) : Agree ts := by
  intro t ht u hu h1 h2
  have := List.all_eq_true.mp (List.all_eq_true.mp h t ht) u hu
  simpa [h1, h2] using this
theorem sources_of {s : State} {d : Dst 32} {mask : Fin 8} {f : Nat} {a : List VSrc} {xs : List VIn} (h : s.me.readVs a = .ok xs)
    (o : mask ≠ 0 → bits s.me.vreg[d.reg].tag 0 4 = 0 ∨ bits s.me.vreg[d.reg].tag 0 4 = f)
    (g : Agree (s.vtags d mask xs)) : s.Sources d mask f a xs := ⟨h, o, g⟩
theorem old_of {s : State} {d : Dst 32} {mask : Fin 8} {e : Nat} (h : bits s.me.vreg[d.reg].tag 0 4 = 0) : s.OldPlain d mask e :=
  fun _ => .inl h
theorem plain_of {e : Nat} {x : VIn} (h : bits x.tag 0 4 = 0 ∨ (bits x.tag 0 4 = e ∧ bitAt x.tag 4 = false)) : Plain e x := h

/-- Two FP32 vectors, two i8 vectors, and an FP32 vector with an i32 vector of exponents. -/
def vf : State := vlane (vec 1 0x40400000 0x3F800000) (vec 1 0xC0000000 0x40000000)
def vi : State := vlane (vec 7 100 3) (vec 7 100 0xFE)
def ve : State := vlane (vec 1 0x40400000 0x3F800000) (vec 11 7 0)

theorem witness_FloatingVectorsDeliver : vf.me.pget 0 = true ∧ 1 ≤ 1 ∧ 1 ≤ 3 ∧
    fmtOf 1 = some fp32 ∧ vf.OldPlain d5 1 1 ∧ ∃ x y z, vf.Sources d5 1 1 [.reg 1] [x] ∧ vf.Sources d5 1 1 [.reg 1, .reg 2] [x, y] ∧
    vf.Sources d5 1 1 [.reg 1, .reg 2, .reg 1] [x, y, z] ∧ Plain 1 x ∧ Plain 1 y ∧ Plain 1 z := by
  refine ⟨rfl, by decide, by decide, rfl, old_of rfl, src vf 1, src vf 2, src vf 1, sources_of rfl ?_ (agree_of ?_), sources_of rfl ?_ (agree_of ?_),
    sources_of rfl ?_ (agree_of ?_), plain_of ?_, plain_of ?_, plain_of ?_⟩ <;> decide +kernel

theorem witness_IntegerVectorsDeliver : vi.me.pget 0 = true ∧ (7 ≤ 7 ∧ 7 ≤ 12) ∧ vi.OldPlain d5 1 7 ∧
    (∀ n < 2 ^ 8, (-128 : Int) ≤ sextNat n 8 ∧ sextNat n 8 ≤ 127 ∧ (sextNat n 8 - n) % 2 ^ 8 = 0) ∧
    ∃ x y, vi.Sources d5 1 7 [.reg 1] [x] ∧ vi.Sources d5 1 7 [.reg 1, .reg 2] [x, y] ∧ Plain 7 x ∧ Plain 7 y := by
  refine ⟨rfl, by decide, old_of rfl, by decide +kernel, src vi 1, src vi 2, sources_of rfl ?_ (agree_of ?_), sources_of rfl ?_ (agree_of ?_), plain_of ?_, plain_of ?_⟩ <;>
    decide +kernel

theorem witness_VectorBitsAndMasksDeliver : vi.me.pget 0 = true ∧ ∃ x y, vi.Sources d5 1 7 [.reg 1, .reg 2] [x, y] ∧
    vi.me.readVs [.reg 1, .reg 2] = .ok [x, y] ∧ Agree [x.tag, y.tag] ∧ Plain 7 x ∧ Plain 7 y := by
  refine ⟨rfl, src vi 1, src vi 2, sources_of rfl ?_ (agree_of ?_), rfl, agree_of ?_, plain_of ?_, plain_of ?_⟩ <;> decide +kernel
theorem witness_VectorBitsAndMasksDeliver_floating : vf.me.pget 0 = true ∧ fmtOf 1 = some fp32 ∧
    ∃ x y, vf.me.readVs [.reg 1, .reg 2] = .ok [x, y] ∧ Agree [x.tag, y.tag] ∧ Plain 1 x ∧ Plain 1 y := by
  refine ⟨rfl, by decide +kernel, src vf 1, src vf 2, rfl, agree_of ?_, plain_of ?_, plain_of ?_⟩ <;> decide +kernel

theorem witness_VectorLanesMove : vf.me.pget 0 = true ∧ ∃ x y z,
    vf.Sources d5 1 (bits x.tag 0 4) [.reg 1] [x] ∧ vf.Sources d5 1 (bits x.tag 0 4) [.reg 1, .bcast 1] [x, y] ∧
    vf.Sources d5 1 (bits x.tag 0 4) [.reg 1, .bcast 1, .reg 2] [x, y, z] ∧ bits x.tag 0 4 = bits z.tag 0 4 := by
  refine ⟨rfl, src vf 1, .bcast 7, src vf 2, sources_of rfl ?_ (agree_of ?_), sources_of rfl ?_ (agree_of ?_), sources_of rfl ?_ (agree_of ?_), ?_⟩ <;> decide +kernel
theorem witness_VectorLanesMove_unmasked : ∃ x y z, vf.Sources d5 0 (bits x.tag 0 4) [.reg 1, .reg 2] [x, y] ∧
    vf.Sources d5 0 (bits x.tag 0 4) [.reg 1, .reg 2, .bcast 1] [x, y, z] ∧ bits x.tag 0 4 = bits y.tag 0 4 ∧
    vf.me.readVs [.reg 1, .bcast 1] = .ok [x, z] ∧ Agree [x.tag, z.tag] := by
  refine ⟨src vf 1, src vf 2, .bcast 7, sources_of rfl ?_ (agree_of ?_), sources_of rfl ?_ (agree_of ?_), ?_, rfl, agree_of ?_⟩ <;> decide +kernel

theorem witness_VectorFunctionsDeliver : vf.me.pget 0 = true ∧ fmtOf 1 = some fp32 ∧ vf.OldPlain d5 1 1 ∧ vf.OldPlain d5 1 12 ∧
    ∃ x, vf.Sources d5 1 1 [.reg 1] [x] ∧ vf.Sources d5 1 12 [.reg 1] [x] ∧ Plain 1 x := by
  refine ⟨rfl, rfl, old_of rfl, old_of rfl, src vf 1, sources_of rfl ?_ (agree_of ?_), sources_of rfl ?_ (agree_of ?_), plain_of ?_⟩ <;> decide +kernel

theorem witness_VectorConversionsDeliver : ve.me.pget 0 = true ∧ fmtOf 1 = some fp32 ∧ ve.OldPlain d5 1 1 ∧ ∃ x y,
    ve.Sources d5 1 11 [.reg 1] [x] ∧ bits x.tag 0 4 ≠ 0 ∧ (fmtOf (bits x.tag 0 4)).isSome ∧
    ve.Sources d5 1 1 [.reg 1, .reg 2] [x, y] ∧ Plain 1 x ∧ Plain 11 y := by
  refine ⟨rfl, by decide +kernel, old_of rfl, src ve 1, src ve 2, sources_of rfl ?_ (agree_of ?_), ?_, ?_, sources_of rfl ?_ (agree_of ?_), plain_of ?_, plain_of ?_⟩ <;>
    decide +kernel
theorem witness_VectorConversionsDeliver_integer : ∃ x, vi.Sources d5 1 11 [.reg 1] [x] ∧ 7 ≤ bits x.tag 0 4 ∧
    bits x.tag 0 4 ≤ 12 ∧ bitAt x.tag 4 = false ∧ (fmtOf 11).isNone := by
  refine ⟨src vi 1, sources_of rfl ?_ (agree_of ?_), ?_⟩ <;> decide +kernel
theorem witness_VectorConversionsDeliver_quantise : ∃ x y, vf.Sources d5 1 4 [.reg 1, .reg 2] [x, y] ∧ 1 ≤ bits x.tag 0 4 ∧
    bits x.tag 0 4 ≤ 3 ∧ bits y.tag 0 4 = 1 := by
  refine ⟨src vf 1, src vf 2, sources_of rfl ?_ (agree_of ?_), ?_⟩ <;> decide +kernel

/-- A tree of levels over a step, each level combined from the one before it. -/
def levels (g : Nat → Nat → Nat × Flags) (start : Nat → W32) : Nat → Nat → W32
  | 0, i => start i
  | k + 1, i => BitVec.ofNat 32 (g (levels g start k i).toNat (levels g start k (i + 2 ^ (6 - k))).toNat).1
theorem witness_ReductionsDeliver (g : Nat → Nat → Nat × Flags) (start : Nat → W32) : vf.me.pget 0 = true ∧
    (1 ≤ 1 ∧ 1 ≤ 3) ∧ (∃ x, vf.Sources d5 0 1 [.reg 1] [x] ∧ Plain 1 x) ∧
    ∃ (l : Nat → Nat → W32) (f : Nat → Bool), (∀ i < 128, l 0 i = start i) ∧
      (∀ k < 7, ∀ i < 2 ^ (6 - k), l (k + 1) i = BitVec.ofNat 32 (g (l k i).toNat (l k (i + 2 ^ (6 - k))).toNat).1) ∧
      ∀ b, f b = true ↔ ∃ k < 7, ∃ i < 2 ^ (6 - k), (g (l k i).toNat (l k (i + 2 ^ (6 - k))).toNat).2.getLsbD b = true := by
  refine ⟨rfl, by decide +kernel, ⟨src vf 1, sources_of rfl (by decide +kernel) (agree_of (by decide +kernel)), plain_of (by decide +kernel)⟩,
    levels g start, fun b => decide (∃ k < 7, ∃ i < 2 ^ (6 - k),
      (g (levels g start k i).toNat (levels g start k (i + 2 ^ (6 - k))).toNat).2.getLsbD b = true), ?_, ?_, ?_⟩
  · intros; rfl
  · intros; rfl
  · intro b; exact decide_eq_true_iff

/-- A lane whose latches q0 to q3 hold a predicate, a scalar, a scalar of a wrong residue and an i8 vector; s9 has a wrong
residue; v1, v2 are FP32 of versions 1 and 2, and v4 is i8. -/
def checks : State := (lane [(1, 7), (2, 0x42), (3, 0x400000), (4, 0x44)]).modMe fun c => { c with
  qreg := (((c.qreg.set 0 (.pred true)).set 1 (.scalar (SVal.of 7))).set 2 (.scalar ⟨7, 3⟩)).set 3 (.vec (vec 7 1 2))
  sreg := c.sreg.set 9 ⟨7, 3⟩
  vreg := (((c.vreg.set 1 (vec (1 + 64) 1 1)).set 2 (vec (1 + 128) 1 1)).set 3 (vec (1 + 64 + 32) 1 1)).set 4 (vec 7 1 1) }
theorem witness_IssueChecksTrap : checks.me.pget 0 = true ∧ checks.me.qreg[(0 : Fin 16)] = .pred true ∧
    checks.me.qreg[(1 : Fin 16)] = .scalar (SVal.of 7) ∧ checks.me.qreg[(2 : Fin 16)] = .scalar ⟨7, 3⟩ ∧
    (3 : BitVec 4).toNat ≠ (7 : Word).toNat % 15 ∧ (checks.me.sget 9).res.toNat ≠ (checks.me.sget 9).val.toNat % 15 ∧
    ∃ x, checks.me.qreg[(3 : Fin 16)] = .vec x := by
  refine ⟨rfl, rfl, rfl, rfl, by decide +kernel, by decide +kernel, _, rfl⟩
theorem witness_IssueChecksTrap_addresses : checks.me.ea 2 (.imm 0) = .ok 0x42 ∧ checks.me.ea 3 (.imm 0) = .ok 0x400000 ∧
    checks.me.ea 4 (.imm 0) = .ok 0x44 ∧ checks.me.checked 1 = .ok 7 ∧ (0x42 : Word).toNat % 4 ≠ 0 ∧ (0x44 : Word).toNat % 4 = 0 ∧
    (0x44 : Word).toNat % 16 ≠ 0 ∧ (0x400000 : Word).toNat % 4 = 0 ∧ 0x400000 ≤ (0x400000 : Word).toNat := by
  refine ⟨rfl, rfl, rfl, rfl, ?_⟩ <;> decide +kernel
theorem witness_IssueChecksTrap_tags : checks.me.readVs [.reg 1, .latch 3] = .ok [src checks 1, .reg (vec 7 1 2)] ∧
    Plain 1 (src checks 1) ∧ ¬(bits (7 : Half) 0 4 = 0 ∨ (bits (7 : Half) 0 4 = 1 ∧ bitAt (7 : Half) 4 = false)) ∧
    checks.me.readVs [.reg 1, .reg 2] = .ok [src checks 1, src checks 2] ∧ bits (src checks 1).tag 6 4 ≠ 0 ∧
    bits (src checks 2).tag 6 4 ≠ 0 ∧ bits (src checks 1).tag 6 4 ≠ bits (src checks 2).tag 6 4 ∧
    bits (src checks 1).tag 6 4 = bits (src checks 3).tag 6 4 ∧ bits (src checks 1).tag 5 1 ≠ bits (src checks 3).tag 5 1 ∧
    Plain 1 (src checks 2) ∧ ¬ checks.OldPlain ⟨4, false⟩ 1 1 := by
  refine ⟨rfl, plain_of ?_, ?_, rfl, ?_, ?_, ?_, ?_, ?_, plain_of ?_, fun h => absurd (h (by decide)) (show ¬(_ ∨ _) from ?_)⟩ <;>
    decide +kernel

/-- Tiles of 4 by 16, 16 by 4, 4 by 4 and 4 by 2 in the scratchpad in d1 to d4, and a barrier address and value in s10, s11. -/
def engines : State := (lane [(4, 0x40), (5, 9), (10, 0x48), (11, 3), (12, 0x0010000400040000), (13, 0x3F800000), (14, 0x41),
    (16, 0x400000), (18, 4 + 4 * 2 ^ 16 + 16 * 2 ^ 32), (20, 2 ^ 48), (22, 129 + 16 * 2 ^ 32), (24, 24 * 2 ^ 32)]).modMe fun c => { c with
  dreg := ((((c.dreg.set 1 (tile 0 4 16 0x200 64)).set 2 (tile 0 16 4 0x400 16)).set 3 (tile 0 4 4 0x600 16)).set 4
    (tile 0 4 2 0x700 8)).set 5 (tile 0 4 4 0x601 16) }
theorem witness_MatrixCommandsQueue : engines.me.pget 0 = true ∧ engines.me.checked 10 = .ok 0x48 ∧
    engines.me.checked (Fin.ofNat 64 11) = .ok 3 ∧ engines.me.checked 13 = .ok 0x3F800000 ∧
    engines.me.xq.length < Config.xQueueDepth ∧ (0x48 : Word).toNat % 8 = 0 ∧ (0x48 : Word).toNat < 0x400000 ∧
    (0x3F800000 : Word).toNat < 2 ^ 32 := by
  refine ⟨rfl, rfl, rfl, rfl, ?_⟩
  decide +kernel
/-- A close on its way to memory at 0x300040, where d6 stands for ASID 1. -/
def arrived : State := { (mapped.modMe fun c => { c with dreg := c.dreg.set 6 (tile 1 4 4 0x30040 16) }) with
  closing := [⟨⟨1, 0⟩, 7, 0, 1, 0x4000, 0, .c, 0, [⟨.bytes [(0x300040, 7)], 0x30040, false, false, some 0⟩], [], []⟩] }
theorem witness_MatrixCommandsQueue_sources :
    (∀ z ∈ [(3 : Fin 8)], engines.sourceWaits engines.cur (engines.xfeet (engines.newX (.mzero 0 z 10))).1 = false) ∧
    arrived.sourceWaits arrived.cur (arrived.xfeet { arrived.newX (.mldz 0 3 6 false 0) with da := tile 1 4 4 0x30040 16 }).1 = true := by
  decide +kernel
theorem witness_MatrixCommandsQueue_descriptors : let d (n : Fin 16) : Desc := engines.me.dreg[n]
    (d 3).sans7.bad ⟨128, 128, true, [1, 2, 3, 4, 5, 6, 7, 8, 9, 10, 11, 12], [0, 1, 2, 3], false⟩ = none ∧
    (d 3).sans7.bad ⟨128, 128, true, [1, 2, 3, 4, 5, 6], [0, 1, 2, 3], true⟩ = none ∧
    (∃ w, productShape false 0 (d 1) (d 2) 1 2 0 = .ok w) ∧ (∃ w, productShape true 0 (d 2) (d 2) 2 2 0 = .ok w) ∧
    (∃ w, productShape false 18 (d 1) (d 2) 1 2 0x1000040004 = .ok w) := by
  refine ⟨by decide +kernel, by decide +kernel, ok_of ?_, ok_of ?_, ok_of ?_⟩ <;> decide +kernel
theorem witness_MatrixCommandsQueue_routines : let d (n : Fin 16) : Desc := engines.me.dreg[n]
    ∀ op ∈ [0x0A, 0x0B, 0x0C, 0x0D, 0x0E, 0x10, 0x11], (solveShape op ⟨0, 3, 4⟩ (d 3) (d 4) 0).isOk = true := by
  decide +kernel

theorem witness_CopyCommandsIssue : engines.me.pget 0 = true ∧ engines.me.checked 4 = .ok 0x40 ∧
    engines.me.checked (Fin.ofNat 64 5) = .ok 9 ∧ (0x40 : Word).toNat % 8 = 0 ∧ (0x40 : Word).toNat < 0x400000 ∧
    engines.me.checked 10 = .ok 0x48 ∧ engines.me.checked (Fin.ofNat 64 11) = .ok 3 ∧
    engines.me.dreg[(3 : Fin 16)].dlevel = 0 ∧ engines.pathFull engines.cur .copy = false ∧
    engines.pathFull engines.cur .gather = false ∧ engines.pathFull engines.cur .collective = false ∧
    engines.me.idxq.length < Config.indexQueueDepth := by
  refine ⟨rfl, rfl, rfl, by decide +kernel, by decide +kernel, rfl, rfl, ?_⟩ <;> decide +kernel
theorem witness_CopyCommandsIssue_sources : (∀ p ∈ [(0 : Fin 64)], engines.sourceWaits engines.cur (engines.placeK
      { engines.newK (.kcpy p 3 3 ⟨0, 0⟩) (some .copy) with
        dd := tile 0 4 4 0x600 16
        ds := tile 0 4 4 0x600 16 }).sources = false) ∧
    arrived.sourceWaits arrived.cur (arrived.placeK { arrived.newK (.kcpy 0 6 6 ⟨0, 0⟩) (some .copy) with
      dd := tile 1 4 4 0x30040 16
      ds := tile 1 4 4 0x30040 16 }).sources = true := by
  decide +kernel
theorem witness_CopyCommandsIssue_default : let d : Desc := (tile 0 4 4 0x600 16).set 7 (8 * 2 + 32 * 62)
    d.dlevel = 2 ∧ d.dlevel ≠ 0 ∧ 1 ≤ d.dsc ∧ d.dsc ≤ 62 := by
  decide +kernel
theorem witness_CopyCommandsIssue_both : let d : Desc := (tile 0 4 4 0x600 16).set 7 (8 * 3 + 32 * 60)
    d.dlevel = 3 ∧ 1 ≤ d.dsc ∧ d.dsc ≤ 60 := by
  decide +kernel

/-- Full queues of all kinds: sixteen X commands, sixteen copies, 256 indices; a completion level whose register is 0, 63, or
at level 3 61. -/
def full : State := { (engines.modMe fun c => { c with
    xq := List.replicate 16 { engines.newX (.mzero 0 3 0) with t := 7 }
    idxq := List.replicate 256 0
    dreg := ((c.dreg.set 6 ((tile 0 4 4 0x600 16).set 7 8)).set 7 ((tile 0 4 4 0x600 16).set 7 (8 + 32 * 63))).set 8
      ((tile 0 4 4 0x600 16).set 7 (8 * 3 + 32 * 61)) }) with
  kcmds := List.replicate 16 (engines.newK (.kcpy 0 3 3 ⟨0, 0⟩) (some .copy)) }
theorem witness_EngineIssueChecks : full.me.pget 0 = true ∧ full.me.checked 4 = .ok 0x40 ∧ Config.xQueueDepth ≤ full.me.xq.length ∧
    full.me.checked 14 = .ok 0x41 ∧ (0x41 : Word).toNat % 8 ≠ 0 ∧ full.me.checked 16 = .ok 0x400000 ∧
    (0x400000 : Word).toNat % 8 = 0 ∧ full.me.checked (Fin.ofNat 64 17) = .ok 0 ∧ full.me.checked (Fin.ofNat 64 15) = .ok 0 := by
  refine ⟨rfl, rfl, by decide +kernel, rfl, by decide +kernel, rfl, by decide +kernel, rfl, rfl⟩
theorem witness_EngineIssueChecks_shapes : full.me.dreg[(1 : Fin 16)].sans7.bad (productUse 20) = none ∧
    full.me.dreg[(2 : Fin 16)].sans7.bad (productUse 20) = none ∧ full.me.checked 20 = .ok (2 ^ 48) ∧ bits (2 ^ 48 : Word) 48 16 ≠ 0 ∧
    full.me.checked 22 = .ok 0x1000000081 ∧ 128 < bits (0x1000000081 : Word) 0 16 ∧ full.me.checked 24 = .ok 0x1800000000 ∧
    bits (0x1800000000 : Word) 32 16 % 16 ≠ 0 ∧ bits (0x40 : Word) 32 16 < 16 ∧ 2 ^ 32 ≤ (2 ^ 48 : Word).toNat := by
  refine ⟨?_, ?_, rfl, ?_, rfl, ?_, rfl, ?_, ?_, ?_⟩ <;> decide +kernel
theorem witness_EngineIssueChecks_queues : full.pathFull full.cur .copy = true ∧ full.me.dreg[(3 : Fin 16)].dlevel = 0 ∧
    full.me.dreg[(6 : Fin 16)].dlevel ≠ 0 ∧ full.me.dreg[(6 : Fin 16)].dsc = 0 ∧ full.me.dreg[(7 : Fin 16)].dlevel ≠ 0 ∧
    62 < full.me.dreg[(7 : Fin 16)].dsc ∧ full.me.dreg[(8 : Fin 16)].dlevel = 3 ∧ 60 < full.me.dreg[(8 : Fin 16)].dsc ∧
    Config.indexQueueDepth ≤ full.me.idxq.length ∧ (∃ q ∈ full.me.xq, q.t ≠ full.time ∧ (3 : Fin 8) ∈ q.writes) := by
  decide +kernel
theorem witness_EngineIssueChecks_optimiser : optCheck 3 full.me.dreg[(3 : Fin 16)] 3 none = .ok () ∧
    (full.me.dreg[(5 : Fin 16)].base + BitVec.ofNat 64 (32 * 1)).toNat % 32 ≠ 0 ∧
    ((tile 0 4 4 0x3FFFE0 16).base + BitVec.ofNat 64 (32 * 1)).toNat % 32 = 0 ∧
    0x400000 ≤ ((tile 0 4 4 0x3FFFE0 16).base + BitVec.ofNat 64 (32 * 1)).toNat := by
  refine ⟨unit_ok ?_, ?_⟩ <;> decide +kernel

/-- Weights of one row of two in d1, moments of two rows in d2, FP32, in the scratchpad. -/
def training : State := mapped.modMe fun c => { c with
  dreg := (((c.dreg.set 1 (tile 0 1 2 0x200 8)).set 2 (tile 0 2 2 0x300 8)).set 3 (tile 1 1 1 0x30040 4)).set 4 (tile 0 1 1 0x400 4) }
/-- The rows of the weights and of the moments. -/
def rowOf (n : Fin 16) (r : Nat) : List (Word × List Nat) × List Nat := got ([], []) (training.oRow training.me.dreg[n] r 2)
theorem witness_OptimiserRowsUpdate : training.me.pget 0 = true ∧
    (∀ q ∈ training.me.xq, q.t ≠ training.time → (0 : Fin 8) ∉ q.writes) ∧ (training.me.zreg[(0 : Fin 8)]).rowOk 0 = true ∧
    bits (training.me.zreg[(0 : Fin 8)]).tag 0 4 ≤ 1 ∧ training.me.dreg[(1 : Fin 16)].cols = 2 ∧
    training.oRow training.me.dreg[(1 : Fin 16)] 0 2 = .ok (rowOf 1 0) ∧ training.oRow training.me.dreg[(2 : Fin 16)] 0 2 = .ok (rowOf 2 0) ∧
    training.oRow training.me.dreg[(2 : Fin 16)] 1 2 = .ok (rowOf 2 1) := by
  refine ⟨rfl, by decide +kernel, by decide +kernel, by decide +kernel, by decide +kernel, got_eq _ (by decide +kernel),
    got_eq _ (by decide +kernel), got_eq _ (by decide +kernel)⟩
theorem witness_OptimiserRowsUpdate_checks : let w := training.me.dreg[(1 : Fin 16)]
    let x := training.me.dreg[(2 : Fin 16)]
    optCheck 0 w 1 none = .ok () ∧ optCheck 0 w 1 (some (x, 2, 0)) = .ok () ∧ optCheck 0 w 1 (some (x, 2, 1)) = .ok () ∧
    trackAcc [w.tag] [(training.me.zreg[(0 : Fin 8)]).tag, w.tag] = .ok () ∧
    trackAcc [w.tag, x.tag] [(training.me.zreg[(0 : Fin 8)]).tag, w.tag, x.tag] = .ok () := by
  refine ⟨unit_ok ?_, unit_ok ?_, unit_ok ?_, unit_ok ?_, unit_ok ?_⟩ <;> decide +kernel
theorem witness_OptimiserRowsUpdate_rows : let rows := (rowOf 1 0).1 ++ ((rowOf 2 0).1 ++ (rowOf 2 1).1)
    training.waits (spanLocs (spansOf rows)) = false ∧ training.spanPoison (spansOf rows) = none ∧ training.banksLocked 0 training.bundleId (spansOf rows) = false ∧
    ∃ t, training.touchAs training.cur training.me.run training.me.step .write training.me.phaseOpen none (spansOf rows) = .ok t := by
  refine ⟨by decide +kernel, by decide +kernel, by decide +kernel, ok_of (by decide +kernel)⟩

theorem witness_ClipLoadAndSquaresDeliver_clip : let v (w : W32) : XV := fp32.dec w.toNat
    let below (x : XV) : Prop := x.neg = true ∧ x.isZero = false
    (v 0x7FC00000).isNan = true ∧ (v 0x3F800000).isNan = false ∧ below (v 0xBF800000) ∧ ¬ below (v 0x3F800000) ∧ ¬ below (v 0) ∧
    (v 0).isZero = true ∧ (v 0x3F800000).le (XV.mul (v 0x3F800000) (v 0x3F800000)).1 = true ∧
    (v 0x40800000).le (XV.mul (v 0x3F800000) (v 0x3F800000)).1 = false ∧ (v 0x7F800000).le (XV.mul (v 0x3F800000) (v 0x3F800000)).1 = false ∧
    v 0x7F800000 = .inf false ∧ (∃ n d e, v 0x3F800000 = .fin false n d e) ∧ ∃ n d e, v 0x40800000 = .fin false n d e := by
  refine ⟨?_, ?_, ?_, ?_, ?_, ?_, ?_, ?_, ?_, rfl, ⟨_, _, _, rfl⟩, _, _, _, rfl⟩ <;> decide +kernel
theorem witness_ClipLoadAndSquaresDeliver_load : let x := training.me.dreg[(1 : Fin 16)].base + BitVec.ofNat 64 (32 * 1)
    let sp := spansOf [(x, (List.range 32).map (spadLoc 0 x.toNat + ·))]
    x.toNat % 32 = 0 ∧ x.toNat < 0x400000 ∧ training.waits (spanLocs sp) = false ∧ training.spanPoison sp = none ∧ training.banksLocked 0 training.bundleId sp = false ∧
    ∃ t, training.touchAs training.cur training.me.run training.me.step .read training.me.phaseOpen none sp = .ok t := by
  refine ⟨by decide +kernel, by decide +kernel, by decide +kernel, by decide +kernel, by decide +kernel, ok_of (by decide +kernel)⟩
theorem witness_ClipLoadAndSquaresDeliver_squares : let d := training.me.dreg[(3 : Fin 16)]
    let foot := spansOf [(d.flatName 0x30040, at40 4)]
    (∃ t, training.touchAs training.cur training.me.run training.me.step .update training.me.phaseOpen none foot = .ok t) ∧
    d.sans7.linear.bad ⟨2 ^ 32, 2 ^ 32, false, List.range 13, [1, 2], false⟩ = none ∧ d.base ≠ 0 ∧ d.space ≠ 2 ∧ (d.base.toNat : Int) % 4 = 0 ∧
    training.spaceGate (training.me.actor 0) d.space d.base 0x30040 4 ⟨true, false⟩ = .ok (at40 4) ∧ training.waits (at40 4) = false ∧
    (∀ q ∈ training.me.xq, q.t ≠ training.time → ∀ u ∈ training.me.xfoot, u.seq = q.seq → spanMeet u.dst foot = none) ∧
    (training.view training.cur).refusePend ⟨.upd 0x300040 .sum 1 0, d.flatName 0x30040, true, false, some 2⟩ = none ∧
    training.kcmds.all (fun k => k.owner ≠ training.cur) = true ∧
    training.looseClash training.cur ⟨[], foot, true⟩ training.me.mfoot = none ∧
    (Desc.linear (Desc.sans7 (d.set 0 0))).bad ⟨2 ^ 32, 2 ^ 32, false, List.range 13, [1, 2], false⟩ = none ∧ Desc.base (d.set 0 0) = 0 := by
  refine ⟨ok_of (by decide +kernel), ?_⟩
  decide +kernel

/-- A lane whose engine runs one command, due now. -/
def stepping (i : Instr) : State := running.modMe fun c => { c with
  xq := [{ running.newX i with
    busy := some 0
    shape := 0x40000000 }] }
theorem witness_AccumulatorCommandsComplete : ∀ i ∈ [Instr.mzero 0 3 0, .mcopy 0 3 1 0, .mtrn 0 3 1 0, .macc 0 3 1 0, .mscl 0 3 18 true 0,
    .mscl 0 3 0 false 0], ∃ q, let s := stepping i
      let x := s.ctx ⟨0, 0⟩
      let foot := (x.xfoot.filter (·.seq = q.seq)).flatMap fun u => u.src ++ u.dst
      x.xq = [q] ∧ q.op = i ∧ x.wait = .none ∧ s.runLive ⟨0, 0⟩ x.run = true ∧ q.busy = some 0 ∧ 0 ≤ s.time ∧ q.bad = none ∧
      q.waitFault = none ∧ q.solve = none ∧ q.kb = 0 ∧ q.replays = 0 ∧ x.strikes = [] ∧
      (s.severed 0 = false ∧ x.shadow = none ∧ s.banksLocked 0 q.seq foot = false ∧ (spanLocs foot).any s.onItsWay = false) ∧
      ∀ z : Fin 8, x.zreg[z] = Acc.zero := by
  intro i h
  refine ⟨_, rfl, rfl, rfl, ?_⟩
  simp only [List.mem_cons, List.not_mem_nil, or_false] at h
  rcases h with rfl | rfl | rfl | rfl | rfl | rfl <;>
    exact ⟨by decide +kernel, rfl, Nat.zero_le _, rfl, rfl, rfl, rfl, rfl, rfl, by decide +kernel, fun z => by
      revert z; exact fun z => Vector.getElem_replicate ..⟩
theorem witness_AccumulatorCommandsComplete_clean : (match Acc.zero.verify with
    | .clean => true
    | _ => false) = true ∧ Acc.zero.tagOk = true ∧ Acc.zero.lsOk = true ∧ bits Acc.zero.tag 0 4 ≤ 1 ∧ Acc.zero.ls = none ∧
    trackAcc [Acc.zero.tag, Acc.zero.tag] [Acc.zero.tag, Acc.zero.tag] = .ok () := by
  refine ⟨by decide +kernel, rfl, rfl, by decide +kernel, rfl, unit_ok (by decide +kernel)⟩

theorem witness_EngineArithmeticAndChecksums : let one : XV := .fin false 1 1 0
    (∀ p ∈ [(one, one)], (∃ n m d e, p.1 = .fin n m d e) ∧ ∃ n m d e, p.2 = .fin n m d e) ∧
    (([] : List (XV × XV)).foldl (fun a p => (XV.add 0 a (XV.mul p.1 p.2).1).1) XV.zero).isZero = true ∧
    ([(one, one)].foldl (fun a p => (XV.add 0 a (XV.mul p.1 p.2).1).1) XV.zero).isZero = false := by
  refine ⟨?_, by decide +kernel, by decide +kernel⟩
  intro p h
  rw [List.mem_singleton.mp h]
  exact ⟨⟨_, _, _, _, rfl⟩, _, _, _, _, rfl⟩
theorem sum32_zeros (l : List W32) (h : ∀ x ∈ l, x = 0) : sum32 l = 0 := by
  induction l with
  | nil => rfl
  | cons x t ih =>
    rw [h x (List.mem_cons_self ..)]
    exact ih fun y hy => h y (List.mem_cons_of_mem x hy)
theorem getD_zero (l : List W32) (h : ∀ x ∈ l, x = 0) (j : Nat) : l.getD j 0 = 0 := by
  rcases Nat.lt_or_ge j l.length with hj | hj
  · simpa [hj] using h l[j] (List.getElem_mem hj)
  · simp [hj]
theorem getD_zeros (l : List (List W32)) (h : ∀ r ∈ l, ∀ x ∈ r, x = 0) (i : Nat) : ∀ x ∈ l.getD i [], x = 0 := by
  rcases Nat.lt_or_ge i l.length with hi | hi
  · simpa [hi] using h l[i] (List.getElem_mem hi)
  · simp [hi]
theorem witness_EngineArithmeticAndChecksums_sealed : Acc.zero.tagOk = true ∧ Acc.zero.lsOk = true ∧
    Acc.zero = { Acc.zero with el := Acc.zero.grid.sealed } := by
  refine ⟨rfl, rfl, ?_⟩
  have hg : ∀ r ∈ Acc.zero.grid, ∀ x ∈ r, x = 0 := by simp [Acc.grid, Acc.zero]
  have hr : ∀ r ∈ Acc.zero.grid.map (fun r => r ++ [sum32 r]), ∀ x ∈ r, x = 0 := by
    intro r h x hx
    obtain ⟨q, hq, rfl⟩ := List.mem_map.mp h
    rcases List.mem_append.mp hx with hx | hx
    · exact hg q hq x hx
    · rw [List.mem_singleton.mp hx]
      exact sum32_zeros q (hg q hq)
  have hz : Acc.zero.grid.sealed = Acc.zero.el := by
    apply Vector.ext
    intro i hi
    apply Vector.ext
    intro j hj
    simp only [Grid.sealed, tab, Vector.getElem_mk, List.getElem_toArray, List.getElem_map, List.getElem_range]
    refine Eq.trans (getD_zero _ (getD_zeros _ ?_ i) j) (by simp [Acc.zero])
    intro r h x hx
    rcases List.mem_append.mp h with h | h
    · exact hr r h x hx
    · rw [List.mem_singleton.mp h] at hx
      obtain ⟨k, -, rfl⟩ := List.mem_map.mp hx
      refine sum32_zeros _ fun y hy => ?_
      obtain ⟨q, hq, rfl⟩ := List.mem_map.mp hy
      exact getD_zero q (hr q hq) k
  rw [hz]

/-! Witnesses of the statements about lanes, waits, faults and engine commands. -/

/-- Lanes on cores 0 and 1 of a gang of two, both changed by `f`. -/
def ganged (f : Ctx → Ctx) : State := { ((running.modCtx ⟨0, 0⟩ fun c => f { c with width := 2 }).modCtx ⟨1, 0⟩ fun c =>
    f { c with
      stat := .running
      run := 1
      width := 2 }) with
  runs := [⟨1, 1, 0x4000, 0, [⟨0, 0⟩, ⟨1, 0⟩], [], false, 0, false, false⟩] }
theorem witness_LanesMeetAndEnd_stall : let x := (ganged id).ctx ⟨0, 0⟩
    x.stat = .running ∧ x.wait = .none ∧ 1 < x.width ∧ x.synced = false ∧ (running.ctx ⟨0, 0⟩).width = 1 := by
  decide +kernel
theorem witness_LanesMeetAndEnd_meet : let s := ganged fun c => { c with wait := .sync }
    ∃ r, s.getRun (s.ctx ⟨0, 0⟩).run = some r ∧ ∀ l ∈ r.gang, (s.ctx l).stat = .running ∧ (s.ctx l).wait = .sync :=
  ⟨_, rfl, by decide +kernel⟩
theorem witness_LanesMeetAndEnd_finish : let s := ganged fun c => { c with stat := .ending }
    let x := s.ctx ⟨0, 0⟩
    ∃ r, s.getRun x.run = some r ∧ x.stat = .ending ∧ x.wait = .none ∧ x.ringQ = [] ∧ x.pipe = [] ∧ x.xq = [] ∧ s.kcmds = [] ∧
      (∃ l ∈ r.gang, l ≠ ⟨0, 0⟩ ∧ (s.ctx l).stat ≠ .finished) ∧
      let t := s.modCtx ⟨1, 0⟩ fun c => { c with stat := .finished }
      ∀ l ∈ r.gang, l ≠ ⟨0, 0⟩ → (t.ctx l).stat = .finished := by
  refine ⟨_, rfl, ?_⟩
  decide +kernel
/-- A result in flight. -/
def flying (due : Option Nat) : Landing := ⟨.m, 0, 0, due, [.s 3 (SVal.of 1)], none, 0, [], 0, false⟩
theorem witness_LanesMeetAndEnd_land : (∀ due ∈ [some 4, none], (flying due).writes.flatMap RegWrite.cells = []) ∧
    let x := (running.modMe fun c => { c with
      stat := .ending
      pipe := [flying (some 4)] }).me
    x.pipe = [flying (some 4)] ∧ x.wait = .none ∧ x.stat = .ending ∧ (flying (some 4)).due.isSome = true ∧ (flying (some 4)).t ≤ running.time ∧
    (flying (some 4)).opens = false ∧
    let y := (running.modMe fun c => { c with pipe := [flying none] }).me
    y.stat = .running ∧ y.wait = .none ∧ y.pipe = [flying none] ∧ (flying none).due = none ∧ ((flying none).opens = true → (flying none).t < running.time) := by
  decide +kernel
/-- Bank 0 of core 0 sleeps on a word, bank 1 can issue. -/
def banked : State := (running.modMe fun c => { c with wait := .word false (spadLoc 0 0x40) 5 }).modCtx ⟨0, 1⟩ fun c =>
  { c with stat := .running }
theorem witness_LanesMeetAndEnd_switch : (banked.core 0).cur = 0 ∧ (banked.ctx (otherBank ⟨0, 0⟩)).stat = .running ∧
    (banked.ctx (otherBank ⟨0, 0⟩)).wait = .none ∧ (banked.ctx (otherBank ⟨0, 0⟩)).nextIssue ≤ banked.time ∧
    (banked.ctx ⟨0, 0⟩).nextIssue ≤ banked.time ∧ (banked.ctx ⟨0, 0⟩).wait = .word false (spadLoc 0 0x40) 5 := by
  decide +kernel
/-- Both banks of core 0 can issue; the wait of bank 1 was over first. -/
def readied : State := (running.modCtx ⟨0, 1⟩ fun c => { c with stat := .running }).modCore 0 fun k => { k with ready := [(0, 1)] }
theorem witness_LanesMeetAndEnd_switch_ready : (readied.ctx ⟨0, 1⟩).stat = .running ∧ (readied.ctx ⟨0, 1⟩).wait = .none ∧
    (readied.ctx ⟨0, 0⟩).between readied.time = true ∧ readied.chosen 0 = 1 := by
  decide +kernel

theorem witness_WaitsEnd_word : let l := spadLoc 0 0x40
    let s := (banked.setNum l 5 8)
    (s.ctx ⟨0, 0⟩).wait = .word false l 5 ∧ s.poisoned l = false ∧ s.wordWaits ⟨0, 0⟩ l = false ∧ s.fresh l 8 = false ∧ BitVec.ofNat 64 (s.num l 8) = 5 ∧
    s.firstClash ⟨0, 0⟩ (s.ctx ⟨0, 0⟩).run .observe s.time none
      (spansOf [(BitVec.ofNat 64 ((l - 2 ^ 52) % 2 ^ 22), (List.range 8).map (l + ·))]) = none := by
  decide +kernel
theorem witness_WaitsEnd_ring : let s := (ringed 2 0).modMe fun c => { c with wait := .ring 2 2 }
    (s.ctx ⟨0, 0⟩).wait = .ring 2 2 ∧ (s.ctx ⟨0, 0⟩).hreg[(2 : Fin 8)] = some ⟨0x100, 0⟩ ∧
    s.ringGate ⟨0, 0⟩ ⟨0x100, 0⟩ ⟨false, false⟩ = .ok ringLocs ∧ ringLocs.any s.poisoned = false ∧
    ringLocs.any (s.inTransit ⟨0, 0⟩) = false ∧ s.fresh (ringLocs.headD 0) 64 = false ∧
    (2 : Word).toNat ≤ (s.ringObj ringLocs).filled ∧
    s.firstClash ⟨0, 0⟩ (s.ctx ⟨0, 0⟩).run .observe s.time none (ringSpans ringLocs 0x100) = none := by
  decide +kernel
theorem witness_WaitsEnd_ring_poison : let s : State := { (ringed 2 0).modMe (fun c => { c with wait := .ring 2 2 }) with
      poison := [spadLoc 0 0x100] }
    s.ringGate ⟨0, 0⟩ ⟨0x100, 0⟩ ⟨false, false⟩ = .ok ringLocs ∧ ringLocs.any (s.inTransit ⟨0, 0⟩) = false ∧
    s.objPoison ringLocs 0x100 = some { code := 0x23, faddr := 0x100 } := by
  decide +kernel
/-- A lane whose engine waits at a barrier on the word at 0x40 for 5. -/
def barred : State := (running.modMe fun c => { c with xq := [{ running.newX (.mzero 0 3 10) with bar := some (spadLoc 0 0x40, 5) }] }).setNum
  (spadLoc 0 0x40) 5 8
theorem witness_WaitsEnd_barrier : let l := spadLoc 0 0x40
    ∃ q, (barred.ctx ⟨0, 0⟩).xq = [q] ∧ q.bar = some (l, 5) ∧ q.barOk = false ∧ barred.runLive ⟨0, 0⟩ (barred.ctx ⟨0, 0⟩).run = true ∧
      barred.poisoned l = false ∧ barred.wordWaits ⟨0, 0⟩ l = false ∧ barred.fresh l 8 = false ∧ BitVec.ofNat 64 (barred.num l 8) = 5 ∧
      barred.firstClash ⟨0, 0⟩ (barred.ctx ⟨0, 0⟩).run .observe barred.time none [⟨BitVec.ofNat 64 ((l - 2 ^ 52) % 2 ^ 22), l, 8⟩] = none := by
  refine ⟨_, rfl, rfl, rfl, rfl, ?_⟩
  decide +kernel
/-- A waiter on the future at 0x300040 that is a step, one that is a lane, and one for another device. -/
def chained : State := { (running.modMe fun c => { c with wait := .future 0x300040 0x30040 ⟨7, false⟩ 3 }) with
  waiters := [⟨0, 1, 1, 0x4000, .step ⟨0, [], 0, [], none, 0⟩, 0, false, 0x300040⟩,
    ⟨0, 2, 1, 0x4000, .lane ⟨0, 0⟩ 1, 0, false, 0x300040⟩, ⟨0, 3, 0, 0, .proxy 2 9, 0, false, 0x300040⟩]
  nodes := [⟨1, 0x4000, 0x4000, 0, 0, [], [], false, false, none, .no, [], 0, none⟩] }
theorem witness_WaitsEnd_records : (∀ i ∈ [1, 2, 3], ∃ w, chained.waiters.find? (fun w => w.die = 0 && w.idx = i) = some w ∧ w.dead = false) ∧
    (chained.node 1 0x4000).isSome = true ∧ (chained.ctx ⟨0, 0⟩).run = 1 ∧
    (chained.ctx ⟨0, 0⟩).wait = .future 0x300040 0x30040 ⟨7, false⟩ 3 := by
  refine ⟨?_, by decide +kernel⟩
  intro i h
  simp only [List.mem_cons, List.not_mem_nil, or_false] at h
  rcases h with rfl | rfl | rfl <;> exact ⟨_, rfl, rfl⟩
theorem witness_WaitsEnd_remote : (∀ fill ∈ [true, false], let s := running.modMe fun c => { c with wait := .remote fill 0x1080000000040 0 }
      (s.ctx ⟨0, 0⟩).wait = .remote fill 0x1080000000040 0 ∧
      (((((s.ackFlits (.future ⟨0, 0⟩)).drainFlits (windowDevice 0x1080000000040) 2 1).modCtx ⟨0, 0⟩ fun x => { x with
        wait := .none
        answer := some .filled }).closePhase ⟨0, 0⟩ .m (s.ctx ⟨0, 0⟩).pc false).isOk = true)) ∧ running.byte (0x300040 + 8) = 0 ∧ running.poisonIn 0x300040 16 = none ∧
    (running.freeWaiter (running.home 0x300040)).isSome = true := by
  decide +kernel
theorem witness_WaitsEnd_remote_access : let u := (running.drainFlits 1 2 1).sendFlits 1 2 1 .reply
    let f : List Span := [⟨0x300040, 0x300040, 16⟩]
    running.Canonical ∧ u.lateClash nobody u.nextRun .sync u.time f = none ∧ u.lateClash nobody u.nextRun .observe u.time f = none ∧
    let w := (({ running with
      time := 3
      nextRun := 9
      accs := [⟨⟨0, 0⟩, 1, 0, 0x300040, 0x300040, 8, .write, 0, none⟩] } : State).drainFlits 1 2 1).sendFlits
      1 2 1 .reply
    (w.lateClash nobody w.nextRun .sync w.time f).isSome = true :=
  ⟨canonical_of (by decide +kernel), by decide +kernel⟩
theorem witness_WaitsEnd_projection : let s := heads.modMe fun c => { c with wait := .projection 0x30100 }
    (s.ctx ⟨0, 0⟩).wait = .projection 0x30100 ∧ (s.ctx (otherBank ⟨0, 0⟩)).wait ≠ .projection 0x30100 ∧
    s.readHcb (s.view ⟨0, 0⟩).plainByte (s.ctx ⟨0, 0⟩).asid 0x30100 = .ok hc0 ∧
    s.vaBytes (s.view ⟨0, 0⟩).plainByte (s.ctx ⟨0, 0⟩).asid hc0.2.proj (256 * hc0.2.tables * hc0.2.b) = .ok pr0 := by
  decide +kernel

/-- ASID 1 with its watchdog limit at 1000 and an OPB at 0x30200 in frame 0x300000 (R20, R21): one step-identifier field of
eight bits with last value 3, its lane record at 0x30300; the word at 0x30080 holds the address of the OPB. -/
def hosted : State := (((((mapping State.reset).setNum 0x100048 1000 8).setNum 0x300208 1 8).setNum 0x300210 0x801 8).setNum
  0x300218 3 8).setNum 0x300248 0x30300 8 |>.setNum 0x300080 0x30200 8
/-- A command that waits for Zenhel's answer. -/
def asking : KCmd := { running.newK (.kcpy 0 3 3 ⟨0, 0⟩) (some .copy) with
  waitFault := some { code := 0x20 }
  lvl := 2 }
theorem witness_FaultsAndStorageErrors_answers : ((running.modMe fun c => { c with wait := .fault .m { code := 0x20 } }).ctx ⟨0, 0⟩).wait =
      .fault .m { code := 0x20 } ∧
    ({ running with kcmds := [asking] } : State).getK 0 = some asking ∧ asking.waitFault = some { code := 0x20 } := ⟨rfl, rfl, rfl⟩
/-- A lane whose record waits for a slot of its full trap ring. -/
def stuck : State := (trapping 4).modMe fun c => { c with ringQ := [⟨[1, 2, 3, 4, 5, 6, 7], 9, .nothing⟩] }
/-- A record of the device that waits for its ring. -/
def devRec : DevRec := ⟨[1, 2, 3, 4, 5, 6, 7], 9, .nothing⟩
theorem witness_FaultsAndStorageErrors_rings : (stuck.ctx ⟨0, 0⟩).ringQ = [⟨[1, 2, 3, 4, 5, 6, 7], 9, .nothing⟩] ∧
    (stuck.setNum (stuck.ringOf ⟨0, 0⟩ + 0x14) 1 4).ringSpace (stuck.ringOf ⟨0, 0⟩) = true ∧
    (stuck.setNum (stuck.ringOf ⟨0, 0⟩ + 0x14) 0 4).ringSpace (stuck.ringOf ⟨0, 0⟩) = false ∧
    ((stuck.modMe fun c => { c with stat := .stopped }).ctx ⟨0, 0⟩).stat = .stopped := by
  decide +kernel
theorem witness_FaultsAndStorageErrors_device_ring : let s : State := { trapping 4 with
      cfg := { (trapping 4).cfg with devring := 0x10000 }
      devQ := [devRec] }
    s.devQ = [devRec] ∧ devRec.after = .nothing ∧ (s.setNum (s.devRing + 0x14) 1 4).ringSpace s.devRing = true ∧ State.reset.devQ = [] := by
  decide +kernel
-- a ring's `lost` and what stands beside it; `full` of the trace block that ASID 1's entry at 0x100040 names
theorem witness_FaultsAndStorageErrors_writes : running.Canonical ∧ 0x10000 ∈ running.ringBlocks ∧
    let s := hosted.setNum 0x100050 0x240000 8
    s.trcb 1 + 0x1C = 0x24001C ∧ 0x24001C % 64 = 0x1C ∧ s.exact = [] :=
  ⟨canonical_of (by decide +kernel), by decide +kernel⟩
theorem witness_FaultsAndStorageErrors_dump : dumpLoc (2 * 0 + 0) ≤ dumpLoc 0 + 5 ∧ dumpLoc 0 + 5 < dumpLoc 1 := by decide +kernel
theorem witness_FaultsAndStorageErrors_poison : isSpad 0x300040 = false ∧ running.populated 0x300040 = true ∧
    isSpad (spadLoc 3 0x40) = true ∧ spadLoc 3 0x40 < 2 ^ 52 + 128 * 2 ^ 22 ∧ running.exact = [] ∧ (running.ctx ⟨0, 0⟩).pipe = [] := by
  decide +kernel
theorem witness_FaultsAndStorageErrors_snapshot : (∃ r ∈ running.runs, snapLoc r.id ≤ snapLoc 1 + 5 ∧ snapLoc 1 + 5 < snapLoc (r.id + 1)) ∧
    0x10018 ∈ (running.ringBlocks.map (· + 0x18)) := by
  decide +kernel
theorem witness_FaultsAndStorageErrors_pipes : let s : State := { State.reset with runs := running.runs }
    (∀ c, ∀ l ∈ (s.ctx c).pipe, l.due.isSome = true) ∧ s.runs = running.runs ∧ isSpad (spadLoc 3 0x40) = true := by
  refine ⟨fun c l h => ?_, rfl, by decide +kernel⟩
  simp [State.ctx, State.reset, Ctx.blank] at h
theorem witness_FaultsAndStorageErrors_strike : ∃ q, ((stepping (.mcopy 0 3 1 0)).ctx ⟨0, 0⟩).xq = [q] ∧ q.busy.isSome = true ∧
    q.bad = none ∧ q.waitFault = none := ⟨_, rfl, rfl, rfl, rfl⟩
theorem witness_FaultsAndStorageErrors_replay : let s := (stepping (.mcopy 0 3 1 0)).modMe fun c => { c with
      shadow := some ⟨[(1, c.zreg[(1 : Fin 8)])], [], [(3, c.zreg[(3 : Fin 8)])], []⟩
      xq := c.xq.map fun q => { q with bad := some 1 } }
    ∃ q sh, (s.ctx ⟨0, 0⟩).xq = [q] ∧ (s.ctx ⟨0, 0⟩).shadow = some sh ∧ q.bad.isSome = true ∧
      s.runLive ⟨0, 0⟩ (s.ctx ⟨0, 0⟩).run = true ∧ s.severed 0 = false := ⟨_, _, rfl, rfl, rfl, rfl, by decide +kernel⟩
theorem witness_FaultsAndStorageErrors_replay_runs : let s := (stepping (.mcopy 0 3 1 0)).modMe fun c => { c with
      shadow := some ⟨[(1, c.zreg[(1 : Fin 8)])], [], [(3, c.zreg[(3 : Fin 8)])], []⟩ }
    ∃ q sh, (s.ctx ⟨0, 0⟩).xq = [q] ∧ (s.ctx ⟨0, 0⟩).shadow = some sh ∧ q.bad = none ∧ q.waitFault = none ∧ q.busy = some 0 ∧
      0 ≤ s.time ∧ let foot := ((s.ctx ⟨0, 0⟩).xfoot.filter (·.seq = q.seq)).flatMap fun u => u.src ++ u.dst
      s.banksLocked 0 q.seq foot = false ∧ (spanLocs foot).any s.onItsWay = false :=
  ⟨_, _, rfl, rfl, rfl, rfl, rfl, Nat.zero_le _, by decide +kernel⟩

/-- No two commands of a lane, nothing pending of this one. -/
def Alone (s : State) (k : KCmd) : Prop := s.getK k.id = some k ∧ (∀ q ∈ s.kcmds, q ≠ k → q.owner ≠ k.owner) ∧
  k.failed = none ∧ k.waitFault = none ∧ k.errored = false ∧ k.dead = false ∧ k.unord = [] ∧ k.loose = []
theorem alone_of {s : State} {k : KCmd} (h : s.getK k.id = some k) (e : s.kcmds = [k]) (g : k.failed = none ∧ k.waitFault = none ∧
    k.errored = false ∧ k.dead = false ∧ k.unord = [] ∧ k.loose = []) : Alone s k :=
  ⟨h, by simp [e], g⟩
/-- A lane of `tiled` with one command in flight. -/
def flight (k : KCmd) : State := { tiled with kcmds := [k] }
/-- A copy of a tile of two by two from scratchpad address 0x400 to 0x200, at a stage. -/
def copyK (st : KStage) : KCmd := { tiled.newK (.kcpy 0 1 3 ⟨0, 0⟩) (some .copy) with
  dd := tile 0 2 2 0x200 8
  ds := tile 0 2 2 0x400 8
  stage := st }
/-- What a command reads and writes. -/
def planOf (k : KCmd) : KPlan := got ⟨[], [], []⟩ ((flight k).kplan k ((flight k).lookK k))
theorem witness_EngineCommandsProgress_start : let k := copyK .queued
    let s := flight k
    Alone s k ∧ (¬ ∃ p dd ds sa sb kd, k.op = .ka2a p dd ds sa sb kd) ∧ k.path.isSome = true ∧ k.stage = .queued ∧
    k.gathers = false ∧ k.waitsIdx = false ∧ s.severed k.owner.core = false ∧
    s.banksLocked k.owner.core k.id (k.srcFoot ++ k.dstFoot ++ k.area) = false ∧ s.kstatic k = .ok () ∧
    s.kplan k (s.lookK k) = .ok (planOf k) ∧ (spanLocs ((s.knownFeet k).1 ++ (s.knownFeet k).2 ++ k.area)).any s.onItsWay = false ∧
    s.unreached ((planOf k).reads ++ (planOf k).dst) = none ∧
    s.fenceFail k ⟨(planOf k).reads, (planOf k).dst, false⟩ = none ∧ s.linkPaused (planOf k) = false := by
  refine ⟨alone_of rfl rfl ⟨rfl, rfl, rfl, rfl, rfl, rfl⟩, ?_, rfl, rfl, rfl, by decide +kernel, by decide +kernel,
    by decide +kernel, unit_ok (by decide +kernel), got_eq _ (by decide +kernel), ?_⟩
  on_goal 2 => decide +kernel
  rintro ⟨_, _, _, _, _, _, h⟩
  cases h
theorem witness_EngineCommandsProgress_reads : let k := copyK .started
    let s := flight k
    Alone s k ∧ k.stage = .started ∧ k.updates = false ∧ k.ringing = false ∧ k.srcWord = none ∧ s.exact = [] ∧
    (k.waitsIdx = false ∧ k.gathers = false ∧ k.farHere = true ∧ s.severed k.owner.core = false) ∧
    s.kplan k (s.lookK k) = .ok (planOf k) ∧ (s.spanPoison (localSpans (planOf k).reads) = none ∧
      s.poisonWrite ((planOf k).ops.flatMap fun o => o.near.cells) = none) ∧
    ∃ u, s.touchAs k.owner k.run k.step .read k.opn k.closeAt (localSpans (planOf k).reads) k.id = .ok u := by
  refine ⟨alone_of rfl rfl ⟨rfl, rfl, rfl, rfl, rfl, rfl⟩, rfl, rfl, rfl, rfl, rfl, ?_, got_eq _ (by decide +kernel), ?_,
    ok_of (by decide +kernel)⟩ <;> decide +kernel
/-- A copy that holds one byte for location `l`. -/
def shownK (l : Nat) : KCmd := { copyK .srcDone with held := [⟨.bytes [(l, 7)], 0, false, true, some 3⟩] }
theorem witness_EngineCommandsProgress_visible : ∀ l ∈ [spadLoc 0 0x200, 0x300040], let k := shownK l
    let s := flight k
    Alone s k ∧ k.stage = .srcDone ∧ k.updates = false ∧ k.visWord = none ∧ s.live k = true ∧ k.ringing = false ∧
    ((∀ n ∈ s.nodes, n.dying = none) ∧ (∀ q ∈ s.kcmds, q.claim = none) ∧ s.acked k.id = true ∧ k.home = true ∧
      s.severed k.owner.core = false) ∧
    ∃ u, s.touchAs k.owner k.run k.step .write k.wopn none k.written k.id = .ok u := by
  intro l h
  simp only [List.mem_cons, List.not_mem_nil, or_false] at h
  rcases h with rfl | rfl <;>
    exact ⟨alone_of rfl rfl ⟨rfl, rfl, rfl, rfl, rfl, rfl⟩, rfl, rfl, rfl, rfl, rfl, by decide +kernel, ok_of (by decide +kernel)⟩
/-- A reduction of that tile into memory. -/
def redK : KCmd := { tiled.newK (.kred 0 2 3 ⟨0, 0⟩) (some .copy) with
  dd := tile 1 2 2 0x30040 8
  ds := tile 0 2 2 0x400 8
  stage := .started }
theorem witness_EngineCommandsProgress_accepts : let s := flight redK
    let p := planOf redK
    Alone s redK ∧ redK.updates = true ∧ redK.stage = .started ∧ redK.accepted = false ∧
    (s.severed redK.owner.core = false ∧ s.exact = []) ∧
    s.kplan redK (s.lookK redK) = .ok p ∧ s.spanPoison (localSpans p.reads) = none ∧
    (∃ u, s.touchAs redK.owner redK.run redK.step .read redK.opn redK.closeAt (localSpans p.reads) redK.id = .ok u) ∧
    p.ops.length = 4 ∧ p.ops.all (fun o => (((if s.live redK then (s.ctx redK.owner).pend.filter (·.sure) else []).foldl
      State.applyPend s).refusePend ⟨o.near, (p.dst.headD ⟨0, 0, 0⟩).name, true, false, some redK.bit⟩).isNone) = true := by
  refine ⟨alone_of rfl rfl ⟨rfl, rfl, rfl, rfl, rfl, rfl⟩, rfl, rfl, rfl, by decide +kernel, got_eq _ (by decide +kernel),
    by decide +kernel, ok_of (by decide +kernel), by decide +kernel, by decide +kernel⟩
/-- A KRING to the ring at scratchpad address 0x100, of which `wp` slots are claimed. -/
def ringK : KCmd := { tiled.newK (.kring 0 3 false ⟨0, 0⟩) (some .copy) with
  ds := tile 0 2 2 0x400 8
  ring := some ⟨0x100, 0⟩
  stage := .started }
def ringFlight (wp : Nat) : State := { ringed wp 0 with kcmds := [ringK] }
theorem witness_EngineCommandsProgress_claims : let r := (ringFlight 2).ringObj ringLocs
    let taken : KCmd := { ringK with
      claim := some (0, r.wp % r.nslot)
      ringLoc := ringLocs.headD 0
      wopn := (ringFlight 2).time }
    (∀ q ∈ (ringFlight 2).kcmds, q.claim = none ∧ (q.ringing = true → q = ringK)) ∧ (ringFlight 2).severed 0 = false ∧ Alone (ringFlight 2) ringK ∧ ringK.ringing = true ∧ (ringFlight 2).kringObj ringK = .ok (ringLocs, ⟨0x100, 0⟩, r) ∧
    (ringFlight 2).fresh (ringLocs.headD 0) 64 = false ∧ ringLocs.any ((ringFlight 2).inTransit ringK.owner) = false ∧ r.eosseen ≠ r.nprod ∧ r.filled < r.nslot ∧
    (∃ p, (ringFlight 2).kplan taken ((ringFlight 2).lookK taken) = .ok p ∧ (spanLocs p.dst).any (ringFlight 2).onItsWay = false ∧
      (ringFlight 2).fenceFail taken ⟨[], p.dst, false⟩ = none) ∧
    (let r := (ringFlight 4).ringObj ringLocs
     (ringFlight 4).kringObj ringK = .ok (ringLocs, ⟨0x100, 0⟩, r) ∧ r.nslot ≤ r.filled) := by
  refine ⟨?_, ?_, alone_of rfl rfl ⟨rfl, rfl, rfl, rfl, rfl, rfl⟩, rfl, ?_, ?_, ?_, ?_, ?_, ⟨_, got_eq ⟨[], [], []⟩ ?_, ?_, ?_⟩, ?_⟩ <;>
    decide +kernel
/-- A copy that has failed, on a lane whose trap ring has space. -/
def failedK : KCmd := { running.newK (.kcpy 0 1 3 ⟨0, 0⟩) (some .copy) with failed := some { code := 0x20 } }
def failing : State := { trapping 0 with kcmds := [failedK] }
theorem witness_EngineCommandsProgress_error : failing.getK failedK.id = some failedK ∧ (∀ n ∈ failing.nodes, n.dying = none) ∧
    (∀ q ∈ failing.kcmds, q.claim = none) ∧ failedK.errored = false ∧ failedK.dead = false ∧ (∀ q ∈ failing.kcmds, q = failedK) ∧
    failing.live failedK = true ∧ failing.severed 0 = false ∧ failing.a2aLater failedK = false ∧
    failing.roundError failedK { code := 0x20 } = failing ∧ failedK.record = none ∧ (0x20 : BitVec 8) ≠ 0x37 ∧ failedK.lvl = 0 ∧ failedK.srcWord = none ∧
    failedK.visWord = none ∧ (failing.ctx ⟨0, 0⟩).ringQ = [] ∧ (failing.ringSeq (failing.ringOf ⟨0, 0⟩)).2.ringSpace (failing.ringOf ⟨0, 0⟩) = true := by
  refine ⟨rfl, by decide +kernel, by decide +kernel, rfl, rfl, by simp [failing], rfl, by decide +kernel, rfl, rfl, rfl, by decide, rfl, rfl, rfl, rfl, by decide +kernel⟩
/-- A load block of 128 bytes from 0x30080 with its word at scratchpad address 0x80. -/
def blockK : KCmd := { tiled.newK (.ldb 0 4 1 (.imm 0)) none with
  sa := 0x30080
  sb := 128
  visWord := some (spadLoc 0 0x80, 5)
  lvl := 2 }
theorem witness_EngineCommandsProgress_words : let s := flight blockK
    let shown := s.modK blockK.id fun q => { q with
      stage := .visible
      visDoneWord := true }
    Alone s blockK ∧ blockK.path = none ∧ blockK.stage = .queued ∧ (s.live blockK = true ∧ s.severed 0 = false) ∧
    s.gate1 blockK.asid 0x30080 128 ⟨false, false⟩ = .ok ((List.range 128).map (0x300080 + ·)) ∧
    ∃ t u, shown.touchAs ⟨0, 0⟩ blockK.run blockK.step .sync s.time none [⟨0x80, spadLoc 0 0x80, 8⟩] = .ok t ∧
      t.closePhase ⟨0, 0⟩ .m blockK.pc false = .ok u := by
  refine ⟨alone_of rfl rfl ⟨rfl, rfl, rfl, rfl, rfl, rfl⟩, rfl, rfl, by decide +kernel, by decide +kernel, ok_both (by decide +kernel)⟩
/-- A close on its way, of a lane that runs; and one whose update meets poison. -/
def closed (ps : List Nat) : State := { running with
  closing := [⟨⟨0, 0⟩, 1, 0, 1, 0x4000, 0, .c, 0, [⟨.upd 0xC00000000 .sum 12 1, 0, true, false, some 0⟩], [], []⟩]
  poison := ps }
theorem witness_EngineCommandsProgress_closes : ∃ q, (closed []).closing.find? (fun q => q.owner = ⟨0, 0⟩) = some q ∧
    (∀ n ∈ (closed []).nodes, n.dying = none) ∧ (closed [0xC00000000]).runLive ⟨0, 0⟩ q.run = true ∧
    (∃ u, ({ closed [] with closing := (closed []).closing.erase q } : State).applyAll q.ops = .ok u) ∧
    ∃ f, ({ closed [0xC00000000] with closing := (closed [0xC00000000]).closing.erase q } : State).applyAll q.ops = .error f :=
  ⟨_, rfl, by decide +kernel, rfl, ok_of (by decide +kernel), _, rfl⟩

/-- A group of one: its record at page offset 0x80, its send buffer at scratchpad address 0x200 with four bytes for itself. -/
def a2aK (st : KStage) (posted : Bool) : KCmd := { tiled.newK (.ka2a 0 2 1 10 11 ⟨0, 0⟩) (some .collective) with
  dd := #v[0x30200, 1 + 16 * 2 ^ 32, 16, 8 + 2 ^ 16, 0, 0, 7 * 2 ^ 32 + 7 * 2 ^ 35, 0]
  ds := #v[0x200, 0, 0, 0, 0, 0, 7 * 2 ^ 32 + 7 * 2 ^ 35, 0]
  sa := 0x30080
  stage := st
  posted := posted
  parties := 1
  ringLoc := 0x300080 }
def a2aState (k : KCmd) : State := ((flight k).setNum 0x300080 1 2).setNum (spadLoc 0 0x200) 4 8
def a2aPlanOf (k : KCmd) : KPlan := got ⟨[], [], []⟩ ((a2aState k).kplan k ((a2aState k).lookK k))
theorem witness_AllToAllRound_posts : let k := a2aK .queued false
    let s := a2aState k
    Alone s k ∧ (∃ p dd ds sa sb kd, k.op = .ka2a p dd ds sa sb kd) ∧ k.stage = .queued ∧ (∀ q ∈ s.kcmds, q.posted = false) ∧
    (s.Canonical ∧ s.severed k.owner.core = false) ∧
    s.banksLocked k.owner.core k.id (k.srcFoot ++ k.dstFoot ++ k.area) = false ∧ s.kstatic k = .ok () ∧
    s.kplan k (s.lookK k) = .ok (a2aPlanOf k) ∧ s.parties = [] ∧
    (spanLocs ((s.knownFeet k).1 ++ (s.knownFeet k).2 ++ k.area)).any s.onItsWay = false ∧
    s.unreached ((a2aPlanOf k).reads ++ (a2aPlanOf k).dst) = none ∧
    s.fenceFail k ⟨(a2aPlanOf k).reads, (a2aPlanOf k).dst, false⟩ = none ∧
    s.linkPaused (a2aPlanOf k) = false ∧ s.a2aLoc k 0 0x40 = .ok 0x300080 ∧ k.rank = 0 ∧
    s.a2aLoc k (0x40 + 16 * k.rank) 16 = .ok 0x3000C0 ∧ k.rank < s.num 0x300080 2 ∧ s.num (0x300080 + 8) 4 < 2 ^ 32 - 1 := by
  refine ⟨alone_of rfl rfl ⟨rfl, rfl, rfl, rfl, rfl, rfl⟩, ⟨_, _, _, _, _, _, rfl⟩, rfl, by decide +kernel,
    ⟨canonical_of (by decide +kernel), by decide +kernel⟩, by decide +kernel, unit_ok (by decide +kernel),
    got_eq _ (by decide +kernel), ?_⟩
  decide +kernel
theorem witness_AllToAllRound_sends : let k := a2aK .started true
    let s := a2aState k
    let c : Word × List Nat := (0x200, (List.range 8).map (spadLoc 0 0x200 + ·))
    let l : Word × List Nat := (0x208, (List.range 4).map (spadLoc 0 0x208 + ·))
    (∃ u, s.touchAs k.owner k.run k.step .read k.opn k.closeAt (spansOf [c, l]) k.id = .ok u) ∧
    (s.severed k.owner.core = false ∧ s.exact = []) ∧ s.getK k.id = some k ∧ k.posted = true ∧ k.failed = none ∧ k.waitFault = none ∧ k.dead = false ∧ s.parties = [] ∧
    s.a2aParties k.ringLoc k.round = [k] ∧ k.rank = 0 ∧ k.rank ∉ k.sent ∧ k.parties = 1 ∧
    s.sendCounts k.actor k (s.lookK k) k.parties = .ok [4] ∧ 8 * k.parties + [4].sum ≤ k.dd.rows * k.dd.cols ∧
    s.sendGate k.actor k 0 8 = .ok c ∧ l.2.length = 4 ∧ s.sendGate k.actor k 8 4 = .ok l ∧
    (∃ x, s.sendGate k.actor k 0 (8 * k.parties) = .ok x) ∧ s.cleanGate [c, l] = .ok () ∧
    s.blockGate k.actor k.dd 0 8 ⟨true, false⟩ = .ok (0x30200, (List.range 8).map (0x300200 + ·)) ∧
    s.blockGate k.actor k.dd 8 4 ⟨true, false⟩ = .ok (0x30208, (List.range 4).map (0x300208 + ·)) := by
  refine ⟨ok_of ?_, ?_, rfl, ?_, ?_, ?_, ?_, ?_, ?_, ?_, ?_, ?_, ?_, ?_, ?_, ?_, ?_, ⟨_, got_eq (0, []) ?_⟩, ?_⟩ <;> decide +kernel
theorem witness_AllToAllRound_advances : let k := a2aK .visible true
    let s := a2aState k
    s.Canonical ∧ s.gate1 1 0x30080 0x40 ⟨true, false⟩ = .ok ((List.range 64).map (0x300080 + ·)) ∧ (∀ n ∈ s.nodes, n.dying = none) ∧ s.parties = [] ∧
    s.a2aParties 0x300080 (s.num (0x300080 + 12) 4) = [k] ∧ k.stage = .visible ∧ k.parties = 1 := by
  refine ⟨canonical_of (by decide +kernel), by decide +kernel, by decide +kernel, rfl, by decide +kernel, rfl, rfl⟩

/-! Witnesses of the statements about the schedulers, the host, the links and the votes. -/

/-- The node of that OPB. -/
def hnode : Node := ⟨1, 0x30200, 0x300200, 0, 0, [], [], false, false, none, .no, [], 0, none⟩
/-- The OPB in a state, its node held. -/
def held (st : Nat) (f : Node → Node) : State := { hosted.setNum 0x300290 st 8 with nodes := [f hnode] }
/-- Mailbox 0 holds a command, alone in the queue, whose go is past. -/
def mailed (s : State) (cmd : Byte) (a0 a1 a2 : Word) : State := { s with
  time := s.time + 1
  mail := s.mail.set 0 ⟨cmd, true, a0, a1, a2, 0xFF⟩
  mbQueue := [(0, 0)] }
/-- The state its command starts in. -/
def taken (s : State) : State := { s with
  mbQueue := []
  journal := s.journal ++ [⟨0, s.mail[(0 : Fin 16)]⟩] }

theorem witness_MailboxCommandsComplete : let s := mailed hosted 1 0x30080 1 1
    s.mbQueue = [(0, 0)] ∧ 0 < s.time ∧ (∀ q ∈ ([] : List (Nat × Fin 16)), q.2 ≠ 0) ∧ s.mail[(0 : Fin 16)].go = true := by
  decide +kernel
theorem witness_MailboxCommandsComplete_submit : let s := mailed hosted 1 0x30080 1 1
    let u := taken s
    s.mail[(0 : Fin 16)].cmd = 1 ∧ s.mail[(0 : Fin 16)].arg2.toNat < 4096 ∧ u.asidWord 1 8 % 2 ^ 17 = 1000 ∧
    u.wordsAt 1 0x30080 1 = some [0x30200] ∧ u.node 1 0x30200 = none ∧ u.checkOpb 1 0x30200 = some hnode ∧
    u.nodeState hnode = 0 ∧ u.opbField hnode 0x38 0 32 = 0 := by
  decide +kernel
theorem witness_MailboxCommandsComplete_submit_refused : let s := mailed (hosted.setNum 0x300210 0x800 8) 1 0x30080 1 1
    let u := taken s
    u.wordsAt 1 0x30080 1 = some [0x30200] ∧ u.asidWord 1 8 % 2 ^ 17 = 1000 ∧ u.node 1 0x30200 = none ∧ u.checkOpb 1 0x30200 = none ∧
    u.wordsAt 1 0x30084 1 = none ∧ (taken (mailed State.reset 1 0 0 0)).asidWord 0 8 % 2 ^ 17 = 0 ∧
    4096 ≤ (mailed hosted 1 0 0 4096).mail[(0 : Fin 16)].arg2.toNat := by
  decide +kernel
theorem witness_MailboxCommandsComplete_load : let m := (mailed hosted 2 0x300000 1 0).mail[(0 : Fin 16)]
    m.cmd = 2 ∧ m.arg1.toNat < 4096 ∧ m.arg0.toNat < 2 ^ 34 := by
  decide +kernel
theorem witness_MailboxCommandsComplete_preempt : let s := mailed (held 2 id) 3 0x30200 1 0
    let u := taken s
    let m := s.mail[(0 : Fin 16)]
    m.cmd = 3 ∧ m.arg1.toNat < 4096 ∧ (u.findOpb 1 0x30200).isSome = true ∧ u.node 1 0x30200 = some hnode ∧
    hnode.dying = none ∧ u.nodeState hnode = 2 ∧ hnode.pre = .no ∧ (taken hosted).node 1 0x30200 = none ∧ (hosted.findOpb 1 0x30200).isSome = true ∧
    hosted.node 1 0x30200 = none := by
  decide +kernel
theorem witness_MailboxCommandsComplete_preempt_all : let s := mailed (held 1 id) 4 1 0 0
    s.mail[(0 : Fin 16)].cmd = 4 ∧ hnode ∈ s.nodes ∧ hnode.asid = 1 ∧ hnode.dying = none ∧ (taken s).nodeState hnode = 1 ∧
    hnode.pre = .no ∧ ∀ n ∈ s.nodes, n.asid ≠ 2 ∧ (0 : Fin 16) ∉ n.preMb := by
  decide +kernel
/-- Lane record 0 of that OPB, valid and with its check (R283). -/
def laneRec : State := let s := held 1 fun n => { n with pre := .saved }
  let s := (s.setNum 0x300300 (2 ^ 63) 8).setNum 0x300308 2 8
  s.setNum 0x300338 (crc32 ((List.range 0x38).map fun i => s.byte (0x300300 + i))) 4
theorem witness_MailboxCommandsComplete_resume : let saved : Node := { hnode with pre := .saved }
    let s := mailed laneRec 5 0x30200 1 0
    let u := taken s
    s.mail[(0 : Fin 16)].cmd = 5 ∧ (u.findOpb 1 0x30200).isSome = true ∧ u.node 1 0x30200 = some saved ∧ u.gangWidth saved = 1 ∧
    u.opbBit saved 23 = false ∧ u.readLane saved 0 = .good 2 #v[0, 0, 0, 0] ∧
    (taken (held 1 fun n => { n with pre := .saved })).readLane saved 0 = .absent ∧ hnode.pre = .no := by
  decide +kernel
/-- A lane record that is valid and whose check does not fit, and a node whose lanes stayed in their queue. -/
theorem witness_MailboxCommandsComplete_resume_others : let saved : Node := { hnode with pre := .saved }
    let kept : Node := { hnode with pre := .kept }
    (match (taken (mailed (laneRec.setNum 0x300308 3 8) 5 0x30200 1 0)).readLane saved 0 with
      | .bad _ => true
      | _ => false) = true ∧
    let s := mailed (held 2 fun _ => kept) 5 0x30200 1 0
    (taken s).node 1 0x30200 = some kept ∧ kept.pre = .kept ∧ ((taken s).writeLanes kept).isSome = true := by
  decide +kernel
theorem witness_MailboxCommandsComplete_debug : let ok := (mailed hosted 6 1 1 0).mail[(0 : Fin 16)]
    let bad := (mailed hosted 6 1 2 0).mail[(0 : Fin 16)]
    ok.cmd = 6 ∧ ok.arg0.toNat < 4096 ∧ ok.arg1.toNat ≤ 1 ∧ 1 < bad.arg1.toNat := by
  decide +kernel
/-- A lane that waits at a breakpoint. -/
def broken (d : Option Dump) : State := running.modMe fun c => { c with
  wait := .bkpt
  dump := d }
/-- Its dump, with the check of its record true or not. -/
def dumpOf (good : Bool) : Dump := { running.me.dumped 0 with good := good }
theorem witness_MailboxCommandsComplete_release : (∀ d ∈ [none, some (dumpOf true), some (dumpOf false)], let s := mailed (broken d) 7 0 0 0
      s.mail[(0 : Fin 16)].cmd = 7 ∧ s.mail[(0 : Fin 16)].arg0.toNat = 0 ∧ (s.ctx ⟨0, 0⟩).wait = .bkpt ∧
      (s.ctx ⟨0, 1⟩).wait ≠ .bkpt ∧ s.deciding (.recover 1 0 0x41) = false ∧ s.deciding (.recover 1 0 0x42) = false) ∧
    128 ≤ (mailed running 7 128 0 0).mail[(0 : Fin 16)].arg0.toNat := by
  decide +kernel
theorem witness_MailboxCommandsComplete_abort : let s := mailed (held 1 id) 8 0x30080 1 1
    let u := taken s
    s.mail[(0 : Fin 16)].cmd = 8 ∧ s.mail[(0 : Fin 16)].arg1 = 1 ∧ u.wordsAt 1 0x30080 1 = some [0x30200] ∧
    (u.findOpb 1 0x30200).isSome = true ∧ u.node 1 0x30200 = some hnode ∧ hnode.dying = none ∧
    4096 < (mailed hosted 8 0 4097 1).mail[(0 : Fin 16)].arg1.toNat := by
  decide +kernel
theorem witness_MailboxCommandsComplete_poison : let s := mailed hosted 9 0x30040 1 0
    s.mail[(0 : Fin 16)].cmd = 9 ∧ s.mail[(0 : Fin 16)].arg0.toNat % 16 = 0 ∧ (taken s).vaLocs 1 0x30040 16 = some (at40 16) ∧
    s.byte (0x300040 + 8) = 0 ∧ (s.setNum 0x300048 1 8).byte (0x300040 + 8) ≠ 0 := by
  decide +kernel
theorem witness_MailboxCommandsComplete_reserved : (mailed hosted 0 0 0 0).mail[(0 : Fin 16)].cmd = 0 ∧
    9 < (mailed hosted 10 0 0 0).mail[(0 : Fin 16)].cmd.toNat := by
  decide +kernel

/-- The scheduler on, a ready node of the OPB. -/
def offered : State := let s := held 1 id
  { s with cfg := { s.cfg with enable := true } }
/-- Its first step goes to core 0. -/
def claim0 : Claim := ⟨hnode, .walk, [⟨clusterCore 0 0, 0⟩]⟩
theorem witness_DispatchFollowsOrderAndTrace_decide : (∀ n ∈ offered.nodes, offered.opbBit n 20 = false) ∧
    offered.claim 0 = some claim0 ∧ offered.bestClaim offered.dieClaims = some claim0 ∧
    (∃ l ∈ claim0.block, coreDie l.core = 0) ∧ (∀ l ∈ claim0.block, coreDie l.core ≠ 1) ∧ (held 1 id).claim 0 = none := by
  decide +kernel
/-- The same node with one step in all: once that is dispatched it has no claim left. -/
def lastStep : State := offered.setNum 0x300218 0 8
theorem witness_DispatchFollowsOrderAndTrace_granted : (∀ n ∈ lastStep.nodes, lastStep.opbBit n 20 = false) ∧
    lastStep.claim 0 = some claim0 ∧ lastStep.bestClaim lastStep.dieClaims = some claim0 ∧
    (lastStep.dispatch claim0).claim 0 = none := by
  decide +kernel
theorem witness_DispatchFollowsOrderAndTrace_first_step : offered.Canonical ∧ offered.node 1 0x30200 = some hnode ∧ claim0.node = hnode ∧
    hnode.die = 0 ∧ offered.nodeState hnode = 1 ∧ claim0.offer = .walk ∧ offered.opbField hnode 0x30 0 17 = 0 ∧
    offered.opbBit hnode 19 = false ∧ offered.opbBit hnode 20 = false ∧ offered.opbBit hnode 23 = false ∧ claim0.block.Nodup ∧
    claim0.block.length ≤ 4 ∧ offered.opbField hnode 0xA8 0 32 < 2 ^ 32 - 1 :=
  ⟨canonical_of (by decide +kernel), by decide +kernel⟩
/-- A second node, of die 1, where every core is fenced: both claims are for die 0. -/
def contested : State := { offered with
  nodes := [hnode, { hnode with
    opb := 0x30600
    die := 1 }]
  fenced := BitVec.ofNat 128 (((List.range 128).filter fun i => (coreDie (Fin.ofNat 128 i)).val = 1).foldl (fun m i => m + 2 ^ i) 0) }
theorem witness_DispatchFollowsOrderAndTrace_two_claims : ∃ c d,
    contested.dieClaims.filter (fun c => c.block.any fun l => coreDie l.core = 0) = [c, d] := by
  refine ⟨claim0, ⟨{ hnode with
    opb := 0x30600
    die := 1 }, .walk, [⟨clusterCore 0 0, 0⟩]⟩, ?_⟩
  decide +kernel
/-- The node replays a trace: the control block at 0x40000 names a buffer at 0x41000 of one record (R277, R278), for step 0 of
the OPB on core 0, of the first node of the trace. -/
def traced : State := ((((({ held 2 (fun n => { n with ord := some 0 }) with cfg := { hosted.cfg with enable := true } } : State).setNum
  0x300208 (1 + 2 ^ 20) 8).setNum 0x100050 0x40000 8).setNum 0x40000 0x41000 8).setNum 0x40008 1 4).setNum 0x40010 1 4
  |>.setNum 0x41010 0x30200 8
/-- Its record, and its node. -/
def trec : TraceRec := ⟨0, 0, 0x30200, 0, 0, 0, 0⟩
def tnode : Node := { hnode with ord := some 0 }
theorem witness_DispatchFollowsOrderAndTrace_replay : traced.nextOf 0 = [(1, [(0, trec)])] ∧ traced.placeable 0 = true ∧
    traced.node 1 0x30200 = some tnode ∧ tnode.ord = some trec.nord ∧ traced.offer tnode = some .walk ∧
    traced.claimStep ⟨tnode, .walk, [⟨0, 0⟩]⟩ = trec.step.toNat ∧ traced.gangWidth tnode = 1 ∧ (traced.ctx ⟨0, 0⟩).stat = .empty := by
  decide +kernel
/-- Core 0 has waited for that record since device time 0, and it is 1001. -/
def overdue : State := { traced.modCore 0 (fun k => { k with traceWait := [(1, 0)] }) with time := 1001 }
theorem witness_DispatchFollowsOrderAndTrace_wait : overdue.nextOf 0 = [(1, [(0, trec)])] ∧
    (overdue.core 0).traceWait.find? (fun w => w.1 = 1) = some (1, 0) ∧ overdue.asidWord 1 8 % 2 ^ 17 < overdue.time - 0 ∧
    overdue.node 1 trec.opb = some tnode := by
  decide +kernel
-- no scheduler holds the node: it still waits in memory, or it is past that
theorem witness_DispatchFollowsOrderAndTrace_wait_unheld : let s : State := { overdue.setNum 0x300608 (2 ^ 20) 8 with
      nodes := [{ hnode with
        opb := 0x30600
        phys := 0x300600 }] }
    let g : List (Nat × TraceRec) := [(0, trec)]
    s.nextOf 0 = [(1, g)] ∧ s.node 1 trec.opb = none ∧
    (let t := (s.setNum 0x300290 0 8).traceGoes 1 g
     (t.findOpb 1 trec.opb).map t.nodeState = some 0) ∧
    (let t := s.traceGoes 1 g
     (t.findOpb 1 trec.opb).map t.nodeState = some 2 ∧ t.deciding (.passTrace (t.trcb 1) 1) = false) := by
  decide +kernel
theorem witness_DispatchFollowsOrderAndTrace_full : let s := traced.setNum 0x4001C 1 4
    s.Canonical ∧ s.trcb 1 ≠ 0 ∧ s.field (s.trcb 1 + 0x18) 32 1 = 1 :=
  ⟨canonical_of (by decide +kernel), by decide +kernel⟩

theorem witness_StepsStartAndNodesEnd_snapshot : let s := ganged fun c => { c with
      stat := .snapshot
      save := some (0, 0) }
    ∃ r, s.getRun (s.ctx ⟨0, 0⟩).run = some r ∧ (⟨0, 0⟩ : CtxId) ∈ r.gang ∧ (∀ l ∈ r.gang, (s.ctx l).stat = .snapshot) ∧
      (s.ctx ⟨0, 0⟩).save = some (0, 0) ∧ s.saveOver 0 = false ∧ r.snapBad = false :=
  ⟨_, rfl, by decide +kernel⟩
theorem witness_StepsStartAndNodesEnd_dump : let s := (broken none).modMe fun c => { c with save := some (2, 0) }
    (s.ctx ⟨0, 0⟩).wait = .bkpt ∧ (s.ctx ⟨0, 0⟩).stat ≠ .snapshot ∧ (s.ctx ⟨0, 0⟩).save = some (2, 0) ∧ s.saveOver 0 = false ∧
    s.poisonIn (dumpLoc (ctxIdx ⟨0, 0⟩).val) 128 = none ∧ s.saveFails ⟨0, 0⟩ 2 0 = false ∧
    ({ s with poison := [dumpLoc 0] } : State).saveFails ⟨0, 0⟩ 2 0 = true := by
  decide +kernel
/-- Core 0 is to start step 0 of the OPB, whose kernel image (R131), at 0x30400, has one halfword of index stream. -/
def starting (kernel : Nat) : State := { (((((held 2 id).setNum 0x300200 kernel 8).setNum 0x300400 0x14B525841 8).setNum 0x300408
    0x100000000 8).setNum 0x300410 0x10000000000 8).setNum 0x300500 0xFFFF 2 |>.modCtx ⟨0, 0⟩ (fun c => { c with
      stat := .loaded
      run := 1
      asid := 1
      opb := 0x30200 }) with
  runs := [⟨1, 1, 0x30200, 0, [⟨0, 0⟩], [Vector.replicate 4 0], false, 0, false, false⟩] }
theorem witness_StepsStartAndNodesEnd_start : let s := starting 0x30400
    let x := s.ctx ⟨0, 0⟩
    x.stat = .loaded ∧ x.wait = .none ∧ s.spadQuiet ⟨0, 0⟩ = true ∧ (∃ r, s.getRun x.run = some r ∧ r.gang = [⟨0, 0⟩]) ∧
    s.node x.asid x.opb = some hnode ∧ (s.core 0).dictOf[(0 : Fin 2)] = none ∧
    s.loadImage 1 0x30400 0 none = .ok ⟨0, [], [0xFFFF], []⟩ ∧ s.opbField hnode 0x00 0 56 = 0x30400 ∧
    s.opbField hnode 0x08 12 2 = 0 := by
  refine ⟨rfl, rfl, by decide +kernel, ⟨_, rfl, rfl⟩, ?_⟩
  decide +kernel
theorem witness_StepsStartAndNodesEnd_bad_image : ∃ f, (starting 0x30500).loadImage 1 0x30500 0 none = .fail f :=
  ⟨imageFail 9, by decide +kernel⟩
/-- The node is to fill two buffers of 128 bytes, at 0x30400 and 0x30480 (R283). -/
def filling : State := ((((held 1 id).setNum 0x300208 (1 + 2 ^ 22) 8).setNum 0x300270 0x30400 8).setNum 0x300278 128 8).setNum 0x300280
  0x30480 8 |>.setNum 0x300288 128 8
theorem witness_StepsStartAndNodesEnd_random : filling.node 1 0x30200 = some hnode ∧ filling.nodeState hnode = 1 ∧
    filling.opbBit hnode 22 = true ∧ hnode.rndDone = false ∧ hnode.dying = none ∧
    (∃ x, filling.randomCells hnode 0x70 = .ok x) ∧ ∃ y, filling.randomCells hnode 0x80 = .ok y :=
  ⟨by decide +kernel, by decide +kernel, by decide +kernel, rfl, rfl, ⟨_, got_eq [] (by decide +kernel)⟩,
    ⟨_, got_eq [] (by decide +kernel)⟩⟩
theorem witness_StepsStartAndNodesEnd_watchdog : let s : State := { running.modMe (fun c => { c with
      wdSince := some 2
      wdLimit := 5 }) with time := 9 }
    let x := s.ctx ⟨0, 0⟩
    x.stat = .running ∧ x.wdSince = some 2 ∧ x.wdLimit.toNat ≤ x.wdAcc + (s.time - 2) ∧ s.expired ⟨0, 0⟩ = true ∧
    ∃ r, s.getRun x.run = some r ∧ (⟨0, 0⟩ : CtxId) ∈ r.gang ∧ r.gang.find? s.expired = some ⟨0, 0⟩ ∧ x.run = r.id := by
  refine ⟨rfl, rfl, ?_, ?_, _, rfl, ?_⟩ <;> decide +kernel
/-- A pre-empted node. -/
def pnode : Node := { hnode with
  pre := .requested
  preMb := [0] }
theorem witness_StepsStartAndNodesEnd_preempt : let s := held 2 fun _ => pnode
    pnode.pre = .requested ∧ pnode.dying = none ∧ s.runs = [] ∧ s.node 1 0x30200 = some pnode ∧ s.nodeState pnode = 2 ∧
    s.deciding (.keep 1 0x30200) = false ∧ s.saveOver pnode.preSince = false ∧
    ({ s with time := 2000000 } : State).saveOver pnode.preSince = true ∧
    (s.writeLanes pnode).isSome = true ∧ ((s.setNum 0x300248 0x50000 8).writeLanes pnode) = none := by
  refine ⟨rfl, rfl, rfl, ?_⟩
  decide +kernel
theorem witness_StepsStartAndNodesEnd_abandon : ∀ kind ∈ [0, 1], let s : State := { running.modMe (fun c => { c with save := some (kind, 3) })
      with time := 2000000 }
    let x := s.ctx ⟨0, 0⟩
    (∃ r, s.getRun x.run = some r ∧ (⟨0, 0⟩ : CtxId) ∈ r.gang) ∧ x.save = some (kind, 3) ∧ 1048576 < s.time - 3 ∧
      s.saveFails ⟨0, 0⟩ kind 3 = true := by
  intro k h
  simp only [List.mem_cons, List.not_mem_nil, or_false] at h
  rcases h with rfl | rfl <;> exact ⟨⟨_, rfl, by decide⟩, rfl, by decide +kernel⟩
theorem witness_StepsStartAndNodesEnd_slot : State.reset.clock % 95000 = 0 ∧ ({ State.reset with time := 5 } : State).clock % 95000 ≠ 0 := by
  decide
theorem witness_StepsStartAndNodesEnd_retire : let s := held 3 id
    let t := s.setNum 0x300240 (0x30080 + 2 ^ 56) 8
    (s.Canonical ∧ t.Canonical) ∧ s.node 1 0x30200 = some hnode ∧ s.nodeState hnode = 3 ∧ s.nodeBusy 1 0x30200 = false ∧ hnode.dying = none ∧ s.opbField hnode 0xB0 56 2 = 0 ∧
    s.opbField hnode 0xB8 0 64 = 0 ∧ s.opbField hnode 0x40 56 8 = 0 ∧
    t.nodeState hnode = 3 ∧ t.opbField hnode 0x40 56 8 = 1 ∧ t.vaNum 1 (t.opbField hnode 0x40 0 56) 8 = some 0x30200 :=
  ⟨⟨canonical_of (by decide +kernel), canonical_of (by decide +kernel)⟩, by decide +kernel⟩
theorem witness_StepsStartAndNodesEnd_signal : let s := held 0 id
    s.node 1 0x30200 = some hnode ∧ s.nodeState hnode = 0 ∧ s.opbField hnode 0x38 0 32 = 0 ∧
    (s.setNum 0x300238 1 4).opbField hnode 0x38 0 32 = 1 ∧ (s.setNum 0x300238 2 4).opbField hnode 0x38 0 32 = 2 := by
  decide +kernel

/-- A lane of a restartable step whose snapshot is being written; one whose save takes too long; one over its watchdog limit. -/
def saving (t : Nat) : State := { running.modMe (fun c => { c with
    stat := .snapshot
    save := some (0, 0)
    wdSince := some 2
    wdLimit := 5 }) with time := t }
theorem witness_SchedulerEventsComplete_lane : (∃ r, (saving 9).getRun ((saving 9).ctx ⟨0, 0⟩).run = some r ∧
      (⟨0, 0⟩ : CtxId) ∈ r.gang ∧ r.snapBad = false) ∧
    ((saving 9).ctx ⟨0, 0⟩).stat = .snapshot ∧ ((saving 9).ctx ⟨0, 0⟩).save = some (0, 0) ∧ (saving 9).saveOver 0 = false ∧
    (saving 2000000).saveFails ⟨0, 0⟩ 0 0 = true ∧
    ((saving 9).modMe fun c => { c with stat := .running }).expired ⟨0, 0⟩ = true := by
  refine ⟨⟨_, rfl, ?_⟩, ?_⟩ <;> decide +kernel
theorem witness_SchedulerEventsComplete_start : let s := starting 0x30400
    let x := s.ctx ⟨0, 0⟩
    (∃ r, s.getRun x.run = some r) ∧ x.stat = .loaded ∧ x.wait = .none ∧ s.spadQuiet ⟨0, 0⟩ = true ∧
    s.node x.asid x.opb = some hnode ∧ s.opbField hnode 0x00 0 56 = 0x30400 ∧ (s.core 0).dictOf[(0 : Fin 2)] = none ∧
    s.loadImage 1 0x30400 (s.opbField hnode 0x08 12 2) none = .ok ⟨0, [], [0xFFFF], []⟩ := by
  refine ⟨⟨_, rfl⟩, ?_⟩
  decide +kernel
theorem witness_SchedulerEventsComplete_node : (filling.Canonical ∧ (held 3 id).Canonical) ∧ (∃ x y, filling.randomCells hnode 0x70 = .ok x ∧ filling.randomCells hnode 0x80 = .ok y ∧
      ((x ++ y).map Prod.fst).Nodup) ∧ filling.node 1 0x30200 = some hnode ∧ filling.opbBit hnode 22 = true ∧
    (let s := held 2 fun _ => pnode
     s.node 1 0x30200 = some pnode ∧ s.nodeState pnode ≤ 2 ∧ s.runs = [] ∧ s.deciding (.keep 1 0x30200) = false ∧
       s.saveOver pnode.preSince = false ∧ (s.writeLanes pnode).isSome = true) ∧
    let t := held 3 id
    t.node 1 0x30200 = some hnode ∧ t.nodeState hnode = 3 ∧ t.nodeBusy 1 0x30200 = false ∧ State.reset.clock % 95000 = 0 := by
  refine ⟨⟨canonical_of ?_, canonical_of ?_⟩, ⟨_, _, got_eq [] ?_, got_eq [] ?_, ?_⟩, ?_⟩ <;> decide +kernel

theorem witness_BootConfigurationAndMonitors_boot : 1 ≤ State.reset.boot ∧ State.reset.boot ≤ 7 ∧ ∃ d : BootData,
    d.slotmaps = [(0, 0x3F44)] ∧ d.ports ≠ 0 ∧ d.rings = [(⟨0, 0⟩, 0x10000)] :=
  ⟨by decide, by decide, ⟨[(0, 0x3F44)], 0, [], false, 0, 1, [], 0, [], [], [], [], [(⟨0, 0⟩, 0x10000)], 0, []⟩, rfl, by decide, rfl⟩
theorem witness_BootConfigurationAndMonitors_config : State.reset.boot ≤ 7 ∧ 4096 ≤ bits (0x2000 : Word) 0 32 ∧
    bits (0x2000 : Word) 0 32 ≤ 65536 ∧ BitVec.ofNat 32 (bits (0x2000 : Word) 0 32) = State.reset.cfg.hbperiod ∧
    BitVec.ofNat 32 (bits (0x1000 : Word) 0 32) ≠ State.reset.cfg.hbperiod ∧ 4096 ≤ bits (0x1000 : Word) 0 32 ∧ 7 < ({ State.reset with boot := 8 } : State).boot := by
  decide +kernel
theorem witness_BootConfigurationAndMonitors_monitor : (∀ src ∈ [(1 : Byte), 2, 3, 4], let s : State := { State.reset with
        mons := State.reset.mons.set 0 { State.reset.mons[0] with src := src } }
      (s.mons[(0 : Fin 32)]).src = src ∧ (s.mons[(0 : Fin 32)]).inst.toNat < 4) ∧ State.reset.mons[(1 : Fin 32)].src = 0 ∧
    ((State.reset.modCore 0 fun k => { k with copyLat := some 7 }).core 0).copyLat = some 7 := by
  decide +kernel
theorem witness_BootConfigurationAndMonitors_standby : let s : State := { State.reset with time := 57000 }
    s.standbyUsed = false ∧ s.ctlBeat[(0 : Fin 8)] + 57000 ≤ s.time ∧ ({ s with standbyUsed := true } : State).standbyUsed = true := by
  decide +kernel
theorem witness_BootConfigurationAndMonitors_cxl : let s : State := { State.reset with cxl := State.reset.cxl.set 0 4096 }
    0x1000000000000 + (0 : Fin 4).val * 0x20000000000 ≤ 0x1000000000000 ∧
    0x1000000000000 + 4096 ≤ 0x1000000000000 + (0 : Fin 4).val * 0x20000000000 + s.cxl[(0 : Fin 4)] ∧ s.cxl[(0 : Fin 4)] ≤ 2 ^ 41 := by
  decide +kernel

/-- Port 0 is trained; its lane 0 holds a flit of command 0, replayed eight times. -/
def linked (s : State) : State := { s with ports := s.ports.set 0 { s.ports[0] with
  trained := true
  lanes := (Vector.replicate 4 VLane.reset).set 0 { VLane.reset with sent := [⟨0, 2, 8, .command 0⟩, ⟨1, 2, 0, .other⟩] } } }
theorem witness_LinkFlitsAndPorts_flits : let p := (linked State.reset).ports[(0 : Fin 16)]
    let l := p.lanes[(0 : Fin 4)]
    p.trained = true ∧ l.expect = 0 ∧ 0 < l.free ∧ FlitCheck.whole .none ≠ .uncorrectable ∧ l.paused = false ∧
    (∀ vl : Fin 4, p.lanes[vl].expect = 0 ∧ 0 < p.lanes[vl].free) ∧
    l.sent.find? (fun x => x.seq = 0) = some ⟨0, 2, 8, .command 0⟩ ∧ l.sent.find? (fun x => x.seq = 1) = some ⟨1, 2, 0, .other⟩ := by
  decide +kernel
theorem witness_LinkFlitsAndPorts_port : let k : KCmd := running.newK (.kcpy 0 3 3 ⟨0, 0⟩) (some .copy)
    let s := linked { running with kcmds := [k] }
    s.ports[(0 : Fin 16)].trained = true ∧ ⟨0, 2, 8, .command 0⟩ ∈ s.ports[(0 : Fin 16)].lanes[(0 : Fin 4)].sent ∧ s.getK 0 = some k ∧
    k.failed = none ∧ k.stage ≠ .visible ∧ k.posted = false := by
  refine ⟨by decide +kernel, by decide +kernel, rfl, rfl, by decide +kernel, rfl⟩
/-- Port 1 is trained as well, and carries the routes of device 3; those of device 2 go over port 0. -/
def twoPorts : State := let s := linked State.reset
  { s with
    ports := s.ports.set 1 { s.ports[1] with trained := true }
    routes := [(2, 0), (3, 1)] }
theorem witness_LinkFlitsAndPorts_others : ((1 : Fin 16) ≠ 0 ∧ twoPorts.ports[(1 : Fin 16)].trained = true) ∧
    ((3, 1) : Nat × Fin 16) ∈ twoPorts.routes ∧ twoPorts.kcmds = [] ∧
    (∀ vl : Fin 4, twoPorts.ports[(0 : Fin 16)].lanes[vl].queue = []) ∧ State.reset.ports[(0 : Fin 16)].trained = false := by
  decide +kernel
/-- A write from another device, and bytes it reads. -/
def arriving : ExtWrite := ⟨0x300040, [1, 2, 3, 4]⟩
def asked : Nat × Nat := (0x300060, 8)
theorem witness_LinkFlitsAndPorts_arrival :
    let meets (s : State) (k : AKind) (l n : Nat) := s.clashes nobody s.nextRun k l n (min 0 s.time) (some s.time)
    let writes (s : State) := meets s .write arriving.addr arriving.bytes.length
    hosted.Canonical ∧ hosted.farCopies = [] ∧ writes hosted = [] ∧ meets hosted .read asked.1 asked.2 = [] ∧
    hosted.poisonWrite (cellsAt arriving.addr arriving.bytes) = none ∧ hosted.exact = [] ∧
    (∀ i, i < asked.2 → hosted.poisoned (asked.1 + i) = false) ∧
    writes { hosted with accs := [⟨⟨1, 0⟩, 7, 0, 0x30040, 0x300040, 4, .read, 0, none⟩] } ≠ [] ∧
    ({ hosted with poison := [0x300000] } : State).poisoned asked.1 = true :=
  ⟨canonical_of (by decide +kernel), by decide +kernel⟩

theorem witness_HeartbeatsCountAndAccuse_send : let s := State.reset
    s.clock % s.cfg.hbperiod.toNat < 256 ∧ (s.core 0).hbPeriod ≠ some (s.clock / s.cfg.hbperiod.toNat) := by
  decide +kernel
/-- The heartbeat with number 7 that core 1 sends in period 0. -/
def beat : NFlit := mkFlit (1 + 1 * 2 ^ 8 + 7 * 2 ^ 16) 0 0
theorem witness_HeartbeatsCountAndAccuse_receive : let s := State.reset
    let l := (s.core 0).links[(0 : Fin 4)]
    neighbour 0 0 = some 1 ∧ flitGood beat = true ∧ flitGood { beat with w3 := beat.w3 + 1 } = false ∧
    (s.core 0).period = s.clock / s.cfg.hbperiod.toNat ∧ beat.w1.toNat / s.cfg.hbperiod.toNat = s.clock / s.cfg.hbperiod.toNat ∧
    bits beat.w0 0 4 = 1 ∧ bits beat.w0 8 8 = (1 : Fin 128).val ∧ flitClear14 beat = true ∧ bits beat.w0 56 2 ≠ 3 ∧
    l.silence = false ∧ l.cur < 4 ∧ l.lastSeq = none := by
  decide +kernel
-- the next number, and one past a discarded heartbeat
theorem witness_HeartbeatsCountAndAccuse_next : ∀ x ∈ [((6 : Half), 0), (5, 1)], let l : NLink := { NLink.reset with
      lastSeq := some x.1
      noise := x.2 }
    ∃ q, l.lastSeq = some q ∧ (BitVec.ofNat 16 (bits beat.w0 16 16) - (q + 1)).toNat ≤ l.noise := by
  intro x h
  exact ⟨x.1, rfl, by revert x; decide +kernel⟩
theorem witness_HeartbeatsCountAndAccuse_period : let s : State := { State.reset with time := 0x2000 }
    (s.core 0).period < s.clock / s.cfg.hbperiod.toNat ∧ (State.reset.core 0).period = State.reset.clock / State.reset.cfg.hbperiod.toNat ∧
    (let late (t : Nat) : State := { State.reset.modCore 0 (fun k => { k with period := 1 }) with time := t }
     ((late (2 ^ 64)).clock / 0x2000 < ((late (2 ^ 64)).core 0).period ∧
      ((late (2 ^ 64)).core 0).period < (late (2 ^ 64)).clock / 0x2000 + (late (2 ^ 64)).hbPeriods) ∧
     (late 0).time < 2 ^ 64 ∧ (late 0).clock / 0x2000 < ((late 0).core 0).period) ∧
    ({ NLink.reset with prev := 1 } : NLink).prev = 1 ∧ NLink.reset.prevBad = false ∧ NLink.reset.prev ≠ 1 ∧ NLink.reset.cur = 0 ∧
    ({ NLink.reset with cur := 1 } : NLink).cur ≠ 0 := by
  decide +kernel

/-- Core 2 accuses core 1 of silence. -/
def accusing : NFlit := mkFlit (2 + 2 * 2 ^ 8 + 1 * 2 ^ 16 + 1 * 2 ^ 24) 0 0
/-- Core 0 holds a vote of core 17 already. -/
def half : State := State.reset.modCore 0 fun k => { k with votes := [⟨17, 1, 1⟩] }
theorem witness_VotesFenceAndReinstate_vote : let f := accusing
    let vote : Vote := ⟨2, 1, 1⟩
    let t (s : State) := s.modCore 0 fun k => { k with votes := vote :: (s.core 0).votes.filter (· ≠ vote) }
    flitGood f = true ∧ bits f.w0 0 4 = 2 ∧ flitClear235 f = true ∧ bits f.w0 24 2 = 1 ∧ bits f.w0 8 8 = 2 ∧ bits f.w0 16 8 = 1 ∧
    (0 : Fin 128) ∈ neighbours 1 ∧ (2 : Fin 128) ∈ neighbours 1 ∧ (2 : Fin 128) ≠ 0 ∧ f.w0.getLsbD 26 = false ∧
    (f.hop.any fun d => (State.reset.core 0).links[d].closed) = false ∧
    (∀ s ∈ [State.reset, half], (s.core 0).fencedView = 0 ∧ (s.core 0).self = .normal ∧ (s.core 1).self = .normal ∧
      (s.core 1).cut = [] ∧ s.liveTo 0 1 = true) ∧
    (∀ a ∈ neighbours 0, State.reset.heldVotes 0 a (!(State.reset.liveTo 0 a)) = []) ∧
    (t State.reset).heldVotes 0 1 false = [] ∧ (t half).heldVotes 0 1 false = [vote, ⟨17, 1, 1⟩] := by
  decide +kernel
/-- A fence notice about core 1 sealed by core 2, in epoch 1, and the reinstatement notice of that epoch. -/
def fencing : NFlit := mkFlit (3 + 2 * 2 ^ 8 + 1 * 2 ^ 16 + 1 * 2 ^ 32) 0 0
def freeing : NFlit := mkFlit (5 + 2 * 2 ^ 8 + 1 * 2 ^ 16 + 1 * 2 ^ 32) 0 0
/-- Core 1 is fenced, and core 0 has the notice. -/
def sealed1 : State := let s := State.reset.modCore 0 fun k => { k with
    seen := [(3, 1, 1)]
    fencedView := 2 }
  { s with
    fenced := 2
    epochs := s.epochs.set 1 1 }
theorem witness_VotesFenceAndReinstate_notices : (∀ f ∈ [fencing, freeing], flitGood f = true ∧ flitClear235 f = true ∧
      bits f.w0 16 8 = 1 ∧ bits f.w0 32 16 = 1) ∧ bits fencing.w0 0 4 = 3 ∧ bits freeing.w0 0 4 = 5 ∧
    ((3 : BitVec 4), (1 : Fin 128), (1 : Half)) ∈ (sealed1.core 0).seen ∧
    ((3 : BitVec 4), (1 : Fin 128), (1 : Half)) ∉ (State.reset.core 0).seen ∧ coreDie 0 = coreDie 1 ∧ coreDie 64 ≠ coreDie 1 ∧
    State.reset.epochs[(1 : Fin 128)] + 1 = 1 ∧ ((5 : BitVec 4), (1 : Fin 128), (1 : Half)) ∉ (sealed1.core 0).seen ∧
    sealed1.fenced.getLsbD 1 = true ∧ sealed1.epochs[(1 : Fin 128)] = 1 ∧ State.reset.fenced.getLsbD 1 = false ∧
    (State.reset.core 1).self = .normal ∧ ((sealed1.modCore 1 fun k => { k with self := .fenced }).core 1).self ≠ .normal ∧
    ((State.reset.modCore 1 fun k => { k with cut := [⟨2, 1, 0⟩] }).core 1).cut.find? (fun q => q.by'.val = 2) = some ⟨2, 1, 0⟩ := by
  decide +kernel
-- a flit that came over a closed link
theorem witness_VotesFenceAndReinstate_closed : let f : NFlit := { fencing with hop := some 0 }
    let s := State.reset.modLink 0 0 fun l => { l with closed := true }
    (f.hop.any fun d => (s.core 0).links[d].closed) = true ∧ (fencing.hop.any fun d => (s.core 0).links[d].closed) = false := by
  decide +kernel
theorem witness_VotesFenceAndReinstate_test : let s := State.reset.modCore 1 fun k => { k with self := .testing }
    (s.core 1).self = .testing ∧ s.cfg.appeals[(1 : Fin 128)].toNat < s.cfg.appealmax.toNat ∧
    (let t : State := { s with cfg := { s.cfg with appeals := s.cfg.appeals.set 1 2 } }
     t.cfg.appealmax.toNat ≤ t.cfg.appeals[(1 : Fin 128)].toNat) ∧ (State.reset.core 1).self ≠ .testing := by
  decide +kernel
/-- The appeal of core 1 with a signature. -/
def appeal (sig : Nat) : NFlit := mkFlit (4 + 1 * 2 ^ 8) 0 sig
theorem witness_VotesFenceAndReinstate_appeal : dirTo 0 1 = some 0 ∧ (∀ n ∈ [0, 1], let f := appeal n
      flitGood f = true ∧ bits f.w0 0 4 = 4 ∧ flitClear14 f = true ∧ bits f.w0 56 2 ≠ 3 ∧ bits f.w0 8 8 = 1 ∧
      f.w1.toNat / sealed1.cfg.hbperiod.toNat = sealed1.clock / sealed1.cfg.hbperiod.toNat) ∧
    (sealed1.core 0).period = sealed1.clock / sealed1.cfg.hbperiod.toNat ∧ (sealed1.core 0).fencedView.getLsbD 1 = true ∧
    sealed1.cfg.appeals[(1 : Fin 128)].toNat ≤ sealed1.cfg.appealmax.toNat ∧ sealed1.cfg.lock.getLsbD 1 = false ∧
    (appeal 0).w2.truncate 32 = sealed1.signature ∧ (appeal 1).w2.truncate 32 ≠ sealed1.signature := by
  decide +kernel

theorem witness_DecodeOfEncodeIsTheInstruction : Instr.wf (.kcpy 0 1 2 ⟨3, 2⟩) = true ∧ ∃ sl w, encode (.kcpy 0 1 2 ⟨3, 2⟩) = some (sl, w) :=
  ⟨by decide +kernel, _, _, rfl⟩
theorem witness_StepRunsTheDecodedInstruction_event : ∃ i rest, ({ State.reset with agenda := [.act .slotBoundary] } : State).agenda =
    .act i :: rest ∧ encode i = none ∧ (∀ c, i ≠ .syncBundle c) ∧ ∀ c, i ≠ .endOfStepBundle c :=
  ⟨.slotBoundary, [], rfl, rfl, by intros; simp, by intros; simp⟩
/-- A lane at a bundle of one operation, a stored one of plain halfwords or one of the dictionary. -/
def atBundle (i : Slot × Nat) (plain : Bool) : State := let b := oneSlotBundle i.1 i.2
  let s := (small.modMe fun c => { c with
    stream := if plain then 0xFFFF :: bundleHalves b else [0]
    ndict := 1
    trapring := 0x10000 }).modCore 0 fun k => { k with dict := k.dict.set 0 [b] }
  { s with
    agenda := [.issue ⟨0, 0⟩]
    runs := running.runs }
theorem witness_StepRunsTheDecodedInstruction_fetch : ((atBundle (.s0, 1) true).ctx ⟨0, 0⟩).stream.drop 0 =
      0xFFFF :: ((atBundle (.s0, 1) true).ctx ⟨0, 0⟩).stream.drop 1 ∧
    24 ≤ (((atBundle (.s0, 1) true).ctx ⟨0, 0⟩).stream.drop 1).length ∧ ((atBundle (.s0, 1) false).ctx ⟨0, 0⟩).stream.drop 0 = [0] ∧
    (0 : Half).toNat < ((atBundle (.s0, 1) false).ctx ⟨0, 0⟩).ndict := by
  decide +kernel
theorem foresee_of {s : State} {c : CtxId} (h : s.bundleHas c Instr.readsFuture = false) : s.foresee c = s := by
  simp [State.foresee, h]
/-- What a bundle with the operation `i` of a word meets there. -/
def Meets (sl : Slot) (w : Nat) (i : Instr) : Prop :=
  let s : State := { atBundle (sl, w) true with agenda := [] }
  let u : State := s.focus ⟨0, 0⟩
  let t := s.ready ⟨0, 0⟩
  let x := t.ctx ⟨0, 0⟩
  let b := oneSlotBundle sl w
  (s.futureOrder ⟨0, 0⟩ = [⟨0, 0⟩] ∧ s.foresee ⟨0, 0⟩ = s ∧ (s.ctx ⟨0, 0⟩).synced = false) ∧ u.canIssue ⟨0, 0⟩ = true ∧ t.fetchBundle ⟨0, 0⟩ = .ok b ∧ (decodeBundle b).slots = [(sl, .ok i)] ∧
  (decodeBundle b).kind = 0 ∧ (decodeBundle b).resv = 0 ∧ (decodeBundle b).bpred = 0 ∧ (decodeBundle b).inv = false ∧
  x.pget (Instr.pred i) = true ∧ x.interlocked [(sl, i)] = false
/-- What becomes of it. -/
def endOf (sl : Slot) (w : Nat) (i : Instr) : Verdict :=
  (after i (({ atBundle (sl, w) true with agenda := [] } : State).ready ⟨0, 0⟩)).verdict
-- ADD s20, s1, s2; LD s20, [s1], misaligned; LDG s20, [s3], of an ASID without a table
theorem witness_StepRunsTheDecodedInstruction_ok :
    Meets .s0 (word [(1, 0), (20, 6), (1, 14), (2, 22)]) (.add .s0 0 d20 (.reg 1) (.reg 2)) ∧ endOf .s0 (word [(1, 0), (20, 6), (1, 14), (2, 22)]) (.add .s0 0 d20 (.reg 1) (.reg 2)) = .ok :=
  ⟨⟨⟨by decide +kernel, foresee_of (by decide +kernel), by decide +kernel⟩, by decide +kernel, rfl, rfl, rfl, rfl, rfl, rfl, by decide +kernel, by decide +kernel⟩, by decide +kernel⟩
theorem witness_StepRunsTheDecodedInstruction_fails :
    Meets .m (word [(1, 0), (20, 6), (1, 13)]) (.ld 0 d20 1 (.imm 0) 0) ∧ endOf .m (word [(1, 0), (20, 6), (1, 13)]) (.ld 0 d20 1 (.imm 0) 0) = .failed .m ⟨0x27, 7, 0, 0⟩ :=
  ⟨⟨⟨by decide +kernel, foresee_of (by decide +kernel), by decide +kernel⟩, by decide +kernel, rfl, rfl, rfl, rfl, rfl, rfl, by decide +kernel, by decide +kernel⟩, by decide +kernel⟩
theorem witness_StepRunsTheDecodedInstruction_waits :
    Meets .m (word [(3, 0), (20, 6), (3, 13)]) (.ldg 0 d20 3 (.imm 0) 0) ∧ endOf .m (word [(3, 0), (20, 6), (3, 13)]) (.ldg 0 d20 3 (.imm 0) 0) = .held :=
  ⟨⟨⟨by decide +kernel, foresee_of (by decide +kernel), by decide +kernel⟩, by decide +kernel, rfl, rfl, rfl, rfl, rfl, rfl, by decide +kernel, by decide +kernel⟩, by decide +kernel⟩

theorem witness_StepsAreSafe : hosted.Canonical ∧ hosted.mem ≠ [] :=
  ⟨⟨by decide +kernel, by decide +kernel, by decide +kernel, by decide +kernel⟩, by decide +kernel⟩

end Sys2Proof.Tests
end

section
/-!
SUPPORT. Frames of the writes to storage, what a byte reads after them, and the updates of one context put together.
-/
namespace Sys2Proof.Machine

/-! ## Two updates of one context, and one that changes nothing -/

@[simp] theorem State.setCtx_setCtx (s : State) (c : CtxId) (x y : Ctx) : (s.setCtx c x).setCtx c y = s.setCtx c y := by
  simp [State.setCtx]
theorem State.modCtx_modCtx (s : State) (c : CtxId) (f g : Ctx → Ctx) :
    (s.modCtx c f).modCtx c g = s.modCtx c fun x => g (f x) := by
  simp only [State.modCtx, State.ctx_setCtx, State.setCtx_setCtx]
theorem State.modCtx_congr {s : State} {c : CtxId} {f g : Ctx → Ctx} (h : f (s.ctx c) = g (s.ctx c)) :
    s.modCtx c f = s.modCtx c g := by
  rw [State.modCtx, State.modCtx, h]
theorem State.modCtx_of_fixed {s : State} {c : CtxId} {f : Ctx → Ctx} (h : f (s.ctx c) = s.ctx c) : s.modCtx c f = s := by
  rw [State.modCtx, h]
  simp [State.setCtx, State.ctx]
@[simp] theorem Ctx.wdResume_ringQ (x : Ctx) (t : Nat) : (x.wdResume t).ringQ = x.ringQ := by
  unfold Ctx.wdResume
  dsimp only
  split
  · rfl
  · exact (apply_ite Ctx.ringQ _ _ _).trans (ite_self _)

/-! ## What writes to storage leave -/

/-- `t` is `s` but for what storage holds: bytes, poison and elements in exact form. -/
def StorageOnly (s t : State) : Prop := ∃ m p e, t = { s with
  mem := m
  poison := p
  exact := e }

namespace StorageOnly
variable {s t u : State}

theorem refl (s : State) : StorageOnly s s := ⟨s.mem, s.poison, s.exact, rfl⟩
theorem trans (h : StorageOnly s t) (h' : StorageOnly t u) : StorageOnly s u := by
  obtain ⟨_, _, _, rfl⟩ := h
  obtain ⟨m, p, e, rfl⟩ := h'
  exact ⟨m, p, e, rfl⟩
/-- A loop writes to storage alone when its body does. -/
theorem foldl {β : Type} {f : State → β → State} (hf : ∀ s b, StorageOnly s (f s b)) (l : List β) (s : State) :
    StorageOnly s (l.foldl f s) := by
  induction l generalizing s with
  | nil => exact refl s
  | cons b l ih => exact (hf s b).trans (ih _)

theorem ctx (h : StorageOnly s t) (c : CtxId) : t.ctx c = s.ctx c := by
  obtain ⟨_, _, _, rfl⟩ := h; rfl
theorem time (h : StorageOnly s t) : t.time = s.time := by
  obtain ⟨_, _, _, rfl⟩ := h; rfl
theorem parties (h : StorageOnly s t) : t.parties = s.parties := by
  obtain ⟨_, _, _, rfl⟩ := h; rfl
theorem devQ (h : StorageOnly s t) : t.devQ = s.devQ := by
  obtain ⟨_, _, _, rfl⟩ := h; rfl
theorem devRing (h : StorageOnly s t) : t.devRing = s.devRing := by
  obtain ⟨_, _, _, rfl⟩ := h; rfl
theorem ringOf (h : StorageOnly s t) (c : CtxId) : t.ringOf c = s.ringOf c := by
  obtain ⟨_, _, _, rfl⟩ := h; rfl

theorem setCells (s : State) (cs : List Host.Cell) : StorageOnly s (s.setCells cs) :=
  foldl (fun s _ => ⟨_, s.poison, s.exact, rfl⟩) cs s
theorem setNum (s : State) (l v n : Nat) : StorageOnly s (s.setNum l v n) := setCells s _
theorem putCells (s : State) (cs : List Host.Cell) : StorageOnly s (s.putCells cs) :=
  (setCells s cs).trans ⟨_, _, _, rfl⟩
theorem flushLine (s : State) (l : Nat) : StorageOnly s (s.flushLine l) := by
  refine foldl (fun s e => ?_) _ s
  have gone : StorageOnly s { s with exact := Sparse.set none s.exact e.1 none } := ⟨_, _, _, rfl⟩
  dsimp only
  split
  · split
    · split
      · exact gone.trans (setNum _ _ _ _)
      · exact gone
    · exact gone
  · exact gone
theorem plainWrite (s : State) (cs : List Host.Cell) : StorageOnly s (s.plainWrite cs) := by
  refine trans (foldl (fun s c => ?_) cs s) (putCells _ cs)
  split
  · exact refl s
  · exact flushLine s c.1
theorem extWrite (s : State) (ws : List ExtWrite) : StorageOnly s (s.extWrite ws) := foldl (fun s _ => plainWrite s _) ws s
theorem ringPut (s : State) (cb : Nat) (ws : List Word) : StorageOnly s (s.ringPut cb ws) :=
  (plainWrite s _).trans (setNum _ _ _ _)
end StorageOnly

/-! ## What a byte reads after cells are written -/

theorem State.byte_setCells_of_notMem {s : State} (h : Memory.wf s.mem = true) {cs : List Host.Cell} {x : Nat}
    (hx : x ∉ cs.map Prod.fst) : (s.setCells cs).byte x = s.byte x := by
  induction cs generalizing s with
  | nil => rfl
  | cons c cs ih =>
    rw [List.map_cons, List.mem_cons, not_or] at hx
    calc ((s.setByte c.1 c.2).setCells cs).byte x
        = (s.setByte c.1 c.2).byte x := ih (Memory.wf_setByte h c.1 c.2) hx.2
      _ = s.byte x := by rw [State.byte_setByte h, if_neg hx.1]
theorem State.byte_setCells_of_mem {s : State} (h : Memory.wf s.mem = true) {cs : List Host.Cell}
    (hn : (cs.map Prod.fst).Nodup) {c : Host.Cell} (hc : c ∈ cs) : (s.setCells cs).byte c.1 = c.2 := by
  induction cs generalizing s with
  | nil => cases hc
  | cons d cs ih =>
    rw [List.map_cons, List.nodup_cons] at hn
    have hd := Memory.wf_setByte h d.1 d.2
    show ((s.setByte d.1 d.2).setCells cs).byte c.1 = c.2
    rcases List.mem_cons.1 hc with rfl | hc
    · rw [State.byte_setCells_of_notMem hd hn.1, State.byte_setByte h, if_pos rfl]
    · exact ih hd hn.2 hc

theorem map_fst_cellsAt (l : Nat) (bs : List Byte) : (cellsAt l bs).map Prod.fst = (List.range bs.length).map (l + ·) := by
  refine List.ext_getElem ?_ fun i _ _ => ?_
  · simp [cellsAt]
  · simp [cellsAt]
theorem nodup_cellsAt (l : Nat) (bs : List Byte) : ((cellsAt l bs).map Prod.fst).Nodup := by
  rw [map_fst_cellsAt]
  exact List.nodup_range.map fun i j h => Nat.add_left_cancel h
theorem mem_cellsAt {l : Nat} {bs : List Byte} {i : Nat} (h : i < bs.length) : (l + i, bs[i]) ∈ cellsAt l bs :=
  List.mem_iff_getElem.2 ⟨i, by simpa [cellsAt] using h, by simp [cellsAt]⟩
theorem mem_map_fst_cellsAt {l x : Nat} {bs : List Byte} :
    x ∈ (cellsAt l bs).map Prod.fst ↔ l ≤ x ∧ x < l + bs.length := by
  simp only [map_fst_cellsAt, List.mem_map, List.mem_range]
  constructor
  · rintro ⟨i, hi, rfl⟩; omega
  · intro h; exact ⟨x - l, by omega, by omega⟩

theorem State.byte_plainWrite_of_mem {s : State} (h : s.Canonical) {cs : List Host.Cell} (hn : (cs.map Prod.fst).Nodup)
    {c : Host.Cell} (hc : c ∈ cs) : (s.plainWrite cs).byte c.1 = c.2 :=
  State.byte_setCells_of_mem (State.Canonical.flushes cs Prod.fst h).mem hn hc
theorem State.lineExact_of_exact_nil {s : State} (h : s.exact = []) (l : Nat) : s.lineExact l = [] := by
  rw [State.lineExact, h, List.filter_nil]
/-- Without elements in exact form a write flushes nothing. -/
theorem State.byte_plainWrite_of_notMem {s : State} (h : s.Canonical) (he : s.exact = []) {cs : List Host.Cell} {x : Nat}
    (hx : x ∉ cs.map Prod.fst) : (s.plainWrite cs).byte x = s.byte x := by
  have still : cs.foldl (fun s c => if (s.lineExact c.1).isEmpty then s else s.flushLine c.1) s = s :=
    List.foldl_fixed' (fun c => by rw [State.lineExact_of_exact_nil he]; rfl) cs
  rw [State.plainWrite, still]
  exact State.byte_setCells_of_notMem h.mem hx

end Sys2Proof.Machine
end

section
/-!
SUPPORT. What Zenhel, the host and failing storage do: writes from outside, records that waited for a ring, poison.
-/
namespace Sys2Proof.Machine

/-! ## The events and their meanings -/

theorem exec_trapRingConsume (r : RingId) (cons : W32) (s : State) :
    exec (.trapRingConsume r cons) s = execTrapRingConsume r cons s := rfl
theorem exec_dataPoison (loc : Nat) (s : State) : exec (.dataPoison loc) s = execDataPoison loc s := rfl
theorem exec_faultAnswer (who : FaultParty) (r : FaultReply) (s : State) :
    exec (.faultAnswer who r) s = execFaultAnswer who r s := rfl
theorem exec_translationInvalidation (a : BitVec 12) (va : Nat) (ws : List ExtWrite) (s : State) :
    exec (.translationInvalidation a va ws) s = .next (s.extWrite ws) := rfl
theorem exec_softError (c : CtxId) (during : Bool) (t : SoftTarget) (s : State) :
    exec (.softError c during t) s = execSoftError c during t s := rfl
theorem exec_matrixEngineStep (c : CtxId) (s : State) : exec (.matrixEngineStep c) s = execMatrixEngineStep c s := rfl
theorem exec_matrixStepReplay (c : CtxId) (s : State) : exec (.matrixStepReplay c) s = execMatrixStepReplay c s := rfl

/-! ## Zenhel's answers (R396, R397) -/

theorem State.ctx_answered (s : State) (c : CtxId) : (s.answered c).ctx c = ({ s.ctx c with
    wait := .none
    nextIssue := max (s.ctx c).nextIssue (s.time + 1) } : Ctx).wdResume s.time := by
  simp [State.answered, State.wantCore]
theorem State.byte_answered (s : State) (c : CtxId) (a : Nat) : (s.answered c).byte a = s.byte a := rfl
theorem exec_faultAnswer_lane {s : State} {c : CtxId} {sl : Slot} {f : Fail} (h : (s.ctx c).wait = .fault sl f)
    (ws : List ExtWrite) :
    exec (.faultAnswer (.lane c) (.retry ws)) s = .next ((s.extWrite ws).answered c) ∧
    exec (.faultAnswer (.lane c) .refuse) s = .next (s.trap c sl 0 (s.ctx c).pc (s.ctx c).pc f) := by
  simp only [exec_faultAnswer, execFaultAnswer, h, and_self]
theorem exec_faultAnswer_command {s : State} {id : Nat} {k : KCmd} {f : Fail} (hk : s.getK id = some k)
    (hf : k.waitFault = some f) (ws : List ExtWrite) :
    exec (.faultAnswer (.command id) (.retry ws)) s =
      .next (((s.extWrite ws).modK id fun k => { k with waitFault := none }).unstash k) ∧
    exec (.faultAnswer (.command id) .refuse) s =
      .next ((s.modK id fun k => { k with waitFault := none }).failAll k f) := by
  simp only [exec_faultAnswer, execFaultAnswer, hk, hf, and_self]

theorem State.unstash_of_stash_nil {s : State} (h : ∀ p ∈ s.parties, p.stash = []) (k : KCmd) : s.unstash k = s := by
  have empty (p : FarParty) (hp : p ∈ s.farParties k.ringLoc k.round) : p.stash = [] := h p (List.mem_of_mem_filter hp)
  unfold State.unstash
  generalize s.farParties k.ringLoc k.round = l at empty
  induction l with
  | nil => rfl
  | cons p l ih =>
    rw [List.foldl_cons, empty p List.mem_cons_self]
    exact ih fun q hq => empty q (List.mem_cons_of_mem p hq)

/-- The command of a number after a change that keeps the number. -/
theorem State.getK_modK {s : State} {id : Nat} {k : KCmd} {f : KCmd → KCmd} (hk : s.getK id = some k)
    (hf : ∀ q, (f q).id = q.id) : (s.modK id f).getK id = some (f k) := by
  have hid : k.id = id := by simpa using List.find?_some hk
  have same : ((fun q : KCmd => decide (q.id = id)) ∘ fun q : KCmd => if q.id = id then f q else q) =
      fun q => decide (q.id = id) := by
    funext q
    simp only [Function.comp_apply]
    split <;> simp [hf]
  rw [State.getK] at hk
  rw [State.getK, State.modK, List.find?_map, same, hk, Option.map_some, if_pos hid]
theorem State.id_of_getK {s : State} {id : Nat} {k : KCmd} (h : s.getK id = some k) : k.id = id := by
  simpa using List.find?_some h
/-- A failure of a command that is no KA2A is its own alone. -/
theorem State.failAll_of_not_ka2a {k : KCmd} (h : ∀ p dd ds sa sb kd, k.op ≠ .ka2a p dd ds sa sb kd) (s : State) (f : Fail) :
    s.failAll k f = s.failK k.id f := by
  unfold State.failAll
  dsimp only
  split
  case h_1 => exact absurd ‹_› (h _ _ _ _ _ _)
  case h_2 => rfl

/-! ## Writes from outside (R81, R85) -/

/-- Location `x` is one of the `n` bytes from offset `o` of a ring's control block. -/
def InRings (rings : List Nat) (x o n : Nat) : Prop := ∃ cb ∈ rings, cb + o ≤ x ∧ x < cb + o + n
/-- Location `x` lies in the word of a trace control block that holds `full`. -/
def State.InFull (s : State) (x : Nat) : Prop := 0x1C ≤ x % 64 ∧ x % 64 < 0x20 ∧ x ≠ x % 64 ∧ ∃ e, s.trcb e + x % 64 = x

theorem any_inRings {rings : List Nat} {x o n : Nat} :
    (rings.any fun cb => decide (cb + o ≤ x) && decide (x < cb + o + n)) = true ↔ InRings rings x o n := by
  simp only [InRings, List.any_eq_true, Bool.and_eq_true, decide_eq_true_eq]
theorem State.traceBlock_iff {s : State} {l : Nat} : s.traceBlock l = true ↔ l ≠ 0 ∧ ∃ e, s.trcb e = l := by
  simp only [State.traceBlock, Bool.and_eq_true, decide_eq_true_eq, List.any_eq_true, List.mem_range]
  refine and_congr_right fun _ => ⟨fun ⟨a, _, h⟩ => ⟨_, h⟩, fun ⟨e, h⟩ => ⟨e.toNat, e.isLt, ?_⟩⟩
  rw [BitVec.ofNat_toNat, BitVec.setWidth_eq, h]
theorem State.inFull_iff {s : State} {x : Nat} :
    (decide (0x1C ≤ x % 64) && decide (x % 64 < 0x20) && s.traceBlock (x - x % 64)) = true ↔ s.InFull x := by
  have hx : x % 64 ≤ x := Nat.mod_le x 64
  have at' (e : BitVec 12) : s.trcb e = x - x % 64 ↔ s.trcb e + x % 64 = x := by omega
  have off : x - x % 64 ≠ 0 ↔ x ≠ x % 64 := by omega
  simp only [State.InFull, Bool.and_eq_true, decide_eq_true_eq, State.traceBlock_iff, at', off, and_assoc]

/-- Zenhel's byte stays at its place. -/
theorem State.extByte_fst (s : State) (rings : List Nat) (c : Host.Cell) : (s.extByte rings c).1 = c.1 := by
  simp only [State.extByte]
  repeat' split
  all_goals rfl
variable {s : State} {rings : List Nat} {x : Nat} {b : Byte}
theorem State.extByte_lost (h : InRings rings x 0x18 1) : s.extByte rings (x, b) = (x, s.byte x &&& ~~~(b &&& 1)) := by
  simp only [State.extByte, any_inRings.2 h, if_true]
theorem State.extByte_kept (h : ¬InRings rings x 0x18 1) (h' : InRings rings x 0x19 7 ∨ InRings rings x 0x28 8) :
    s.extByte rings (x, b) = (x, s.byte x) := by
  simp only [← any_inRings, Bool.not_eq_true] at h h'
  simp only [State.extByte, h, h', Bool.or_eq_true, if_true, Bool.false_eq_true, if_false]
theorem State.extByte_full (h : ¬InRings rings x 0x18 1) (h1 : ¬InRings rings x 0x19 7) (h2 : ¬InRings rings x 0x28 8)
    (hf : s.InFull x) :
    s.extByte rings (x, b) = (x, if x % 64 = 0x1C then s.byte x &&& ~~~(b &&& 1) else s.byte x) := by
  simp only [← any_inRings, Bool.not_eq_true] at h h1 h2
  simp only [State.extByte, h, h1, h2, Bool.or_eq_true, or_self, Bool.false_eq_true, if_false, State.inFull_iff.2 hf, if_true]
  split <;> rfl
theorem State.extByte_plain (h : ¬InRings rings x 0x18 1) (h1 : ¬InRings rings x 0x19 7) (h2 : ¬InRings rings x 0x28 8)
    (hf : ¬s.InFull x) : s.extByte rings (x, b) = (x, b) := by
  rw [← State.inFull_iff, Bool.not_eq_true] at hf
  simp only [← any_inRings, Bool.not_eq_true] at h h1 h2
  simp only [State.extByte, h, h1, h2, Bool.or_eq_true, or_self, Bool.false_eq_true, if_false, hf]

theorem State.map_fst_extByte (s : State) (cs : List Host.Cell) :
    (cs.map (s.extByte rings)).map Prod.fst = cs.map Prod.fst := by
  rw [List.map_map]
  exact List.map_congr_left fun c _ => s.extByte_fst rings c
/-- A byte written from outside is what `extByte` makes of it. -/
theorem State.byte_extWrite (hs : s.Canonical) (w : ExtWrite) {i : Nat} (h : i < w.bytes.length) :
    (s.extWrite [w]).byte (w.addr + i) = (s.extByte s.ringBlocks (w.addr + i, w.bytes[i])).2 := by
  have hn : (((cellsAt w.addr w.bytes).map (s.extByte s.ringBlocks)).map Prod.fst).Nodup := by
    rw [State.map_fst_extByte]
    exact nodup_cellsAt _ _
  have := State.byte_plainWrite_of_mem hs hn (List.mem_map_of_mem (mem_cellsAt h))
  rwa [State.extByte_fst] at this
theorem State.byte_extWrite_elsewhere (hs : s.Canonical) (he : s.exact = []) (w : ExtWrite)
    (hx : ¬(w.addr ≤ x ∧ x < w.addr + w.bytes.length)) : (s.extWrite [w]).byte x = s.byte x := by
  refine State.byte_plainWrite_of_notMem hs he ?_
  rwa [State.map_fst_extByte, mem_map_fst_cellsAt]

/-! ## Trap rings (R338, R339) -/

theorem State.drainRing_space {c : CtxId} {r : RingRec} (hr : r.after = .nothing) (h : s.ringSpace (s.ringOf c) = true) :
    s.drainRing c [r] = (s.ringPut (s.ringOf c) (r.words ++ [r.seq])).modCtx c fun x => { x with ringQ := [] } := by
  simp only [State.drainRing, h, hr, State.after, if_true]
theorem State.drainRing_full {c : CtxId} {l : List RingRec} (h : s.ringSpace (s.ringOf c) = false) : s.drainRing c l = s := by
  cases l with
  | nil => rfl
  | cons r l => simp [State.drainRing, h]
/-- A ring with space can take a record. -/
theorem State.ringFree_pos {cb : Nat} (h : s.ringSpace cb = true) : 0 < s.ringFree cb := by
  simp only [State.ringSpace, decide_eq_true_eq] at h
  unfold State.ringFree
  omega
theorem State.drainDev_nil (n : Nat) (h : s.devQ = []) : State.drainDev n s = s := by
  cases n with
  | zero => rfl
  | succ n => simp only [State.drainDev, h]
theorem State.drainDev_space {n : Nat} {r : DevRec} (hn : 0 < n) (hq : s.devQ = [r]) (hr : r.after = .nothing)
    (h : s.ringSpace s.devRing = true) :
    State.drainDev n s = { s.ringPut s.devRing (r.words ++ [r.seq]) with devQ := [] } := by
  obtain ⟨n, rfl⟩ := Nat.exists_eq_add_one_of_ne_zero hn.ne'
  simp only [State.drainDev, hq, h, hr, State.decided, if_true]
  exact State.drainDev_nil n rfl

/-! ## Poison (R341, R347, R356) -/

/-- No interlocked load on its way has taken a byte of the unit at `u`. -/
def State.NoLoad (s : State) (u : Nat) : Prop :=
  ∀ c, ∀ l ∈ (s.ctx c).pipe, l.due = none → ∀ p ∈ l.src, ¬(p.loc < u + unitLen u ∧ u < p.loc + p.len)
theorem State.noLoad_of_due (h : ∀ c, ∀ l ∈ (s.ctx c).pipe, l.due.isSome = true) (u : Nat) : s.NoLoad u := by
  intro c l hl hd
  simpa [hd] using h c l hl
theorem State.poisonLoads_of_noLoad {u : Nat} (h : s.NoLoad u) : s.poisonLoads u = s := by
  refine List.foldl_fixed' (fun c => ?_) allCtxs
  have clear : ((s.ctx c).pipe.findSome? fun l => if l.due.isSome then none else
      (l.src.find? fun p => decide (p.loc < u + unitLen u) && decide (u < p.loc + p.len)).map fun p => (l.pc, p)) = none := by
    refine List.findSome?_eq_none_iff.2 fun l hl => ?_
    split
    · rfl
    · rename_i hd
      have far := h c l hl (by simpa using hd)
      rw [Option.map_eq_none_iff, List.find?_eq_none]
      simpa using far
  simp only [clear]
theorem exec_dataPoison_of_stored {loc : Nat} (h : s.stored loc = true) (hl : s.NoLoad (unitBase loc)) :
    exec (.dataPoison loc) s = .next (({ s with poison := insertNat (unitBase loc) s.poison } : State).spoilSaves loc) := by
  have hl' : ({ s with poison := insertNat (unitBase loc) s.poison } : State).NoLoad (unitBase loc) := hl
  rw [exec_dataPoison, execDataPoison, if_pos h, State.poisonLoads_of_noLoad hl']

theorem State.map_spoil_of_lt {runs : List Run} {l : Nat} (h : l < 2 ^ 53) :
    (runs.map fun r : Run => if snapLoc r.id ≤ l && l < snapLoc (r.id + 1) then { r with snapBad := true } else r) = runs := by
  refine List.map_id'' (fun r => if_neg ?_) runs
  rw [Bool.and_eq_true, decide_eq_true_eq, decide_eq_true_eq, snapLoc]
  omega
/-- Below the dumps and snapshots nothing is spoilt. -/
theorem State.spoilSaves_of_lt {l : Nat} (h : l < dumpLoc 0) : s.spoilSaves l = s := by
  have low : ¬(decide (dumpLoc 0 ≤ l) && decide (l < dumpLoc 256)) = true := by simp [h]
  unfold dumpLoc at h
  unfold State.spoilSaves
  dsimp only
  rw [State.map_spoil_of_lt (by omega), if_neg low]
theorem State.spoilSaves_snapshot {l i : Nat} (h : snapLoc i ≤ l) (h' : l < snapLoc (i + 1)) :
    s.spoilSaves l = { s with runs := s.runs.map fun q => if q.id = i then { q with snapBad := true } else q } := by
  have hit (q : Run) : (decide (snapLoc q.id ≤ l) && decide (l < snapLoc (q.id + 1))) = true ↔ q.id = i := by
    rw [Bool.and_eq_true, decide_eq_true_eq, decide_eq_true_eq]
    unfold snapLoc at *
    omega
  have high : ¬(decide (dumpLoc 0 ≤ l) && decide (l < dumpLoc 256)) = true := by
    rw [Bool.and_eq_true, decide_eq_true_eq, decide_eq_true_eq]
    unfold snapLoc at h
    unfold dumpLoc
    omega
  unfold State.spoilSaves
  dsimp only
  rw [if_neg high]
  simp only [hit]
theorem within_dumps {l i : Nat} (hi : i < 256) (h : dumpLoc i ≤ l) (h' : l < dumpLoc (i + 1)) :
    (decide (dumpLoc 0 ≤ l) && decide (l < dumpLoc 256)) = true := by
  rw [Bool.and_eq_true, decide_eq_true_eq, decide_eq_true_eq]
  unfold dumpLoc at *
  omega
theorem State.spoilSaves_dump {l : Nat} {c : CtxId} (h : dumpLoc (2 * c.core.val + c.bank.val) ≤ l)
    (h' : l < dumpLoc (2 * c.core.val + c.bank.val + 1)) :
    s.spoilSaves l = s.modCtx c fun x => { x with dump := x.dump.map fun d => { d with good := false } } := by
  obtain ⟨core, bank⟩ := c
  have here := within_dumps (show 2 * core.val + bank.val < 256 by omega) h h'
  simp only [dumpLoc] at h h'
  have hi : (l - dumpLoc 0) / 128 = 2 * core.val + bank.val := by unfold dumpLoc; omega
  have hc : Fin.ofNat 128 ((2 * core.val + bank.val) / 2) = core := Fin.ext (by simp [Fin.ofNat]; omega)
  have hb : Fin.ofNat 2 (2 * core.val + bank.val) = bank := Fin.ext (by simp [Fin.ofNat]; omega)
  unfold State.spoilSaves
  dsimp only
  rw [State.map_spoil_of_lt (by omega), if_pos here, hi, hc, hb]

/-- A scratchpad's byte, or one of memory, is stored and lies below the dumps. -/
theorem State.stored_of_main {loc : Nat} (hs : isSpad loc = true → loc < 2 ^ 52 + 128 * 2 ^ 22)
    (hm : isSpad loc = false → s.populated loc = true) : s.stored loc = true ∧ loc < dumpLoc 0 := by
  unfold State.stored
  by_cases h : isSpad loc = true
  · have := hs h
    exact ⟨by rw [if_pos h, decide_eq_true this, Bool.true_or, Bool.true_or], by unfold dumpLoc; omega⟩
  · have low : loc < 2 ^ 52 := by simpa [isSpad] using h
    exact ⟨by rw [if_neg h]; exact hm (by simpa using h), by unfold dumpLoc; omega⟩
theorem State.stored_snapshot {r : Run} {loc : Nat} (hr : r ∈ s.runs) (h : snapLoc r.id ≤ loc) (h' : loc < snapLoc (r.id + 1)) :
    s.stored loc = true := by
  have spad : isSpad loc = true := by
    rw [isSpad, decide_eq_true_eq]
    unfold snapLoc at h
    omega
  have : (s.runs.any fun r => decide (snapLoc r.id ≤ loc) && decide (loc < snapLoc (r.id + 1))) = true :=
    List.any_eq_true.2 ⟨r, hr, by simp [h, h']⟩
  rw [State.stored, if_pos spad, this, Bool.or_true]
theorem State.stored_dump {loc i : Nat} (hi : i < 256) (h : dumpLoc i ≤ loc) (h' : loc < dumpLoc (i + 1)) :
    s.stored loc = true := by
  have here := within_dumps hi h h'
  have spad : isSpad loc = true := by
    rw [isSpad, decide_eq_true_eq]
    unfold dumpLoc at h
    omega
  rw [State.stored, if_pos spad, here, Bool.or_true, Bool.true_or]

/-! ## The matrix engine's queue (R212) -/

theorem State.putHead_of_cons {c : CtxId} {p : XCmd} {rest : List XCmd} (h : (s.ctx c).xq = p :: rest) (q : XCmd) :
    s.putHead c q = s.modCtx c fun x => { x with xq := q :: rest } :=
  State.modCtx_congr (by simp only [h])
/-- A loop whose body leaves the queue leaves it. -/
theorem Ctx.xq_foldl {β : Type} {f : Ctx → β → Ctx} (hf : ∀ x b, (f x b).xq = x.xq) (l : List β) (x : Ctx) :
    (l.foldl f x).xq = x.xq := by
  induction l generalizing x with
  | nil => rfl
  | cons b l ih => rw [List.foldl_cons, ih, hf]

end Sys2Proof.Machine
end

section
/-!
CERTIFICATE. The statements about reset, and about Zenhel, storage and its errors.
-/
namespace Sys2Proof.Machine

/-! ## Reset -/

/-- Settles O58: the four stores are empty lists at reset, and an empty list is canonical. -/
theorem resetIsCanonical : Obligations.ResetIsCanonical :=
  { mem := Memory.wf_reset, exact := rfl, policy := rfl, arenas := rfl }

theorem State.ctx_reset (c : CtxId) : State.reset.ctx c = Ctx.blank := by simp [State.ctx, State.reset]
theorem State.core_reset (c : Fin 128) : State.reset.core c = CoreSt.reset := by simp [State.core, State.reset]
theorem State.mail_reset (i : Fin 16) : State.reset.mail[i] = Mailbox.reset := by simp [State.reset]
theorem State.mons_reset (i : Fin 32) : State.reset.mons[i] = Monitor.reset := by simp [State.reset]

/-- Settles O60: every vector of the module holds one and the same entry at reset, whose fields are read off. -/
theorem resetValues : Obligations.ResetValues := by
  unfold Obligations.ResetValues
  simp only [State.ctx_reset, State.core_reset, State.mail_reset, State.mons_reset]
  refine ⟨rfl, rfl, rfl, rfl, rfl, rfl, rfl, fun i => ?_, fun i => ?_, rfl, fun _ => ⟨rfl, rfl, rfl⟩,
    fun _ => ⟨rfl, rfl, rfl, rfl⟩, fun _ => rfl, rfl, rfl, rfl, rfl, rfl, fun _ => ⟨rfl, rfl, rfl⟩⟩
  · simp [State.reset, SchedCfg.reset]
  · simp [State.reset, SchedCfg.reset]

/-! ## Zenhel's answers -/

variable {s : State} {c : CtxId}

theorem ctx_extWrite_answered (s : State) (c : CtxId) (ws : List ExtWrite) :
    ((s.extWrite ws).answered c).ctx c = ({ s.ctx c with
      wait := .none
      nextIssue := max (s.ctx c).nextIssue (s.time + 1) } : Ctx).wdResume s.time := by
  rw [State.ctx_answered, (StorageOnly.extWrite s ws).ctx, (StorageOnly.extWrite s ws).time]
/-- A refused command that is no KA2A fails, and nothing but the commands changes. -/
theorem failAll_refused {id : Nat} {k : KCmd} (hk : s.getK id = some k)
    (h : ∀ p dd ds sa sb kd, k.op ≠ .ka2a p dd ds sa sb kd) (f : Fail) :
    let u := s.modK id fun k => { k with waitFault := none }
    u.failAll k f = { s with kcmds := (u.failAll k f).kcmds } ∧
      (u.failAll k f).getK id = some { k with
        waitFault := none
        failed := some f
        held := []
        claim := none } := by
  obtain rfl := State.id_of_getK hk
  dsimp only
  rw [State.failAll_of_not_ka2a h]
  have waited := State.getK_modK (f := fun k => { k with waitFault := none }) hk fun _ => rfl
  exact ⟨rfl, State.getK_modK (f := fun k => { k with failed := some f, held := [], claim := none }) waited fun _ => rfl⟩

/-! ## Consumed rings -/

theorem exec_trapRingConsume_ctx_space {cons : W32} {r : RingRec} (hq : (s.ctx c).ringQ = [r]) (hr : r.after = .nothing)
    (hs : (s.setNum (s.ringOf c + 0x14) cons.toNat 4).ringSpace (s.ringOf c) = true) :
    exec (.trapRingConsume (.ctx c) cons) s =
      .next (((((s.setNum (s.ringOf c + 0x14) cons.toNat 4).ringPut (s.ringOf c) (r.words ++ [r.seq])).modCtx c fun y =>
        if y.stat = .running ∨ y.stat = .ending then ({ y with ringQ := [] } : Ctx).wdResume s.time
        else { y with ringQ := [] })).setField (s.ringOf c + 0x18) 1 1 0) := by
  have hu := StorageOnly.setNum s (s.ringOf c + 0x14) cons.toNat 4
  have hp := hu.trans (StorageOnly.ringPut _ (s.ringOf c) (r.words ++ [r.seq]))
  have hring := hu.ringOf c
  rw [exec_trapRingConsume]
  unfold execTrapRingConsume
  dsimp only
  rw [hq, State.drainRing_space hr (hring ▸ hs), hring, State.modCtx_modCtx, State.modCtx_time, hp.time]
  simp only [Bool.or_eq_true, decide_eq_true_eq, State.ctx_modCtx]
  have empty (y : Ctx) : (if y.stat = .running ∨ y.stat = .ending then ({ y with ringQ := [] } : Ctx).wdResume s.time
      else { y with ringQ := [] }).ringQ = [] := by
    split
    · exact Ctx.wdResume_ringQ _ _
    · rfl
  rw [empty]
  rfl
theorem exec_trapRingConsume_ctx_full {cons : W32} {r : RingRec} (hq : (s.ctx c).ringQ = [r])
    (hs : (s.setNum (s.ringOf c + 0x14) cons.toNat 4).ringSpace (s.ringOf c) = false) (h1 : (s.ctx c).stat ≠ .running)
    (h2 : (s.ctx c).stat ≠ .ending) :
    exec (.trapRingConsume (.ctx c) cons) s = .next (s.setNum (s.ringOf c + 0x14) cons.toNat 4) := by
  have hu := StorageOnly.setNum s (s.ringOf c + 0x14) cons.toNat 4
  have hring := hu.ringOf c
  rw [exec_trapRingConsume]
  unfold execTrapRingConsume
  dsimp only
  rw [State.drainRing_full (hring ▸ hs), State.modCtx_of_fixed (by simp [hu.ctx c, h1, h2]), hu.ctx c, hq]
  rfl
theorem exec_trapRingConsume_device_idle {cons : W32} (hq : s.devQ = []) :
    exec (.trapRingConsume .device cons) s =
      .next ((s.setNum (s.devRing + 0x14) cons.toNat 4).setField (s.devRing + 0x18) 1 1 0) := by
  have hu := StorageOnly.setNum s (s.devRing + 0x14) cons.toNat 4
  have hq' := hu.devQ.trans hq
  rw [exec_trapRingConsume]
  unfold execTrapRingConsume
  dsimp only
  rw [State.drainDev_nil _ hq', hq', hu.devRing]
  rfl
theorem exec_trapRingConsume_device_space {cons : W32} {r : DevRec} (hq : s.devQ = [r]) (hr : r.after = .nothing)
    (hs : (s.setNum (s.devRing + 0x14) cons.toNat 4).ringSpace s.devRing = true) :
    exec (.trapRingConsume .device cons) s =
      .next (({ (s.setNum (s.devRing + 0x14) cons.toNat 4).ringPut s.devRing (r.words ++ [r.seq]) with devQ := [] } :
        State).setField (s.devRing + 0x18) 1 1 0) := by
  have hu := StorageOnly.setNum s (s.devRing + 0x14) cons.toNat 4
  have hp := hu.trans (StorageOnly.ringPut _ s.devRing (r.words ++ [r.seq]))
  have hring := hu.devRing
  rw [exec_trapRingConsume]
  unfold execTrapRingConsume
  dsimp only
  rw [State.drainDev_space (State.ringFree_pos (hring ▸ hs)) (hu.devQ.trans hq) hr (hring ▸ hs), hring]
  generalize (s.setNum (s.devRing + 0x14) cons.toNat 4).ringPut s.devRing (r.words ++ [r.seq]) = v at hp
  rw [show ({ v with devQ := [] } : State).devRing = s.devRing from hp.devRing]
  rfl

/-! ## Soft errors and the replay -/

theorem exec_softError_running {q : XCmd} {rest : List XCmd} (hq : (s.ctx c).xq = q :: rest) (hb : q.busy.isSome = true)
    (hbad : q.bad = none) (hw : q.waitFault = none) (t : SoftTarget) :
    exec (.softError c true t) s = .next (s.modCtx c fun x => { x with strikes := x.strikes ++ [t] }) := by
  have : (s.ctx c).engineRuns = true := by simp [Ctx.engineRuns, hq, hb, hbad, hw]
  rw [exec_softError, execSoftError, this]
  rfl
theorem exec_softError_idle (s : State) (c : CtxId) (t : SoftTarget) :
    exec (.softError c false t) s = .next (s.modCtx c fun x => x.strike t) := rfl
/-- What a tag or scale strike leaves of the accumulator. -/
theorem zreg_putZ (x : Ctx) (z : Fin 8) (a : Acc) : (x.putZ z a).zreg[z] = a := by simp [Ctx.putZ]

/-- The shadow put back in a context (R384). -/
def Shadow.restore (sh : Shadow) (x : Ctx) : Ctx :=
  sh.pv.foldl (fun y e => { y with pvreg := y.pvreg.set e.1 e.2 })
    (sh.z.foldl (fun y e => { y with zreg := y.zreg.set e.1 e.2 }) x)
theorem Shadow.xq_restore (sh : Shadow) (x : Ctx) : (sh.restore x).xq = x.xq := by
  refine (Ctx.xq_foldl ?_ _ _).trans (Ctx.xq_foldl ?_ _ _)
  · intro _ _; rfl
  · intro _ _; rfl
theorem exec_matrixStepReplay_bad {q : XCmd} {rest : List XCmd} {sh : Shadow} (hq : (s.ctx c).xq = q :: rest)
    (hsh : (s.ctx c).shadow = some sh) (hl : s.runLive c (s.ctx c).run = true) (hc : s.severed c.core = false)
    (hb : q.bad.isSome = true) :
    exec (.matrixStepReplay c) s = .next (s.modCtx c fun x => { sh.restore x with xq := { q with
      bad := none
      mended := q.bad
      replays := q.replays + 1
      busy := some (s.time + q.cycles) } :: rest }) := by
  have go : (q.bad.isNone || !s.runLive c (s.ctx c).run || s.severed c.core) = false := by
    cases hbad : q.bad with
    | none => simp [hbad] at hb
    | some z => simp [hl, hc]
  rw [exec_matrixStepReplay]
  have head : ((s.modCtx c sh.restore).ctx c).xq = q :: rest := by rw [State.ctx_modCtx, sh.xq_restore, hq]
  simp only [execMatrixStepReplay, hq, hsh, go, Bool.false_eq_true, if_false]
  exact congrArg Host.Outcome.next ((State.putHead_of_cons head _).trans (State.modCtx_modCtx s c _ _))
theorem exec_matrixEngineStep_due {q : XCmd} {rest : List XCmd} {t : Nat} (hq : (s.ctx c).xq = q :: rest)
    (hl : s.runLive c (s.ctx c).run = true) (hc : s.severed c.core = false) (hb : q.bad = none) (hw : q.waitFault = none)
    (hd : q.busy = some t) (ht : t ≤ s.time) :
    let foot := ((s.ctx c).xfoot.filter (·.seq = q.seq)).flatMap fun u => u.src ++ u.dst
    s.banksLocked c.core q.seq foot = false → (spanLocs foot).any s.onItsWay = false →
    exec (.matrixEngineStep c) s = .next (s.runX c q (s.ctx c).shadow) := by
  intro foot hbank hway
  rw [exec_matrixEngineStep]
  simp only [foot] at hbank hway
  simp only [execMatrixEngineStep, hq, hl, hc, hb, hw, hd, ht, hbank, hway, decide_true, Option.isNone_none, Bool.and_self,
    Bool.not_true, Bool.or_self, Bool.false_eq_true, if_false]

/-- Settles O44: each clause is the lemma on its event; the bytes of a changed table are read off by where they stand among
the blocks that hardware keeps, and a poisoned location by whether it lies below the dumps, in one or in a snapshot. -/
theorem faultsAndStorageErrors : Obligations.FaultsAndStorageErrors := by
  unfold Obligations.FaultsAndStorageErrors
  refine ⟨fun s c sl f ws h => ?_, fun s id k f ws hk hf => ?_, fun s c cons r => ?_, fun s cons => ?_,
    fun s a va w hs => ?_, fun s loc hsp hm hl => ?_, fun s r loc hr h h' hp => ?_, fun s c loc => ?_, fun s c t => ?_,
    fun s c q rest sh hq hsh hl hc => ?_⟩
  · -- Zenhel answers a lane
    obtain ⟨hretry, hrefuse⟩ := exec_faultAnswer_lane h ws
    exact ⟨⟨_, hretry, State.byte_answered _ c, ctx_extWrite_answered s c ws⟩, hrefuse⟩
  · -- Zenhel answers a command
    obtain ⟨hretry, hrefuse⟩ := exec_faultAnswer_command hk hf ws
    refine ⟨hretry, fun hp => State.unstash_of_stash_nil ?_ k, hrefuse, fun hop => failAll_refused hk hop f⟩
    rwa [← (StorageOnly.extWrite s ws).parties] at hp
  · -- a lane's ring
    intro x cb u hq hr
    exact ⟨exec_trapRingConsume_ctx_space hq hr, exec_trapRingConsume_ctx_full hq⟩
  · -- the device ring
    exact ⟨exec_trapRingConsume_device_idle, fun r => exec_trapRingConsume_device_space⟩
  · -- changed translations
    intro ring full
    refine ⟨_, exec_translationInvalidation a va [w] s, (StorageOnly.extWrite s [w]).ctx, fun i h => ?_,
      fun he x hx => State.byte_extWrite_elsewhere hs he w hx⟩
    dsimp only
    rw [State.byte_extWrite hs w h]
    refine ⟨fun h1 => ?_, fun h0 h1 => ?_, fun h0 h1 h2 => ⟨fun hf => ?_, fun hf => ?_⟩⟩
    · rw [State.extByte_lost h1]
    · rw [State.extByte_kept h0 h1]
    · rw [State.extByte_full h0 h1 h2 hf]
    · rw [State.extByte_plain h0 h1 h2 hf]
  · -- poison of a scratchpad or of memory
    obtain ⟨hst, hlow⟩ := State.stored_of_main hsp hm
    rw [exec_dataPoison_of_stored hst hl, State.spoilSaves_of_lt hlow]
  · -- poison of a snapshot
    refine ⟨_, exec_dataPoison_of_stored (State.stored_snapshot hr h h') (State.noLoad_of_due hp _), ?_⟩
    rw [State.spoilSaves_snapshot h h']
    exact ⟨fun _ => rfl, rfl⟩
  · -- poison of a dump
    intro i h h' hp
    rw [exec_dataPoison_of_stored (State.stored_dump (by omega) h h') (State.noLoad_of_due hp _), State.spoilSaves_dump h h']
  · -- soft errors
    refine ⟨fun q rest hq hb hbad hw => exec_softError_running hq hb hbad hw t, fun r w ht hr => ?_, fun z ht => ?_,
      fun z ht => ?_⟩
    · subst ht
      rw [exec_softError_idle]
      exact congrArg Host.Outcome.next (State.modCtx_congr (if_neg hr))
    · subst ht
      refine ⟨_, exec_softError_idle s c _, ?_⟩
      rw [State.ctx_modCtx]
      exact zreg_putZ _ z _
    · subst ht
      refine ⟨_, exec_softError_idle s c _, ?_⟩
      rw [State.ctx_modCtx]
      exact zreg_putZ _ z _
  · -- the replay
    refine ⟨exec_matrixStepReplay_bad hq hsh hl hc, fun hb hw ⟨t, hd, ht⟩ => ?_⟩
    rw [← hsh]
    exact exec_matrixEngineStep_due hq hl hc hb hw hd ht

end Sys2Proof.Machine
end

section
/-!
SUPPORT. Numbers in storage: the bytes of a number, a number or a bit field read after one is written, and what lies beside it.
-/
namespace Sys2Proof.Machine

/-! ## Bytes and numbers (R3) -/

@[simp] theorem length_leBytes (v n : Nat) : (leBytes v n).length = n := by simp [leBytes]
theorem getElem_leBytes {v n i : Nat} (h : i < (leBytes v n).length) : (leBytes v n)[i] = BitVec.ofNat 8 (v / 2 ^ (8 * i)) := by
  simp [leBytes, Nat.shiftRight_eq_div_pow]
@[simp] theorem leNat_nil : leNat [] = 0 := rfl
@[simp] theorem leNat_cons (b : Byte) (l : List Byte) : leNat (b :: l) = b.toNat + 256 * leNat l := by
  simp only [leNat, List.foldr_cons, Nat.mul_comm]
theorem leNat_lt (l : List Byte) : leNat l < 256 ^ l.length := by
  induction l with
  | nil => simp
  | cons b l ih =>
    rw [leNat_cons, List.length_cons, Nat.pow_succ]
    have := b.isLt
    omega
theorem leBytes_succ (v n : Nat) : leBytes v (n + 1) = BitVec.ofNat 8 v :: leBytes (v / 256) n := by
  simp only [leBytes, List.range_succ_eq_map, List.map_cons, List.map_map, Nat.mul_zero, Nat.shiftRight_zero]
  refine congrArg _ (List.map_congr_left fun i _ => ?_)
  simp only [Function.comp_apply, Nat.shiftRight_eq_div_pow, Nat.div_div_eq_div_mul]
  rw [Nat.succ_eq_add_one, Nat.mul_add, Nat.pow_add, Nat.mul_comm]
/-- A number is what its bytes say, as far as they reach. -/
theorem leNat_leBytes (v n : Nat) : leNat (leBytes v n) = v % 256 ^ n := by
  induction n generalizing v with
  | zero => simp [leBytes, Nat.mod_one]
  | succ n ih =>
    rw [leBytes_succ, leNat_cons, ih, BitVec.toNat_ofNat, pow_succ' 256 n, Nat.mod_mul]
theorem leNat_take (l : List Byte) (k : Nat) : leNat (l.take k) = leNat l % 256 ^ k := by
  induction k generalizing l with
  | zero => simp [Nat.mod_one]
  | succ k ih =>
    cases l with
    | nil => simp
    | cons b l =>
      have := b.isLt
      rw [List.take_succ_cons, leNat_cons, leNat_cons, ih, pow_succ' 256 k, Nat.mod_mul,
        Nat.add_mul_mod_self_left, Nat.mod_eq_of_lt this, Nat.add_mul_div_left _ _ (by decide), Nat.div_eq_of_lt this,
        Nat.zero_add]

/-! ## Numbers in storage -/

variable {s : State} {l k m n v : Nat}

theorem State.num_lt (s : State) (l n : Nat) : s.num l n < 256 ^ n := by
  simpa [State.num, State.bytes] using leNat_lt (s.bytes l n)
/-- A shorter number at the same place is the low part of a longer one. -/
theorem State.num_mod (s : State) (l : Nat) (h : k ≤ n) : s.num l k = s.num l n % 256 ^ k := by
  rw [State.num, State.num, ← leNat_take, State.bytes, State.bytes, List.map_take.symm, List.take_range, Nat.min_eq_left h]
theorem State.num_congr {t : State} (h : ∀ i < n, t.byte (l + i) = s.byte (l + i)) : t.num l n = s.num l n :=
  congrArg leNat (List.map_congr_left fun i hi => h i (List.mem_range.1 hi))
theorem State.byte_setNum_of_mem (hs : s.Canonical) {i : Nat} (hi : i < n) :
    (s.setNum l v n).byte (l + i) = BitVec.ofNat 8 (v / 2 ^ (8 * i)) := by
  have hi' : i < (leBytes v n).length := by simpa using hi
  rw [State.setNum, State.byte_setCells_of_mem hs.mem (nodup_cellsAt _ _) (mem_cellsAt hi'), getElem_leBytes]
theorem State.byte_setNum_of_notMem (hs : s.Canonical) {x : Nat} (hx : ¬(l ≤ x ∧ x < l + n)) :
    (s.setNum l v n).byte x = s.byte x :=
  State.byte_setCells_of_notMem hs.mem (by rwa [mem_map_fst_cellsAt, length_leBytes])
theorem State.num_setNum (hs : s.Canonical) (l v n : Nat) : (s.setNum l v n).num l n = v % 256 ^ n := by
  rw [← leNat_leBytes]
  refine congrArg leNat (List.ext_getElem (by simp [State.bytes]) fun i h _ => ?_)
  rw [getElem_leBytes]
  simpa [State.bytes] using State.byte_setNum_of_mem hs (by simpa [State.bytes] using h)
theorem State.num_setNum_elsewhere (hs : s.Canonical) (h : k + m ≤ l ∨ l + n ≤ k) : (s.setNum l v n).num k m = s.num k m :=
  State.num_congr fun i hi => State.byte_setNum_of_notMem hs (by omega)

/-! ## Bit fields of a word -/

/-- The number `o` with `w` bits from bit `lo` on replaced by those of `v`. -/
def splice (o lo w v : Nat) : Nat := o - ((o >>> lo) % 2 ^ w) * 2 ^ lo + (v % 2 ^ w) * 2 ^ lo
theorem State.setField_eq (s : State) (l lo w v : Nat) : s.setField l lo w v = s.setNum l (splice (s.num l 8) lo w v) 8 := rfl
/-- The three parts of a spliced number: below, the new bits, above. -/
theorem splice_eq (o lo w v : Nat) : splice o lo w v = o % 2 ^ lo + 2 ^ lo * (v % 2 ^ w + 2 ^ w * (o / 2 ^ lo / 2 ^ w)) := by
  have h1 := Nat.mod_add_div o (2 ^ lo)
  have h2 := Nat.mod_add_div (o / 2 ^ lo) (2 ^ w)
  rw [splice, Nat.shiftRight_eq_div_pow]
  generalize o / 2 ^ lo = q at *
  rw [← h2, Nat.mul_add] at h1
  rw [Nat.mul_add, Nat.mul_comm _ (2 ^ lo), Nat.mul_comm _ (2 ^ lo)]
  omega
theorem splice_lt {o lo w v n : Nat} (ho : o < 2 ^ n) (h : lo + w ≤ n) : splice o lo w v < 2 ^ n := by
  obtain ⟨d, rfl⟩ := Nat.exists_eq_add_of_le h
  have hq : o / 2 ^ lo / 2 ^ w < 2 ^ d := by
    rw [Nat.div_div_eq_div_mul, ← Nat.pow_add]
    exact Nat.div_lt_of_lt_mul (by rwa [← Nat.pow_add])
  have ha : o % 2 ^ lo < 2 ^ lo := Nat.mod_lt _ (by positivity)
  have hv : v % 2 ^ w < 2 ^ w := Nat.mod_lt _ (by positivity)
  rw [splice_eq, Nat.pow_add, Nat.pow_add, Nat.mul_assoc]
  calc o % 2 ^ lo + 2 ^ lo * (v % 2 ^ w + 2 ^ w * (o / 2 ^ lo / 2 ^ w))
      < 2 ^ lo * (v % 2 ^ w + 2 ^ w * (o / 2 ^ lo / 2 ^ w) + 1) := by rw [Nat.mul_add _ _ 1]; omega
    _ ≤ 2 ^ lo * (2 ^ w * (o / 2 ^ lo / 2 ^ w + 1)) := Nat.mul_le_mul_left _ (by rw [Nat.mul_add]; omega)
    _ ≤ 2 ^ lo * (2 ^ w * 2 ^ d) := Nat.mul_le_mul_left _ (Nat.mul_le_mul_left _ hq)
theorem splice_field (o lo w v : Nat) : (splice o lo w v >>> lo) % 2 ^ w = v % 2 ^ w := by
  rw [Nat.shiftRight_eq_div_pow, splice_eq, Nat.add_mul_div_left _ _ (by positivity), Nat.div_eq_of_lt (Nat.mod_lt _ (by positivity)),
    Nat.zero_add, Nat.add_mul_mod_self_left, Nat.mod_mod]
theorem splice_below {o lo w v k : Nat} (h : k ≤ lo) : splice o lo w v % 2 ^ k = o % 2 ^ k := by
  obtain ⟨d, rfl⟩ := Nat.exists_eq_add_of_le h
  rw [splice_eq, Nat.pow_add, Nat.mul_assoc, Nat.add_mul_mod_self_left, Nat.mod_mul_right_mod]

variable {lo w : Nat}

theorem State.num_setField (hs : s.Canonical) (h : lo + w ≤ 64) : (s.setField l lo w v).num l 8 = splice (s.num l 8) lo w v := by
  rw [State.setField_eq, State.num_setNum hs]
  exact Nat.mod_eq_of_lt (splice_lt (n := 64) (s.num_lt l 8) h)
theorem State.field_setField (hs : s.Canonical) (h : lo + w ≤ 64) : (s.setField l lo w v).field l lo w = v % 2 ^ w := by
  rw [State.field, State.num_setField hs h, splice_field]
/-- Bits below a field that is written stay. -/
theorem State.field_setField_below (hs : s.Canonical) (h : lo + w ≤ 64) (hk : k ≤ lo) :
    (s.setField l lo w v).field l 0 k = s.field l 0 k := by
  rw [State.field, State.num_setField hs h, State.field, Nat.shiftRight_zero, Nat.shiftRight_zero, splice_below hk]
theorem State.byte_setField (hs : s.Canonical) {x : Nat} (hx : ¬(l ≤ x ∧ x < l + 8)) : (s.setField l lo w v).byte x = s.byte x :=
  State.byte_setNum_of_notMem hs hx
theorem State.num_setField_elsewhere (hs : s.Canonical) (h : k + m ≤ l ∨ l + 8 ≤ k) : (s.setField l lo w v).num k m = s.num k m :=
  State.num_setNum_elsewhere hs h
theorem State.field_setField_elsewhere {lo' w' : Nat} (hs : s.Canonical) (h : k + 8 ≤ l ∨ l + 8 ≤ k) :
    (s.setField l lo w v).field k lo' w' = s.field k lo' w' := by
  rw [State.field, State.num_setField_elsewhere hs h, State.field]
theorem State.field_setNum_elsewhere {lo' w' : Nat} (hs : s.Canonical) (h : k + 8 ≤ l ∨ l + n ≤ k) :
    (s.setNum l v n).field k lo' w' = s.field k lo' w' := by
  rw [State.field, State.num_setNum_elsewhere hs h, State.field]

/-! ## Fields of an OPB (R21) -/

variable {nd : Node} {off off' : Nat}

theorem State.opbField_setOpb (hs : s.Canonical) (h : lo + w ≤ 64) : (s.setOpb nd off lo w v).opbField nd off lo w = v % 2 ^ w :=
  State.field_setField hs h
theorem State.opbField_setOpb_below (hs : s.Canonical) (h : lo + w ≤ 64) (hk : k ≤ lo) :
    (s.setOpb nd off lo w v).opbField nd off 0 k = s.opbField nd off 0 k := State.field_setField_below hs h hk
/-- A write to one word of an OPB leaves the others. -/
theorem State.opbField_setOpb_elsewhere {lo' w' : Nat} (hs : s.Canonical) (h : off' + 8 ≤ off ∨ off + 8 ≤ off') :
    (s.setOpb nd off lo w v).opbField nd off' lo' w' = s.opbField nd off' lo' w' :=
  State.field_setField_elsewhere hs (by omega)
theorem State.byte_setOpb (hs : s.Canonical) {x : Nat} (hx : ¬(nd.phys + off ≤ x ∧ x < nd.phys + off + 8)) :
    (s.setOpb nd off lo w v).byte x = s.byte x := State.byte_setField hs hx

end Sys2Proof.Machine
end

section
/-!
SUPPORT. Closing a phase: writes applied at their homes, and what a close leaves (R35, R255).
-/
namespace Sys2Proof.Machine

namespace StorageOnly

variable {s t : State}

theorem update (s : State) (l : Nat) (u : UKind) (ty : BitVec 4) (v : Word) : StorageOnly s (s.update l u ty v) := by
  unfold State.update
  dsimp only
  split
  · exact ⟨_, _, _, rfl⟩
  · exact (setNum s l _ _).trans ⟨_, _, _, rfl⟩
theorem applyPend (s : State) (p : Pend) : StorageOnly s (s.applyPend p) := by
  unfold State.applyPend
  split
  · exact plainWrite s _
  · dsimp only
    split
    · exact (flushLine s _).trans (update _ _ _ _ _)
    · exact update s _ _ _ _
theorem applyAll {l : List Pend} (h : s.applyAll l = .ok t) : StorageOnly s t := by
  induction l generalizing s with
  | nil => cases h; exact refl _
  | cons p l ih =>
    unfold State.applyAll at h
    split at h
    · cases h
    · exact (applyPend s p).trans (ih h)

end StorageOnly

/-- A close on its way, after a later close of its lane: what that phase has written is put back no more (R334). -/
def Closing.keep (c : CtxId) (run : Nat) (undo : List Host.Cell) (q : Closing) : Closing :=
  if q.owner = c ∧ q.run = run then { q with undo := q.undo.filter fun u => !(undo.any fun w => w.1 = u.1) } else q

/-- A lane after a close at time `now`: nothing of its phase is held, and its commands have their first closing event. -/
def Ctx.closed (now : Nat) (x : Ctx) : Ctx := { x with
  pend := []
  undo := []
  unpoison := []
  xq := x.xq.map fun (q : XCmd) => if q.closeAt = none then { q with closeAt := some now } else q }

/-- `t` is what a close of context `c` makes of `s`: storage is that of `u`, and the writes in `sent` have set out. -/
structure ClosedBy (c : CtxId) (sent : List Closing) (s u t : State) : Prop where
  mem     : t.mem = u.mem
  exact   : t.exact = u.exact
  poison  : t.poison = u.poison
  time    : t.time = s.time
  cur     : t.cur = s.cur
  accs    : t.accs = closeAccs c (s.ctx c).run s.time s.accs
  closing : t.closing = s.closing.map (Closing.keep c (s.ctx c).run (s.ctx c).undo) ++ sent
  ctxs    : t.ctxs = (s.modCtx c (Ctx.closed s.time)).ctxs

theorem ClosedBy.ctx {c : CtxId} {sent : List Closing} {s u t : State} (h : ClosedBy c sent s u t) :
    t.ctx c = (s.ctx c).closed s.time :=
  (congrArg (fun v => v[ctxIdx c]) h.ctxs).trans (State.ctx_modCtx s c _)

variable {s u : State} {c : CtxId} {sl : Slot} {pc : W32} {once : Bool}

theorem Closing.keep_eq (c : CtxId) (run : Nat) (undo : List Host.Cell) :
    (fun q : Closing => if (q.owner = c && q.run = run) = true then
      { q with undo := q.undo.filter fun u => !(undo.any fun w => w.1 = u.1) } else q) = Closing.keep c run undo := by
  funext q
  simp only [Closing.keep, Bool.and_eq_true, decide_eq_true_eq]

/-- The writes of the phase whose homes are all the lane's own die. -/
def State.Near (s : State) (c : CtxId) : Prop :=
  ∀ w ∈ closeOrder (s.ctx c).pend, w.sure = false → ∀ l ∈ w.locs, s.home l = coreDie c.core
theorem State.near_iff : ((closeOrder (s.ctx c).pend).any fun p => !p.sure && p.locs.any fun l => s.home l ≠ coreDie c.core) = false ↔
    s.Near c := by
  simp [State.Near]

/-- A close whose writes are all at home publishes them at once. -/
theorem State.closePhase_near (hd : s.doomed c = none) (hn : s.Near c) (hu : s.applyAll (closeOrder (s.ctx c).pend) = .ok u) :
    ∃ t, s.closePhase c sl pc once = .ok t ∧ ClosedBy c [] s u t := by
  obtain ⟨m, p, e, rfl⟩ := StorageOnly.applyAll hu
  unfold State.closePhase
  simp only [hd, State.near_iff.2 hn, Bool.false_eq_true, if_false, hu, Closing.keep_eq]
  exact ⟨_, rfl, rfl, rfl, rfl, rfl, rfl, rfl, rfl, rfl⟩
/-- A close with a write for another die sends all its writes. -/
theorem State.closePhase_far (hd : s.doomed c = none) (hn : ¬s.Near c) : let x := s.ctx c
    ∃ t, s.closePhase c sl pc once = .ok t ∧ ClosedBy c [⟨c, x.run, x.step, x.asid, x.opb, pc, sl, s.time,
      closeOrder x.pend, x.undo, x.unpoison⟩] s s t := by
  have far := Bool.not_eq_false _ ▸ mt State.near_iff.1 hn
  unfold State.closePhase
  simp only [hd, far, if_true, Closing.keep_eq]
  exact ⟨_, rfl, rfl, rfl, rfl, rfl, rfl, rfl, rfl, rfl⟩

end Sys2Proof.Machine
end

section
/-!
CERTIFICATE. PHASE (R155).
-/
namespace Sys2Proof.Machine

/-- The registers of a lane stay when a close empties what its phase holds. -/
theorem ClosedBy.sameRegs {c : CtxId} {sent : List Closing} {s u t : State} (h : ClosedBy c sent s u t) : SameRegs (s.ctx c) (t.ctx c) := by
  rw [h.ctx]
  exact ⟨rfl, rfl, rfl, rfl, rfl, rfl, rfl, rfl, rfl, rfl, rfl, rfl⟩

theorem exec_phase (p : Fin 64) (s : State) : exec (.phase p) s = s.slotOp .c p (s.closeOpen .c false) := rfl
theorem exec_phase_closed {s t : State} {p : Fin 64} (hp : s.me.pget p = true) (h : s.closePhase s.cur .c s.me.pc false = .ok t) :
    exec (.phase p) s = .next (t.openPhase s.cur).issued := by
  rw [exec_phase, State.closeOpen, h]
  exact Sys2Proof.Laws.slotOp_done hp
theorem exec_phase_refused {s : State} {p : Fin 64} {f : Fail} (hp : s.me.pget p = true)
    (h : s.closePhase s.cur .c s.me.pc false = .error f) :
    exec (.phase p) s = .next { s.trap s.cur .c 0 s.me.pc s.me.follow.1 f with verdict := .closed .c f } := by
  rw [exec_phase, State.closeOpen, h, State.slotOp, if_pos hp]

/-- What PHASE leaves after its close. -/
theorem ClosedBy.opened {sent : List Closing} {s u t : State} (h : ClosedBy s.cur sent s u t) :
    let v := (t.openPhase s.cur).issued
    v.verdict = .ok ∧ v.cur = s.cur ∧ v.me.pend = [] ∧ v.me.undo = [] ∧ v.me.phaseOpen = s.time ∧ SameRegs s.me v.me ∧
      v.accs = closeAccs s.cur s.me.run s.time s.accs ∧ v.time = s.time := by
  have here : (t.openPhase s.cur).issued.me = { t.ctx s.cur with phaseOpen := t.time } := by
    show (t.openPhase s.cur).ctx t.cur = _
    rw [h.cur]
    exact State.ctx_modCtx t s.cur _
  dsimp only
  rw [here]
  refine ⟨rfl, h.cur, ?_, ?_, h.time, h.sameRegs, h.accs, h.time⟩
  · exact congrArg Ctx.pend h.ctx
  · exact congrArg Ctx.undo h.ctx

/-- Settles O12: PHASE is a close and an opening event, and the close publishes its writes or sends them by where their homes
are. -/
theorem phaseClosesAndOpens : Obligations.PhaseClosesAndOpens := by
  unfold Obligations.PhaseClosesAndOpens
  refine ⟨fun s p hp hd => ⟨fun u hn hu => ?_, fun hn => ?_⟩, fun s p f hp h => exec_phase_refused hp h⟩
  · obtain ⟨t, ht, hc⟩ := State.closePhase_near (sl := .c) (pc := s.me.pc) (once := false) hd hn hu
    exact ⟨_, exec_phase_closed hp ht, hc.opened, hc.mem, hc.exact, hc.poison, hc.closing.trans (List.append_nil _)⟩
  · obtain ⟨t, ht, hc⟩ := State.closePhase_far (sl := .c) (pc := s.me.pc) (once := false) hd hn
    exact ⟨_, exec_phase_closed hp ht, hc.opened, hc.mem, hc.exact, hc.poison, hc.closing⟩

end Sys2Proof.Machine
end

section
/-!
CERTIFICATE. What ends a wait: a flit that the answer's arrival lets start.
-/
namespace Sys2Proof.Machine

/-- A flit of a future access of context 0.0 waits on lane 3 of port 0, whose skid buffer for lane 2 is about to ask for its
resume; that context waits for an answer from device 2, whose route the port carries. -/
def heldBack : State :=
  let s := State.reset.modCtx ⟨0, 0⟩ fun x => { x with wait := .remote true 0x4008000000000 0 }
  { s with
    routes := [(2, 0)]
    ports := s.ports.set 0 { Port.reset with
      lanes := (Port.reset.lanes.set 2 { VLane.reset with
        free := 95
        pauseSent := true }).set 3 { VLane.reset with queue := [(2, .future ⟨0, 0⟩)] } } }

/-- The flit that starts as the resume is sent, after the answer has acknowledged what had been sent before. -/
theorem heldBack_starts : (⟨0, 2, 0, .future ⟨0, 0⟩⟩ : TxFlit) ∈
    (((heldBack.ackFlits (.future ⟨0, 0⟩)).drainFlits (windowDevice 0x4008000000000) 2 1).ports[(0 : Fin 16)].lanes[(3 : Fin 4)]).sent := by
  decide +kernel
theorem heldBack_wait : (heldBack.ctx ⟨0, 0⟩).wait = .remote true 0x4008000000000 0 := by
  decide +kernel

/-- Refutes O43: the clause on a remote answer says that no flit of the lane's future access is kept by a sender any more. In
`heldBack` one waits in the queue of lane 3 behind a pause; the answer leaves the skid buffer, the resume flit that this asks
for is queued on lane 3 behind it, and both start. -/
theorem not_waitsEnd : ¬ Obligations.WaitsEnd := by
  unfold Obligations.WaitsEnd
  intro h
  obtain ⟨-, -, -, hremote, -⟩ := h
  obtain ⟨-, hnone, -⟩ := hremote heldBack ⟨0, 0⟩ true 0x4008000000000 0 .empty heldBack_wait
  exact hnone 0 3 _ heldBack_starts rfl

end Sys2Proof.Machine
end

section
/-!
SUPPORT. Loops over the lanes of a gang, and nodes after one of them has changed.
-/
namespace Sys2Proof.Machine

/-! ## Loops over contexts -/

/-- `t` is `s` but for its contexts. -/
def CtxsOnly (s t : State) : Prop := t = { s with ctxs := t.ctxs }
namespace CtxsOnly
theorem refl (s : State) : CtxsOnly s s := rfl
theorem trans {s t u : State} (h : CtxsOnly s t) (h' : CtxsOnly t u) : CtxsOnly s u := by
  rw [CtxsOnly] at h h' ⊢
  rw [h', h]
theorem modCtx (s : State) (c : CtxId) (f : Ctx → Ctx) : CtxsOnly s (s.modCtx c f) := rfl
theorem time {s t : State} (h : CtxsOnly s t) : t.time = s.time := by rw [h]
/-- A loop changes contexts alone when its body does. -/
theorem foldl {β : Type} {f : State → β → State} (hf : ∀ s b, CtxsOnly s (f s b)) (l : List β) (s : State) :
    CtxsOnly s (l.foldl f s) := by
  induction l generalizing s with
  | nil => exact refl s
  | cons b l ih => exact (hf s b).trans (ih _)
end CtxsOnly

/-- A change of every context of a list, each change made once and for all, as the contexts show it. -/
theorem State.ctx_foldl_modCtx {f : CtxId → Ctx → Ctx} (hf : ∀ l x, f l (f l x) = f l x) (g : List CtxId) (s : State) (e : CtxId) :
    (g.foldl (fun s l => s.modCtx l (f l)) s).ctx e = if e ∈ g then f e (s.ctx e) else s.ctx e := by
  induction g generalizing s with
  | nil => rfl
  | cons l g ih =>
    rw [List.foldl_cons, ih]
    by_cases he : e = l
    · subst he
      simp [hf]
    · simp [State.ctx_modCtx_ne s _ he, he]

/-! ## Runs and nodes -/

theorem StorageOnly.core {s t : State} (h : StorageOnly s t) (k : Fin 128) : t.core k = s.core k := by
  obtain ⟨_, _, _, rfl⟩ := h; rfl
theorem StorageOnly.node {s t : State} (h : StorageOnly s t) (a : BitVec 12) (o : Nat) : t.node a o = s.node a o := by
  obtain ⟨_, _, _, rfl⟩ := h; rfl

variable {s t : State} {c : CtxId} {r : Run} {a : BitVec 12} {o : Nat} {n : Node}

theorem State.gang_eq (h : s.getRun (s.ctx c).run = some r) : s.gang c = r.gang := by rw [State.gang, h]
theorem State.node_key (h : s.node a o = some n) : n.asid = a ∧ n.opb = o := by
  simpa using List.find?_some h
/-- A node after a change that keeps its key. -/
theorem State.node_modNode {f : Node → Node} (hf : ∀ m, (f m).asid = m.asid ∧ (f m).opb = m.opb) (h : s.node a o = some n) :
    (s.modNode a o f).node a o = some (f n) := by
  obtain ⟨ha, ho⟩ := State.node_key h
  have same : ((fun m : Node => decide (m.asid = a) && decide (m.opb = o)) ∘
      fun m : Node => if (decide (m.asid = a) && decide (m.opb = o)) = true then f m else m) =
      fun m => decide (m.asid = a) && decide (m.opb = o) := by
    funext m
    simp only [Function.comp_apply]
    split <;> simp [hf]
  rw [State.node] at h
  rw [State.node, State.modNode, List.find?_map, same, h, Option.map_some, if_pos (by simp [ha, ho])]
theorem State.node_setPre {p : PreState} (h : s.node a o = some n) :
    (s.setPre a o p).node a o = some { n with
      pre := p
      preMb := [] } :=
  State.node_modNode (f := fun m => { m with
    pre := p
    preMb := [] }) (fun _ => ⟨rfl, rfl⟩) h

end Sys2Proof.Machine
end

section
/-!
SUPPORT. The events of a step's and a node's life: saves, the start of a step, the watchdog, retirement (R26, R32, R276, R346, R356).
-/
namespace Sys2Proof.Machine
variable {s : State} {c : CtxId} {r : Run} {n : Node} {since kind : Nat}

/-! ## The events and their meanings -/

theorem exec_stepSnapshotSave (c : CtxId) (s : State) : exec (.stepSnapshotSave c) s = execStepSnapshotSave c s := rfl
theorem exec_saveAbandon (c : CtxId) (s : State) : exec (.saveAbandon c) s = execSaveAbandon c s := rfl
theorem exec_stepStart (c : CtxId) (s : State) : exec (.stepStart c) s = execStepStart c s := rfl
theorem exec_randomBufferFill (a : BitVec 12) (o : Nat) (s : State) :
    exec (.randomBufferFill a o) s = execRandomBufferFill a o s := rfl
theorem exec_watchdogExpiry (c : CtxId) (s : State) : exec (.watchdogExpiry c) s = execWatchdogExpiry c s := rfl
theorem exec_preemptionSave (a : BitVec 12) (o : Nat) (s : State) : exec (.preemptionSave a o) s = execPreemptionSave a o s := rfl
theorem exec_slotBoundary (s : State) : exec .slotBoundary s = execSlotBoundary s := rfl
theorem exec_nodeRetirement (a : BitVec 12) (o : Nat) (s : State) : exec (.nodeRetirement a o) s = execNodeRetirement a o s := rfl

/-! ## Saves (R346, R356, R357) -/

theorem State.saveFails_snapshot (hr : s.getRun (s.ctx c).run = some r) (ho : s.saveOver since = false) (hb : r.snapBad = false) :
    s.saveFails c 0 since = false := by
  simp [State.saveFails, ho, hr, hb]
theorem State.saveFails_dump (hk : kind ≠ 0) (ho : s.saveOver since = false) (hp : s.poisonIn (dumpLoc (ctxIdx c).val) 128 = none) :
    s.saveFails c kind since = false := by
  simp [State.saveFails, ho, hk, hp]
theorem State.saveFails_late (h : 1048576 < s.time - since) : s.saveFails c kind since = true := by
  simp [State.saveFails, State.saveOver, Config.saveLimit, h]

/-- A lane whose snapshot stands. -/
def Ctx.snapshotSaved (x : Ctx) : Ctx := if x.stat = .snapshot then { x with
  stat := .loaded
  save := none } else x
theorem Ctx.snapshotSaved_of (x : Ctx) (h : x.stat = .snapshot) : x.snapshotSaved = { x with
    stat := .loaded
    save := none } := if_pos h
theorem Ctx.snapshotSaved_twice (x : Ctx) : x.snapshotSaved.snapshotSaved = x.snapshotSaved := by
  by_cases h : x.stat = .snapshot
  · rw [x.snapshotSaved_of h]; rfl
  · simp [Ctx.snapshotSaved, h]
/-- The snapshot stands: the lanes of the gang that waited for it may start. -/
theorem exec_stepSnapshotSave_snapshot (hr : s.getRun (s.ctx c).run = some r) (hs : (s.ctx c).stat = .snapshot)
    (hv : (s.ctx c).save = some (kind, since)) (hf : s.saveFails c kind since = false) :
    ∃ t, exec (.stepSnapshotSave c) s = .next t ∧ CtxsOnly s t ∧
      ∀ l, t.ctx l = if l ∈ r.gang then (s.ctx l).snapshotSaved else s.ctx l := by
  refine ⟨r.gang.foldl (fun s l => s.modCtx l Ctx.snapshotSaved) s, ?_, CtxsOnly.foldl (fun s l => CtxsOnly.modCtx s l _) _ s,
    State.ctx_foldl_modCtx (fun _ => Ctx.snapshotSaved_twice) r.gang s⟩
  simp only [exec_stepSnapshotSave, execStepSnapshotSave, hv, hf, hs, State.gang_eq hr, Bool.false_eq_true, if_false, if_true]
  rfl
/-- The dump of a lane held at a BKPT stands. -/
theorem exec_stepSnapshotSave_dump (hw : (s.ctx c).wait = .bkpt) (hs : (s.ctx c).stat ≠ .snapshot)
    (hv : (s.ctx c).save = some (kind, since)) (hf : s.saveFails c kind since = false) :
    exec (.stepSnapshotSave c) s = .next (s.drawWord.2.modCtx c fun x => { x with
      save := none
      dump := some (x.dumped (BitVec.ofNat 32 s.drawWord.1)) }) := by
  simp only [exec_stepSnapshotSave, execStepSnapshotSave, hv, hf, hs, hw, Bool.false_eq_true, if_false, if_true]

/-- A lane of a gang whose save of kind `kind` by context `c` is given up. -/
def Ctx.saveDropped (c : CtxId) (kind : Nat) (l : CtxId) (x : Ctx) : Ctx :=
  if l = c ∨ (kind = 0 ∧ x.stat = .snapshot) then { x with save := none } else x
theorem Ctx.saveDropped_twice (l : CtxId) (x : Ctx) :
    (x.saveDropped c kind l).saveDropped c kind l = x.saveDropped c kind l := by
  unfold Ctx.saveDropped
  by_cases h : l = c ∨ (kind = 0 ∧ x.stat = .snapshot)
  · simp only [if_pos h]
  · simp only [if_neg h]
/-- A save that cannot complete is given up, and its record leads on. -/
theorem exec_saveAbandon_fails (hr : s.getRun (s.ctx c).run = some r) (hv : (s.ctx c).save = some (kind, since))
    (hf : s.saveFails c kind since = true) :
    ∃ u : State, CtxsOnly s.drawWord.2 u ∧
      (∀ l, u.ctx l = if l ∈ r.gang then (s.ctx l).saveDropped c kind l else s.ctx l) ∧
      exec (.saveAbandon c) s = .next (u.devRecord
        (devWords 0x41 c.core.val (s.ctx c).step (s.ctx c).opb (Config.freeWord s.free).toNat kind 0)
        (if kind = 0 then .redispatch (s.ctx c).run c.core.val else .recover (s.ctx c).run c.core.val 0x41)) := by
  refine ⟨r.gang.foldl (fun s l => s.modCtx l (Ctx.saveDropped c kind l)) s.drawWord.2,
    CtxsOnly.foldl (fun s l => CtxsOnly.modCtx s l _) _ _, State.ctx_foldl_modCtx Ctx.saveDropped_twice r.gang _, ?_⟩
  have body : (fun l y => if (decide (l = c) || decide (kind = 0) && decide (y.stat = .snapshot)) = true then { y with save := none } else y) =
      Ctx.saveDropped c kind := by
    funext l y
    simp only [Ctx.saveDropped, Bool.or_eq_true, Bool.and_eq_true, decide_eq_true_eq]
  simp only [exec_saveAbandon, execSaveAbandon, hv, hf, State.gang_eq hr, Bool.not_true, Bool.false_eq_true, if_false, ← body]
  rfl

/-! ## The start of a step (R32) -/

/-- The lane's registers and control registers as it starts with image `im` (R32, R276, R318). -/
theorem State.ctx_startLane (s : State) (c : CtxId) (n : Node) (carry : Carry) (base : Nat) (im : Image) :
    (s.startLane c n carry base im).ctx c =
      { (s.ctx c).fresh carry (BitVec.ofNat 64 (s.opbField n 0xB8 0 64)) (s.time + 1) with
        cr := { CReg.reset with tenstab := BitVec.ofNat 64 (s.asidWord (s.ctx c).asid 0x18 % 2 ^ 56) }
        wdLimit := BitVec.ofNat 32 (s.asidWord (s.ctx c).asid 8 % 2 ^ 17)
        debug := (s.asidWord (s.ctx c).asid 8 >>> 17) % 2 = 1
        kclass := im.kclass
        ndict := im.dict.length
        stream := im.stream } :=
  ((StorageOnly.foldl (fun s _ => StorageOnly.plainWrite s _) im.spad _).ctx c).trans (State.ctx_setCtx s c _)
theorem State.sreg_startLane (s : State) (c : CtxId) (n : Node) (carry : Carry) (base : Nat) (im : Image) :
    ((s.startLane c n carry base im).ctx c).sreg =
      ((s.ctx c).fresh carry (BitVec.ofNat 64 (s.opbField n 0xB8 0 64)) (s.time + 1)).sreg := by
  rw [State.ctx_startLane]
theorem State.dict_startLane (s : State) (c : CtxId) (n : Node) (carry : Carry) (base : Nat) (im : Image) :
    ((s.startLane c n carry base im).core c.core).dict[c.bank] = im.dict := by
  refine (congrArg (fun k : CoreSt => k.dict[c.bank]) (((StorageOnly.foldl (fun s _ => StorageOnly.plainWrite s _)
    im.spad _).core c.core).trans (State.core_modCore _ c.core _))).trans ?_
  exact Vector.getElem_set_self _

end Sys2Proof.Machine
end

section
/-!
SUPPORT. The registers of a started lane, a node's retirement, and the signal to a successor (R26, R32).
-/
namespace Sys2Proof.Machine
variable {s : State} {c : CtxId} {r : Run} {n m : Node} {a : BitVec 12} {o : Nat}

/-! ## The registers at a step's first bundle (R32) -/

/-- A scalar with the residue of its value is good (R369). -/
theorem SVal.good_of (w : Word) : (SVal.of w).good = true := by
  have : w.toNat % 15 < 15 := Nat.mod_lt _ (by decide)
  simp only [SVal.good, SVal.of, BitVec.toNat_ofNat, decide_eq_true_eq]
  omega
/-- The scalar registers of a started lane: the step's inputs from s56 on, zero below. -/
theorem Ctx.sreg_fresh (x : Ctx) (carry : Carry) (arena : Word) (t : Nat) (i : Fin 64) :
    (x.fresh carry arena t).sreg[i] =
      if i.val = 63 then SVal.of carry[3] else if i.val = 62 then SVal.of carry[2] else if i.val = 61 then SVal.of carry[1]
      else if i.val = 60 then SVal.of carry[0] else if i.val = 59 then SVal.of arena
      else if i.val = 58 then SVal.of (BitVec.ofNat 64 x.opb) else if i.val = 57 then SVal.of (BitVec.ofNat 64 x.lane.val)
      else if i.val = 56 then SVal.of x.step else ⟨0, 0⟩ := by
  simp [Ctx.fresh, Ctx.blank, Vector.getElem_set, eq_comm]
theorem Ctx.sreg_fresh_step (x : Ctx) (carry : Carry) (arena : Word) (t : Nat) :
    (x.fresh carry arena t).sreg[(56 : Fin 64)] = SVal.of x.step :=
  (x.sreg_fresh carry arena t 56).trans (by simp)
theorem Ctx.sreg_fresh_lane (x : Ctx) (carry : Carry) (arena : Word) (t : Nat) :
    (x.fresh carry arena t).sreg[(57 : Fin 64)] = SVal.of (BitVec.ofNat 64 x.lane.val) :=
  (x.sreg_fresh carry arena t 57).trans (by simp)
theorem Ctx.sreg_fresh_opb (x : Ctx) (carry : Carry) (arena : Word) (t : Nat) :
    (x.fresh carry arena t).sreg[(58 : Fin 64)] = SVal.of (BitVec.ofNat 64 x.opb) :=
  (x.sreg_fresh carry arena t 58).trans (by simp)
theorem Ctx.sreg_fresh_arena (x : Ctx) (carry : Carry) (arena : Word) (t : Nat) :
    (x.fresh carry arena t).sreg[(59 : Fin 64)] = SVal.of arena :=
  (x.sreg_fresh carry arena t 59).trans (by simp)
theorem Ctx.sreg_fresh_low (x : Ctx) (carry : Carry) (arena : Word) (t : Nat) {i : Fin 64} (h : i.val < 56) :
    (x.fresh carry arena t).sreg[i] = ⟨0, 0⟩ := by
  rw [Ctx.sreg_fresh]
  simp only [show i.val ≠ 63 by omega, show i.val ≠ 62 by omega, show i.val ≠ 61 by omega, show i.val ≠ 60 by omega,
    show i.val ≠ 59 by omega, show i.val ≠ 58 by omega, show i.val ≠ 57 by omega, show i.val ≠ 56 by omega, if_false]
theorem Ctx.good_fresh (x : Ctx) (carry : Carry) (arena : Word) (t : Nat) (i : Fin 64) :
    ((x.fresh carry arena t).sreg[i]).good = true := by
  rw [Ctx.sreg_fresh]
  repeat' split
  all_goals exact SVal.good_of _
theorem Ctx.carry_fresh (x : Ctx) (carry : Carry) (arena : Word) (t : Nat) (i : Fin 4) :
    ((x.fresh carry arena t).sreg[60 + i.val]).val = carry[i] := by
  show ((x.fresh carry arena t).sreg[(⟨60 + i.val, by omega⟩ : Fin 64)]).val = carry[i]
  rw [Ctx.sreg_fresh]
  match i with
  | 0 => simp [SVal.of]
  | 1 => simp [SVal.of]
  | 2 => simp [SVal.of]
  | 3 => simp [SVal.of]

/-! ## Signals and retirement (R26) -/

theorem State.Canonical.badOpb (h : s.Canonical) (o : Nat) : (s.badOpb o).Canonical := h.devRecord _ _
theorem State.Canonical.makeReady (h : s.Canonical) (n : Node) (q : Option Nat) : (s.makeReady n q).Canonical := by
  have h' : (if (s.node n.asid n.opb).isSome then s else { s with nodes := s.nodes ++ [n] }).Canonical :=
    State.Canonical.ite (fun _ => h) fun _ => h.mk'
  unfold State.makeReady
  dsimp only
  cases q with
  | some q => exact (h'.setOpb _ _ _ _ _).setOpb _ _ _ _ _
  | none => exact State.Canonical.setOpb (State.Canonical.setOpb h'.mk' _ _ _ _ _) _ _ _ _ _
theorem State.Canonical.signal (h : s.Canonical) (a : BitVec 12) (o : Nat) : (s.signal a o).Canonical := by
  unfold State.signal
  split
  · exact h.badOpb o
  · refine State.Canonical.ite (fun _ => h) fun _ => ?_
    have h' := h.setOpb ‹Node› 0x38 0 32 (s.opbField ‹Node› 0x38 0 32 - 1)
    exact State.Canonical.ite (fun _ => h') fun _ => State.Canonical.ite (fun _ => h'.makeReady _ _) fun _ => h'.badOpb o

/-- The last act of a retirement: the state RETIRED, and nothing of the node is held any more. -/
def State.depart (u : State) (n : Node) : State :=
  let t := u.setOpb n 0x90 0 3 4
  State.settlePreempt { t with
    nodes := t.nodes.filter fun m => !(m.asid = n.asid && m.opb = n.opb)
    waiters := t.waiters.filter fun w => !(w.asid = n.asid && w.opb = n.opb) }
/-- A retirement ends with the departure of the node. -/
theorem State.retire_departs (hs : s.Canonical) (n : Node) : ∃ u : State, u.Canonical ∧ s.retire n = u.depart n := by
  unfold State.retire
  extract_lets f h inh prio rseq named child succs freed told passed gone
  have hfreed : freed.Canonical := (State.Canonical.branch hs (hs.arenaDeath _)).setOpb _ _ _ _ _
  have htold : told.Canonical := State.Canonical.foldl succs (fun _ _ h => h.signal _ _) hfreed
  have hpassed : passed.Canonical := by
    clear_value child
    cases child with
    | some m => exact (State.Canonical.branch (htold.setOpb _ _ _ _ _) htold).makeReady _ _
    | none => exact State.Canonical.branch (htold.badOpb _) htold
  exact ⟨passed, hpassed, rfl⟩
/-- A node without an arena and without a tail only tells its successors. -/
theorem State.retire_plain (ha : s.opbField n 0xB8 0 64 = 0) (ht : s.opbField n 0xB0 56 2 = 0) :
    s.retire n = State.depart (((List.range (s.opbField n 0x40 56 8)).filterMap fun i =>
      s.vaNum n.asid (s.opbField n 0x40 0 56 + 8 * i) 8).foldl (fun s o => s.signal n.asid o) (s.setOpb n 0xB8 0 64 0)) n := by
  unfold State.retire
  extract_lets f h inh prio rseq named child succs freed told passed gone
  have none_named : ¬named := by simp [named, f, ht]
  have no_child : child = none := if_neg none_named
  have kept : freed = s.setOpb n 0xB8 0 64 0 := by
    simp only [freed, h, f, ha, no_child, Option.isSome_none, Bool.and_false, Bool.false_eq_true, if_false]
    rfl
  have still : passed = told := by
    simp only [passed, no_child, if_neg none_named]
  show State.depart passed n = _
  rw [still]
  simp only [told, kept]
  rfl

theorem State.byte_depart {u : State} (n : Node) (x : Nat) : (u.depart n).byte x = (u.setOpb n 0x90 0 3 4).byte x := rfl
theorem State.opbField_depart {u : State} (n : Node) (off lo w : Nat) :
    (u.depart n).opbField n off lo w = (u.setOpb n 0x90 0 3 4).opbField n off lo w := rfl
theorem State.node_depart (u : State) (n : Node) : (u.depart n).node n.asid n.opb = none := by
  refine List.find?_eq_none.2 fun m hm => ?_
  have := (List.mem_filter.1 hm).2
  simpa [imp_iff_not_or] using this
theorem State.waiters_depart (u : State) (n : Node) : ∀ w ∈ (u.depart n).waiters, ¬(w.asid = n.asid ∧ w.opb = n.opb) := by
  intro w hw
  have := (List.mem_filter.1 hw).2
  simpa [imp_iff_not_or] using this
theorem exec_nodeRetirement_due (hn : s.node n.asid n.opb = some n) (hs : s.nodeState n = 3) (hb : s.nodeBusy n.asid n.opb = false)
    (hd : n.dying = none) : exec (.nodeRetirement n.asid n.opb) s = .next (s.retire n) := by
  simp only [exec_nodeRetirement, execNodeRetirement, hn, hs, hb, hd, decide_true, Bool.not_false, Option.isNone_none,
    Bool.and_self, if_true]

/-! ## The signal to a node that waits -/

theorem State.signal_done (hn : s.node a o = some m) (hd : s.opbField m 0x38 0 32 = 0) : s.signal a o = s := by
  simp [State.signal, hn, hd]
theorem State.signal_waits (hn : s.node a o = some m) (hs : s.nodeState m = 0) (hd : 2 ≤ s.opbField m 0x38 0 32) :
    s.signal a o = s.setOpb m 0x38 0 32 (s.opbField m 0x38 0 32 - 1) := by
  simp [State.signal, hn, hs, show s.opbField m 0x38 0 32 ≠ 0 by omega, show s.opbField m 0x38 0 32 ≠ 1 by omega]
theorem State.signal_ready (hn : s.node a o = some m) (hs : s.nodeState m = 0) (hd : s.opbField m 0x38 0 32 = 1) :
    s.signal a o = (s.setOpb m 0x38 0 32 0).makeReady m none := by
  have same : (s.setOpb m 0x38 0 32 0).node a o = some m := ((StorageOnly.setNum s _ _ _).node a o).trans hn
  simp [State.signal, hn, hs, hd, same]

end Sys2Proof.Machine
end

section
/-!
CERTIFICATE. From a step's start to its node's retirement.
-/
namespace Sys2Proof.Machine
variable {s : State} {c : CtxId} {r : Run} {n : Node} {since kind : Nat}

/-! ## The start of a step (R32, R364) -/

/-- What the core already holds of the kernel's dictionary (R66). -/
def State.heldDict (s : State) (c : CtxId) (base : Nat) : Option (List BundleBits) :=
  if (s.core c.core).dictOf[c.bank] = some ((s.ctx c).asid, base) then some (s.core c.core).dict[c.bank] else none
/-- The kernel image that a lane of node `n` starts with. -/
def State.stepImage (s : State) (c : CtxId) (n : Node) : Gate Image :=
  s.loadImage (s.ctx c).asid (s.opbField n 0x00 0 56) (s.opbField n 0x08 12 2) (s.heldDict c (s.opbField n 0x00 0 56))

/-- The conditions of STEP_START, for a lane of run `r` of node `n`. -/
structure State.Starts (s : State) (c : CtxId) (r : Run) (n : Node) : Prop where
  stat  : (s.ctx c).stat = .loaded
  wait  : (s.ctx c).wait = .none
  quiet : s.spadQuiet c = true
  run   : s.getRun (s.ctx c).run = some r
  node  : s.node (s.ctx c).asid (s.ctx c).opb = some n

theorem exec_stepStart_ok {im : Image} (h : s.Starts c r n) (hi : s.stepImage c n = .ok im) :
    exec (.stepStart c) s =
      .next (s.startLane c n (r.carries.getD (s.ctx c).lane.val (s.opbCarry n)) (s.opbField n 0x00 0 56) im) := by
  rw [State.stepImage, State.heldDict] at hi
  simp only [exec_stepStart, execStepStart, h.stat, h.wait, h.quiet, h.run, h.node, decide_true, Bool.and_self, if_true, hi]
theorem exec_stepStart_fail {f : Fail} (h : s.Starts c r n) (hi : s.stepImage c n = .fail f) :
    exec (.stepStart c) s = .next (((r.gang.filter fun l => l ≠ c && (s.ctx l).stat = .loaded).foldl
      (fun u l => u.ctxRecord l (preciseWords l .fetch 0 0 0 (s.ctx c).step (s.ctx c).opb f) .nothing) s).trap c .fetch 0 0 0 f) := by
  rw [State.stepImage, State.heldDict] at hi
  simp only [exec_stepStart, execStepStart, h.stat, h.wait, h.quiet, h.run, h.node, decide_true, Bool.and_self, if_true, hi]

/-! ## Random buffers, the watchdog, pre-emption, slots -/

theorem exec_randomBufferFill_due {x y : List Host.Cell} (hn : s.node n.asid n.opb = some n) (hs : s.nodeState n = 1)
    (hb : s.opbBit n 22 = true) (hd : n.rndDone = false) (hl : n.dying = none) (hx : s.randomCells n 0x70 = .ok x)
    (hy : s.randomCells n 0x80 = .ok y) :
    exec (.randomBufferFill n.asid n.opb) s =
      .next ((s.plainWrite (x ++ y)).modNode n.asid n.opb fun m => { m with rndDone := true }) := by
  simp only [exec_randomBufferFill, execRandomBufferFill, hn, hs, hb, hd, hl, hx, hy, Gate.bind, decide_true, Bool.not_false,
    Option.isNone_none, Bool.and_self, if_true]

/-- The step of a lane that has expired is stopped with its node, by the first lane of the gang that has (R345, R355). -/
theorem exec_watchdogExpiry_expired {l : CtxId} (hr : s.getRun (s.ctx c).run = some r) (he : s.expired c = true)
    (hl : r.gang.find? s.expired = some l) : let y := s.ctx l
    exec (.watchdogExpiry c) s = .next ((s.stopRun y.run).abortNode y.asid y.opb 0x40 l.core.val y.step
      [devWords 0x40 l.core.val y.step y.opb 0 y.lastPc.toNat y.wdLimit.toNat]) := by
  simp only [exec_watchdogExpiry, execWatchdogExpiry, he, if_true, State.gang_eq hr, hl, Option.getD_some]
theorem State.expired_of {b : Nat} (h : (s.ctx c).stat = .running ∨ (s.ctx c).stat = .ending ∨ (s.ctx c).stat = .finished)
    (hb : (s.ctx c).wdSince = some b) (hl : (s.ctx c).wdLimit.toNat ≤ (s.ctx c).wdAcc + (s.time - b)) : s.expired c = true := by
  simp only [State.expired, Ctx.wdCount, hb, Bool.and_eq_true, Bool.or_eq_true, decide_eq_true_eq, or_assoc]
  exact ⟨h, hl⟩

/-- The conditions of PREEMPTION_SAVE. -/
structure State.SavesLanes (s : State) (n : Node) : Prop where
  node   : s.node n.asid n.opb = some n
  asked  : n.pre = .requested
  alive  : n.dying = none
  early  : s.nodeState n ≤ 2
  free   : s.deciding (.keep n.asid n.opb) = false
  idle   : ∀ r ∈ s.runs, r.asid = n.asid → r.opb ≠ n.opb

theorem State.SavesLanes.due (h : s.SavesLanes n) : (n.pre = .requested && n.dying.isNone && decide (s.nodeState n ≤ 2) &&
    !s.deciding (.keep n.asid n.opb) && !s.runs.any fun r => r.asid = n.asid && r.opb = n.opb) = true := by
  have idle : (s.runs.any fun r => decide (r.asid = n.asid) && decide (r.opb = n.opb)) = false := by
    simpa using h.idle
  simp only [h.asked, h.alive, h.early, h.free, idle, decide_true, Option.isNone_none, Bool.not_false, Bool.and_self]
theorem State.SavesLanes.exec_saved (h : s.SavesLanes n) {t : State} (ho : s.saveOver n.preSince = false)
    (hw : s.writeLanes n = some t) : exec (.preemptionSave n.asid n.opb) s = .next (t.setPre n.asid n.opb .saved) := by
  simp only [exec_preemptionSave, execPreemptionSave, h.node, h.due, if_true, ho, hw, Bool.false_eq_true, if_false]
theorem State.SavesLanes.exec_kept (h : s.SavesLanes n) (hw : s.saveOver n.preSince = true ∨ s.writeLanes n = none) :
    exec (.preemptionSave n.asid n.opb) s =
      .next (s.devRecord (devWords 0x41 0xFF 0 n.opb (s.opbField n 0x48 0 56) 1 0) (.keep n.asid n.opb)) := by
  have lost : (if s.saveOver n.preSince = true then none else s.writeLanes n) = none := by
    rcases hw with h | h
    · rw [if_pos h]
    · rw [h, ite_self]
  simp only [exec_preemptionSave, execPreemptionSave, h.node, h.due, if_true, lost]
/-- Lane records are written to storage alone. -/
theorem State.storageOnly_writeLanes {t : State} (h : s.writeLanes n = some t) : StorageOnly s t := by
  obtain ⟨ls, -, h⟩ := Option.bind_eq_some_iff.1 h
  split at h
  · cases h
  · cases h
    exact StorageOnly.plainWrite s _

theorem exec_slotBoundary_at (h : s.clock % 95000 = 0) :
    exec .slotBoundary s = .next { s with cfg := { s.cfg with slots := s.cfg.slotsNew } } :=
  congrArg Host.Outcome.next (if_pos h)
theorem exec_slotBoundary_off (h : s.clock % 95000 ≠ 0) : exec .slotBoundary s = .next s :=
  congrArg Host.Outcome.next (if_neg h)

/-! ## Retirement (R26) -/

theorem State.opbField_retired {u : State} (hu : u.Canonical) (n : Node) : (u.depart n).opbField n 0x90 0 3 = 4 := by
  rw [State.opbField_depart]
  exact State.opbField_setOpb hu (by decide)
/-- A departure changes one word of its node's OPB. -/
theorem State.byte_departed {u : State} (hu : u.Canonical) {x : Nat} (hx : ¬(n.phys + 0x90 ≤ x ∧ x < n.phys + 0x98)) :
    (u.depart n).byte x = u.byte x := by
  rw [State.byte_depart, State.byte_setOpb hu hx]
/-- The only successor of a node without an arena and without a tail is told. -/
theorem State.retire_one {o : Nat} (ha : s.opbField n 0xB8 0 64 = 0) (ht : s.opbField n 0xB0 56 2 = 0)
    (hc : s.opbField n 0x40 56 8 = 1) (ho : s.vaNum n.asid (s.opbField n 0x40 0 56) 8 = some o) :
    s.retire n = ((s.setOpb n 0xB8 0 64 0).signal n.asid o).depart n := by
  simp [State.retire_plain ha ht, hc, List.range_succ, ho]
theorem State.retire_none (ha : s.opbField n 0xB8 0 64 = 0) (ht : s.opbField n 0xB0 56 2 = 0) (hc : s.opbField n 0x40 56 8 = 0) :
    s.retire n = (s.setOpb n 0xB8 0 64 0).depart n := by
  simp [State.retire_plain ha ht, hc]

/-! ## The statements -/

/-- Settles O50: each event's effect, read off from what it does where its conditions hold. -/
theorem schedulerEventsComplete : Obligations.SchedulerEventsComplete := by
  unfold Obligations.SchedulerEventsComplete
  refine ⟨fun s c r since hr hc hb hs hv ho => ?_, fun s c r n im hs hw hq hr hn hi => ?_,
    fun s n x y hn hs hb hd hl hx hy => ?_, fun s c r hr hc he => ?_, fun s u n hn hp hl hs hd hr ho hw => ?_,
    fun s c r kind since hr hc hv hf => ?_, fun s h => ⟨_, exec_slotBoundary_at h, rfl, rfl⟩, fun s n hs hn h3 hb hd => ?_⟩
  · obtain ⟨t, ht, -, hctx⟩ := exec_stepSnapshotSave_snapshot hr hs hv (State.saveFails_snapshot hr ho hb)
    have here := hctx c
    rw [if_pos hc, Ctx.snapshotSaved_of _ hs] at here
    exact ⟨t, ht, by rw [here], by rw [here]⟩
  · have hstart : s.Starts c r n := ⟨hs, hw, hq, hr, hn⟩
    refine ⟨_, exec_stepStart_ok hstart hi, ?_⟩
    rw [State.sreg_startLane, State.ctx_startLane]
    exact ⟨rfl, rfl, rfl, Ctx.sreg_fresh_step _ _ _ _⟩
  · refine ⟨_, exec_randomBufferFill_due hn hs hb hd hl hx hy, State.node_modNode (fun _ => ⟨rfl, rfl⟩)
      (((StorageOnly.plainWrite s _).node _ _).trans hn), fun hs hnd cell hcell => State.byte_plainWrite_of_mem hs hnd hcell⟩
  · obtain ⟨l, hl⟩ := Option.isSome_iff_exists.1 (List.find?_isSome.2 ⟨c, hc, he⟩)
    exact ⟨l, List.mem_of_find?_eq_some hl, List.find?_some hl, exec_watchdogExpiry_expired hr he hl⟩
  · have hsave : s.SavesLanes n := ⟨hn, hp, hl, hs, hd, hr⟩
    exact ⟨_, hsave.exec_saved ho hw, rfl, State.node_setPre (((State.storageOnly_writeLanes hw).node _ _).trans hn)⟩
  · obtain ⟨u, hu, hctx, hexec⟩ := exec_saveAbandon_fails hr hv hf
    refine ⟨u, by rw [hu]; rfl, ?_, hexec⟩
    rw [hctx, if_pos hc, Ctx.saveDropped, if_pos (.inl rfl)]
  · obtain ⟨u, hu, hret⟩ := State.retire_departs hs n
    refine ⟨_, exec_nodeRetirement_due hn h3 hb hd, ?_⟩
    rw [hret]
    exact ⟨State.opbField_retired hu n, State.node_depart u n, State.waiters_depart u n⟩

/-- Settles O49: the lemma on each event, with the frame it leaves; a started lane's registers are those of R32 one by one, and
a node without arena and tail tells its one successor before it leaves. -/
theorem stepsStartAndNodesEnd : Obligations.StepsStartAndNodesEnd := by
  unfold Obligations.StepsStartAndNodesEnd
  refine ⟨fun s c r since hr hc hall hv ho hb => ?_, fun s c kind since => ?_, fun s c r n => ?_,
    fun s n x y hn hs hb hd hl hx hy => exec_randomBufferFill_due hn hs hb hd hl hx hy,
    fun s c l r b => ?_, fun s n hn hp hl hs hd hr => ?_, fun s c r kind since => ?_,
    fun s => ⟨exec_slotBoundary_at, exec_slotBoundary_off⟩, fun s n hs hn h3 hb hd ht ha => ?_, fun s a o m hn hs => ?_⟩
  · -- a snapshot stands
    obtain ⟨t, ht, hframe, hctx⟩ := exec_stepSnapshotSave_snapshot hr (hall c hc) hv (State.saveFails_snapshot hr ho hb)
    refine ⟨t, ht, hframe, fun l => (hctx l).trans ?_⟩
    by_cases hl : l ∈ r.gang
    · rw [if_pos hl, if_pos hl, Ctx.snapshotSaved_of _ (hall l hl)]
    · rw [if_neg hl, if_neg hl]
  · -- a dump stands
    intro x hw hs hv hk ho hp
    exact ⟨_, exec_stepSnapshotSave_dump hw hs hv (State.saveFails_dump hk ho hp), rfl,
      fun l hl => State.ctx_modCtx_ne _ _ hl, State.ctx_modCtx _ c _⟩
  · -- a step starts
    intro x base k image hs hw hq hr hn
    have hstart : s.Starts c r n := ⟨hs, hw, hq, hr, hn⟩
    refine ⟨fun im hi => ⟨_, exec_stepStart_ok hstart hi, ?_⟩, fun f hi => exec_stepStart_fail hstart hi⟩
    dsimp only
    rw [State.dict_startLane, State.sreg_startLane, State.ctx_startLane]
    exact ⟨rfl, rfl, rfl, rfl, rfl, rfl, rfl, rfl, rfl, Nat.lt_of_lt_of_le (Nat.lt_succ_self _) (Nat.le_max_right _ _), rfl, rfl,
      rfl, congrArg SVal.val (Ctx.sreg_fresh_step _ _ _ _), congrArg SVal.val (Ctx.sreg_fresh_lane _ _ _ _),
      congrArg SVal.val (Ctx.sreg_fresh_opb _ _ _ _), by rw [Ctx.sreg_fresh_arena]; rfl,
      Ctx.carry_fresh _ _ _ _, fun i => Ctx.sreg_fresh_low _ _ _ _, Ctx.good_fresh _ _ _ _,
      rfl, rfl, rfl, rfl, rfl, rfl, rfl, rfl, rfl, rfl, rfl, rfl⟩
  · -- a watchdog expires
    intro x y hs hr hw hlim hl _
    exact exec_watchdogExpiry_expired hr (State.expired_of hs hw hlim) hl
  · -- a pre-empted node's lanes are saved or kept
    have hsave : s.SavesLanes n := ⟨hn, hp, hl, hs, hd, hr⟩
    exact ⟨fun t ho hw => hsave.exec_saved ho hw, hsave.exec_kept⟩
  · -- a save is abandoned
    intro x hr hc hv hlate
    obtain ⟨u, hu, hctx, hexec⟩ := exec_saveAbandon_fails hr hv (State.saveFails_late hlate)
    refine ⟨u, hu, fun l => (hctx l).trans ?_, hexec⟩
    by_cases hl : l ∈ r.gang
    · simp only [hl, if_true, true_and]
      rfl
    · simp only [hl, false_and, if_false]
  · -- a node retires
    have hcell : (s.setOpb n 0xB8 0 64 0).Canonical := hs.setOpb _ _ _ _ _
    refine ⟨fun hc => ⟨_, exec_nodeRetirement_due hn h3 hb hd, ?_⟩, fun o hc ho => ⟨_, exec_nodeRetirement_due hn h3 hb hd, ?_⟩⟩
    · rw [State.retire_none ha ht hc]
      refine ⟨State.opbField_retired hcell n, State.node_depart _ n, State.waiters_depart _ n, ?_, fun x hx => ?_⟩
      · rw [State.opbField_depart, State.opbField_setOpb_elsewhere hcell (by decide)]
        exact State.opbField_setOpb hs (by decide)
      · rw [State.byte_departed hcell hx.1, State.byte_setOpb hs hx.2]
    · rw [State.retire_one ha ht hc ho]
      exact fun x hx => State.byte_departed (hcell.signal _ _) hx.1
  · -- a successor is told
    exact ⟨State.signal_done hn, State.signal_waits hn hs, State.signal_ready hn hs⟩

end Sys2Proof.Machine
end

section
/-!
CERTIFICATE. Lanes between bundles: rendezvous, the end of a step, landings outside a bundle, and bank switches (O42).
-/
namespace Sys2Proof.Machine

variable {s : State} {c : CtxId} {l : Landing}

/-! ## Rendezvous and the end of a step -/

/-- A lane that leaves a rendezvous at time `now` (R30, R35). -/
def Ctx.released (now : Nat) (x : Ctx) : Ctx := { x with
  wait := .none
  synced := true
  phaseOpen := now }

theorem exec_syncBundle (c : CtxId) (s : State) : exec (.syncBundle c) s = execSyncBundle c s := rfl
theorem exec_syncRelease (c : CtxId) (s : State) : exec (.syncRelease c) s = execSyncRelease c s := rfl
theorem exec_endOfStepBundle (c : CtxId) (s : State) : exec (.endOfStepBundle c) s = execEndOfStepBundle c s := rfl
theorem exec_laneFinish (c : CtxId) (s : State) : exec (.laneFinish c) s = execLaneFinish c s := rfl
theorem exec_resultLand (c : CtxId) (s : State) : exec (.resultLand c) s = execResultLand c s := rfl
theorem exec_bankSwitch (core : Fin 128) (s : State) : exec (.bankSwitch core) s = execBankSwitch core s := rfl

theorem State.modCtx_openPhase (s : State) (l : CtxId) :
    (s.modCtx l fun x => { x with wait := .none, synced := true }).openPhase l = s.modCtx l (Ctx.released s.time) :=
  State.modCtx_modCtx s l _ _

/-- The loop of a release is one at the time of its first turn: no turn moves time. -/
theorem State.foldl_release (g : List CtxId) (s : State) :
    g.foldl (fun s l => (s.modCtx l fun x => { x with wait := .none, synced := true }).openPhase l) s =
      g.foldl (fun u l => u.modCtx l (Ctx.released s.time)) s := by
  induction g generalizing s with
  | nil => rfl
  | cons l g ih =>
    rw [List.foldl_cons, List.foldl_cons, State.modCtx_openPhase, ih]
    rfl

/-- All lanes of a gang leave a rendezvous together. -/
theorem exec_syncRelease_met {r : Run} (hr : s.getRun (s.ctx c).run = some r)
    (hmet : ∀ l ∈ r.gang, (s.ctx l).stat = .running ∧ (s.ctx l).wait = .sync) :
    exec (.syncRelease c) s = .next (r.gang.foldl (fun u l => u.modCtx l (Ctx.released s.time)) s) := by
  rw [exec_syncRelease, execSyncRelease, State.gang_eq hr]
  rw [if_pos (List.all_eq_true.2 fun l hl => by simp [hmet l hl]), State.foldl_release]

theorem State.laneDone_of (hs : (s.ctx c).stat = .ending) (hw : (s.ctx c).wait = .none) (hq : (s.ctx c).ringQ = [])
    (hp : (s.ctx c).pipe = []) (hx : (s.ctx c).xq = [])
    (hk : ∀ k ∈ s.kcmds, k.owner = c → k.run = (s.ctx c).run → k.path.isSome = true →
      k.stage = .srcDone ∨ k.stage = .visible ∨ k.errored = true) : s.laneDone c = true := by
  have hcmds : ∀ k ∈ s.kcmds, (!(k.owner = c && k.run = (s.ctx c).run && k.path.isSome) || k.stage = .srcDone ||
      k.stage = .visible || k.errored) = true := by
    intro k hm
    by_cases hown : k.owner = c ∧ k.run = (s.ctx c).run ∧ k.path.isSome = true
    · have hstage := hk k hm hown.1 hown.2.1 hown.2.2
      simpa [hown, or_assoc] using hstage
    · have hfree : (k.owner = c && k.run = (s.ctx c).run && k.path.isSome) = false := by
        rw [Bool.eq_false_iff]; simpa [and_assoc] using hown
      simp [hfree]
  rw [State.laneDone]
  rw [List.all_eq_true.2 hcmds]
  simp [hs, hp, hx, Ctx.held, hw, hq]

/-- A lane that is done finishes, and the step ends with the last of the gang. -/
theorem exec_laneFinish_done {r : Run} (h : s.laneDone c = true) (hr : s.getRun (s.ctx c).run = some r) :
    exec (.laneFinish c) s = .next (
      let t := s.modCtx c fun y => { y with stat := .finished, wait := .none }
      if r.gang.all fun l => (t.ctx l).stat = .finished then t.stepEnds r else t) := by
  have hr' : (s.modCtx c fun y => { y with stat := .finished, wait := .none }).getRun
      ((s.modCtx c fun y => { y with stat := .finished, wait := .none }).ctx c).run = some r := by
    rw [State.ctx_modCtx]; exact hr
  rw [exec_laneFinish, execLaneFinish, if_pos h]
  dsimp only
  rw [hr']

/-! ## Results that no bundle lands -/

/-- An interlocked result alone in its pipeline that memory may let arrive at time `now` (log entry 12). -/
theorem filter_interlocked {now : Nat} (hd : l.due = none) (ho : l.opens = true → l.t < now) :
    [(0, l)].filter (fun q : Nat × Landing => q.2.due.isNone && !(q.2.opens && decide (now ≤ q.2.t))) = [(0, l)] := by
  refine List.filter_cons_of_pos ?_
  cases hop : l.opens with
  | false => simp [hd]
  | true => simpa [hd, hop] using ho hop
theorem State.nextLanding_exposed (hp : (s.ctx c).pipe = [l]) (hs : (s.ctx c).stat = .ending) (hd : l.due.isSome = true)
    (ht : l.t ≤ s.time) : s.nextLanding c = some (0, l) := by
  rw [State.nextLanding, hp]
  simp [hs, hd, ht, earliest, List.range_succ]
theorem State.nextLanding_interlocked (hp : (s.ctx c).pipe = [l])
    (hs : (s.ctx c).stat = .ending ∨ (s.ctx c).stat = .running) (hd : l.due = none) (ho : l.opens = true → l.t < s.time) :
    s.nextLanding c = some (0, l) := by
  have hzip : (List.range [l].length).zip [l] = [(0, l)] := rfl
  rw [State.nextLanding, hp, hzip, filter_interlocked hd ho]
  rcases hs with hs | hs <;> simp [hs, hd, earliest, Nat.mod_one]

theorem State.settleFence_none (h : (s.ctx c).wait = .none) : s.settleFence c = s := by
  rw [State.settleFence, h]

theorem Ctx.wait_write (x : Ctx) (w : RegWrite) : (x.write w).wait = x.wait ∧ (x.write w).phaseOpen = x.phaseOpen := by
  cases w <;> rw [Ctx.write] <;> repeat' split
  all_goals exact ⟨rfl, rfl⟩
theorem Ctx.wait_landed (x : Ctx) (l : Landing) : (x.landed l).wait = x.wait ∧ (x.landed l).phaseOpen = x.phaseOpen := by
  have hwrites : ∀ (ws : List RegWrite) (x : Ctx), (ws.foldl Ctx.write x).wait = x.wait ∧
      (ws.foldl Ctx.write x).phaseOpen = x.phaseOpen := by
    intro ws
    induction ws with
    | nil => exact fun x => ⟨rfl, rfl⟩
    | cons w ws ih => exact fun x => ⟨(ih _).1.trans (x.wait_write w).1, (ih _).2.trans (x.wait_write w).2⟩
  have hlatch : ∀ (x : Ctx) (sl : Slot) (v : Latch), (x.pushLatch sl v).wait = x.wait ∧
      (x.pushLatch sl v).phaseOpen = x.phaseOpen := by
    intro x sl v; rw [Ctx.pushLatch]; split <;> exact ⟨rfl, rfl⟩
  have hraise : ∀ (x : Ctx) (sl : Slot) (pc : W32) (f : Flags), (x.raise sl pc f).wait = x.wait ∧
      (x.raise sl pc f).phaseOpen = x.phaseOpen := by
    intro x sl pc f; rw [Ctx.raise]; split <;> exact ⟨rfl, rfl⟩
  have hw := hwrites l.writes x
  rw [Ctx.landed]
  cases l.latch with
  | none => exact ⟨(hraise _ _ _ _).1.trans hw.1, (hraise _ _ _ _).2.trans hw.2⟩
  | some v => exact ⟨((hraise _ _ _ _).1.trans (hlatch _ _ _).1).trans hw.1,
      ((hraise _ _ _ _).2.trans (hlatch _ _ _).2).trans hw.2⟩

/-- A lane on which a result has landed that writes no scratchpad byte: its registers, and the phase that it opens. -/
def Ctx.landedAt (now : Nat) (l : Landing) (x : Ctx) : Ctx :=
  { x.landed l with phaseOpen := if l.opens then now else (x.landed l).phaseOpen }

/-- A landing that writes no scratchpad byte changes its context alone. -/
theorem State.landOne_noCells (hc : l.writes.flatMap RegWrite.cells = []) (s : State) (c : CtxId) :
    s.landOne c l = s.modCtx c (Ctx.landedAt s.time l) := by
  rw [State.landOne]
  rw [hc]
  have hspad : ∀ u : State, u.spadWrite c [] = u := fun _ => rfl
  rw [hspad]
  cases ho : l.opens with
  | true =>
    rw [if_pos rfl, State.modCtx_modCtx]
    exact State.modCtx_congr (by simp only [Ctx.landedAt, ho]; rfl)
  | false =>
    rw [if_neg Bool.false_ne_true]
    exact State.modCtx_congr (by simp only [Ctx.landedAt, ho]; rfl)

/-- After the end-of-step bundle a result lands at once. -/
theorem exec_resultLand_ending (hw : (s.ctx c).wait = .none) (hs : (s.ctx c).stat = .ending)
    (hc : l.writes.flatMap RegWrite.cells = []) (hn : s.nextLanding c = some (0, l)) :
    exec (.resultLand c) s = .next (s.draw.2.modCtx c fun x => Ctx.landedAt s.time l { x with pipe := x.pipe.eraseIdx 0 }) := by
  have hrun : (s.ctx c).stat ≠ .running := by rw [hs]; decide
  rw [exec_resultLand, execResultLand, hn]
  dsimp only
  rw [if_neg hrun, State.landOne_noCells hc, State.modCtx_modCtx, State.settleFence_none]
  · rfl
  · rw [State.ctx_modCtx]
    exact (Ctx.wait_landed _ l).1.trans hw
/-- An interlocked result that reaches a running lane waits for its next bundle. -/
theorem exec_resultLand_running (hw : (s.ctx c).wait = .none) (hs : (s.ctx c).stat = .running)
    (hn : s.nextLanding c = some (0, l)) : exec (.resultLand c) s = .next (s.draw.2.deliver c 0 l) := by
  rw [exec_resultLand, execResultLand, hn]
  dsimp only
  rw [if_pos hs, State.settleFence_none]
  rw [State.deliver, State.ctx_modCtx]
  exact hw

/-! ## Bank switches -/

theorem otherBank_otherBank (c : CtxId) : otherBank (otherBank c) = c := by
  obtain ⟨k, b⟩ := c
  fin_cases b <;> rfl
theorem otherBank_ne (c : CtxId) : otherBank c ≠ c := by
  obtain ⟨k, b⟩ := c
  fin_cases b <;> simp [otherBank]

/-- The switch to the other bank: its core's bank and count, both latches, and the bundle that it may issue first. -/
theorem State.switchTo_other (s : State) (c : CtxId) :
    s.switchTo c.core (otherBank c).bank = (((s.modCtx c Ctx.noLatches).modCtx (otherBank c) fun x =>
      { x.noLatches with nextIssue := s.time + Config.switchCycles }).modCore c.core fun k => { k with
        cur := (otherBank c).bank
        perf := { k.perf with switches := k.perf.switches + 1 } }) := by
  have hdest : (⟨c.core, (otherBank c).bank⟩ : CtxId) = otherBank c := rfl
  rw [State.switchTo, hdest, otherBank_otherBank]
  rfl

theorem exec_bankSwitch_goes {core : Fin 128} (hr : (s.ctx (otherBank ⟨core, (s.core core).cur⟩)).stat = .running)
    (hw : (s.ctx (otherBank ⟨core, (s.core core).cur⟩)).wait = .none)
    (ht : (s.ctx (otherBank ⟨core, (s.core core).cur⟩)).nextIssue ≤ s.time)
    (hb : (s.ctx ⟨core, (s.core core).cur⟩).between s.time = true)
    (hgo : (s.ctx ⟨core, (s.core core).cur⟩).asleep = true ∨ s.chosen core = (otherBank ⟨core, (s.core core).cur⟩).bank) :
    exec (.bankSwitch core) s = .next (s.switchTo core (otherBank ⟨core, (s.core core).cur⟩).bank) := by
  rw [exec_bankSwitch, execBankSwitch, if_pos]
  simp [Ctx.awake, hr, hw, ht, hb, hgo]

/-- A lane that sleeps on a word, a ring, a future or a fault is asleep, and at a bundle boundary once its bundle had its cycles. -/
theorem Ctx.asleep_between {x : Ctx} {now : Nat} (ht : x.nextIssue ≤ now)
    (hw : (∃ ge l v, x.wait = .word ge l v) ∨ (∃ h n, x.wait = .ring h n) ∨ (∃ l a d pc, x.wait = .future l a d pc) ∨
      ∃ sl f, x.wait = .fault sl f) : x.asleep = true ∧ x.between now = true := by
  rw [Ctx.asleep, Ctx.between]
  rcases hw with ⟨_, _, _, hw⟩ | ⟨_, _, hw⟩ | ⟨_, _, _, _, hw⟩ | ⟨_, _, hw⟩ <;> rw [hw] <;> exact ⟨rfl, by simpa using ht⟩

/-- Settles O42: each event by the lemma that says what it does under its conditions. -/
theorem lanesMeetAndEnd : Obligations.LanesMeetAndEnd := by
  unfold Obligations.LanesMeetAndEnd
  refine ⟨fun s c hs => ⟨fun hw h1 hy => ?_, fun h1 => ?_, ?_⟩, fun s c r hr => ⟨fun hmet => ?_, fun hs hw hq hp hx hk => ?_⟩,
    fun s c l => ?_, fun s core => ?_⟩
  · rw [exec_syncBundle, execSyncBundle]
    simp [hs, hw, h1, hy]
  · rw [exec_syncBundle, execSyncBundle]
    simp [h1]
  · rw [exec_endOfStepBundle, execEndOfStepBundle, if_pos hs]
  · exact ⟨_, exec_syncRelease_met hr hmet, CtxsOnly.foldl (fun u l => CtxsOnly.modCtx u l _) r.gang s,
      State.ctx_foldl_modCtx (f := fun _ => Ctx.released s.time) (fun _ _ => rfl) r.gang s⟩
  · -- the lane is done
    have hexec := exec_laneFinish_done (State.laneDone_of hs hw hq hp hx hk) hr
    refine ⟨fun ⟨l, hl, hne, hnot⟩ => hexec.trans ?_, fun hall => hexec.trans ?_⟩
    · refine congrArg Host.Outcome.next (if_neg fun hfin => hnot ?_)
      have := List.all_eq_true.1 hfin l hl
      rwa [State.ctx_modCtx_ne s _ hne, decide_eq_true_eq] at this
    · refine congrArg Host.Outcome.next (if_pos (List.all_eq_true.2 fun l hl => decide_eq_true ?_))
      by_cases hlc : l = c
      · rw [hlc, State.ctx_modCtx]
      · rw [State.ctx_modCtx_ne s _ hlc]
        exact hall l hl hlc
  · -- a result lands, or waits for the next bundle
    intro x phase hp hw
    refine ⟨fun hc hs hl => ?_, fun hs hd ho => ?_⟩
    · have hn : s.nextLanding c = some (0, l) := hl.elim (fun h => State.nextLanding_exposed hp hs h.1 h.2)
        (fun h => State.nextLanding_interlocked hp (.inl hs) h.1 h.2)
      refine ⟨_, exec_resultLand_ending hw hs hc hn, fun e he => State.ctx_modCtx_ne _ _ he, fun a => rfl, ?_⟩
      have hpipe : (s.draw.2.ctx c).pipe.eraseIdx 0 = [] := by
        rw [show (s.draw.2.ctx c).pipe = [l] from hp]; rfl
      rw [State.ctx_modCtx, hpipe, Ctx.landedAt, (Ctx.wait_landed _ l).2]
      rfl
    · refine ⟨_, exec_resultLand_running hw hs (State.nextLanding_interlocked hp (.inr hs) hd ho),
        fun e he => State.ctx_modCtx_ne _ _ he, fun a => rfl, ?_⟩
      have hpipe : (s.draw.2.ctx c).pipe = [l] := hp
      rw [State.deliver, State.ctx_modCtx, hpipe]
      rfl
  · -- the core goes to its other bank
    intro here o w hr hw ht hcond
    have hgo : (s.ctx here).between s.time = true ∧ ((s.ctx here).asleep = true ∨ s.chosen core = o.bank) :=
      hcond.elim (fun ⟨hi, hz⟩ => ⟨(Ctx.asleep_between hi hz).2, .inl (Ctx.asleep_between hi hz).1⟩) fun ⟨hb, hc⟩ => ⟨hb, .inr hc⟩
    refine ⟨_, exec_bankSwitch_goes hr hw ht hgo.1 hgo.2, ?_⟩
    rw [show s.switchTo core o.bank = _ from State.switchTo_other s here]
    have hne : o ≠ here := otherBank_ne here
    refine ⟨rfl, fun k hk => State.core_modCore_ne _ _ hk, fun e he heo => ?_, State.core_modCore _ _ _, ?_, ?_⟩
    · rw [State.ctx_modCore, State.ctx_modCtx_ne _ _ heo, State.ctx_modCtx_ne _ _ he]
    · rw [State.ctx_modCore, State.ctx_modCtx_ne _ _ hne.symm, State.ctx_modCtx]
      rfl
    · rw [State.ctx_modCore, State.ctx_modCtx, State.ctx_modCtx_ne _ _ hne]
      rfl

end Sys2Proof.Machine
end

section
/-!
CERTIFICATE. Scalar loads and stores (O19): bytes of an access, and a lane's view of them.
-/
namespace Sys2Proof.Machine

open Sys2Proof.Laws

variable {s : State}

/-! ## A lane's view rests on storage alone -/

/-- The state `u` with the storage of `s`. -/
def State.withStorage (u s : State) : State := { u with
  mem := s.mem
  exact := s.exact
  poison := s.poison }

/-- A loop works on storage alone when its body does. -/
theorem State.foldl_withStorage {β : Type} {f : State → β → State} {u : State}
    (hf : ∀ s b, f (u.withStorage s) b = u.withStorage (f s b)) (l : List β) (s : State) :
    l.foldl f (u.withStorage s) = u.withStorage (l.foldl f s) := by
  induction l generalizing s with
  | nil => rfl
  | cons b l ih => rw [List.foldl_cons, hf, ih, List.foldl_cons]

variable (u s : State)

theorem State.setCells_withStorage (cs : List Host.Cell) : (u.withStorage s).setCells cs = u.withStorage (s.setCells cs) :=
  State.foldl_withStorage (fun _ _ => rfl) cs s
theorem State.setNum_withStorage (l v n : Nat) : (u.withStorage s).setNum l v n = u.withStorage (s.setNum l v n) :=
  State.setCells_withStorage u s _
theorem State.putCells_withStorage (cs : List Host.Cell) : (u.withStorage s).putCells cs = u.withStorage (s.putCells cs) := by
  rw [State.putCells, State.setCells_withStorage]
  rfl
theorem State.flushLine_withStorage (l : Nat) : (u.withStorage s).flushLine l = u.withStorage (s.flushLine l) := by
  refine State.foldl_withStorage (fun s e => ?_) (s.lineExact l) s
  obtain ⟨a, x⟩ := e
  cases x with
  | none => rfl
  | some x =>
    dsimp only
    cases updFmt x.ty with
    | none => rfl
    | some f =>
      dsimp only
      by_cases hk : (x.kind == .sum) = true
      · rw [if_pos hk, if_pos hk]
        exact State.setNum_withStorage u { s with exact := Sparse.set none s.exact a none } _ _ _
      · rw [if_neg hk, if_neg hk]
        rfl
theorem State.plainWrite_withStorage (cs : List Host.Cell) :
    (u.withStorage s).plainWrite cs = u.withStorage (s.plainWrite cs) := by
  rw [State.plainWrite, State.foldl_withStorage, State.putCells_withStorage, State.plainWrite]
  intro s c
  by_cases hl : (s.lineExact c.1).isEmpty = true
  · rw [if_pos hl]
    exact if_pos hl
  · rw [if_neg hl, ← State.flushLine_withStorage]
    exact if_neg hl
theorem State.update_withStorage (l : Nat) (k : UKind) (ty : BitVec 4) (v : Word) :
    (u.withStorage s).update l k ty v = u.withStorage (s.update l k ty v) := by
  rw [State.update, State.update]
  dsimp only
  split
  · rfl
  · rw [State.setNum_withStorage]
    rfl
theorem State.applyPend_withStorage (p : Pend) : (u.withStorage s).applyPend p = u.withStorage (s.applyPend p) := by
  rw [State.applyPend, State.applyPend]
  cases p.op with
  | bytes cs => exact State.plainWrite_withStorage u s cs
  | upd l k ty v =>
    dsimp only
    by_cases hm : s.mixed l k ty = true
    · rw [if_pos hm, ← State.update_withStorage, ← State.flushLine_withStorage]
      exact congrArg (State.update · l k ty v) (if_pos hm)
    · rw [if_neg hm, ← State.update_withStorage]
      exact congrArg (State.update · l k ty v) (if_neg hm)

/-- What a lane sees is not changed by what is outside storage, its own held writes and its closes on their way. -/
theorem State.view_withStorage {u : State} {c : CtxId} (hc : u.closing = s.closing) (hr : (u.ctx c).run = (s.ctx c).run)
    (hp : (u.ctx c).pend = (s.ctx c).pend) : (u.withStorage s).view c = u.withStorage (s.view c) := by
  rw [State.view, State.view]
  show List.foldl State.applyPend (u.withStorage s) ((u.closing.filter fun q => q.owner = c && q.run = (u.ctx c).run).flatMap
    (·.ops) ++ (u.ctx c).pend) = _
  rw [hc, hr, hp]
  exact State.foldl_withStorage (State.applyPend_withStorage u) _ _

/-! ## Plain reads where no element is in exact form -/

variable {u s : State}

theorem State.flushLocs_plain {ls : List Nat} (h : ∀ l ∈ ls, s.lineExact l = []) : s.flushLocs ls = s := by
  rw [State.flushLocs]
  induction ls with
  | nil => rfl
  | cons l ls ih =>
    rw [List.foldl_cons, h l List.mem_cons_self]
    exact ih fun m hm => h m (List.mem_cons_of_mem _ hm)
theorem State.plainByte_plain {l : Nat} (h : s.lineExact l = []) : s.plainByte l = s.byte l := by
  rw [State.plainByte, h]
  rfl

/-- A lane's plain read where neither memory nor what it sees of it holds an element in exact form: an access that was
logged and noted changes nothing of what it reads. -/
theorem State.plainRead_touched {k : AKind} {l : List Span} {ls : List Nat}
    (h : ∀ l ∈ ls, s.lineExact l = [] ∧ (s.view s.cur).lineExact l = []) :
    ((s.logged k l).noted k l).plainRead s.cur ls = (ls.map (s.view s.cur).byte, (s.logged k l).noted k l) := by
  have hctx : ((s.logged k l).noted k l).ctx s.cur = { s.me with
      mfoot := s.me.mfoot ++ (l.filter fun x => !isSpad x.loc).map fun x => (k, x) } := State.ctx_modCtx _ _ _
  have hview : ((s.logged k l).noted k l).view s.cur = ((s.logged k l).noted k l).withStorage (s.view s.cur) :=
    State.view_withStorage (u := (s.logged k l).noted k l) s rfl (by rw [hctx]; rfl) (by rw [hctx]; rfl)
  rw [State.plainRead, State.flushLocs_plain (s := (s.logged k l).noted k l) fun m hm => (h m hm).1, hview]
  exact congrArg (·, _) (List.map_congr_left fun m hm => State.plainByte_plain (h m hm).2)

/-! ## Scalar values -/

theorem leNat_toNat_eight {l : List Byte} (h : l.length = 8) : (BitVec.ofNat 64 (leNat l)).toNat = leNat l := by
  rw [BitVec.toNat_ofNat]
  exact Nat.mod_eq_of_lt (by simpa [h] using leNat_lt l)

/-- The value of a scalar load: integers of a signed format are extended by their sign (R165). -/
theorem scalarValue_eq (ty : BitVec 4) (bs : List Byte) : scalarValue ty bs =
    if ty.toNat = 7 ∨ ty.toNat = 9 ∨ ty.toNat = 11 then BitVec.ofInt 64 (sextNat (leNat bs) (fmtBits ty.toNat))
    else BitVec.ofNat 64 (leNat bs) := by
  simp [scalarValue, fmtSigned, or_assoc]
/-- The width of a signed format is that of the bytes which an access of it moves. -/
theorem fmtBits_signed {ty : BitVec 4} (h : ty.toNat = 7 ∨ ty.toNat = 9 ∨ ty.toNat = 11) :
    8 * scalarBytes ty = fmtBits ty.toNat := by
  have h0 : ty ≠ 0 := by rintro rfl; simp at h
  rw [scalarBytes, if_neg h0]
  rcases h with h | h | h <;> rw [h] <;> rfl

/-- So a scalar load extends by the sign of the bytes that it moved. -/
theorem scalarValue_bytes (ty : BitVec 4) (bs : List Byte) : scalarValue ty bs =
    if ty.toNat = 7 ∨ ty.toNat = 9 ∨ ty.toNat = 11 then BitVec.ofInt 64 (sextNat (leNat bs) (8 * scalarBytes ty))
    else BitVec.ofNat 64 (leNat bs) := by
  rw [scalarValue_eq]
  split
  · next h => rw [fmtBits_signed h]
  · rfl

theorem Units.locs_one (a : Word) (n : Nat) (k : Fin 128) :
    Units.locs [(a, n)] k = (List.range n).map fun i => spadLoc k (a.toNat + i) := List.append_nil _

/-- Eight of the values of a function, from the one at `k`. -/
theorem take_drop_range {α : Type} (g : Nat → α) {k n : Nat} (h : k + 8 ≤ n) :
    (((List.range n).map g).drop k).take 8 = (List.range 8).map fun i => g (k + i) := by
  refine List.ext_getElem ?_ fun i _ _ => ?_
  · simp only [List.length_take, List.length_drop, List.length_map, List.length_range]
    omega
  · simp
/-- Where element `n * f + i` of a list stands that is made of parts of `n` elements. -/
theorem getElem?_flatMap_parts {α β : Type} {g : α → List β} {n i : Nat} (hg : ∀ a, (g a).length = n) (hi : i < n)
    (l : List α) (f : Nat) : (l.flatMap g)[n * f + i]? = l[f]?.bind fun a => (g a)[i]? := by
  induction l generalizing f with
  | nil => simp
  | cons a l ih =>
    rw [List.flatMap_cons]
    cases f with
    | zero => simp [List.getElem?_append_left, hg, hi]
    | succ f =>
      rw [List.getElem?_append_right (by rw [hg, Nat.mul_succ]; omega), hg, List.getElem?_cons_succ, ← ih]
      congr 1
      rw [Nat.mul_succ]
      omega

/-! ## Stores -/

/-- A scratchpad store leaves its lane's registers, and what is in flight to them. -/
theorem State.me_spadWrite (u : State) (cs : List Host.Cell) :
    SameRegs u.me (u.spadWrite u.cur cs).me ∧ (u.spadWrite u.cur cs).me.pipe = u.me.pipe := by
  have hme (f : Ctx → Ctx) : ((u.putCells cs).modCtx u.cur f).me = f u.me := by
    obtain ⟨m, q, e, h⟩ := StorageOnly.putCells u cs
    rw [h]
    exact State.ctx_modCtx { u with mem := m, poison := q, exact := e } u.cur f
  rw [State.spadWrite]
  split
  · exact ⟨⟨rfl, rfl, rfl, rfl, rfl, rfl, rfl, rfl, rfl, rfl, rfl, rfl⟩, rfl⟩
  · rw [hme]
    exact ⟨⟨rfl, rfl, rfl, rfl, rfl, rfl, rfl, rfl, rfl, rfl, rfl, rfl⟩, rfl⟩
theorem State.byte_spadWrite (u : State) (c : CtxId) (cs : List Host.Cell) (a : Nat) :
    (u.spadWrite c cs).byte a = (u.setCells cs).byte a := by
  rw [State.spadWrite]
  split
  · next h => rw [List.isEmpty_iff.1 h]; rfl
  · rfl

/-- What a store of the bytes `bs` from location `l` leaves: those bytes, every other byte, and the lane's registers. -/
structure Stored (l : Nat) (bs : List Byte) (s t : State) : Prop where
  verdict : t.verdict = .ok
  inside  : ∀ i (h : i < bs.length), t.byte (l + i) = bs[i]
  outside : ∀ x, ¬(l ≤ x ∧ x < l + bs.length) → t.byte x = s.byte x
  regs    : SameRegs s.me t.me
  pipe    : t.me.pipe = s.me.pipe

theorem stored_spadWrite (hs : s.Canonical) (l : Nat) (bs : List Byte) (k : AKind) (sp : List Span) :
    Stored l bs s ((s.logged k sp).spadWrite s.cur (cellsAt l bs)).issued := by
  have hcells : (s.logged k sp).setCells (cellsAt l bs) = (s.logged k sp).withStorage (s.setCells (cellsAt l bs)) :=
    State.setCells_withStorage (s.logged k sp) s (cellsAt l bs)
  have hbyte (x : Nat) : ((s.logged k sp).spadWrite s.cur (cellsAt l bs)).issued.byte x = (s.setCells (cellsAt l bs)).byte x := by
    refine (State.byte_spadWrite (s.logged k sp) s.cur (cellsAt l bs) x).trans ?_
    rw [hcells]
    rfl
  have hme := State.me_spadWrite (s.logged k sp) (cellsAt l bs)
  refine ⟨rfl, fun i hi => ?_, fun x hx => ?_, hme.1, hme.2⟩
  · rw [hbyte]
    exact State.byte_setCells_of_mem hs.mem (nodup_cellsAt l bs) (mem_cellsAt hi)
  · rw [hbyte]
    exact State.byte_setCells_of_notMem hs.mem fun hmem => hx (mem_map_fst_cellsAt.1 hmem)

/-! ## The instructions -/

variable {p base : Fin 64} {off : MOff} {ty : BitVec 4} {a : Word}

theorem exec_ld (p : Fin 64) (d : Dst 64) (base : Fin 64) (off : MOff) (ty : BitVec 4) (s : State) :
    exec (.ld p d base off ty) s = execLd p d base off ty s := rfl
theorem exec_st (p d base : Fin 64) (off : MOff) (ty : BitVec 4) (s : State) :
    exec (.st p d base off ty) s = execSt p d base off ty s := rfl
theorem exec_dld (p : Fin 64) (d : Fin 16) (base : Fin 64) (off : MOff) (s : State) :
    exec (.dld p d base off) s = execDld p d base off s := rfl
theorem exec_dst (p : Fin 64) (d : Fin 16) (base : Fin 64) (off : MOff) (s : State) :
    exec (.dst p d base off) s = execDst p d base off s := rfl
theorem exec_ldg (p : Fin 64) (d : Dst 64) (base : Fin 64) (off : MOff) (ty : BitVec 4) (s : State) :
    exec (.ldg p d base off ty) s = execLdg p d base off ty s := rfl
theorem exec_stg (p r base : Fin 64) (off : MOff) (ty : BitVec 4) (s : State) :
    exec (.stg p r base off ty) s = execStg p r base off ty s := rfl

/-- A scratchpad access to the `n` bytes at `a` passes its checks and conflicts with nothing. -/
structure State.Reaches (s : State) (k : AKind) (a : Word) (n al : Nat) : Prop where
  check : Units.check [(a, n)] al = .ok ()
  waits : s.waits (Units.locs [(a, n)] s.cur.core) = false
  clear : s.Clear k (s.unitSpans 0 [(a, n)])

theorem exec_ld_ok (hp : s.me.pget p = true) (ha : s.me.ea base off = .ok a)
    (h : s.Reaches .read a (scalarBytes ty) (scalarBytes ty)) (hpoison : s.spadPoison [(a, scalarBytes ty)] = none) (d : Dst 64) :
    exec (.ld p d base off ty) s = .next ((s.logged .read (s.unitSpans 0 [(a, scalarBytes ty)])).landS .m (latLoad s.me.kclass) d
      (scalarValue ty ((List.range (scalarBytes ty)).map fun i => s.byte (spadLoc s.cur.core (a.toNat + i)))) 0).issued := by
  rw [exec_ld, execLd, ha, need_ok, spadRead_ok h.check h.waits hpoison h.clear, slotOp_done hp, Units.locs_one, List.map_map]
  rfl
theorem exec_dld_ok (hp : s.me.pget p = true) (ha : s.me.ea base off = .ok a) (h : s.Reaches .read a 64 8)
    (hpoison : s.spadPoison [(a, 64)] = none) (d : Fin 16) :
    exec (.dld p d base off) s = .next ((s.logged .read (s.unitSpans 0 [(a, 64)])).land .m (latLoad s.me.kclass)
      [.d d (tab 8 fun f => BitVec.ofNat 64 (leNat
        ((((List.range 64).map fun i => s.byte (spadLoc s.cur.core (a.toNat + i))).drop (8 * f)).take 8)))] none 0).issued := by
  rw [exec_dld, execDld, ha, need_ok, spadRead_ok h.check h.waits hpoison h.clear, slotOp_done hp, Units.locs_one, List.map_map]
  rfl
theorem exec_st_ok {d : Fin 64} {v : Word} (hp : s.me.pget p = true) (ha : s.me.ea base off = .ok a) (hv : s.me.checked d = .ok v)
    (h : s.Reaches .write a (scalarBytes ty) (scalarBytes ty))
    (hpoison : s.poisonWrite (cellsAt (spadLoc s.cur.core a.toNat) (leBytes v.toNat (scalarBytes ty))) = none) :
    exec (.st p d base off ty) s = .next ((s.logged .write (s.unitSpans 0 [(a, scalarBytes ty)])).spadWrite s.cur
      (cellsAt (spadLoc s.cur.core a.toNat) (leBytes v.toNat (scalarBytes ty)))).issued := by
  rw [exec_st, execSt, ha, need_ok, hv, need_ok, spadStore_ok h.check h.waits hpoison h.clear, slotOp_done hp]
theorem exec_dst_ok {d : Fin 16} (hp : s.me.pget p = true) (ha : s.me.ea base off = .ok a) (h : s.Reaches .write a 64 8)
    (hpoison : s.poisonWrite (cellsAt (spadLoc s.cur.core a.toNat) (s.me.dreg[d].toList.flatMap fun w => leBytes w.toNat 8)) = none) :
    exec (.dst p d base off) s = .next ((s.logged .write (s.unitSpans 0 [(a, 64)])).spadWrite s.cur
      (cellsAt (spadLoc s.cur.core a.toNat) (s.me.dreg[d].toList.flatMap fun w => leBytes w.toNat 8))).issued := by
  rw [exec_dst, execDst, ha, need_ok, spadStore_ok h.check h.waits hpoison h.clear, slotOp_done hp]

theorem exec_ldg_ok {ls : List Nat} (hp : s.me.pget p = true) (ha : s.me.ea base off = .ok a)
    (hal : a.toNat % scalarBytes ty = 0) (hw : s.waits ls = false)
    (hg : s.gate1 s.me.asid a.toNat (scalarBytes ty) ⟨false, false⟩ = .ok ls) (hpoison : ls.find? s.poisoned = none)
    (hc : s.Clear .read (spansOf [(a, ls)])) (hplain : ∀ l ∈ ls, s.lineExact l = [] ∧ (s.view s.cur).lineExact l = []) (d : Dst 64) :
    exec (.ldg p d base off ty) s = .next (((s.logged .read (spansOf [(a, ls)])).noted .read (spansOf [(a, ls)])).landLater
      (dstS d (scalarValue ty (ls.map (s.view s.cur).byte))) (.scalar (SVal.of (scalarValue ty (ls.map (s.view s.cur).byte))))
      (spansOf [(a, ls)]) false).issued := by
  have hmis : misaligned a (scalarBytes ty) = false := by simp [misaligned, hal]
  have hcur : ((s.logged .read (spansOf [(a, ls)])).noted .read (spansOf [(a, ls)])).cur = s.cur := rfl
  rw [exec_ldg, execLdg, ha, need_ok, State.globalRead, hmis, if_neg Bool.false_ne_true, globalUse_ok hg hw, hpoison]
  dsimp only
  rw [mTouch_clear hc, need_ok, hcur, State.plainRead_touched hplain, slotOp_done hp]
theorem exec_stg_ok {ls : List Nat} {r : Fin 64} {v : Word} (hp : s.me.pget p = true) (ha : s.me.ea base off = .ok a)
    (hal : a.toNat % scalarBytes ty = 0) (hw : s.waits ls = false) (hv : s.me.checked r = .ok v)
    (hg : s.gate1 s.me.asid a.toNat (scalarBytes ty) ⟨true, false⟩ = .ok ls)
    (hpoison : s.poisonWrite (ls.zip (leBytes v.toNat (scalarBytes ty))) = none) (hc : s.Clear .write (spansOf [(a, ls)])) :
    exec (.stg p r base off ty) s = .next (((s.logged .write (spansOf [(a, ls)])).noted .write (spansOf [(a, ls)])).modMe fun c =>
      { c with pend := c.pend ++ [⟨.bytes (ls.zip (leBytes v.toNat (scalarBytes ty))), a, false, false, some 0⟩] }).issued := by
  have hmis : misaligned a (scalarBytes ty) = false := by simp [misaligned, hal]
  rw [exec_stg, execStg, ha, need_ok, hv, need_ok, State.globalWrite, hmis, if_neg Bool.false_ne_true, length_leBytes,
    globalUse_ok hg hw]
  dsimp only
  rw [hpoison, mTouch_clear hc, need_ok, slotOp_done hp]

/-- Settles O19: the six instructions under their conditions, and the bytes of a load and of a store one by one. -/
theorem scalarLoadsAndStoresMove : Obligations.ScalarLoadsAndStoresMove := by
  unfold Obligations.ScalarLoadsAndStoresMove
  refine ⟨fun s p base off ty a hs hp ha => ⟨fun d h => ?_, fun d v hv h => ?_, fun d h => ?_, fun d h => ?_⟩,
    fun s p base off ty a ls hp ha hal hw => ⟨fun d hg hpoison hc hplain => ?_, fun r v hv hg hpoison hc =>
      exec_stg_ok hp ha hal hw hv hg hpoison hc⟩⟩
  · obtain ⟨hcheck, hwaits, hpoison, hclear⟩ := h
    rw [exec_ld_ok hp ha ⟨hcheck, hwaits, hclear⟩ hpoison, scalarValue_bytes]
    rfl
  · obtain ⟨hcheck, hwaits, hpoison, hclear⟩ := h
    have hst := stored_spadWrite hs (spadLoc s.cur.core a.toNat) (leBytes v.toNat (scalarBytes ty)) .write
      (s.unitSpans 0 [(a, scalarBytes ty)])
    refine ⟨_, exec_st_ok hp ha hv ⟨hcheck, hwaits, hclear⟩ hpoison, hst.verdict, fun i hi => ?_, fun x hx => ?_, hst.regs, hst.pipe⟩
    · have hlen : i < (leBytes v.toNat (scalarBytes ty)).length := by rwa [length_leBytes]
      exact (hst.inside i hlen).trans (getElem_leBytes hlen)
    · exact hst.outside x (by rwa [length_leBytes])
  · obtain ⟨hcheck, hwaits, hpoison, hclear⟩ := h
    refine ⟨_, exec_dld_ok hp ha ⟨hcheck, hwaits, hclear⟩ hpoison d, fun f => ?_⟩
    rw [show (tab 8 _)[f] = _ from tab_get _ _ f.val f.isLt, take_drop_range _ (by omega)]
    exact leNat_toNat_eight (by simp)
  · obtain ⟨hcheck, hwaits, hpoison, hclear⟩ := h
    have hst := stored_spadWrite hs (spadLoc s.cur.core a.toNat) (s.me.dreg[d].toList.flatMap fun w => leBytes w.toNat 8) .write
      (s.unitSpans 0 [(a, 64)])
    have hlen : (s.me.dreg[d].toList.flatMap fun w => leBytes w.toNat 8).length = 64 := by simp
    refine ⟨_, exec_dst_ok hp ha ⟨hcheck, hwaits, hclear⟩ hpoison, hst.verdict, fun f i hi => ?_, fun x hx => ?_, hst.regs, hst.pipe⟩
    · rw [hst.inside (8 * f.val + i) (by rw [hlen]; omega)]
      have hpart := getElem?_flatMap_parts (fun w : Word => length_leBytes w.toNat 8) hi s.me.dreg[d].toList f.val
      rw [List.getElem?_eq_getElem (by rw [hlen]; omega), List.getElem?_eq_getElem (by simp), Option.bind_some,
        List.getElem?_eq_getElem (by rwa [length_leBytes]), getElem_leBytes (by rwa [length_leBytes])] at hpart
      exact Option.some_injective _ hpart
    · exact hst.outside x (by rwa [hlen])
  · refine (exec_ldg_ok hp ha hal hw hg hpoison hc hplain d).trans ?_
    rw [scalarValue_eq]
    rfl

end Sys2Proof.Machine
end

section
/-!
CERTIFICATE. Futures on this device (O25): what an access finds, and what a fill leaves.
-/
namespace Sys2Proof.Machine

open Sys2Proof.Laws

/-! ## Waking the waiters of a future (R41) -/

/-- `t` has the bytes and the waiter records of `s`. -/
def KeepsWaiters (s t : State) : Prop := t.mem = s.mem ∧ t.waiters = s.waiters
namespace KeepsWaiters
theorem refl (s : State) : KeepsWaiters s s := ⟨rfl, rfl⟩
theorem trans {s t u : State} (h : KeepsWaiters s t) (h' : KeepsWaiters t u) : KeepsWaiters s u :=
  ⟨h'.1.trans h.1, h'.2.trans h.2⟩
theorem foldl {β : Type} {f : State → β → State} (hf : ∀ s b, KeepsWaiters s (f s b)) (l : List β) (s : State) :
    KeepsWaiters s (l.foldl f s) := by
  induction l generalizing s with
  | nil => exact refl s
  | cons b l ih => exact (hf s b).trans (ih _)
theorem byte {s t : State} (h : KeepsWaiters s t) (a : Nat) : t.byte a = s.byte a :=
  congrArg (Sparse.get unwritten · a) h.1

theorem wakeLane (s : State) (c : CtxId) (v : Word) : KeepsWaiters s (s.wakeLane c v) := by
  rw [State.wakeLane]
  split
  · exact ⟨rfl, rfl⟩
  · exact refl s
theorem sendFlits (s : State) (dev : Nat) (vl : Fin 4) (n : Nat) (u : FlitUse) : KeepsWaiters s (s.sendFlits dev vl n u) := by
  rw [State.sendFlits]
  split
  · exact ⟨rfl, rfl⟩
  · exact refl s
theorem wakeOne (s : State) (v : Word) (w : Waiter) : KeepsWaiters s (s.wakeOne v w) := by
  rw [State.wakeOne]
  split
  · exact refl s
  · cases w.wake with
    | step r => exact ⟨rfl, rfl⟩
    | lane c run =>
      dsimp only
      split
      · exact wakeLane s c v
      · exact refl s
    | proxy dev _ => exact sendFlits s dev 2 1 .reply
theorem wakeAll (s : State) (loc : Nat) (v : Word) : KeepsWaiters (s.dropList loc) (s.wakeAll loc v) :=
  (foldl (fun s w => wakeOne s v w) _ _).trans (foldl (fun s c => wakeLane s c v) _ _)
end KeepsWaiters

/-! ## A fill at its home -/

variable {s : State} {loc : Nat}

theorem State.byte_dropList (s : State) (loc a : Nat) : (s.dropList loc).byte a = s.byte a := rfl
theorem State.loc_ne_of_dropList {w : Waiter} (hw : w ∈ (s.dropList loc).waiters) : w.loc ≠ loc := by
  simpa using (List.mem_filter.1 hw).2
theorem State.unlist_mem (s : State) (loc : Nat) : (s.unlist loc).mem = s.mem := by
  rw [State.unlist]
  split <;> rfl
theorem nodup_futureCells (loc : Nat) (v : Word) (st : Nat) : ((futureCells loc v st).map Prod.fst).Nodup := by
  have hin (k : Nat) (bs : List Byte) (x : Nat) (h : x ∈ (cellsAt k bs).map Prod.fst) := mem_map_fst_cellsAt.1 h
  rw [futureCells, List.map_append, List.map_append, List.append_assoc, List.nodup_append', List.nodup_append']
  refine ⟨nodup_cellsAt _ _, ⟨List.nodup_singleton _, nodup_cellsAt _ _, ?_⟩, ?_⟩
  · intro x hx hx'
    have h := hin _ _ _ hx'
    simp at hx
    omega
  · intro x hx hx'
    have h := hin _ _ _ hx
    rw [length_leBytes] at h
    rcases List.mem_append.1 hx' with hx' | hx'
    · simp at hx'
      omega
    · have h' := hin _ _ _ hx'
      omega
theorem mem_map_fst_futureCells {v : Word} {st x : Nat} :
    x ∈ (futureCells loc v st).map Prod.fst ↔ (loc ≤ x ∧ x < loc + 9) ∨ (loc + 12 ≤ x ∧ x < loc + 16) := by
  rw [futureCells, List.map_append, List.map_append, List.mem_append, List.mem_append, mem_map_fst_cellsAt, mem_map_fst_cellsAt,
    length_leBytes]
  simp
  omega

theorem State.byte_fillFuture (s : State) (loc : Nat) (v : Word) (st a : Nat) :
    (s.fillFuture loc v st).byte a = ((s.unlist loc).setCells (futureCells loc v st)).byte a := by
  rw [State.fillFuture, (KeepsWaiters.wakeAll _ loc v).byte a, State.byte_dropList]
theorem State.byte_fillFuture_cell (hs : s.Canonical) {v : Word} {st a : Nat} {b : Byte}
    (hc : (a, b) ∈ futureCells loc v st) : (s.fillFuture loc v st).byte a = b := by
  rw [State.byte_fillFuture]
  exact State.byte_setCells_of_mem (c := (a, b)) (by rw [State.unlist_mem]; exact hs.mem) (nodup_futureCells loc v st) hc
/-- A fill writes the value, the state and the head of the list, and no other byte. -/
theorem State.byte_fillFuture_elsewhere (hs : s.Canonical) {v : Word} {st a : Nat} (h : ¬(loc ≤ a ∧ a < loc + 9))
    (h' : ¬(loc + 12 ≤ a ∧ a < loc + 16)) : (s.fillFuture loc v st).byte a = s.byte a := by
  rw [State.byte_fillFuture, State.byte_setCells_of_notMem (by rw [State.unlist_mem]; exact hs.mem)
    (fun hm => (mem_map_fst_futureCells.1 hm).elim h h')]
  exact congrArg (Sparse.get unwritten · a) (s.unlist_mem loc)
theorem State.num_fillFuture (hs : s.Canonical) (loc : Nat) (v : Word) (st : Nat) : (s.fillFuture loc v st).num loc 8 = v.toNat := by
  have hbytes : (s.fillFuture loc v st).bytes loc 8 = leBytes v.toNat 8 := by
    refine List.ext_getElem (by simp [State.bytes]) fun i h _ => ?_
    have hi : i < (leBytes v.toNat 8).length := by simpa [State.bytes] using h
    have hc : (loc + i, (leBytes v.toNat 8)[i]) ∈ futureCells loc v st :=
      List.mem_append_left _ (List.mem_append_left _ (mem_cellsAt hi))
    simpa [State.bytes] using State.byte_fillFuture_cell hs hc
  rw [State.num, hbytes, leNat_leBytes]
  exact Nat.mod_eq_of_lt v.isLt
theorem State.whead_fillFuture (hs : s.Canonical) (loc : Nat) (v : Word) (st : Nat) :
    (s.fillFuture loc v st).num (loc + 12) 4 = 0 := by
  have hbytes : (s.fillFuture loc v st).bytes (loc + 12) 4 = [0, 0, 0, 0] := by
    refine List.ext_getElem (by simp [State.bytes]) fun i _ hi => ?_
    have hc : (loc + 12 + i, [(0 : Byte), 0, 0, 0][i]) ∈ futureCells loc v st := List.mem_append_right _ (mem_cellsAt hi)
    simpa [State.bytes] using State.byte_fillFuture_cell hs hc
  rw [State.num, hbytes]
  rfl
/-- A fill leaves no waiter record of its future. -/
theorem State.waiters_fillFuture (s : State) (loc : Nat) (v : Word) (st : Nat) {w : Waiter}
    (hw : w ∈ (s.fillFuture loc v st).waiters) : w.loc ≠ loc := by
  have hkeep := (KeepsWaiters.wakeAll ((s.unlist loc).setCells (futureCells loc v st)) loc v).2
  rw [State.fillFuture, hkeep] at hw
  exact State.loc_ne_of_dropList hw

/-! ## FUTRD and FUTFILL on this device -/

/-- The 16 bytes `ls` of a future at `a` on this device: reached, not in transit and not poisoned. -/
structure State.FutureAt (s : State) (a : Word) (ls : List Nat) (w : Bool) : Prop where
  aligned  : a.toNat % 16 = 0
  gate     : s.gate1 s.me.asid a.toNat 16 ⟨w, true⟩ = .ok ls
  arrived  : s.waits ls = false
  clean    : ls.any s.poisoned = false
  onDevice : remoteWindow (ls.headD 0) = none

variable {p base : Fin 64} {off : MOff} {a : Word} {ls : List Nat}

theorem State.FutureAt.use {w : Bool} (h : s.FutureAt a ls w) (k : List Nat → Res) : s.futureUse a w k = k ls := by
  have hmis : misaligned a 16 = false := by simp [misaligned, h.aligned]
  rw [State.futureUse, hmis, if_neg Bool.false_ne_true, globalUse_ok h.gate h.arrived, h.clean, if_neg Bool.false_ne_true]

theorem exec_futrd (p : Fin 64) (d : Dst 64) (base : Fin 64) (off : MOff) (s : State) :
    exec (.futrd p d base off) s = execFutrd p d base off s := rfl
theorem exec_futfill (p r base : Fin 64) (off : MOff) (s : State) :
    exec (.futfill p r base off) s = execFutfill p r base off s := rfl

/-- The access to a future's bytes has joined those that the conflict rule looks at (R178, R254). -/
def State.touched (s : State) (k : AKind) (l : List Span) : State := (s.logged k l).noted k l

/-- What FUTRD does with a future on this device, by its state byte. -/
theorem exec_futrd_local (ha : s.me.ea base off = .ok a) (h : s.FutureAt a ls false)
    (hc : s.Clear .observe (spansOf [(a, ls)])) (d : Dst 64) :
    exec (.futrd p d base off) s = s.slotOp .m p (
      if s.byte (ls.headD 0 + 8) = 1 then .done ((s.touched .observe (spansOf [(a, ls)])).landLater
        (dstS d (BitVec.ofNat 64 (s.num (ls.headD 0) 8))) (.scalar (SVal.of (BitVec.ofNat 64 (s.num (ls.headD 0) 8)))) [] true)
      else if s.byte (ls.headD 0 + 8) = 0 then
        .done ((s.touched .observe (spansOf [(a, ls)])).emptyFuture d (s.home (ls.headD 0)) (ls.headD 0) a true)
      else .fail (replyFail a 0x32)) := by
  rw [exec_futrd, execFutrd, ha, need_ok, h.use]
  dsimp only
  rw [h.onDevice, mTouch_clear hc, need_ok]
  rfl
/-- A fill of an empty future: the phase closes, and then the value is published (R41, R256). -/
def State.closeThenFill (t : State) (c : CtxId) (pc : W32) (loc : Nat) (v : Word) : Res :=
  match t.closePhase c .m pc false with
  | .ok u => .done ((u.fillFuture loc v 1).openPhase c)
  | .error f => .refused (if Config.freeApplied t.free then { t with free := t.free + 1 }.fillFuture loc v 1
      else { t with free := t.free + 1 }) f
/-- What FUTFILL does with a future on this device, by its state byte. -/
theorem exec_futfill_local {r : Fin 64} {v : Word} (ha : s.me.ea base off = .ok a)
    (hv : s.me.checked r = .ok v) (h : s.FutureAt a ls true) (hc : s.Clear .sync (spansOf [(a, ls)])) :
    exec (.futfill p r base off) s = s.slotOp .m p (
      if s.byte (ls.headD 0 + 8) = 0 then (s.touched .sync (spansOf [(a, ls)])).closeThenFill s.cur s.me.pc (ls.headD 0) v
      else if s.byte (ls.headD 0 + 8) = 1 then
        if s.num (ls.headD 0) 8 = v.toNat then (s.touched .sync (spansOf [(a, ls)])).closeOpen .m false
        else .fail (replyFail a 0x31)
      else .fail (replyFail a 0x32)) := by
  rw [exec_futfill, execFutfill, ha, need_ok, hv, need_ok, h.use]
  dsimp only
  rw [h.onDevice, mTouch_clear hc, need_ok]
  rfl

theorem State.closeThenFill_ok {t u : State} {c : CtxId} {pc : W32} {loc : Nat} {v : Word} (h : t.closePhase c .m pc false = .ok u) :
    t.closeThenFill c pc loc v = .done ((u.fillFuture loc v 1).openPhase c) := by
  rw [State.closeThenFill, h]
theorem State.closeOpen_ok {t u : State} (h : t.closePhase t.cur .m t.me.pc false = .ok u) :
    t.closeOpen .m false = .done (u.openPhase t.cur) := by
  rw [State.closeOpen, h]
theorem State.me_touched (s : State) (k : AKind) (l : List Span) : (s.touched k l).me = { s.me with
    mfoot := s.me.mfoot ++ (l.filter fun x => !isSpad x.loc).map fun x => (k, x) } := State.ctx_modCtx _ _ _

/-- An empty future for a step in which a lane has closed a phase: the lane sleeps (R39). -/
theorem State.emptyFuture_closed {t : State} {r : Run} (hr : t.getRun t.me.run = some r) (hc : r.closed = true) (d : Dst 64)
    (die : Fin 4) (loc : Nat) (a : Word) : t.emptyFuture d die loc a true =
      (t.chain die t.me.asid t.me.opb loc (.lane t.cur t.me.run) true).modMe fun c => { c with wait := .future loc a d c.pc } := by
  rw [State.emptyFuture, hr]
  simp [hc]
/-- An empty future for a step in which none has, where a waiter record is free: the step is squashed (R39, R40). -/
theorem State.emptyFuture_open {t : State} {r : Run} (hr : t.getRun t.me.run = some r) (hc : r.closed = false) {die : Fin 4}
    (hf : (t.freeWaiter die).isSome = true) (d : Dst 64) (loc : Nat) (a : Word) :
    t.emptyFuture d die loc a true = t.squash t.cur die loc true := by
  rw [State.emptyFuture, hr]
  simp [hc, hf]

/-- Settles O25: FUTRD and FUTFILL by the state byte that they find, and a fill by the cells it writes. -/
theorem futuresReadAndFill : Obligations.FuturesReadAndFill := by
  unfold Obligations.FuturesReadAndFill
  refine ⟨fun s p base off a ls hp ha hal hw hpoison hrem => ⟨fun hg hc d => ?_, fun hg hc r v hv => ?_⟩, fun s loc v hs => ?_⟩
  · -- FUTRD
    have hexec := exec_futrd_local (p := p) ha ⟨hal, hg, hw, hpoison, hrem⟩ hc d
    have hrun : (s.touched .observe (spansOf [(a, ls)])).me.run = s.me.run := by rw [State.me_touched]
    have hasid : (s.touched .observe (spansOf [(a, ls)])).me.asid = s.me.asid := by rw [State.me_touched]
    have hopb : (s.touched .observe (spansOf [(a, ls)])).me.opb = s.me.opb := by rw [State.me_touched]
    refine ⟨fun h1 => ?_, fun h0 r hr hcl => ?_, fun h0 r hr hop hfree => ?_, fun h0 h1 => ?_⟩
    · rw [hexec, if_pos h1, slotOp_done hp]
      rfl
    · have h1 : s.byte (ls.headD 0 + 8) ≠ 1 := by rw [h0]; decide
      rw [hexec, if_neg h1, if_pos h0, slotOp_done hp, State.emptyFuture_closed (by rw [hrun]; exact hr) hcl, hrun, hasid, hopb]
      rfl
    · have h1 : s.byte (ls.headD 0 + 8) ≠ 1 := by rw [h0]; decide
      have hr' : (s.touched .observe (spansOf [(a, ls)])).getRun (s.touched .observe (spansOf [(a, ls)])).me.run = some r := by
        rw [hrun]; exact hr
      have hfree' : ((s.touched .observe (spansOf [(a, ls)])).freeWaiter (s.home (ls.headD 0))).isSome = true := hfree
      rw [hexec, if_neg h1, if_pos h0, slotOp_done hp, State.emptyFuture_open hr' hop hfree']
      rfl
    · exact hexec.trans (by rw [if_neg h1, if_neg h0, slotOp_fail hp]; rfl)
  · -- FUTFILL
    have hexec := exec_futfill_local (p := p) ha hv ⟨hal, hg, hw, hpoison, hrem⟩ hc
    have hpc : (s.touched .sync (spansOf [(a, ls)])).me.pc = s.me.pc := by rw [State.me_touched]
    have h10 : s.byte (ls.headD 0 + 8) = 1 → s.byte (ls.headD 0 + 8) ≠ 0 := fun h1 => by rw [h1]; decide
    have hval : s.num (ls.headD 0) 8 = v.toNat ↔ BitVec.ofNat 64 (s.num (ls.headD 0) 8) = v := by
      rw [← BitVec.toNat_inj, BitVec.toNat_ofNat, Nat.mod_eq_of_lt (by simpa using s.num_lt (ls.headD 0) 8)]
    refine ⟨fun h0 u hu => ?_, fun h1 heq u hu => ?_, fun h1 hne => ?_, fun h0 h1 => ?_⟩
    · have hu' : (s.touched .sync (spansOf [(a, ls)])).closePhase s.cur .m s.me.pc false = .ok u := hu
      rw [hexec, if_pos h0, State.closeThenFill_ok hu', slotOp_done hp]
    · have hu' : (s.touched .sync (spansOf [(a, ls)])).closePhase s.cur .m (s.touched .sync (spansOf [(a, ls)])).me.pc false =
          .ok u := by rw [hpc]; exact hu
      rw [hexec, if_neg (h10 h1), if_pos h1, if_pos (hval.2 heq), State.closeOpen_ok hu', slotOp_done hp]
      rfl
    · exact hexec.trans (by rw [if_neg (h10 h1), if_pos h1, if_neg fun h => hne (hval.1 h), slotOp_fail hp]; rfl)
    · exact hexec.trans (by rw [if_neg h0, if_neg h1, slotOp_fail hp]; rfl)
  · -- what a fill leaves
    have hstate : (loc + 8, (1 : Byte)) ∈ futureCells loc v 1 :=
      List.mem_append_left _ (List.mem_append_right _ (List.mem_singleton.2 rfl))
    exact ⟨State.num_fillFuture hs loc v 1, State.byte_fillFuture_cell hs hstate, State.whead_fillFuture hs loc v 1,
      fun w hw => State.waiters_fillFuture s loc v 1 hw, fun a h h' => State.byte_fillFuture_elsewhere hs h h'⟩

end Sys2Proof.Machine
end

section
/-!
SUPPORT. Claims and their order (R272), and a granted claim of a node's first step (R25, R27).
-/
namespace Sys2Proof.Machine

variable {s : State}

/-! ## The order of claims (R272) -/

/-- Claim `c` stands before `d` or is level with it: by prio, then rseq, then step, then die (R272). -/
def State.Before (s : State) (c d : Claim) : Prop :=
  15 - c.node.prio < 15 - d.node.prio ∨ 15 - c.node.prio = 15 - d.node.prio ∧
    (s.rseqOf c.node < s.rseqOf d.node ∨ s.rseqOf c.node = s.rseqOf d.node ∧
      (s.claimStep c < s.claimStep d ∨ s.claimStep c = s.claimStep d ∧ c.node.die.val ≤ d.node.die.val))
/-- The model compares keys by the order of lists: Mathlib's where it is imported, else that of core. -/
theorem State.firstClaim_iff (s : State) (c d : Claim) : s.firstClaim c d = true ↔ s.Before c d := by
  rw [State.firstClaim, State.Before]
  simp only [decide_eq_true_iff, List.cons_le_cons_iff, le_iff_lt_or_eq, List.cons_lt_cons_iff, List.cons.injEq, lt_irrefl,
    and_true, and_false, or_false, List.nil_le] <;> omega
theorem State.Before.refl (s : State) (c : Claim) : s.Before c c := by
  rw [State.Before]
  omega
theorem State.Before.trans {b c d : Claim} (h : s.Before b c) (h' : s.Before c d) : s.Before b d := by
  rw [State.Before] at *
  omega
theorem State.Before.total (s : State) (c d : Claim) : s.Before c d ∨ s.Before d c := by
  rw [State.Before, State.Before]
  omega

theorem State.bestClaim_cons {b c : Claim} {l : List Claim} (h : s.bestClaim l = some b) :
    s.bestClaim (c :: l) = some (if s.firstClaim c b then c else b) := by
  rw [State.bestClaim, h]
/-- Of claims the best is one that stands before them all. -/
theorem State.bestClaim_first (s : State) (c : Claim) (l : List Claim) :
    ∃ b, s.bestClaim (c :: l) = some b ∧ b ∈ c :: l ∧ ∀ d ∈ c :: l, s.Before b d := by
  induction l generalizing c with
  | nil => exact ⟨c, rfl, List.mem_cons_self, fun d hd => List.mem_singleton.1 hd ▸ State.Before.refl s c⟩
  | cons x l ih =>
    obtain ⟨b, hb, hmem, hall⟩ := ih x
    have hbest := State.bestClaim_cons (c := c) hb
    by_cases hc : s.firstClaim c b = true
    · rw [if_pos hc] at hbest
      have hcb := (s.firstClaim_iff c b).1 hc
      refine ⟨c, hbest, List.mem_cons_self, fun d hd => ?_⟩
      rcases List.mem_cons.1 hd with rfl | hd
      · exact State.Before.refl s d
      · exact hcb.trans (hall d hd)
    · rw [if_neg hc] at hbest
      refine ⟨b, hbest, List.mem_cons_of_mem _ hmem, fun d hd => ?_⟩
      rcases List.mem_cons.1 hd with rfl | hd
      · exact (State.Before.total s b d).resolve_right fun h => hc ((s.firstClaim_iff d b).2 h)
      · exact hall d hd

/-! ## Banks that take the lanes of a step -/

/-- `t` is `s` but for its contexts and cores. -/
def CoresOnly (s t : State) : Prop := t = { s with
  ctxs := t.ctxs
  cores := t.cores }
namespace CoresOnly
theorem refl (s : State) : CoresOnly s s := rfl
theorem trans {s t u : State} (h : CoresOnly s t) (h' : CoresOnly t u) : CoresOnly s u := by
  rw [CoresOnly] at h h' ⊢
  rw [h', h]
theorem occupy (s : State) (c : CtxId) (run : Run) (lane : Fin 4) (fields : List Nat) (b : Bool) :
    CoresOnly s (s.occupy c run lane fields b) := rfl
theorem foldl {β : Type} {f : State → β → State} (hf : ∀ s b, CoresOnly s (f s b)) (l : List β) (s : State) :
    CoresOnly s (l.foldl f s) := by
  induction l generalizing s with
  | nil => exact refl s
  | cons b l ih => exact (hf s b).trans (ih _)
theorem opbField {s t : State} (h : CoresOnly s t) (n : Node) (off lo w : Nat) : t.opbField n off lo w = s.opbField n off lo w := by
  rw [h]; rfl
theorem runs {s t : State} (h : CoresOnly s t) : t.runs = s.runs ∧ t.nextRun = s.nextRun := by
  rw [h]; exact ⟨rfl, rfl⟩
end CoresOnly

/-- A context that takes lane `lane` of a run at time `now` (R32). -/
def Ctx.occupied (now : Nat) (run : Run) (lane : Fin 4) (fields : List Nat) (restartable : Bool) (x : Ctx) : Ctx := { x with
  stat := if restartable then .snapshot else .loaded
  save := if restartable then some (0, now) else none
  wait := .none
  run := run.id
  asid := run.asid
  opb := run.opb
  step := run.step
  lane := lane
  width := run.gang.length
  fields := fields }
theorem State.ctx_occupy (s : State) (c e : CtxId) (run : Run) (lane : Fin 4) (fields : List Nat) (b : Bool) :
    (s.occupy c run lane fields b).ctx e = if e = c then (s.ctx c).occupied s.time run lane fields b else s.ctx e := by
  rw [State.occupy]
  by_cases he : e = c
  · rw [if_pos he, he]
    exact (State.ctx_modCore _ _ _ _).trans (State.ctx_modCtx s c _)
  · rw [if_neg he]
    exact (State.ctx_modCore _ _ _ _).trans (State.ctx_modCtx_ne s _ he)

/-- Lanes of a run are given to contexts. -/
def State.giveLanes (s : State) (run : Run) (fields : List Nat) (b : Bool) (l : List (Nat × CtxId)) : State :=
  l.foldl (fun s x => s.occupy x.2 run (Fin.ofNat 4 x.1) fields b) s
theorem State.giveLanes_cores (s : State) (run : Run) (fields : List Nat) (b : Bool) (l : List (Nat × CtxId)) :
    CoresOnly s (s.giveLanes run fields b l) := CoresOnly.foldl (fun s _ => CoresOnly.occupy s _ _ _ _ _) l s
/-- The loop of a dispatch reads its node's fields at each turn, and no turn changes them. -/
theorem State.foldl_occupy (n : Node) (run : Run) (l : List (Nat × CtxId)) (s : State) :
    l.foldl (fun s x => s.occupy x.2 run (Fin.ofNat 4 x.1) (s.opbWidths n) (s.opbBit n 18)) s =
      s.giveLanes run (s.opbWidths n) (s.opbBit n 18) l := by
  rw [State.giveLanes]
  induction l generalizing s with
  | nil => rw [List.foldl_nil, List.foldl_nil]
  | cons x l ih =>
    rw [List.foldl_cons, List.foldl_cons, ih]
    rfl
theorem State.giveLanes_cons (s : State) (run : Run) (fields : List Nat) (b : Bool) (x : Nat × CtxId) (l : List (Nat × CtxId)) :
    s.giveLanes run fields b (x :: l) = (s.occupy x.2 run (Fin.ofNat 4 x.1) fields b).giveLanes run fields b l := rfl
theorem State.ctx_giveLanes_ne {e : CtxId} {l : List (Nat × CtxId)} (he : e ∉ l.map Prod.snd) (s : State) (run : Run)
    (fields : List Nat) (b : Bool) : (s.giveLanes run fields b l).ctx e = s.ctx e := by
  induction l generalizing s with
  | nil => rfl
  | cons x l ih =>
    rw [List.map_cons, List.mem_cons, not_or] at he
    rw [State.giveLanes_cons, ih he.2, State.ctx_occupy, if_neg he.1]
theorem State.ctx_giveLanes {l : List (Nat × CtxId)} (hl : (l.map Prod.snd).Nodup) {x : Nat × CtxId} (hx : x ∈ l) (s : State)
    (run : Run) (fields : List Nat) (b : Bool) :
    (s.giveLanes run fields b l).ctx x.2 = (s.ctx x.2).occupied s.time run (Fin.ofNat 4 x.1) fields b := by
  induction l generalizing s with
  | nil => cases hx
  | cons y l ih =>
    rw [List.map_cons, List.nodup_cons] at hl
    rcases List.mem_cons.1 hx with rfl | hx
    · rw [State.giveLanes_cons, State.ctx_giveLanes_ne hl.1, State.ctx_occupy, if_pos rfl]
    · have hne : x.2 ≠ y.2 := fun h => hl.1 (h ▸ List.mem_map_of_mem hx)
      rw [State.giveLanes_cons, ih hl.2 hx, State.ctx_occupy, if_neg hne]
      rfl

/-! ## The first step of a node -/

theorem StorageOnly.setOpb (s : State) (n : Node) (off lo w v : Nat) : StorageOnly s (s.setOpb n off lo w v) :=
  StorageOnly.setNum s _ _ _
/-- `t` is `s` after the walker of node `n` has handed out a step: other words of the OPB stand, and so does the count of steps
that run. -/
structure Walked (n : Node) (s t : State) : Prop where
  storage : StorageOnly s t
  good    : t.Canonical
  other   : ∀ off lo w, off + 8 ≤ 0xA0 → t.opbField n off lo w = s.opbField n off lo w
  count   : t.opbField n 0xA8 0 32 = s.opbField n 0xA8 0 32
theorem State.walked_walkOn (hs : s.Canonical) (n : Node) : Walked n s (s.walkOn n).2 := by
  have hset (k : Nat) : Walked n s (s.setOpb n 0xA0 0 64 k) := ⟨StorageOnly.setOpb _ _ _ _ _ _, hs.setOpb _ _ _ _ _,
    fun off lo w h => State.opbField_setOpb_elsewhere hs (.inl h), State.opbField_setOpb_elsewhere hs (.inr (by decide))⟩
  rw [State.walkOn]
  dsimp only
  split
  · exact hset _
  · have h := hset (2 ^ (s.opbWidths n).sum % 2 ^ 64)
    exact ⟨h.storage.trans (StorageOnly.setOpb _ _ _ _ _ _), h.good.setOpb _ _ _ _ _,
      fun off lo w ho => (State.opbField_setOpb_elsewhere h.good (.inl (by omega))).trans (h.other off lo w ho),
      (State.opbField_setOpb_below h.good (by decide) (by decide)).trans h.count⟩

/-- Activation of a node that asks for no arena and has no part in a trace: its state is 2 (R25). -/
theorem State.activate_plain (hs : s.Canonical) {n : Node} (hk : s.opbField n 0x30 0 17 = 0) (h19 : s.opbBit n 19 = false)
    (h20 : s.opbBit n 20 = false) : s.activate n = some (s.setOpb n 0x90 0 3 2) := by
  have hbit (i : Nat) : (s.setOpb n 0x90 0 3 2).opbBit n i = s.opbBit n i :=
    congrArg (fun v : Nat => decide (v = 1)) (State.opbField_setOpb_elsewhere hs (.inl (by decide)))
  rw [State.activate, hk]
  simp [hbit, h19, h20]

/-- The state in which the banks of a block take a node's first step. -/
def State.counted (s : State) (n : Node) : State :=
  let u := ((s.setOpb n 0x90 0 3 2).walkOn n).2
  u.setOpb n 0xA8 0 32 (u.opbField n 0xA8 0 32 + 1)
/-- The run of that step. -/
def State.firstRun (s : State) (c : Claim) : Run :=
  let a := s.setOpb c.node 0x90 0 3 2
  ⟨(s.counted c.node).nextRun, c.node.asid, c.node.opb, (a.walkOn c.node).1, c.block,
    List.replicate c.block.length (a.opbCarry c.node), false, 0, false, false⟩
/-- The run has joined those of the device. -/
def State.granted (s : State) (c : Claim) : State := { s.counted c.node with
  nextRun := (s.counted c.node).nextRun + 1
  runs := (s.counted c.node).runs ++ [s.firstRun c] }

variable {n : Node}

theorem State.walked_first (hs : s.Canonical) (n : Node) :
    Walked n (s.setOpb n 0x90 0 3 2) ((s.setOpb n 0x90 0 3 2).walkOn n).2 := State.walked_walkOn (hs.setOpb _ _ _ _ _) n
theorem State.storageOnly_counted (hs : s.Canonical) (n : Node) : StorageOnly s (s.counted n) :=
  (StorageOnly.setOpb s _ _ _ _ _).trans ((State.walked_first hs n).storage.trans (StorageOnly.setOpb _ _ _ _ _ _))
/-- The words before the node's state are those that software wrote. -/
theorem State.opbField_counted (hs : s.Canonical) {off lo w : Nat} (h : off + 8 ≤ 0x90) :
    (s.counted n).opbField n off lo w = s.opbField n off lo w := by
  have hw := State.walked_first hs n
  rw [State.counted]
  rw [State.opbField_setOpb_elsewhere hw.good (.inl (by omega)), hw.other _ _ _ (by omega),
    State.opbField_setOpb_elsewhere hs (.inl h)]
/-- The node is active. -/
theorem State.nodeState_counted (hs : s.Canonical) (n : Node) : (s.counted n).opbField n 0x90 0 3 = 2 := by
  have hw := State.walked_first hs n
  rw [State.counted]
  rw [State.opbField_setOpb_elsewhere hw.good (.inl (by decide)), hw.other _ _ _ (by decide)]
  exact State.opbField_setOpb hs (by decide)
/-- One more step of it runs. -/
theorem State.count_counted (hs : s.Canonical) (h : s.opbField n 0xA8 0 32 < 2 ^ 32 - 1) :
    (s.counted n).opbField n 0xA8 0 32 = s.opbField n 0xA8 0 32 + 1 := by
  have hw := State.walked_first hs n
  have hcount : ((s.setOpb n 0x90 0 3 2).walkOn n).2.opbField n 0xA8 0 32 = s.opbField n 0xA8 0 32 :=
    hw.count.trans (State.opbField_setOpb_elsewhere hs (.inr (by decide)))
  rw [State.counted]
  rw [State.opbField_setOpb hw.good (by decide), hcount]
  exact Nat.mod_eq_of_lt (by omega)

theorem State.opbField_addRun (u : State) (k : Nat) (l : List Run) (n : Node) (off lo w : Nat) :
    ({ u with nextRun := k, runs := l } : State).opbField n off lo w = u.opbField n off lo w := rfl
theorem State.opbField_granted_counted (s : State) (c : Claim) (n : Node) (off lo w : Nat) :
    (s.granted c).opbField n off lo w = (s.counted c.node).opbField n off lo w := State.opbField_addRun _ _ _ _ _ _ _
/-- The words before the node's state stand as its banks take the step. -/
theorem State.opbField_granted (hs : s.Canonical) {c : Claim} {off lo w : Nat} (h : off + 8 ≤ 0x90) :
    (s.granted c).opbField c.node off lo w = s.opbField c.node off lo w := by
  rw [State.opbField_granted_counted, State.opbField_counted hs h]

/-- A granted claim of a node's first step, where the node asks for no arena, chains no carries and has no part in a trace. -/
theorem State.dispatch_first (hs : s.Canonical) {c : Claim} (hn : s.node c.node.asid c.node.opb = some c.node)
    (h1 : s.nodeState c.node = 1) (ho : c.offer = .walk) (hk : s.opbField c.node 0x30 0 17 = 0)
    (h19 : s.opbBit c.node 19 = false) (h20 : s.opbBit c.node 20 = false) (h23 : s.opbBit c.node 23 = false) :
    s.dispatch c = (s.granted c).giveLanes (s.firstRun c) ((s.granted c).opbWidths c.node) ((s.granted c).opbBit c.node 18)
      ((List.range c.block.length).zip c.block) := by
  have hst : StorageOnly s (s.setOpb c.node 0x90 0 3 2) := StorageOnly.setOpb _ _ _ _ _ _
  have h0 : (s.setOpb c.node 0x90 0 3 2).node c.node.asid c.node.opb = some c.node := by
    rw [hst.node]
    exact hn
  have h23' : (s.setOpb c.node 0x90 0 3 2).opbBit c.node 23 = false := by
    rw [State.opbBit, State.opbField_setOpb_elsewhere hs (.inl (by decide))]; exact h23
  unfold State.dispatch
  dsimp only
  rw [if_pos h1, State.activate_plain hs hk h19 h20]
  dsimp only
  rw [h0, Option.getD_some, ho, h23']
  have hfold := State.foldl_occupy c.node (s.firstRun c) ((List.range c.block.length).zip c.block) (s.granted c)
  refine Eq.trans (if_neg fun h => ?_) hfold
  have hbit : ((s.granted c).giveLanes (s.firstRun c) ((s.granted c).opbWidths c.node) ((s.granted c).opbBit c.node 18)
      ((List.range c.block.length).zip c.block)).opbBit c.node 19 = true := by
    rw [← hfold]
    exact h
  rw [State.opbBit, (State.giveLanes_cores _ _ _ _ _).opbField, State.opbField_granted hs (by decide)] at hbit
  exact absurd (h19.symm.trans hbit) Bool.false_ne_true

/-! ## What the granted claim leaves -/

variable {t : State} {c : Claim}

theorem StorageOnly.runs (h : StorageOnly s t) : t.runs = s.runs ∧ t.nextRun = s.nextRun := by
  obtain ⟨_, _, _, rfl⟩ := h; exact ⟨rfl, rfl⟩
theorem carry_congr {f g : Nat → Word} (h : ∀ i < 4, f i = g i) : (#v[f 0, f 1, f 2, f 3] : Carry) = #v[g 0, g 1, g 2, g 3] := by
  rw [h 0 (by decide), h 1 (by decide), h 2 (by decide), h 3 (by decide)]
/-- The carries and the fields of a node whose words before its state stand. -/
theorem State.opbCarry_congr (h : ∀ off lo w, off + 8 ≤ 0x90 → t.opbField n off lo w = s.opbField n off lo w) :
    t.opbCarry n = s.opbCarry n := by
  rw [State.opbCarry, State.opbCarry]
  exact carry_congr (f := fun i => BitVec.ofNat 64 (t.opbField n (0x50 + 8 * i) 0 64))
    (g := fun i => BitVec.ofNat 64 (s.opbField n (0x50 + 8 * i) 0 64))
    fun i hi => congrArg (BitVec.ofNat 64) (h (0x50 + 8 * i) 0 64 (by omega))
theorem State.opbWidths_congr (h : ∀ off lo w, off + 8 ≤ 0x90 → t.opbField n off lo w = s.opbField n off lo w) :
    t.opbWidths n = s.opbWidths n := by
  rw [State.opbWidths, State.opbWidths, h _ _ _ (by decide)]
  exact List.map_congr_left fun i _ => h _ _ _ (by decide)

/-- The step is the one that the walker names, and its lanes start with the carries of the OPB (R27). -/
theorem State.firstRun_eq (hs : s.Canonical) (c : Claim) : s.firstRun c = ⟨s.nextRun, c.node.asid, c.node.opb,
    BitVec.ofNat 64 (s.opbField c.node 0xA0 0 64), c.block, List.replicate c.block.length (s.opbCarry c.node), false, 0, false,
    false⟩ := by
  have hstep : ((s.setOpb c.node 0x90 0 3 2).walkOn c.node).1 = BitVec.ofNat 64 (s.opbField c.node 0xA0 0 64) := by
    rw [State.walkOn, State.opbField_setOpb_elsewhere hs (.inr (by decide))]
  have hcarry : (s.setOpb c.node 0x90 0 3 2).opbCarry c.node = s.opbCarry c.node :=
    State.opbCarry_congr fun off lo w h => State.opbField_setOpb_elsewhere hs (.inl h)
  rw [State.firstRun, hstep, hcarry, (State.storageOnly_counted hs c.node).runs.2]
theorem State.runs_granted (hs : s.Canonical) (c : Claim) :
    (s.granted c).runs = s.runs ++ [s.firstRun c] ∧ (s.granted c).nextRun = s.nextRun + 1 := by
  obtain ⟨hruns, hnext⟩ := (State.storageOnly_counted hs c.node).runs
  rw [State.granted, hruns, hnext]
  exact ⟨rfl, rfl⟩
theorem State.ctx_addRun (u : State) (k : Nat) (l : List Run) (e : CtxId) :
    ({ u with nextRun := k, runs := l } : State).ctx e = u.ctx e := rfl
theorem State.time_addRun (u : State) (k : Nat) (l : List Run) : ({ u with nextRun := k, runs := l } : State).time = u.time := rfl
theorem State.ctx_granted (hs : s.Canonical) (c : Claim) (e : CtxId) : (s.granted c).ctx e = s.ctx e :=
  (State.ctx_addRun _ _ _ e).trans ((State.storageOnly_counted hs c.node).ctx e)
theorem State.time_granted (hs : s.Canonical) (c : Claim) : (s.granted c).time = s.time :=
  (State.time_addRun _ _ _).trans (State.storageOnly_counted hs c.node).time

end Sys2Proof.Machine
end

section
/-!
CERTIFICATE. Dispatch decisions, claims for a block and the trace (O48).
-/
namespace Sys2Proof.Machine

variable {s : State} {c : Claim} {a : BitVec 12} {r : TraceRec}

theorem exec_dispatchDecision (die : Fin 4) (s : State) : exec (.dispatchDecision die) s = execDispatchDecision die s := rfl
theorem exec_clusterClaim (die : Fin 4) (s : State) : exec (.clusterClaim die) s = execClusterClaim die s := rfl
theorem exec_nodeActivation (a : BitVec 12) (o : Nat) (s : State) : exec (.nodeActivation a o) s = execNodeActivation a o s := rfl
theorem exec_traceReplayDispatch (core : Fin 128) (s : State) :
    exec (.traceReplayDispatch core) s = execTraceReplayDispatch core s := rfl
theorem exec_traceWaitTimeout (core : Fin 128) (s : State) :
    exec (.traceWaitTimeout core) s = execTraceWaitTimeout core s := rfl
theorem exec_traceFullClear (a : BitVec 12) (base : Nat) (nrec : W32) (s : State) :
    exec (.traceFullClear a base nrec) s = execTraceFullClear a base nrec s := rfl

/-! ## Decisions -/

theorem State.replayEnds_none (h : ∀ n ∈ s.nodes, s.opbBit n 20 = false) (die : Fin 4) : s.replayEnds die = s := by
  rw [State.replayEnds, List.filter_eq_nil_iff.2 fun n hn => by simp [h n hn]]
  rfl
theorem State.grantAll_stop {die : Fin 4} (h : s.claim die = none) (k : Nat) : State.grantAll die k s = s := by
  cases k with
  | zero => rfl
  | succ k => rw [State.grantAll, h]
theorem State.grantAll_step {die : Fin 4} {d : Claim} (h : s.claim die = some d) (hb : s.bestClaim s.dieClaims = some c) (k : Nat) :
    State.grantAll die (k + 1) s = State.grantAll die k (s.dispatch c) := by
  rw [State.grantAll, h, hb]

theorem exec_dispatchDecision_one {die : Fin 4} {d : Claim} (hr : ∀ n ∈ s.nodes, s.opbBit n 20 = false)
    (h : s.claim die = some d) (hb : s.bestClaim s.dieClaims = some c) (hn : (s.dispatch c).claim die = none) :
    exec (.dispatchDecision die) s = .next (s.dispatch c) := by
  rw [exec_dispatchDecision, execDispatchDecision, State.replayEnds_none hr, show 256 + s.nodes.length = (255 + s.nodes.length) + 1 by omega,
    State.grantAll_step h hb, State.grantAll_stop hn]
theorem exec_dispatchDecision_none {die : Fin 4} (hr : ∀ n ∈ s.nodes, s.opbBit n 20 = false) (h : s.claim die = none) :
    exec (.dispatchDecision die) s = .next s := by
  rw [exec_dispatchDecision, execDispatchDecision, State.replayEnds_none hr, State.grantAll_stop h]
theorem exec_clusterClaim_best {die : Fin 4} (hb : s.bestClaim s.dieClaims = some c) : exec (.clusterClaim die) s =
    .next (if c.block.any fun l => coreDie l.core = die then s.dispatch c else s) := by
  rw [exec_clusterClaim, execClusterClaim, hb]
theorem exec_nodeActivation_best (hn : s.node c.node.asid c.node.opb = some c.node) (h1 : s.nodeState c.node = 1)
    (hb : s.bestClaim s.dieClaims = some c) : exec (.nodeActivation c.node.asid c.node.opb) s = .next (s.dispatch c) := by
  rw [exec_nodeActivation, execNodeActivation, hn]
  dsimp only
  rw [hb]
  simp [h1]

/-! ## The trace (R277 to R279, R358) -/

theorem exec_traceReplayDispatch_one {core : Fin 128} {g : List (Nat × TraceRec)} (h : s.nextOf core = [(a, g)]) :
    exec (.traceReplayDispatch core) s = .next (s.replayGang core a g) := by
  rw [exec_traceReplayDispatch, execTraceReplayDispatch, h]
  rfl
theorem exec_traceWaitTimeout_one {core : Fin 128} {g : List (Nat × TraceRec)} (h : s.nextOf core = [(a, g)]) :
    exec (.traceWaitTimeout core) s = .next (s.traceLate core a g) := by
  rw [exec_traceWaitTimeout, execTraceWaitTimeout, h]
  rfl

/-- A gang of records whose node has come to its step, where the banks that it names are free, is dispatched. -/
theorem State.replayGang_reached {core : Fin 128} {i : Nat} {rest : List (Nat × TraceRec)} {n : Node} {o : Offer}
    (hp : ∀ x ∈ (i, r) :: rest, s.placeable x.2.core = true) (hn : s.node a r.opb = some n) (hord : n.ord = some r.nord)
    (ho : s.offer n = some o)
    (hstep : s.claimStep ⟨n, o, ((i, r) :: rest).map fun x => ⟨x.2.core, x.2.bank⟩⟩ = r.step.toNat)
    (hw : ((i, r) :: rest).length = s.gangWidth n)
    (hfree : ∀ l ∈ ((i, r) :: rest).map fun x => (⟨x.2.core, x.2.bank⟩ : CtxId), (s.ctx l).stat = .empty) :
    s.replayGang core a ((i, r) :: rest) = ((s.setNum (s.trcb a + 20) (i + ((i, r) :: rest).length) 4).traceGoes a
      ((i, r) :: rest)).dispatch ⟨n, o, ((i, r) :: rest).map fun x => ⟨x.2.core, x.2.bank⟩⟩ := by
  have hplace : (((i, r) :: rest).all fun x => s.placeable x.2.core) = true := List.all_eq_true.2 hp
  have hempty : ((((i, r) :: rest).map fun x => (⟨x.2.core, x.2.bank⟩ : CtxId)).all fun l => (s.ctx l).stat = .empty) = true :=
    List.all_eq_true.2 fun l hl => decide_eq_true (hfree l hl)
  unfold State.replayGang
  dsimp only
  rw [hplace, hn]
  dsimp only
  rw [ho]
  dsimp only
  rw [hempty, hord, hstep, List.length_map, hw]
  simp

/-- The cores of a gang of records wait for its trace no more; the others are as they were. -/
theorem State.traceWait_traceGoes (a : BitVec 12) (g : List (Nat × TraceRec)) (k : Fin 128) (s : State) :
    ((s.traceGoes a g).core k).traceWait =
      if k ∈ g.map (·.2.core) then (s.core k).traceWait.filter fun w => w.1 ≠ a else (s.core k).traceWait := by
  induction g generalizing s with
  | nil => rfl
  | cons x g ih =>
    have hcons : s.traceGoes a (x :: g) = (s.modCore x.2.core fun k =>
      { k with traceWait := k.traceWait.filter fun w => w.1 ≠ a }).traceGoes a g := rfl
    rw [hcons, ih]
    by_cases hk : k = x.2.core
    · rw [hk, State.core_modCore]
      simp
    · rw [State.core_modCore_ne _ _ hk]
      simp only [List.map_cons, List.mem_cons, hk, false_or]

/-- A record that was waited for too long gives 0x43. -/
theorem State.traceLate_over {core : Fin 128} {i : Nat} {w : BitVec 12 × Nat}
    (hf : (s.core core).traceWait.find? (fun w => w.1 = a) = some w) (h : s.asidWord a 8 % 2 ^ 17 < s.time - w.2) :
    s.traceLate core a [(i, r)] = (s.traceGoes a [(i, r)]).recordFail a i r 1 := by
  unfold State.traceLate
  rw [hf]
  exact if_pos h

variable {i k : Nat} {n : Node}

theorem State.recordFail_held (h : s.node a r.opb = some n) : s.recordFail a i r k = s.abortNode a r.opb 0x43 r.core.val r.step
    [devWords 0x43 r.core.val r.step r.opb (s.field (s.trcb a) 0 56 + 32 * i) (s.num (s.trcb a + 20) 4) r.nord.toNat] := by
  unfold State.recordFail
  dsimp only
  rw [h]
  rfl
/-- A node that waits and that no scheduler holds is aborted as it stands in memory (log entry 29). -/
theorem State.recordFail_waiting (h : s.node a r.opb = none) (hf : s.findOpb a r.opb = some n) (h0 : s.nodeState n = 0) :
    s.recordFail a i r k = ({ s with nodes := s.nodes ++ [n] } : State).abortNode a r.opb 0x43 r.core.val r.step
      [devWords 0x43 r.core.val r.step r.opb (s.field (s.trcb a) 0 56 + 32 * i) (s.num (s.trcb a + 20) 4) r.nord.toNat] := by
  have hfilter : (s.findOpb a r.opb).filter (fun n => s.nodeState n = 0) = some n := by rw [hf]; simp [h0]
  unfold State.recordFail
  dsimp only
  rw [h, hfilter]
  rfl
/-- Where there is none to abort, the record stands alone and the trace goes past it (log entry 29). -/
theorem State.recordFail_past (h : s.node a r.opb = none) (hf : ∀ n, s.findOpb a r.opb = some n → s.nodeState n ≠ 0)
    (hd : s.deciding (.passTrace (s.trcb a) (i + k)) = false) : s.recordFail a i r k = s.devRecord
      (devWords 0x43 r.core.val r.step r.opb (s.field (s.trcb a) 0 56 + 32 * i) (s.num (s.trcb a + 20) 4) r.nord.toNat)
      (.passTrace (s.trcb a) (i + k)) := by
  have hfilter : (s.findOpb a r.opb).filter (fun n => s.nodeState n = 0) = none := by
    cases hn : s.findOpb a r.opb with
    | none => rfl
    | some n => simp [hf n hn]
  unfold State.recordFail
  dsimp only
  rw [h, hfilter]
  dsimp only
  rw [hd]
  rfl

/-- The low half of a word whose high half has a field written. -/
theorem State.num_setField_low (hs : s.Canonical) {l v w : Nat} (h : 32 + w ≤ 64) : (s.setField l 32 w v).num l 4 = s.num l 4 := by
  rw [State.num_mod _ l (by decide : 4 ≤ 8), State.num_setField hs h, State.num_mod s l (by decide : 4 ≤ 8)]
  exact splice_below (k := 32) (Nat.le_refl 32)

/-- The new buffer of a trace that was full. -/
def State.newBuffer (s : State) (cb base : Nat) (nrec : W32) : State :=
  (((s.setField cb 0 56 base).setNum (cb + 8) nrec.toNat 4).setNum (cb + 16) 0 4).setField (cb + 0x18) 32 1 0
theorem exec_traceFullClear_full {base : Nat} {nrec : W32} (h0 : s.trcb a ≠ 0) (hf : s.field (s.trcb a + 0x18) 32 1 = 1) :
    exec (.traceFullClear a base nrec) s = .next (s.newBuffer (s.trcb a) base nrec) := by
  have hfull : s.traceFull a = true := by simp [State.traceFull, h0, hf]
  rw [exec_traceFullClear, execTraceFullClear, if_pos hfull]
  rfl

/-- The words of the control block after that: its counts of records and of nodes stand. -/
theorem State.newBuffer_words (hs : s.Canonical) (cb base : Nat) (nrec : W32) :
    (s.newBuffer cb base nrec).field cb 0 56 = base % 2 ^ 56 ∧ (s.newBuffer cb base nrec).num (cb + 8) 4 = nrec.toNat ∧
      (s.newBuffer cb base nrec).num (cb + 16) 4 = 0 ∧ (s.newBuffer cb base nrec).field (cb + 0x18) 32 1 = 0 ∧
      (s.newBuffer cb base nrec).num (cb + 20) 4 = s.num (cb + 20) 4 ∧
      (s.newBuffer cb base nrec).num (cb + 0x18) 4 = s.num (cb + 0x18) 4 := by
  have h1 : (s.setField cb 0 56 base).Canonical := hs.setField _ _ _ _
  have h2 : ((s.setField cb 0 56 base).setNum (cb + 8) nrec.toNat 4).Canonical := h1.setNum _ _ _
  have h3 : (((s.setField cb 0 56 base).setNum (cb + 8) nrec.toNat 4).setNum (cb + 16) 0 4).Canonical := h2.setNum _ _ _
  rw [State.newBuffer]
  refine ⟨?_, ?_, ?_, ?_, ?_, ?_⟩
  · rw [State.field_setField_elsewhere h3 (by omega), State.field_setNum_elsewhere h2 (by omega),
      State.field_setNum_elsewhere h1 (by omega), State.field_setField hs (by decide)]
  · rw [State.num_setField_elsewhere h3 (by omega), State.num_setNum_elsewhere h2 (by omega), State.num_setNum h1]
    exact Nat.mod_eq_of_lt nrec.isLt
  · rw [State.num_setField_elsewhere h3 (by omega), State.num_setNum h2]
    rfl
  · exact State.field_setField h3 (by decide)
  · rw [State.num_setField_elsewhere h3 (by omega), State.num_setNum_elsewhere h2 (by omega),
      State.num_setNum_elsewhere h1 (by omega), State.num_setField_elsewhere hs (by omega)]
  · rw [State.num_setField_low h3 (by decide), State.num_setNum_elsewhere h2 (by omega),
      State.num_setNum_elsewhere h1 (by omega), State.num_setField_elsewhere hs (by omega)]

/-- Settles O48: decisions by one turn of the loop of grants, the order of claims by the best of a list, the first step by the
state in which its banks take it, and the trace by the outcomes of its record. -/
theorem dispatchFollowsOrderAndTrace : Obligations.DispatchFollowsOrderAndTrace := by
  unfold Obligations.DispatchFollowsOrderAndTrace
  refine ⟨fun s die c d hr h hb hn => exec_dispatchDecision_one hr h hb hn, fun s die hr h => exec_dispatchDecision_none hr h,
    fun s die c hb => ?_, fun s c l hc => ?_, fun s c hn h1 hb => exec_nodeActivation_best hn h1 hb, fun s c => ?_,
    fun s core a i r rest n o => ?_, fun s a g k => State.traceWait_traceGoes a g k s, fun s core a i r w hg hf hlate => ?_,
    fun s a base nrec => ?_⟩
  · -- the first claim for a block, where it reaches the die
    rw [exec_clusterClaim_best hb]
    refine ⟨fun ⟨l, hl, hd⟩ => congrArg Host.Outcome.next (if_pos (List.any_eq_true.2 ⟨l, hl, decide_eq_true hd⟩)),
      fun hall => congrArg Host.Outcome.next (if_neg fun h => ?_)⟩
    obtain ⟨l, hl, hd⟩ := List.any_eq_true.1 h
    exact hall l hl (of_decide_eq_true hd)
  · -- the order of claims
    cases l with
    | nil => cases hc
    | cons x l =>
      obtain ⟨b, hb, hmem, hall⟩ := State.bestClaim_first s x l
      have hbefore := hall c hc
      rw [State.Before] at hbefore
      refine ⟨b, hb, hmem, fun hb15 hc15 => ?_⟩
      rw [← Fin.val_fin_le]
      omega
  · -- a node's first step
    intro n hs hn h1 ho hk h18 h20 h23 hnd hlen hcount
    rw [State.dispatch_first hs hn h1 ho hk h18 h20 h23]
    have hcores := State.giveLanes_cores (s.granted c) (s.firstRun c) ((s.granted c).opbWidths c.node)
      ((s.granted c).opbBit c.node 18) ((List.range c.block.length).zip c.block)
    have hsnd : ((List.range c.block.length).zip c.block).map Prod.snd = c.block :=
      List.map_snd_zip (by rw [List.length_range])
    have hwidths : (s.granted c).opbWidths c.node = s.opbWidths c.node :=
      State.opbWidths_congr fun off lo w h => State.opbField_granted hs h
    have hbit : (s.granted c).opbBit c.node 18 = s.opbBit c.node 18 := by
      rw [State.opbBit, State.opbField_granted hs (by decide), State.opbBit]
    refine ⟨?_, ?_, ?_, ?_, fun i hi => ?_, fun e he => ?_⟩
    · rw [hcores.opbField, State.opbField_granted_counted, State.nodeState_counted hs]
    · rw [hcores.opbField, State.opbField_granted_counted, State.count_counted hs hcount]
    · rw [hcores.runs.1, (State.runs_granted hs c).1, State.firstRun_eq hs]
    · rw [hcores.runs.2, (State.runs_granted hs c).2]
    · have hmem : (i, c.block[i]) ∈ (List.range c.block.length).zip c.block :=
        List.mem_iff_getElem.2 ⟨i, by simpa using hi, by simp⟩
      have hctx := State.ctx_giveLanes (by rwa [hsnd]) hmem (s.granted c) (s.firstRun c) ((s.granted c).opbWidths c.node)
        ((s.granted c).opbBit c.node 18)
      rw [hctx, State.ctx_granted hs, State.time_granted hs, hwidths, hbit, State.firstRun_eq hs]
      rfl
    · rw [State.ctx_giveLanes_ne (by rwa [hsnd]), State.ctx_granted hs]
  · -- the next record of a trace
    intro g block hg hp hn hord ho hstep hw hfree
    rw [exec_traceReplayDispatch_one hg, State.replayGang_reached hp hn hord ho hstep hw hfree]
  · -- a record that was waited for too long
    have hexec : exec (.traceWaitTimeout core) s = .next ((s.traceGoes a [(i, r)]).recordFail a i r 1) := by
      rw [exec_traceWaitTimeout_one hg, State.traceLate_over hf hlate]
    have hnode : (s.traceGoes a [(i, r)]).node a r.opb = s.node a r.opb := rfl
    refine ⟨fun n hn => ?_, fun hn n hfind h0 => ?_, fun hn hfind hd => ?_⟩
    · rw [hexec, State.recordFail_held (hnode.trans hn)]
    · rw [hexec, State.recordFail_waiting (hnode.trans hn) hfind h0]
    · rw [hexec, State.recordFail_past (hnode.trans hn) hfind hd]
  · -- a new buffer
    intro cb hs h0 hf
    exact ⟨_, exec_traceFullClear_full h0 hf, State.newBuffer_words hs cb base nrec⟩

end Sys2Proof.Machine
end

section
/-!
CERTIFICATE. What issuing an operation leaves: its slot predicate, and the frame of the scalar and vector slots (O5, O7).
-/
namespace Sys2Proof.Machine
open Sys2Proof.Laws

/-! ## The slot predicate -/

/-- What an instruction means is an operation of its slot under its slot predicate. Those that are done without a check are
named apart, with that result; an event has no encoding. -/
theorem exec_eq_slotOp {i : Instr} {sl : Slot} {w : Nat} (h : encode i = some (sl, w)) (s : State) :
    ∃ r, exec i s = s.slotOp sl (Instr.pred i) r := by
  cases i with
  | movi | movk | dget | crrd | br | call | loopi | fence | vmovk | kpopc | oclip => cases h; exact ⟨.done _, rfl⟩
  | _ => cases h <;> exact ⟨_, rfl⟩

/-- Settles O5: every operation goes through `State.slotOp`, which looks at the predicate before anything else. -/
theorem falsePredicateTakesNoEffect : Obligations.FalsePredicateTakesNoEffect := by
  intro i sl w s henc hp
  obtain ⟨r, hr⟩ := exec_eq_slotOp henc s
  rw [hr, slotOp_off hp]

/-! ## Results that join the pipeline -/

theorem State.me_land (s : State) (sl : Slot) (lat : Nat) (ws : List RegWrite) (q : Option Latch) (f : Flags) :
    (s.land sl lat ws q f).me = { s.me with
      pipe := s.me.pipe ++ [⟨sl, s.me.n, s.me.pc, some (s.me.n + lat), ws, q, f, [], s.time + lat, false⟩] } :=
  s.me_modMe _
theorem State.ctx_land_ne (s : State) {e : CtxId} (h : e ≠ s.cur) (sl : Slot) (lat : Nat) (ws : List RegWrite)
    (q : Option Latch) (f : Flags) : (s.land sl lat ws q f).ctx e = s.ctx e := by
  rw [State.land, State.modMe, State.ctx_modCtx_ne s _ h]
theorem State.onlyContext_land (s : State) (sl : Slot) (lat : Nat) (ws : List RegWrite) (q : Option Latch) (f : Flags) :
    OnlyContext s.cur s (s.land sl lat ws q f).issued :=
  ⟨rfl, fun _ h => s.ctx_land_ne h ..⟩
theorem SameRegs.pipe (x : Ctx) (l : List Landing) : SameRegs x { x with pipe := l } :=
  ⟨rfl, rfl, rfl, rfl, rfl, rfl, rfl, rfl, rfl, rfl, rfl, rfl⟩

/-! ## The scalar and vector slots -/

/-- It fails, or all that it changes of `s` is that a result of slot `sl` joins the pipeline. -/
inductive Res.Lands (s : State) (sl : Slot) : Res → Prop
  | fail (f : Fail) : Lands s sl (.fail f)
  | done (lat : Nat) (ws : List RegWrite) (q : Option Latch) (f : Flags) : Lands s sl (.done (s.land sl lat ws q f))

theorem Res.Lands.need {α : Type} {s : State} {sl : Slot} {e : Except Fail α} {k : α → Res}
    (h : ∀ a, Res.Lands s sl (k a)) : Res.Lands s sl (.need e k) := by
  cases e with
  | ok a => exact h a
  | error f => exact .fail f

/-- Every operation of a scalar or vector slot but VSIG makes its checks, one after another, and lands its result: the cases
are those of none to four checks. -/
theorem exec_lands {i : Instr} {sl : Slot} {w : Nat} (h : encode i = some (sl, w))
    (hsl : sl = .s0 ∨ sl = .s1 ∨ sl = .v0 ∨ sl = .v1) (hsig : ∀ u p d a h e, i ≠ .vsig u p d a h e) (s : State) :
    ∃ p r, exec i s = s.slotOp sl p r ∧ Res.Lands s sl r := by
  cases i with
  | vsig => exact (hsig _ _ _ _ _ _ rfl).elim
  | movi | movk | dget | crrd | vmovk | kpopc => cases h; exact ⟨_, .done _, rfl, .done ..⟩
  | sext | zext | popc | clz | ctz | sfld | fcvtis | fcvtsi | pmov | ptos | dset | crwr =>
    cases h; exact ⟨_, _, rfl, .need fun _ => .done ..⟩
  | add | sub | mul | mulh | mulhn | divs | divn | rems | remn | and | or | xor | andn | shl | shr | sra | min | max | minn
  | maxn | lea | bext | bins | cmpeq | cmpne | cmplt | cmple | cmpltn | cmplen | pand | por | pxor | pandn | sel
  | fadds | fmuls | fcmplt | vextr => cases h; exact ⟨_, _, rfl, .need fun _ => .need fun _ => .done ..⟩
  | vcmpeq | vcmplt | vcmple | vcmpne => cases h; exact ⟨_, _, rfl, .need fun _ => .need fun _ => .need fun _ => .done ..⟩
  | vadd | vsub | vmul | vfma | vfms | vfnma | vmin | vmax | vabs | vneg | vcpys | vand | vor | vxor | vshl | vshr | vsra
  | vclass | vsel | vrcp | vrsqrt | vsqrt | vexp2 | vlog2 | vtanh | vcvt | vscale | vquant | vradd | vrmax | vrmin | vbcast
  | vperm | vrotl | viota | vmov | vins | vscan =>
    cases h; exact ⟨_, _, rfl, .need fun _ => .need fun _ => .need fun _ => .need fun _ => .done ..⟩
  | _ => cases h <;> simp at hsl

/-- Settles O7: an operation of these slots that is done has put one result into the pipeline and touched nothing else. -/
theorem pipelinedSlotFrame : Obligations.PipelinedSlotFrame := by
  intro i sl w s t henc hsl hsig hex hv
  obtain ⟨p, r, hr, hlands⟩ := exec_lands henc hsl hsig s
  rw [hr] at hex
  rcases slotOp_ok hex hv with rfl | ⟨u, rfl, rfl⟩
  · exact ⟨⟨rfl, fun _ _ => rfl⟩, ⟨[], Nat.zero_le 1, by simp⟩, .pipe s.me s.me.pipe, fun _ => rfl⟩
  · cases hlands with
    | done lat ws q f =>
      have hme : (s.land sl lat ws q f).issued.me = _ := s.me_land sl lat ws q f
      rw [hme]
      exact ⟨s.onlyContext_land .., ⟨[_], Nat.le_refl 1, rfl⟩, .pipe _ _, fun _ => rfl⟩

end Sys2Proof.Machine
end

section
/-!
SUPPORT. What the landing of a result writes, register by register, and what it does to latches and sticky records.
-/
namespace Sys2Proof.Machine

/-! ## One register write -/

theorem getElem_setBit {n : Nat} (x : BitVec n) {i j : Nat} (hj : j < n) (b : Bool) :
    (setBit x i b)[j] = if j = i then b else x[j] := by
  have hone : (1#n <<< i)[j] = decide (j = i) := by rw [← BitVec.twoPow_eq, BitVec.getElem_twoPow]
  rw [setBit]
  cases b with
  | true => rw [if_pos rfl, BitVec.getElem_or, hone]; by_cases h : j = i <;> simp [h]
  | false => rw [if_neg Bool.false_ne_true, BitVec.getElem_and, BitVec.getElem_not, hone]; by_cases h : j = i <;> simp [h]

theorem Ctx.sget_write_s (c : Ctx) (r e : Fin 64) (v : SVal) :
    (c.write (.s r v)).sget e = if e = r ∧ e ≠ 0 then v else c.sget e := by
  rw [Ctx.write]
  by_cases he : e = 0
  · subst he
    split <;> simp [Ctx.sget]
  · split
    · next hr => simp [hr, he]
    · simp [Ctx.sget, he, Vector.getElem_set, Fin.ext_iff, eq_comm]
theorem Ctx.kget_write_k (c : Ctx) (r e : Fin 8) (v : Mask) :
    (c.write (.k r v)).kget e = if e = r ∧ e ≠ 0 then v else c.kget e := by
  rw [Ctx.write]
  by_cases he : e = 0
  · subst he
    split <;> simp [Ctx.kget]
  · split
    · next hr => simp [hr, he]
    · simp [Ctx.kget, he, Vector.getElem_set, Fin.ext_iff, eq_comm]
theorem Ctx.pget_write_p (c : Ctx) (r e : Fin 64) (b : Bool) :
    (c.write (.p r b)).pget e = if e = r ∧ e ≠ 0 then b else c.pget e := by
  rw [Ctx.write]
  by_cases he : e = 0
  · subst he
    split <;> simp [Ctx.pget]
  · split
    · next hr => simp [hr, he]
    · simp [Ctx.pget, he, getElem_setBit, Fin.ext_iff]
theorem Ctx.vreg_write_v (c : Ctx) (r e : Fin 32) (x : VReg) :
    (c.write (.v r x)).vreg[e] = if e = r then x else c.vreg[e] := by
  simp [Ctx.write, Vector.getElem_set, Fin.ext_iff, eq_comm]

/-! ## The latches and the sticky records after a landing -/

theorem Ctx.qreg_pushLatch_none {sl : Slot} (h : latchIdx sl = none) (c : Ctx) (q : Latch) :
    (c.pushLatch sl q).qreg = c.qreg := by
  rw [Ctx.pushLatch, h]
/-- A slot's latch takes the result, its second what the latch held (R51). -/
theorem Ctx.qreg_pushLatch {sl : Slot} {i : Fin 8} (h : latchIdx sl = some i) (c : Ctx) (q : Latch) :
    (c.pushLatch sl q).qreg = (c.qreg.set (i.val + 8) c.qreg[i.val]).set i.val q := by
  rw [Ctx.pushLatch, h]
theorem Ctx.pushLatch_latches {sl : Slot} {i : Fin 8} (h : latchIdx sl = some i) (c : Ctx) (q : Latch) :
    (c.pushLatch sl q).qreg[i.val]? = some q ∧ (c.pushLatch sl q).qreg[i.val + 8]? = c.qreg[i.val]? ∧
      ∀ j : Fin 16, j.val ≠ i.val → j.val ≠ i.val + 8 → (c.pushLatch sl q).qreg[j] = c.qreg[j] := by
  rw [Ctx.qreg_pushLatch h]
  refine ⟨by simp, ?_, fun j hj hj8 => ?_⟩
  · have hne : i.val ≠ i.val + 8 := by omega
    rw [Vector.getElem?_set_ne (by omega) hne, Vector.getElem?_set_self]
    simp
  · simp [Vector.getElem_set_ne, hj.symm, hj8.symm]

theorem FxRec.flags_raise (r : FxRec) (pc : W32) (f : Flags) : (r.raise pc f).flags = r.flags ||| f := by
  rw [FxRec.raise]
  split
  · next h => simp [h]
  · rfl
theorem Ctx.fx_raise_same {sl : Slot} {i : Fin 8} (h : fxIdx sl = some i) (c : Ctx) (pc : W32) (f : Flags) :
    ((c.raise sl pc f).cr.fx[i]).flags = c.cr.fx[i].flags ||| f := by
  rw [Ctx.raise, h]
  simp [FxRec.flags_raise]
theorem Ctx.fx_raise_ne {sl : Slot} {j : Fin 8} (h : fxIdx sl ≠ some j) (c : Ctx) (pc : W32) (f : Flags) :
    (c.raise sl pc f).cr.fx[j] = c.cr.fx[j] := by
  rw [Ctx.raise]
  split
  · next i hi =>
    have hne : i.val ≠ j.val := fun e => h (hi.trans (congrArg some (Fin.ext e)))
    simp [Vector.getElem_set_ne, hne]
  · rfl

/-- A result of a slot with latch value `q` and flags `f` has entered the slot's latch pair and sticky record of `c`, and
nothing else but the registers that results write (R51, R111). -/
def LatchesAndFlags (c : Ctx) (sl : Slot) (q : Latch) (f : Flags) (y : Ctx) : Prop :=
  y.dreg = c.dreg ∧ y.zreg = c.zreg ∧ y.pvreg = c.pvreg ∧ y.hreg = c.hreg ∧ y.oreg = c.oreg ∧ y.trapring = c.trapring ∧
  (∀ i, latchIdx sl = some i → y.qreg[i.val]? = some q ∧ y.qreg[i.val + 8]? = c.qreg[i.val]? ∧
    ∀ j : Fin 16, j.val ≠ i.val → j.val ≠ i.val + 8 → y.qreg[j] = c.qreg[j]) ∧
  (latchIdx sl = none → y.qreg = c.qreg) ∧ y.cr = { c.cr with fx := y.cr.fx } ∧
  (∀ i, fxIdx sl = some i → (y.cr.fx[i]).flags = c.cr.fx[i].flags ||| f) ∧
  (∀ j : Fin 8, fxIdx sl ≠ some j → y.cr.fx[j] = c.cr.fx[j])

section
variable {c : Ctx} {sl : Slot} {n t : Nat} {pc : W32} {due : Option Nat} {f : Flags} {src : List Span} {o : Bool} {q : Latch}
  {ws : List RegWrite}

/-- A landing writes its registers, then its slot's latches, then its slot's sticky record. -/
theorem Ctx.landed_eq : c.landed ⟨sl, n, pc, due, ws, some q, f, src, t, o⟩ = { ws.foldl Ctx.write c with
    qreg := ((ws.foldl Ctx.write c).pushLatch sl q).qreg
    cr := { (ws.foldl Ctx.write c).cr with fx := ((ws.foldl Ctx.write c).raise sl pc f).cr.fx } } := by
  show ((ws.foldl Ctx.write c).pushLatch sl q).raise sl pc f = _
  unfold Ctx.pushLatch Ctx.raise
  cases latchIdx sl <;> cases fxIdx sl <;> rfl

/-- `x` is `c` but for the registers that scalar, predicate, vector and mask results write. -/
def DataOnly (c x : Ctx) : Prop := x = { c with
  sreg := x.sreg
  preg := x.preg
  vreg := x.vreg
  kreg := x.kreg }

theorem latchesAndFlags_landed (h : DataOnly c (ws.foldl Ctx.write c)) :
    LatchesAndFlags c sl q f (c.landed ⟨sl, n, pc, due, ws, some q, f, src, t, o⟩) := by
  rw [Ctx.landed_eq]
  generalize ws.foldl Ctx.write c = x at h
  obtain ⟨hd, hz, hpv, hh, ho, hq, hcr, htr⟩ : x.dreg = c.dreg ∧ x.zreg = c.zreg ∧ x.pvreg = c.pvreg ∧ x.hreg = c.hreg ∧
    x.oreg = c.oreg ∧ x.qreg = c.qreg ∧ x.cr = c.cr ∧ x.trapring = c.trapring := by
    rw [h]; exact ⟨rfl, rfl, rfl, rfl, rfl, rfl, rfl, rfl⟩
  rw [LatchesAndFlags, ← hd, ← hz, ← hpv, ← hh, ← ho, ← hq, ← hcr, ← htr]
  exact ⟨rfl, rfl, rfl, rfl, rfl, rfl, fun i hi => Ctx.pushLatch_latches hi x q, fun hi => Ctx.qreg_pushLatch_none hi x q,
    rfl, fun i hi => Ctx.fx_raise_same hi x pc f, fun j hj => Ctx.fx_raise_ne hj x pc f⟩

/-- The registers are those that the writes leave. -/
theorem Ctx.landed_files {x : Ctx} (h : ws.foldl Ctx.write c = x) :
    let y := c.landed ⟨sl, n, pc, due, ws, some q, f, src, t, o⟩
    y.sreg = x.sreg ∧ y.preg = x.preg ∧ y.vreg = x.vreg ∧ y.kreg = x.kreg := by
  rw [Ctx.landed_eq, h]
  exact ⟨rfl, rfl, rfl, rfl⟩
theorem Ctx.sget_landed (r : Fin 64) : (c.landed ⟨sl, n, pc, due, ws, some q, f, src, t, o⟩).sget r =
    (ws.foldl Ctx.write c).sget r := by
  rw [Ctx.landed_eq]; rfl
theorem Ctx.pget_landed (r : Fin 64) : (c.landed ⟨sl, n, pc, due, ws, some q, f, src, t, o⟩).pget r =
    (ws.foldl Ctx.write c).pget r := by
  rw [Ctx.landed_eq]; rfl
theorem Ctx.kget_landed (r : Fin 8) : (c.landed ⟨sl, n, pc, due, ws, some q, f, src, t, o⟩).kget r =
    (ws.foldl Ctx.write c).kget r := by
  rw [Ctx.landed_eq]; rfl
theorem Ctx.vreg_landed (r : Fin 32) : (c.landed ⟨sl, n, pc, due, ws, some q, f, src, t, o⟩).vreg[r] =
    (ws.foldl Ctx.write c).vreg[r] := by
  rw [Ctx.landed_eq]
end

/-! ## The results of an operation (R50, R52) -/

theorem Ctx.sget_dstS (c : Ctx) (d : Dst 64) (v : Word) (r : Fin 64) : ((dstS d v).foldl Ctx.write c).sget r =
    if d.nowb = false ∧ r = d.reg ∧ r ≠ 0 then SVal.of v else c.sget r := by
  rw [dstS]
  cases d.nowb with
  | true => simp
  | false => simpa using c.sget_write_s d.reg r (SVal.of v)
theorem Ctx.pget_dstP (c : Ctx) (d : Dst 64) (b : Bool) (r : Fin 64) : ((dstP d b).foldl Ctx.write c).pget r =
    if d.nowb = false ∧ r = d.reg ∧ r ≠ 0 then b else c.pget r := by
  rw [dstP]
  cases d.nowb with
  | true => simp
  | false => simpa using c.pget_write_p d.reg r b
theorem Ctx.kget_dstK (c : Ctx) (d : Dst 8) (m : Mask) (r : Fin 8) : ((dstK d m).foldl Ctx.write c).kget r =
    if d.nowb = false ∧ r = d.reg ∧ r ≠ 0 then m else c.kget r := by
  rw [dstK]
  cases d.nowb with
  | true => simp
  | false => simpa using c.kget_write_k d.reg r m
theorem Ctx.vreg_dstV (c : Ctx) (d : Dst 32) (x : VReg) (r : Fin 32) : ((dstV d x).foldl Ctx.write c).vreg[r] =
    if d.nowb = false ∧ r = d.reg then x else c.vreg[r] := by
  rw [dstV]
  cases d.nowb with
  | true => simp
  | false => simpa using c.vreg_write_v d.reg r x

/-- A result with nowb writes nothing, any other makes its one write. -/
theorem Ctx.writes_dst {P : Ctx → Prop} {c : Ctx} {w : RegWrite} (h0 : P c) (h1 : P (c.write w)) (nowb : Bool) :
    P ((if nowb then [] else [w]).foldl Ctx.write c) := by
  cases nowb with
  | true => exact h0
  | false => exact h1
theorem Ctx.writes_dstS (c : Ctx) (d : Dst 64) (v : Word) : ∃ a, (dstS d v).foldl Ctx.write c = { c with sreg := a } := by
  refine Ctx.writes_dst (P := fun x => ∃ a, x = { c with sreg := a }) ⟨c.sreg, rfl⟩ ?_ d.nowb
  rw [Ctx.write]
  split <;> exact ⟨_, rfl⟩
theorem Ctx.writes_dstP (c : Ctx) (d : Dst 64) (b : Bool) : ∃ a, (dstP d b).foldl Ctx.write c = { c with preg := a } := by
  refine Ctx.writes_dst (P := fun x => ∃ a, x = { c with preg := a }) ⟨c.preg, rfl⟩ ?_ d.nowb
  rw [Ctx.write]
  split <;> exact ⟨_, rfl⟩
theorem Ctx.writes_dstK (c : Ctx) (d : Dst 8) (m : Mask) : ∃ a, (dstK d m).foldl Ctx.write c = { c with kreg := a } := by
  refine Ctx.writes_dst (P := fun x => ∃ a, x = { c with kreg := a }) ⟨c.kreg, rfl⟩ ?_ d.nowb
  rw [Ctx.write]
  split <;> exact ⟨_, rfl⟩
theorem Ctx.writes_dstV (c : Ctx) (d : Dst 32) (x : VReg) : ∃ a, (dstV d x).foldl Ctx.write c = { c with vreg := a } :=
  Ctx.writes_dst (P := fun y => ∃ a, y = { c with vreg := a }) ⟨c.vreg, rfl⟩ ⟨_, rfl⟩ d.nowb

end Sys2Proof.Machine
end

section
/-!
CERTIFICATE. The landing of a result (O6).
-/
namespace Sys2Proof.Machine

/-- Settles O6: the writes of the result decide its register file, the latch and the record of its slot do the rest. -/
theorem landingWrites : Obligations.LandingWrites := by
  intro c sl n t pc due f src o q l
  refine ⟨fun d v r => (Ctx.sget_landed r).trans (c.sget_dstS d v r), fun d b r => (Ctx.pget_landed r).trans (c.pget_dstP d b r),
    fun d m r => (Ctx.kget_landed r).trans (c.kget_dstK d m r), fun d x r => (Ctx.vreg_landed r).trans (c.vreg_dstV d x r),
    fun d v => ?_, fun d b => ?_, fun d m => ?_, fun d x => ?_⟩
  · obtain ⟨a, ha⟩ := c.writes_dstS d v
    obtain ⟨-, hp, hv, hk⟩ := Ctx.landed_files ha
    exact ⟨hp, hv, hk, latchesAndFlags_landed (by rw [ha]; rfl)⟩
  · obtain ⟨a, ha⟩ := c.writes_dstP d b
    obtain ⟨hs, -, hv, hk⟩ := Ctx.landed_files ha
    exact ⟨hs, hv, hk, latchesAndFlags_landed (by rw [ha]; rfl)⟩
  · obtain ⟨a, ha⟩ := c.writes_dstK d m
    obtain ⟨hs, hp, hv, -⟩ := Ctx.landed_files ha
    exact ⟨hs, hp, hv, latchesAndFlags_landed (by rw [ha]; rfl)⟩
  · obtain ⟨a, ha⟩ := c.writes_dstV d x
    obtain ⟨hs, hp, -, hk⟩ := Ctx.landed_files ha
    exact ⟨hs, hp, hk, latchesAndFlags_landed (by rw [ha]; rfl)⟩

end Sys2Proof.Machine
end

section
/-!
CERTIFICATE. Branches and the next index address (O9, O10).
-/
namespace Sys2Proof.Machine
open Sys2Proof.Laws

/-! ## Branches -/

section
variable {s : State} {p : Fin 64}

theorem exec_br (hp : s.me.pget p = true) (off : BitVec 20) : exec (.br p off) s =
    .next ((s.modMe (·.redirect (s.me.pc + off.signExtend 32))).countBranch false).issued :=
  slotOp_done (sl := .c) hp
theorem exec_brs {a : Fin 64} {v : Word} (hp : s.me.pget p = true) (hv : s.me.checked a = .ok v) :
    exec (.brs p a) s = .next ((s.modMe (·.redirect (v.truncate 32))).countBranch false).issued := by
  show execBrs p a s = _
  rw [execBrs, hv]
  exact slotOp_done hp
theorem exec_ret {a : Fin 64} {v : Word} (hp : s.me.pget p = true) (hv : s.me.checked a = .ok v) :
    exec (.ret p a) s = .next ((s.modMe (·.redirect (v.truncate 32))).countBranch true).issued := by
  show execRet p a s = _
  rw [execRet, hv]
  exact slotOp_done hp
/-- An offset counts from the index address of the bundle. -/
theorem State.modMe_redirect {t : State} {pc off : W32} (h : t.me.pc = pc) :
    (t.modMe fun c => c.redirect (c.pc + off)) = t.modMe (·.redirect (pc + off)) := by
  subst h
  rfl
/-- CALL's link value is on its way to the C latch (R152). -/
def State.linked (s : State) : State :=
  s.land .c 1 [] (latchS ((s.me.succ (s.me.succ (s.me.succ s.me.pc))).zeroExtend 64)) 0
/-- The link value joins the pipeline, which leaves the index address that the offset counts from. -/
theorem exec_call (hp : s.me.pget p = true) (off : BitVec 20) : exec (.call p off) s =
    .next ((s.linked.modMe (·.redirect (s.me.pc + off.signExtend 32))).countBranch false).issued := by
  have hpc : s.linked.me.pc = s.me.pc := by rw [State.linked, State.me_land]
  rw [← State.modMe_redirect hpc]
  exact slotOp_done (sl := .c) hp
end

/-- Settles O9. -/
theorem branchesRedirect : Obligations.BranchesRedirect :=
  fun _ _ hp => ⟨exec_br hp, fun _ _ hv => exec_brs hp hv, exec_call hp, fun _ _ hv => exec_ret hp hv⟩

/-! ## Where fetch goes on -/

theorem Ctx.noBranchDue {c : Ctx} (h : ∀ r ∈ c.redir, r.1 ≠ c.n + 1) : c.redir.find? (fun r => r.1 = c.n + 1) = none :=
  List.find?_eq_none.2 (by simpa using h)
theorem Ctx.follow_skip {c : Ctx} {a : W32} (h : ∀ r ∈ c.redir, r.1 ≠ c.n + 1) (hs : c.skip = some a) :
    c.follow = (a, c.loops) := by
  rw [Ctx.follow, Ctx.noBranchDue h, hs]
theorem Ctx.follow_loops {c : Ctx} (h : ∀ r ∈ c.redir, r.1 ≠ c.n + 1) (hs : c.skip = none) :
    c.follow = loopNext c.pc (c.succ c.pc) c.loops := by
  rw [Ctx.follow, Ctx.noBranchDue h, hs]

/-- Settles O10: branch before LOOP of count 0 before loop stack, and the stack by its own recursion, entry by entry. -/
theorem fetchFollowsBranchesThenLoops : Obligations.FetchFollowsBranchesThenLoops := by
  refine ⟨fun _ _ => rfl, fun c t h => ?_, fun c t => Ctx.follow_skip, fun c h hs => ?_⟩
  · rw [Ctx.follow, h]
  · rw [Ctx.follow_loops h hs]
    refine ⟨fun hl => ?_, fun e rest hl => ⟨fun hne => ?_, fun heq hleft => ?_, fun heq hleft => ?_⟩⟩
    · rw [hl, loopNext]
    · rw [hl, loopNext, if_neg hne]
    · rw [hl, loopNext, if_pos heq, if_pos hleft]
    · rw [hl, loopNext, if_pos heq, if_neg (Nat.not_lt.2 hleft)]
      exact (Ctx.follow_loops (c := { c with loops := rest }) h hs).symm

end Sys2Proof.Machine
end

section
/-!
SUPPORT. What landing leaves of a lane, and how a bundle of one operation is fetched and issued.
-/
namespace Sys2Proof.Machine

/-! ## What landing leaves of a lane -/

/-- The step that a lane runs, its stage and its wait are those of another. -/
def SameLane (x y : Ctx) : Prop := y.run = x.run ∧ y.stat = x.stat ∧ y.wait = x.wait

theorem SameLane.refl (x : Ctx) : SameLane x x := ⟨rfl, rfl, rfl⟩
theorem SameLane.trans {x y z : Ctx} (h : SameLane x y) (h' : SameLane y z) : SameLane x z := by
  obtain ⟨hr, hs, hw⟩ := h
  obtain ⟨hr', hs', hw'⟩ := h'
  exact ⟨hr'.trans hr, hs'.trans hs, hw'.trans hw⟩

theorem Ctx.sameLane_write (x : Ctx) (w : RegWrite) : SameLane x (x.write w) := by
  cases w <;> rw [Ctx.write] <;> repeat' split
  all_goals exact .refl _
theorem Ctx.sameLane_writes (ws : List RegWrite) (x : Ctx) : SameLane x (ws.foldl Ctx.write x) := by
  induction ws generalizing x with
  | nil => exact .refl x
  | cons w ws ih => exact (x.sameLane_write w).trans (ih _)
theorem Ctx.sameLane_pushLatch (x : Ctx) (sl : Slot) (v : Latch) : SameLane x (x.pushLatch sl v) := by
  rw [Ctx.pushLatch]
  split <;> exact .refl x
theorem Ctx.sameLane_raise (x : Ctx) (sl : Slot) (pc : W32) (f : Flags) : SameLane x (x.raise sl pc f) := by
  rw [Ctx.raise]
  split <;> exact .refl x
theorem Ctx.sameLane_landed (x : Ctx) (l : Landing) : SameLane x (x.landed l) := by
  have hwrites := Ctx.sameLane_writes l.writes x
  rw [Ctx.landed]
  cases l.latch with
  | none => exact hwrites.trans (Ctx.sameLane_raise ..)
  | some v => exact (hwrites.trans (Ctx.sameLane_pushLatch ..)).trans (Ctx.sameLane_raise ..)

theorem State.sameLane_modCtx (s : State) (c : CtxId) {f : Ctx → Ctx} (h : SameLane (s.ctx c) (f (s.ctx c))) :
    SameLane (s.ctx c) ((s.modCtx c f).ctx c) := by
  rwa [State.ctx_modCtx]
theorem State.sameLane_spadWrite (s : State) (c : CtxId) (cs : List Host.Cell) :
    SameLane (s.ctx c) ((s.spadWrite c cs).ctx c) := by
  rw [State.spadWrite]
  split
  · exact .refl _
  · rw [State.ctx_modCtx, (StorageOnly.putCells s cs).ctx c]
    exact .refl _
theorem State.sameLane_landOne (s : State) (c : CtxId) (l : Landing) : SameLane (s.ctx c) ((s.landOne c l).ctx c) := by
  have hland : SameLane (s.ctx c) (((s.modCtx c fun x => x.landed l).spadWrite c (l.writes.flatMap RegWrite.cells)).ctx c) :=
    (s.sameLane_modCtx c ((s.ctx c).sameLane_landed l)).trans (State.sameLane_spadWrite ..)
  rw [State.landOne]
  split
  · exact hland.trans (State.sameLane_modCtx _ c (.refl _))
  · exact hland
theorem State.sameLane_landAll (ls : List Landing) (s : State) (c : CtxId) :
    SameLane (s.ctx c) ((ls.foldl (fun s l => s.landOne c l) s).ctx c) := by
  induction ls generalizing s with
  | nil => exact .refl _
  | cons l ls ih => exact (s.sameLane_landOne c l).trans (ih _)
theorem State.sameLane_landDue (s : State) (c : CtxId) : SameLane (s.ctx c) ((s.landDue c).ctx c) := by
  rw [State.landDue]
  refine SameLane.trans ?_ (State.sameLane_landAll _ _ c)
  exact s.sameLane_modCtx c ⟨rfl, rfl, rfl⟩

/-! ## A bundle of one operation -/

/-- The one operation of bundle `b` is `i`, in slot `sl`; it takes effect in context `x` and meets no result that has not
arrived. -/
structure OneOp (b : Bundle) (x : Ctx) (sl : Slot) (i : Instr) : Prop where
  slots : b.slots = [(sl, .ok i)]
  kind  : b.kind = 0
  resv  : b.resv = 0
  bpred : b.bpred = 0
  inv   : b.inv = false
  pred  : x.pget (Instr.pred i) = true
  free  : x.interlocked [(sl, i)] = false

theorem actOrder_single (o : Slot × Instr) : actOrder [o] = [o.2] := by
  have hranks : List.range 4 = [0, 1, 2, 3] := rfl
  rw [actOrder, hranks]
  by_cases hc : o.1 = .c
  · simp [hc]
  · by_cases hf : Instr.fills o.2 = true
    · simp [hc, hf]
    · by_cases hx : o.1 = .x ∨ o.1 = .k <;> simp [hc, hf, hx]

namespace OneOp
variable {b : Bundle} {x : Ctx} {sl : Slot} {i : Instr}

theorem headOk (h : OneOp b x sl i) : headOk b = true := by
  simp [Machine.headOk, h.kind, h.resv]
theorem bundleOn (h : OneOp b x sl i) : bundleOn b x = true := by
  simp [Machine.bundleOn, h.bpred, h.inv, Ctx.pget]
theorem acting (h : OneOp b x sl i) : acting b x = [(sl, i)] := by
  simp [Machine.acting, h.bundleOn, h.slots, h.pred]
theorem splitsOn (h : OneOp b x sl i) (m : Word) : splitsOn b m = false := by
  rw [Machine.splitsOn, bothSlots, bothSlots, h.slots]
  cases sl <;> simp
theorem slotFails_failed (h : OneOp b x sl i) {s : State} {sl' : Slot} {f : Fail} (hv : s.verdictOf i = .failed sl' f) :
    s.slotFails x b = [(sl', f)] := by
  simp [State.slotFails, h.slots, h.bundleOn, h.pred, hv]
theorem slotFails_nil (h : OneOp b x sl i) {s : State} (hv : ∀ sl' f, s.verdictOf i ≠ .failed sl' f) :
    s.slotFails x b = [] := by
  rw [State.slotFails, h.slots]
  cases hw : s.verdictOf i with
  | failed sl' f => exact absurd hw (hv sl' f)
  | _ => simp [hw]
end OneOp

section
variable {s u t v v' : State} {c : CtxId} {i : Instr} {sl : Slot} {b : Bundle} {f : Fail}

theorem State.verdictOf_eq (h : exec i t = .next v) : t.verdictOf i = v.verdict := by
  rw [State.verdictOf, h]
theorem State.holding_single_held (h : exec i t = .next v) (hv : v.verdict = .held) : t.holding [i] = some v := by
  rw [State.holding, h]
  exact if_pos hv
theorem State.holding_single_ok (h : exec i t = .next v) (hv : v.verdict = .ok) : t.holding [i] = none := by
  rw [State.holding, h]
  simp [hv, State.holding]
theorem State.act_noWait (hw : (s.ctx c).wait = .none) : s.act c i = exec i s := by
  rw [State.act]
  exact if_pos hw
theorem State.runOps_single {run : Nat} (hgo : s.goesOn c run = true) (hv : s.verdict = .ok) (hw : (s.ctx c).wait = .none)
    (h : exec i s = .next v) : State.runOps c run [i] s = .next v := by
  rw [State.runOps, State.act_noWait hw, h]
  simp [hgo, hv, State.runOps]

/-- The bundle of one operation that fails is trapped (R334). -/
theorem State.issueBundle_failed (ho : OneOp b (t.ctx c) sl i) {sl' : Slot} (h : exec i t = .next v)
    (hv : v.verdict = .failed sl' f) : t.issueBundle u c b = .next (t.bundleTrap c [(sl', f)]) := by
  have hfails := ho.slotFails_failed ((State.verdictOf_eq h).trans hv)
  simp [State.issueBundle, ho.headOk, ho.acting, ho.free, ho.kind, hfails]
/-- The bundle of one operation that holds it does not issue (R56). -/
theorem State.issueBundle_held (ho : OneOp b (t.ctx c) sl i) (h : exec i t = .next v) (hv : v.verdict = .held) :
    t.issueBundle u c b = .next ((u.heldAs v c).stall c) := by
  have hfails : t.slotFails (t.ctx c) b = [] := ho.slotFails_nil (by simp [State.verdictOf_eq h, hv])
  simp [State.issueBundle, ho.headOk, ho.acting, ho.free, ho.kind, hfails, State.holding_single_held h hv]
theorem State.goesOn_iff {run : Nat} : s.goesOn c run = true ↔ (s.ctx c).run = run ∧ (s.ctx c).stat = .running := by
  rw [State.goesOn, Bool.and_eq_true, decide_eq_true_eq, decide_eq_true_eq]
theorem Ctx.sameLane_firstBundle (x : Ctx) (now : Nat) : SameLane x (x.firstBundle now) := by
  rw [Ctx.firstBundle]
  split <;> exact ⟨rfl, rfl, rfl⟩
/-- The operation of a bundle runs where nothing holds its lane up, with the watchdog counting (R276). -/
theorem State.runOps_first (hs : (t.ctx c).stat = .running) (hw : (t.ctx c).wait = .none)
    (h : exec i (t.modCtx c (·.firstBundle t.time)).issued = .next v) :
    State.runOps c (t.ctx c).run [i] (t.modCtx c (·.firstBundle t.time)).issued = .next v := by
  obtain ⟨hrun, hstat, hwait⟩ : SameLane (t.ctx c) ((t.modCtx c (·.firstBundle t.time)).ctx c) :=
    t.sameLane_modCtx c (Ctx.sameLane_firstBundle _ _)
  exact State.runOps_single (State.goesOn_iff.2 ⟨hrun, hstat.trans hs⟩) rfl (hwait.trans hw) h
/-- The bundle of one operation that issues runs it; what follows a bundle comes after it where the step goes on, else
only the count (R319). -/
theorem State.issueBundle_ok (ho : OneOp b (t.ctx c) sl i) (hs : (t.ctx c).stat = .running) (hw : (t.ctx c).wait = .none)
    (h : exec i t = .next v) (hv : v.verdict = .ok) (h' : exec i (t.modCtx c (·.firstBundle t.time)).issued = .next v')
    (hv' : v'.verdict = .ok) :
    t.issueBundle u c b = .next (if v'.goesOn c (t.ctx c).run then (v'.modCtx c (·.natively [(sl, i)])).finishBundle c false
      else v'.countBundle c.core false) := by
  have hfails : t.slotFails (t.ctx c) b = [] := ho.slotFails_nil (by simp [State.verdictOf_eq h, hv])
  have hrun := State.runOps_first hs hw h'
  have hkind1 : decide (b.kind = 1) = false := by simp [ho.kind]
  simp only [State.issueBundle, ho.headOk, ho.acting, ho.free, hkind1, hfails, actOrder_single, List.map_cons, List.map_nil,
    State.holding_single_ok h hv, ho.splitsOn, Bool.not_true, Bool.false_and, Bool.false_eq_true, if_false]
  split
  · next v'' heq =>
    obtain rfl : v' = v'' := Host.Outcome.next.inj (hrun.symm.trans heq)
    cases v'.goesOn c (t.ctx c).run <;> simp [hv', ho.kind]
  · next hne => exact absurd hrun (hne v')

/-! ## A step that issues a bundle -/

theorem State.issueOne_fetched {w : BundleBits} (hc : (s.focus c).canIssue c = true)
    (hf : (s.ready c).fetchBundle c = .ok w) : s.issueOne c = (s.ready c).issueBundle (s.focus c) c (decodeBundle w) := by
  simp [State.issueOne, hc, hf]
/-- A context that accesses no future and stands at no rendezvous issues alone. -/
theorem step_issue {rest : List Move} (ha : s.agenda = .issue c :: rest)
    (ho : State.futureOrder { s with agenda := rest } c = [c])
    (hf : State.foresee { s with agenda := rest } c = { s with agenda := rest }) (hs : (s.ctx c).synced = false)
    (h : State.issueOne { s with agenda := rest } c = .next v) : step s = .next v := by
  have hlane : State.issueLane { s with agenda := rest } c = .next v := by
    rw [State.issueLane, if_neg (by rw [Bool.not_eq_true]; exact hs), hf, h]
  rw [step, ha]
  show State.issue { s with agenda := rest } c = _
  rw [State.issue, ho, State.issueAll, hlane]
  rfl

/-- A context that can issue runs a step, and nothing holds it. -/
theorem State.canIssue_runs (h : s.canIssue c = true) : (s.ctx c).stat = .running ∧ (s.ctx c).wait = .none := by
  simp only [State.canIssue, Bool.and_eq_true, decide_eq_true_eq] at h
  tauto
end

/-! ## Fetch, and traps of a lane alone -/

section
variable {s : State} {c : CtxId} {h : Half} {t : List Half}

theorem State.fetchBundle_stored (hd : (s.ctx c).stream.drop (s.ctx c).pc.toNat = h :: t) (hh : h = 0xFFFF)
    (hl : 24 ≤ t.length) : s.fetchBundle c = .ok (halvesBundle (t.take 24)) := by
  rw [State.fetchBundle, hd]
  exact (if_pos hh).trans (if_pos hl)
theorem State.fetchBundle_dict (hd : (s.ctx c).stream.drop (s.ctx c).pc.toNat = h :: t) (hh : h ≠ 0xFFFF)
    (hn : h.toNat < (s.ctx c).ndict) : s.fetchBundle c = .ok ((s.core c.core).dict[c.bank].getD h.toNat 0) := by
  rw [State.fetchBundle, hd]
  exact (if_neg hh).trans (if_neg (Nat.not_le.2 hn))
theorem State.fetchBundle_beyond (hd : (s.ctx c).stream.drop (s.ctx c).pc.toNat = h :: t) (hh : h ≠ 0xFFFF)
    (hn : (s.ctx c).ndict ≤ h.toNat) : s.fetchBundle c = .error (fetchFail (s.ctx c).pc h.toNat) := by
  rw [State.fetchBundle, hd]
  exact (if_neg hh).trans (if_pos hn)
end

/-- The trap of a lane that runs alone has no peer's record and its own recovery. -/
theorem State.bundleTrap_alone {s : State} {c : CtxId} {sl : Slot} {f : Fail} (h : s.gang c = [c]) :
    s.bundleTrap c [(sl, f)] = s.trap c sl 0 (s.ctx c).pc (s.ctx c).pc f := by
  have hpeers : (s.gang c).filter (· ≠ c) = [] := by simp [h]
  have hafter : s.gangAfter c f [] = .recover (s.ctx c).run := by
    rw [State.gangAfter]
    split <;> rfl
  rw [State.bundleTrap, hpeers, hafter]
  rfl

end Sys2Proof.Machine
end

section
/-!
CERTIFICATE. A step is the event at the head of the agenda, or the meaning of the bundle it decodes (O57).
-/
namespace Sys2Proof.Machine

theorem Instr.inBundle_of {i : Instr} (h : encode i = none) (hs : ∀ c, i ≠ .syncBundle c)
    (he : ∀ c, i ≠ .endOfStepBundle c) : Instr.inBundle i = false := by
  unfold Instr.inBundle
  rw [h]
  split
  · exact absurd rfl (hs _)
  · exact absurd rfl (he _)
  · rfl

/-- Settles O57: a bundle of one operation passes every check that precedes it, so that its issue is the operation's meaning
and what follows a bundle. -/
theorem stepRunsTheDecodedInstruction : Obligations.StepRunsTheDecodedInstruction := by
  refine ⟨fun s i rest ha henc hs he => ?_, fun s c h t hd => ⟨State.fetchBundle_stored hd, State.fetchBundle_dict hd,
    State.fetchBundle_beyond hd⟩, ?_⟩
  · rw [step, ha]
    exact if_neg (by rw [Instr.inBundle_of henc hs he]; exact Bool.false_ne_true)
  · intro s c rest w sl i ha u t x hfut hfor hsync hcan hfetch hslots hkind hresv hbpred hinv hp hfree go
    have hop : OneOp (decodeBundle w) x sl i := ⟨hslots, hkind, hresv, hbpred, hinv, hp, hfree⟩
    obtain ⟨hstat, hwait⟩ := State.canIssue_runs hcan
    obtain ⟨-, hstat', hwait'⟩ : SameLane (u.ctx c) x := u.sameLane_landDue c
    have hissue {v : State} (h : t.issueBundle u c (decodeBundle w) = .next v) : step s = .next v :=
      step_issue ha hfut hfor hsync ((State.issueOne_fetched hcan hfetch).trans h)
    have hok {v v' : State} (hex : exec i t = .next v) (hv : v.verdict = .ok) (hex' : exec i go = .next v')
        (hv' : v'.verdict = .ok) : step s = .next _ :=
      hissue (State.issueBundle_ok hop (hstat'.trans hstat) (hwait'.trans hwait) hex hv hex' hv')
    refine ⟨fun v v' hex hv hex' hrun hrunning hv' => ?_, fun v v' hex hv hex' hv' hend => ?_,
      fun v sl' f hex hv => ?_, fun v hex hv => hissue (State.issueBundle_held hop hex hv)⟩
    · rw [hok hex hv hex' hv', if_pos (State.goesOn_iff.2 ⟨hrun, hrunning⟩)]
    · rw [hok hex hv hex' hv', if_neg fun hgo => ?_]
      obtain ⟨hrun, hrunning⟩ := State.goesOn_iff.1 hgo
      exact hend.elim (· hrun) (· hrunning)
    · have htrap := hissue (State.issueBundle_failed hop hex hv)
      exact ⟨htrap, fun hg => by rw [htrap, State.bundleTrap_alone hg]⟩

end Sys2Proof.Machine
end

section
/-!
SUPPORT. What the issue of a command reads: words of its register pairs, and the uses of its descriptors.
-/
namespace Sys2Proof.Machine
open Sys2Proof.Laws

theorem spadWord_ok {c : CtxId} {a : Word} (h8 : a.toNat % 8 = 0) (hlt : a.toNat < 0x400000) :
    spadWord c a = .ok (spadLoc c.core a.toNat) := by
  rw [spadWord, if_neg (not_not.2 h8), if_neg (Nat.not_le.2 hlt)]

/-- A pair of registers as a completion or barrier word of the scratchpad: an aligned address below the top, and a value. -/
def Ctx.WordPair (x : Ctx) (c : CtxId) (r : Nat) (w : Nat × Word) : Prop :=
  ∃ a v, x.checked (Fin.ofNat 64 r) = .ok a ∧ x.checked (Fin.ofNat 64 (r + 1)) = .ok v ∧ a.toNat % 8 = 0 ∧
    a.toNat < 0x400000 ∧ w = (spadLoc c.core a.toNat, v)
theorem Ctx.WordPair.pairOf {x : Ctx} {c : CtxId} {r : Nat} {w : Nat × Word} (h : x.WordPair c r w) :
    ∃ a, x.pairOf r = .ok (a, w.2) ∧ spadWord c a = .ok w.1 := by
  obtain ⟨a, v, ha, hv, h8, hlt, rfl⟩ := h
  refine ⟨a, ?_, spadWord_ok h8 hlt⟩
  rw [Ctx.pairOf, ha]
  dsimp only
  rw [hv]
  rfl

theorem useDesc_ok {d : Desc} {n : Fin 16} {u : DescUse} (h : d.bad u = none) : useDesc d n u = .ok () := by
  rw [useDesc, h]

end Sys2Proof.Machine
end

section
/-!
CERTIFICATE. The X slot: a command enters its lane's queue with its operands captured (O35).
-/
namespace Sys2Proof.Machine
open Sys2Proof.Laws

variable {s : State} {p bar shp : Fin 64} {bw : Option (Nat × Word)} {w sh : Word}

/-! ## The words of a command (R123, R371, R374) -/

/-- The barrier of a command: none for register 0, else the word of its pair. -/
def Ctx.Barrier (x : Ctx) (c : CtxId) (bar : Fin 64) (bw : Option (Nat × Word)) : Prop :=
  (bar = 0 ∧ bw = none) ∨ (bar ≠ 0 ∧ ∃ w, x.WordPair c bar.val w ∧ bw = some w)

theorem Ctx.xwords_ok {x : Ctx} {c : CtxId} {shape : Word → Except Fail Word} (h0 : shp = 0 → w = 0)
    (hw : shp ≠ 0 → x.checked shp = .ok w) (hb : x.Barrier c bar bw) (hs : shape w = .ok sh) :
    x.xwords c shp bar shape = .ok (sh, bw) := by
  have hword : (if shp = 0 then Except.ok 0 else x.checked shp) = .ok w := by
    split
    · next h => rw [h0 h]
    · next h => exact hw h
  rw [Ctx.xwords, hword]
  dsimp only
  obtain ⟨hbar, rfl⟩ | ⟨hbar, v, hv, rfl⟩ := hb
  · rw [if_pos hbar]
    dsimp only
    rw [hs]
  · obtain ⟨a, hpair, hloc⟩ := hv.pairOf
    rw [if_neg hbar, hpair]
    dsimp only [Except.map]
    rw [hs]
    dsimp only
    rw [hloc]

/-! ## The queue (R212) -/

/-- `q'` is `q` with all that it captured: what differs is its sources, and how far the engine has come with it. -/
def XCmd.Keeps (q q' : XCmd) : Prop := ∃ st sn wh so bu, q' = { q with
  stale := st
  snap := sn
  whole := wh
  solve := so
  busy := bu }
theorem XCmd.Keeps.refl (q : XCmd) : q.Keeps q := ⟨_, _, _, _, _, rfl⟩
theorem XCmd.Keeps.trans {q q' q'' : XCmd} (h : q.Keeps q') (h' : q'.Keeps q'') : q.Keeps q'' := by
  obtain ⟨_, _, _, _, _, rfl⟩ := h
  obtain ⟨_, _, _, _, _, rfl⟩ := h'
  exact ⟨_, _, _, _, _, rfl⟩
theorem XCmd.Keeps.op {q q' : XCmd} (h : q.Keeps q') : q'.op = q.op := by
  obtain ⟨_, _, _, _, _, rfl⟩ := h
  rfl

/-- The head of a queue is taken up, and cr.mseq shows the first boundary of its routine. -/
theorem State.takeUp_eq {q : XCmd} {rest : List XCmd} {c : CtxId} (hq : (s.ctx c).xq = q :: rest) (q' : XCmd) :
    ∃ cr, (match q'.solve with
      | some v => (s.putHead c q').modCtx c fun x => { x with cr := { x.cr with mseq := v.pack false } }
      | none => s.putHead c q') = s.modCtx c fun x => { x with
        xq := q' :: rest
        cr := cr } := by
  have hput : s.putHead c q' = s.modCtx c fun x => { x with xq := q' :: rest } := State.putHead_of_cons hq q'
  rw [hput]
  cases q'.solve with
  | none => exact ⟨(s.ctx c).cr, State.modCtx_congr rfl⟩
  | some v => exact ⟨{ (s.ctx c).cr with mseq := v.pack false }, (State.modCtx_modCtx ..).trans (State.modCtx_congr rfl)⟩

/-- MRESUME takes its routine from the words that it has captured (R247). -/
def XCmd.resumed (q : XCmd) : XCmd := match q.op with
  | .mresume .. => if resumeMask q.mseq q.stale = 0 then { q with solve := some (unpackSolve q.mseq) } else q
  | _ => q
theorem XCmd.keeps_resumed (q : XCmd) : q.Keeps q.resumed := by
  unfold XCmd.resumed
  split
  · split
    · exact ⟨_, _, _, _, _, rfl⟩
    · exact .refl q
  · exact .refl q

/-- The engine leaves the queue, or takes up its head. -/
theorem State.startX_cases (s : State) (c : CtxId) : s.startX c = s ∨ ∃ q rest q' cr, (s.ctx c).xq = q :: rest ∧ q.Keeps q' ∧
    s.startX c = s.modCtx c fun x => { x with
      xq := q' :: rest
      cr := cr } := by
  rw [State.startX]
  split
  · exact .inl rfl
  · next q rest hq =>
    split
    · exact .inl rfl
    · obtain ⟨cr, h⟩ := State.takeUp_eq hq { q.resumed with busy := some (s.time + q.resumed.cycles) }
      exact .inr ⟨q, rest, _, cr, hq, q.keeps_resumed.trans ⟨_, _, _, _, _, rfl⟩, h⟩

/-- The last command of a queue, after the engine has taken up the head. -/
theorem XCmd.keeps_last {l rest : List XCmd} {q r r' : XCmd} (h : l ++ [q] = r :: rest) (hk : r.Keeps r') :
    ∃ q', (r' :: rest).getLast? = some q' ∧ q.Keeps q' := by
  cases l with
  | nil =>
    obtain ⟨rfl, rfl⟩ := List.cons_eq_cons.1 h
    exact ⟨r', rfl, hk⟩
  | cons a l =>
    obtain ⟨-, rfl⟩ := List.cons_eq_cons.1 h
    exact ⟨q, List.getLast?_concat (l := r' :: l), .refl q⟩

/-- A command enters the queue behind the others: it is the last, and all that it changes of its context is the queue, the open
bytes and, where the engine takes up a routine, cr.mseq. -/
theorem State.pushX_eq (s : State) (q : XCmd) (f : List Span × List Span) : ∃ xq xfoot cr,
    s.pushX q f = ({ s with nextId := s.nextId + 1 } : State).modMe (fun x => { x with
      xq := xq
      xfoot := xfoot
      cr := cr }) ∧
    xq.map XCmd.op = s.me.xq.map XCmd.op ++ [q.op] ∧ ∃ q', xq.getLast? = some q' ∧ q.Keeps q' := by
  let q1 : XCmd := { q with
    stale := s.me.xq.any XCmd.resumable
    snap := s.snapshot s.cur 2 f.1
    whole := (s.xfeetOf s.cur q).2 }
  have h1 : q.Keeps q1 := ⟨_, _, _, _, _, rfl⟩
  let foot := if q1.inMemory then s.me.xfoot ++ [⟨q1.seq, f.1, f.2, false⟩] else s.me.xfoot
  let u : State := ({ s with nextId := s.nextId + 1 } : State).modMe fun x => { x with
    xq := s.me.xq ++ [q1]
    xfoot := foot }
  have hu : s.pushX q f = u.startX s.cur := rfl
  have hxq : (u.ctx s.cur).xq = s.me.xq ++ [q1] := congrArg Ctx.xq (State.me_modMe { s with nextId := s.nextId + 1 } _)
  rw [hu]
  obtain h | ⟨r, rest, r', cr, hq, hk, h⟩ := u.startX_cases s.cur
  · rw [h]
    exact ⟨_, _, s.me.cr, rfl, by simp [h1.op], q1, by simp, h1⟩
  · rw [h]
    rw [hxq] at hq
    obtain ⟨q', hlast, hk'⟩ := XCmd.keeps_last hq hk
    refine ⟨r' :: rest, foot, cr, State.modCtx_modCtx .., ?_, q', hlast, h1.trans hk'⟩
    calc (r' :: rest).map XCmd.op = (r :: rest).map XCmd.op := by rw [List.map_cons, List.map_cons, hk.op]
      _ = s.me.xq.map XCmd.op ++ [q.op] := by rw [← hq, List.map_append, List.map_singleton, h1.op]

/-- A command with its shape or value word and its barrier. -/
def XCmd.withWords (q : XCmd) (shape : Word) (bar : Option (Nat × Word)) : XCmd := { q with
  shape := shape
  bar := bar }
/-- A command whose words are in order is queued, or waits for a close on its way to its sources. -/
theorem State.issueX_ok {shape : Word → Except Fail Word} {cmd : Word → XCmd} (h : s.me.xwords s.cur shp bar shape = .ok (sh, bw))
    (hroom : s.me.xq.length < Config.xQueueDepth) : s.issueX shp bar shape cmd =
      if s.sourceWaits s.cur (s.xfeet ((cmd sh).withWords sh bw)).1 then .hold s
      else .done (s.pushX ((cmd sh).withWords sh bw) (s.xfeet ((cmd sh).withWords sh bw))) := by
  rw [State.issueX, h, need_ok]
  exact if_neg (Nat.not_le.2 hroom)

/-! ## The statement -/

/-- What an X command `i` captures at issue, with its shape or value word, its barrier and what is its own (R212). -/
def State.Captures (s : State) (i : Instr) (shape : Word) (bw : Option (Nat × Word)) (own : XCmd → Prop) (q : XCmd) : Prop :=
  q.op = i ∧ q.seq = s.nextId ∧ q.pc = s.me.pc ∧ q.shape = shape ∧ q.bar = bw ∧ q.lscale = s.me.cr.lscale ∧
  q.pivtol = s.me.cr.pivtol ∧ q.soltol = s.me.cr.soltol ∧ q.gmaxthr = s.me.cr.growthmax ∧ q.maxit = s.me.cr.maxit ∧
  q.deadline = s.me.cr.deadline ∧ q.mseq = s.me.cr.mseq ∧ own q

/-- `t` is `s` with one more command in the lane's queue: its registers, results in flight and held writes stay, and every byte. -/
def State.QueuedIn (s : State) (i : Instr) (takes : XCmd → Prop) (t : State) (q' : XCmd) : Prop :=
  t.verdict = .ok ∧ t.cur = s.cur ∧ t.me.xq.map XCmd.op = s.me.xq.map XCmd.op ++ [i] ∧ t.me.xq.getLast? = some q' ∧ takes q' ∧
  t.me.zreg = s.me.zreg ∧ t.me.pvreg = s.me.pvreg ∧ t.me.sreg = s.me.sreg ∧ t.me.vreg = s.me.vreg ∧
  t.me.dreg = s.me.dreg ∧ t.me.oreg = s.me.oreg ∧ t.me.pipe = s.me.pipe ∧ t.me.pend = s.me.pend ∧ ∀ a, t.byte a = s.byte a

/-- The statement's `queues`: the command is held while a close is on its way to its sources, and else enters the queue. -/
def State.Queues (s : State) (bw : Option (Nat × Word)) (i : Instr) (shape : Word) (own : XCmd → Prop) : Prop :=
  ∃ q, s.Captures i shape bw own q ∧ (s.sourceWaits s.cur (s.xfeet q).1 = true → Holds i s) ∧
    (s.sourceWaits s.cur (s.xfeet q).1 = false → ∃ t q', exec i s = .next t ∧ s.QueuedIn i (s.Captures i shape bw own) t q')

/-- The command of an instruction with its descriptors and its routine. -/
def State.newXWith (s : State) (i : Instr) (da db : Desc) (solve : Option Solve) : XCmd := { s.newX i with
  da := da
  db := db
  solve := solve }
/-- All that a command captures stays with it, whatever the engine has begun of it. -/
theorem State.captures_newX {i : Instr} {da db : Desc} {so : Option Solve} {own : XCmd → Prop} {q : XCmd}
    (hown : ∀ q : XCmd, q.da = da → q.db = db → own q) (h : ((s.newXWith i da db so).withWords sh bw).Keeps q) :
    s.Captures i sh bw own q := by
  obtain ⟨_, _, _, _, _, rfl⟩ := h
  exact ⟨rfl, rfl, rfl, rfl, rfl, rfl, rfl, rfl, rfl, rfl, rfl, rfl, hown _ rfl rfl⟩

/-- An X command of slot predicate `p` is queued when its words are in order. -/
theorem State.queues_of {i : Instr} {own : XCmd → Prop} {shape : Word → Except Fail Word} {cmd : Word → XCmd} {da db : Desc}
    {so : Option Solve} (hex : exec i s = s.slotOp .x p (s.issueX shp bar shape cmd)) (hp : s.me.pget p = true)
    (hroom : s.me.xq.length < Config.xQueueDepth) (hw : s.me.xwords s.cur shp bar shape = .ok (sh, bw))
    (hcmd : cmd sh = s.newXWith i da db so) (hown : ∀ q : XCmd, q.da = da → q.db = db → own q) : s.Queues bw i sh own := by
  have hissue := State.issueX_ok (cmd := cmd) hw hroom
  rw [hcmd] at hissue
  have hcap {q : XCmd} : ((s.newXWith i da db so).withWords sh bw).Keeps q → s.Captures i sh bw own q := State.captures_newX hown
  have hop : ((s.newXWith i da db so).withWords sh bw).op = i := rfl
  generalize (s.newXWith i da db so).withWords sh bw = q at hissue hcap hop
  refine ⟨q, hcap (.refl q), fun hwait => ?_, fun hwait => ?_⟩
  · rw [Holds, hex, hissue, hwait, if_pos rfl, slotOp_hold hp]
  · obtain ⟨xq, xfoot, cr, hpush, hops, q', hlast, hk⟩ := s.pushX_eq q (s.xfeet q)
    rw [hwait, if_neg Bool.false_ne_true, hpush] at hissue
    have hme (f : Ctx → Ctx) : (({ s with nextId := s.nextId + 1 } : State).modMe f).issued.me = f s.me :=
      State.me_modMe { s with nextId := s.nextId + 1 } f
    refine ⟨_, q', hex.trans ((congrArg (s.slotOp .x p) hissue).trans (slotOp_done hp)), ?_⟩
    rw [State.QueuedIn, hme]
    exact ⟨rfl, rfl, hop ▸ hops, hlast, hcap hk, rfl, rfl, rfl, rfl, rfl, rfl, rfl, rfl, fun _ => rfl⟩

/-- A command without a shape word, whose own check of a descriptor passes. -/
theorem State.queues_bare {i : Instr} {own : XCmd → Prop} {da db : Desc} {shape : Word → Except Fail Word} {so : Option Solve}
    (hex : exec i s = s.slotOp .x p (s.issueX 0 bar shape fun _ => s.newXWith i da db so))
    (hs : shape 0 = .ok 0) (hown : ∀ q : XCmd, q.da = da → q.db = db → own q) (hp : s.me.pget p = true)
    (hroom : s.me.xq.length < Config.xQueueDepth) (hb : s.me.Barrier s.cur bar bw) : s.Queues bw i 0 own :=
  State.queues_of hex hp hroom (Ctx.xwords_ok (fun _ => rfl) (fun h => absurd rfl h) hb hs) rfl hown

/-- A product takes its operands in the formats that they are read in (R216). -/
theorem State.issueProduct_eq (s : State) (i : Instr) (opa : Bool) (da db : Fin 16) (shp bar : Fin 64) :
    let a : Desc := s.me.dreg[da]
    let b : Desc := s.me.dreg[db]
    let fmt (x y : Nat) : Nat := if x ≠ 0 then x else if y ≠ 0 then y else 1
    s.issueProduct i opa da db shp bar = s.issueX shp bar (productShape opa shp a b da db) fun _ =>
      s.newXWith i (a.withFmt (fmt a.fmt b.fmt)) (b.withFmt (fmt b.fmt a.fmt)) none := rfl
/-- A solve routine starts afresh with the shape that it finds (R232). -/
theorem State.issueSolve_eq (s : State) (i : Instr) (op : BitVec 6) (var : BitVec 2) (zd zs : Fin 8) (x : XShape) (bar : Fin 64) :
    s.issueSolve i op var zd zs x bar = s.issueX x.shp bar (solveShape op.toNat x s.me.dreg[x.da] s.me.dreg[x.db]) fun w =>
      s.newXWith i (s.newX i).da (s.newX i).db
        (if op.toNat ≤ 0x0E then some (freshSolve (s.newX i) op var zd zs w) else none) := rfl

/-- The high half of a word below 2^32 is zero. -/
theorem bits_high_of_lt (h : w.toNat < 2 ^ 32) : bits w 32 32 = 0 :=
  bits_eq (by rw [Nat.div_eq_of_lt h]; rfl)

/-- Settles O35: each command passes its own check of its shape or descriptor, and then all of them issue alike. -/
theorem matrixCommandsQueue : Obligations.MatrixCommandsQueue := by
  unfold Obligations.MatrixCommandsQueue
  intro s p bar shp bw w hp hroom hb0 hb1 h0 hw
  have hb : s.me.Barrier s.cur bar bw := by
    by_cases h : bar = 0
    · exact .inl ⟨h, hb0 h⟩
    · obtain ⟨a, v, ha, hv, h8, hlt, hbw⟩ := hb1 h
      exact .inr ⟨h, _, ⟨a, v, by simpa using ha, hv, h8, hlt, rfl⟩, hbw⟩
  have words {shape : Word → Except Fail Word} {sh : Word} : shape w = .ok sh → s.me.xwords s.cur shp bar shape = .ok (sh, bw) :=
    Ctx.xwords_ok h0 hw hb
  have bare {i : Instr} (hex : exec i s = s.slotOp .x p (s.issueX 0 bar noShape fun _ => s.newX i)) :
      s.Queues bw i 0 fun _ => True :=
    State.queues_bare hex rfl (fun _ _ _ => trivial) hp hroom hb
  refine ⟨fun zd => bare rfl, fun zd zs => ⟨bare rfl, bare rfl, bare rfl⟩, bare rfl, fun zd val hlt => ?_, fun zd da ls hd => ?_,
    fun zs db sat un hd => ?_, fun zd da db st shape => ⟨fun hs => ?_, fun hs => ?_⟩, fun zd zs pv da db shape => ?_⟩
  · exact State.queues_of rfl hp hroom (words (if_neg (not_not.2 (bits_high_of_lt hlt)))) rfl fun _ _ _ => trivial
  · exact State.queues_bare rfl (by rw [useDesc_ok hd]; rfl) (fun _ ha _ => ha) hp hroom hb
  · exact State.queues_bare rfl (by rw [useDesc_ok hd]; rfl) (fun _ _ hb => hb) hp hroom hb
  · exact State.queues_of (congrArg (s.slotOp .x p) (s.issueProduct_eq (.mmul p zd da db shp st bar) false da db shp bar)) hp hroom
      (words hs) rfl fun _ ha hb => ⟨ha, hb⟩
  · exact State.queues_of (congrArg (s.slotOp .x p) (s.issueProduct_eq (.mopa p zd da db shp st bar) true da db shp bar)) hp hroom
      (words hs) rfl fun _ ha hb => ⟨ha, hb⟩
  · have solve {i : Instr} (op : BitVec 6) {var : BitVec 2} {z z' : Fin 8}
        (hex : exec i s = s.slotOp .x p (s.issueSolve i op var z z' ⟨shp, da, db⟩ bar))
        (hs : solveShape op.toNat ⟨shp, da, db⟩ s.me.dreg[da] s.me.dreg[db] w = .ok shape) :
        s.Queues bw i shape fun _ => True :=
      State.queues_of (hex.trans (congrArg (s.slotOp .x p) (s.issueSolve_eq i op var z z' _ bar))) hp hroom (words hs) rfl
        fun _ _ _ => trivial
    exact ⟨solve 0x0A rfl, solve 0x0B rfl, fun _ _ => solve 0x0C rfl, solve 0x0D rfl, solve 0x0E rfl, solve 0x10 rfl,
      solve 0x11 rfl⟩

end Sys2Proof.Machine
end

section
/-!
CERTIFICATE. The K slot: a command issues on its path, an index enters its queue (O36).
-/
namespace Sys2Proof.Machine
open Sys2Proof.Laws

variable {s : State} {p : Fin 64} {n : Fin 16} {done : KDone} {lvl : BitVec 2} {sc : Nat} {src vis : Option (Nat × Word)}

/-! ## Level and completion words (R125, R175) -/

/-- The completion in force: that of the instruction, or the default of its descriptor within its limits. -/
def Desc.Completes (d : Desc) (k : KDone) (lvl : BitVec 2) (sc : Nat) : Prop := if k.lvl = 0 ∧ k.sc = 0
  then lvl = d.dlevel ∧ sc = d.dsc ∧ (d.dlevel ≠ 0 → 1 ≤ d.dsc ∧ d.dsc ≤ if d.dlevel = 3 then 60 else 62)
  else lvl = k.lvl ∧ sc = k.sc.val
theorem Desc.Completes.doneOf {d : Desc} (h : d.Completes done lvl sc) (n : Fin 16) : doneOf d n done = .ok (lvl, sc) := by
  unfold Desc.Completes at h
  unfold Machine.doneOf
  split at h
  · next hk =>
    obtain ⟨rfl, rfl, hd⟩ := h
    rw [if_pos (by simp [hk])]
    refine if_neg fun hbad => ?_
    rw [Bool.and_eq_true, decide_eq_true_iff, Bool.or_eq_true, decide_eq_true_iff, decide_eq_true_iff] at hbad
    obtain ⟨hlo, hhi⟩ := hd hbad.1
    omega
  · next hk =>
    obtain ⟨rfl, rfl⟩ := h
    rw [if_neg (by simpa using hk)]

/-- The words that a level names, from the register pairs `sc` and, at level 3, `sc + 2`. -/
def Ctx.DoneWords (x : Ctx) (c : CtxId) (lvl : BitVec 2) (sc : Nat) (src vis : Option (Nat × Word)) : Prop :=
  (lvl = 0 ∧ src = none ∧ vis = none) ∨ (lvl = 1 ∧ vis = none ∧ ∃ w, x.WordPair c sc w ∧ src = some w) ∨
    (lvl = 2 ∧ src = none ∧ ∃ w, x.WordPair c sc w ∧ vis = some w) ∨
    (lvl = 3 ∧ ∃ w v, x.WordPair c sc w ∧ x.WordPair c (sc + 2) v ∧ src = some w ∧ vis = some v)
theorem Ctx.DoneWords.kWords {x : Ctx} {c : CtxId} (h : x.DoneWords c lvl sc src vis) :
    kWords c x lvl sc = .ok ⟨lvl, src, vis⟩ := by
  unfold Machine.kWords
  obtain ⟨rfl, rfl, rfl⟩ | ⟨rfl, rfl, w, hw, rfl⟩ | ⟨rfl, rfl, w, hw, rfl⟩ | ⟨rfl, w, v, hw, hv, rfl, rfl⟩ := h
  · rfl
  · obtain ⟨a, hpair, hloc⟩ := hw.pairOf
    simp [hpair, hloc, Except.map]
  · obtain ⟨a, hpair, hloc⟩ := hw.pairOf
    simp [hpair, hloc, Except.map]
  · obtain ⟨a, hpair, hloc⟩ := hw.pairOf
    obtain ⟨b, hpair', hloc'⟩ := hv.pairOf
    simp [hpair, hloc, hpair', hloc', Except.map]

/-! ## The issue of a command (R175, R176, R178) -/

/-- A command with its level and its words. -/
def KCmd.withDone (k : KCmd) (lvl : BitVec 2) (src vis : Option (Nat × Word)) : KCmd := { k with
  lvl := lvl
  srcWord := src
  visWord := vis }
/-- What the footprint of a command is made of: everything else of it stays. -/
theorem State.placeK_eq (s : State) (k : KCmd) : ∃ foot src area whole snap, s.placeK k = { k with
    srcFoot := src
    dstFoot := foot
    area := area
    whole := whole
    snap := snap } := by
  unfold State.placeK State.footK
  dsimp only
  split <;> exact ⟨_, _, _, _, _, rfl⟩
theorem State.placeK_owner (s : State) (k : KCmd) : (s.placeK k).owner = k.owner := by
  obtain ⟨_, _, _, _, _, h⟩ := s.placeK_eq k
  rw [h]

/-- A command whose words are in order and whose path has room issues, or waits for a close on its way to what it takes. -/
theorem State.issueK_ok {path : KPath} {d : Desc} {k : KCmd} (hd : d.Completes done lvl sc)
    (hw : s.me.DoneWords s.cur lvl sc src vis) (hroom : s.pathFull s.cur path = false) :
    s.issueK path d n done k =
      if s.sourceWaits (s.placeK (k.withDone lvl src vis)).owner (s.placeK (k.withDone lvl src vis)).sources then .hold s
      else .done (s.addK { s.placeK (k.withDone lvl src vis) with failed := s.laneClash (s.placeK (k.withDone lvl src vis)) }) := by
  rw [State.issueK, hd.doneOf n, need_ok]
  dsimp only
  rw [hw.kWords, need_ok, hroom, if_neg Bool.false_ne_true]
  rfl

/-- A new command with its operands. -/
def State.newKWith (s : State) (i : Instr) (path : KPath) (dd ds : Desc) (sa sb : Word) (ring : Option RingBind) : KCmd :=
  { s.newK i (some path) with
    dd := dd
    ds := ds
    sa := sa
    sb := sb
    ring := ring }

/-- The statement's `issues`, for a command `k0` with its operands, level and words. -/
def State.Issues (s : State) (i : Instr) (path : KPath) (lvl : BitVec 2) (src vis : Option (Nat × Word)) (k0 : KCmd) : Prop :=
  let q := s.placeK k0
  (s.sourceWaits s.cur q.sources = true → Holds i s) ∧
  (s.sourceWaits s.cur q.sources = false → exec i s = .next { s with
    kcmds := s.kcmds ++ [{ q with failed := s.laneClash q }]
    nextId := s.nextId + 1
    verdict := .ok }) ∧
  k0.op = i ∧ k0.id = s.nextId ∧ k0.owner = s.cur ∧ k0.run = s.me.run ∧ k0.path = some path ∧ k0.pc = s.me.pc ∧
  k0.opn = s.me.phaseOpen ∧ k0.stage = .queued ∧ k0.held = [] ∧ k0.lvl = lvl ∧ k0.srcWord = src ∧ k0.visWord = vis ∧
  ∃ foot src area whole snap, q = { k0 with
    srcFoot := src
    dstFoot := foot
    area := area
    whole := whole
    snap := snap }
theorem State.issues_of {i : Instr} {path : KPath} {d dd ds : Desc} {sa sb : Word} {ring : Option RingBind} (hp : s.me.pget p = true)
    (hw : s.me.DoneWords s.cur lvl sc src vis)
    (hex : exec i s = s.slotOp .k p (s.issueK path d n done (s.newKWith i path dd ds sa sb ring)))
    (hd : d.Completes done lvl sc) (hroom : s.pathFull s.cur path = false) :
    s.Issues i path lvl src vis ((s.newKWith i path dd ds sa sb ring).withDone lvl src vis) := by
  have hissue := State.issueK_ok (n := n) (k := s.newKWith i path dd ds sa sb ring) hd hw hroom
  rw [State.placeK_owner] at hissue
  refine ⟨fun hwait => ?_, fun hwait => ?_, rfl, rfl, rfl, rfl, rfl, rfl, rfl, rfl, rfl, rfl, rfl, rfl, s.placeK_eq _⟩
  · exact hex.trans ((congrArg (s.slotOp .k p) (hissue.trans (if_pos hwait))).trans (slotOp_hold hp))
  · have hwait' := Bool.eq_false_iff.1 hwait
    exact hex.trans ((congrArg (s.slotOp .k p) (hissue.trans (if_neg hwait'))).trans (slotOp_done hp))

theorem need_of_ok {α : Type} {e : Except Fail α} {a : α} (h : e = .ok a) (k : α → Res) : Res.need e k = k a := h ▸ rfl

/-! ## Indices of gathers (R181) -/

/-- The queue `q` without what a started gather takes of it. -/
def State.indicesLeft (s : State) (q : List W32) : List W32 :=
  match s.kcmds.find? fun k => k.owner = s.cur && k.run = s.me.run && k.waitsIdx && k.stage ≠ .queued with
  | some k => q.drop (k.sa.toNat - k.idx.length)
  | none => q
theorem State.modK_ids (s : State) (id : Nat) {f : KCmd → KCmd} (hf : ∀ k, (f k).id = k.id) :
    (s.modK id f).kcmds.map KCmd.id = s.kcmds.map KCmd.id := by
  rw [State.modK, List.map_map]
  refine List.map_congr_left fun k _ => ?_
  rw [Function.comp_apply]
  split
  · exact hf k
  · rfl
theorem State.footK_id (s : State) (k : KCmd) : (s.footK k).id = k.id := by
  unfold State.footK
  dsimp only
  split <;> rfl
theorem State.placeGathers_ids (s : State) (c : CtxId) : (s.placeGathers c).kcmds.map KCmd.id = s.kcmds.map KCmd.id := by
  rw [State.placeGathers, List.map_map]
  refine List.map_congr_left fun k _ => ?_
  rw [Function.comp_apply]
  split
  · exact s.footK_id k
  · rfl
/-- A push of indices: the queue keeps what no started gather takes of it. -/
theorem State.feedIdx_push (s : State) (q : List W32) : ∃ ks, ks.map KCmd.id = s.kcmds.map KCmd.id ∧
    (s.modMe fun c => { c with idxq := q }).feedIdx s.cur =
      ({ s with kcmds := ks } : State).modMe fun c => { c with idxq := s.indicesLeft q } := by
  have hme : (s.modMe fun c => { c with idxq := q }).ctx s.cur = { s.me with idxq := q } := s.me_modMe _
  have hks (f : Ctx → Ctx) : (s.modMe f).kcmds = s.kcmds := rfl
  rw [State.feedIdx, hme, hks, State.indicesLeft]
  dsimp only
  split
  · next h => 
    rw [h]
    exact ⟨s.kcmds, rfl, rfl⟩
  · next k h =>
    rw [h]
    let takes (x : KCmd) : KCmd := { x with idx := x.idx ++ q.take (k.sa.toNat - k.idx.length) }
    exact ⟨(s.modK k.id takes).kcmds, s.modK_ids k.id fun _ => rfl, State.modCtx_modCtx (s.modK k.id takes) s.cur
      (fun c => { c with idxq := q }) fun x => { x with idxq := x.idxq.drop (k.sa.toNat - k.idx.length) }⟩

/-- An index enters a queue with room, and the free entries of the queue come to q7. -/
theorem State.pushIndex_ok {ra : Fin 64} {a : Word} (hp : s.me.pget p = true) (ha : s.me.checked ra = .ok a)
    (hroom : s.me.idxq.length < Config.indexQueueDepth) : ∃ t, exec (.kidx p ra) s = .next t ∧ t.verdict = .ok ∧ t.cur = s.cur ∧
      t.me = { s.me with
        idxq := s.indicesLeft (s.me.idxq ++ [a.truncate 32])
        pipe := s.me.pipe ++ [⟨.k, s.me.n, s.me.pc, some (s.me.n + 1), [], some (.scalar (SVal.of (BitVec.ofNat 64
          (Config.indexQueueDepth - (s.indicesLeft (s.me.idxq ++ [a.truncate 32])).length)))), 0, [], s.time + 1, false⟩] } ∧
      t.kcmds.map KCmd.id = s.kcmds.map KCmd.id ∧ ∀ x, t.byte x = s.byte x := by
  obtain ⟨ks, hks, hfeed⟩ := s.feedIdx_push (s.me.idxq ++ [a.truncate 32])
  let u : State := ({ s with kcmds := ks } : State).modMe fun c => { c with idxq := s.indicesLeft (s.me.idxq ++ [a.truncate 32]) }
  have hu : u.me = { s.me with idxq := s.indicesLeft (s.me.idxq ++ [a.truncate 32]) } :=
    State.me_modMe ({ s with kcmds := ks } : State) _
  have hex : exec (.kidx p ra) s = .next ((u.placeGathers s.cur).land .k 1 [] (latchS (BitVec.ofNat 64
      (Config.indexQueueDepth - u.me.idxq.length))) 0).issued := by
    refine (congrArg (s.slotOp .k p) ?_).trans (slotOp_done hp)
    rw [need_of_ok ha, if_neg (Nat.not_le.2 hroom)]
    exact congrArg (fun t : State => Res.done ((t.placeGathers s.cur).land .k 1 [] (latchS (BitVec.ofNat 64
      (Config.indexQueueDepth - t.me.idxq.length))) 0)) hfeed
  refine ⟨_, hex, rfl, rfl, ?_, (u.placeGathers_ids s.cur).trans hks, fun _ => rfl⟩
  have hme : (u.placeGathers s.cur).me = u.me := rfl
  refine (State.me_land (u.placeGathers s.cur) .k 1 [] _ 0).trans ?_
  rw [hme, hu]
  rfl

/-- Settles O36: the words are in order and the path has room, so that only a close on its way can hold the command. -/
theorem copyCommandsIssue : Obligations.CopyCommandsIssue := by
  unfold Obligations.CopyCommandsIssue
  intro s p dd ds ra rb k lvl sc src vis a b hp ha hb pair hwords level issues d tiles
  have hw : s.me.DoneWords s.cur lvl sc src vis := hwords
  have issue {i : Instr} {path : KPath} {n : Fin 16} {d dd ds : Desc} {sa sb : Word} {ring : Option RingBind} :=
    State.issues_of (i := i) (path := path) (n := n) (done := k) (d := d) (dd := dd) (ds := ds) (sa := sa) (sb := sb) (ring := ring) hp hw
  have one (f : Word → Res) : s.slotOp .k p (.need (s.me.checked ra) f) = s.slotOp .k p (f a) :=
    congrArg _ (need_of_ok ha f)
  have two (f : Word → Word → Res) : s.slotOp .k p (.need (s.me.checked ra) fun a => .need (s.me.checked rb) (f a)) =
      s.slotOp .k p (f a b) :=
    (one _).trans (congrArg _ (need_of_ok hb (f a)))
  refine ⟨issue rfl, issue (one _), issue rfl, issue (one _), issue (one _), issue (two _), issue (two _), issue (two _),
    fun e => issue rfl, issue (one _), fun hroom => ?_⟩
  exact State.pushIndex_ok hp ha hroom

end Sys2Proof.Machine
end

section
/-!
SUPPORT. What plain reads of memory leave unchanged: registers, held writes, and every byte outside an element in exact form.
-/
namespace Sys2Proof.Machine
open Sys2Proof.Laws

variable {s t u : State}

/-! ## Registers of a context -/

theorem SameRegs.refl (x : Ctx) : SameRegs x x := ⟨rfl, rfl, rfl, rfl, rfl, rfl, rfl, rfl, rfl, rfl, rfl, rfl⟩
theorem SameRegs.trans {x y z : Ctx} (h : SameRegs x y) (h' : SameRegs y z) : SameRegs x z := by
  obtain ⟨h1, h2, h3, h4, h5, h6, h7, h8, h9, h10, h11, h12⟩ := h
  obtain ⟨g1, g2, g3, g4, g5, g6, g7, g8, g9, g10, g11, g12⟩ := h'
  exact ⟨g1.trans h1, g2.trans h2, g3.trans h3, g4.trans h4, g5.trans h5, g6.trans h6, g7.trans h7, g8.trans h8, g9.trans h9,
    g10.trans h10, g11.trans h11, g12.trans h12⟩

/-! ## Reads (R85) -/

/-- No element in exact form covers a byte. -/
def State.Apart (s : State) (a : Nat) : Prop := ∀ e ∈ s.exact, ¬(e.1 ≤ a ∧ a < e.1 + 8)
/-- `t` is `s` after plain reads: elements may have left exact form, each to its own bytes. -/
structure State.ReadTo (s t : State) : Prop where
  canonical : t.Canonical
  exact : ∀ e ∈ t.exact, e ∈ s.exact
  byte : ∀ a, s.Apart a → t.byte a = s.byte a
  cur : t.cur = s.cur
  regs : SameRegs s.me t.me
  pend : t.me.pend = s.me.pend

theorem State.ReadTo.refl (h : s.Canonical) : s.ReadTo s := ⟨h, fun _ he => he, fun _ _ => rfl, rfl, .refl _, rfl⟩
theorem State.ReadTo.trans (h : s.ReadTo t) (h' : t.ReadTo u) : s.ReadTo u where
  canonical := h'.canonical
  exact e he := h.exact e (h'.exact e he)
  byte a ha := (h'.byte a fun e he => ha e (h.exact e he)).trans (h.byte a ha)
  cur := h'.cur.trans h.cur
  regs := h.regs.trans h'.regs
  pend := h'.pend.trans h.pend

theorem Sparse.mem_of_mem_set_default {α : Type} [DecidableEq α] {d : α} {m : Sparse α} {k : Nat} {e : Nat × α}
    (h : e ∈ Sparse.set d m k d) : e ∈ m := by
  induction m with
  | nil => rwa [Sparse.set, Sparse.put, if_pos rfl] at h
  | cons x m ih =>
    obtain ⟨a, w⟩ := x
    rw [Sparse.set, Sparse.put, Sparse.put, if_pos rfl, if_pos rfl] at h
    split at h
    · exact List.mem_cons_of_mem _ h
    · split at h
      · exact h
      · rcases List.mem_cons.1 h with rfl | h
        · exact List.mem_cons_self
        · exact List.mem_cons_of_mem _ (ih h)

/-- One element leaves exact form, rounded where it is a sum. -/
def State.leaveExact (s : State) (e : Nat × Option ExactEl) : State :=
  let s' := { s with exact := Sparse.set none s.exact e.1 none }
  match e.2 with
  | some x => match updFmt x.ty with
    | some f => if x.kind == .sum then s'.setNum e.1 (x.value f) (updBytes x.ty) else s'
    | none => s'
  | none => s'
theorem State.flushLine_eq (s : State) (l : Nat) : s.flushLine l = (s.lineExact l).foldl State.leaveExact s := rfl

theorem updBytes_le (ty : BitVec 4) : updBytes ty ≤ 8 := by
  revert ty
  decide
theorem State.exact_setNum (s : State) (l v n : Nat) : (s.setNum l v n).exact = s.exact := by
  rw [State.setNum, State.setCells]
  generalize cellsAt l (leBytes v n) = cs
  induction cs generalizing s with
  | nil => rfl
  | cons c cs ih => exact ih (s.setByte c.1 c.2)
/-- An element of `s` that leaves exact form writes its own bytes at most. -/
theorem State.ReadTo.leaveExact (h : s.ReadTo t) {e : Nat × Option ExactEl} (he : e ∈ s.exact) : s.ReadTo (t.leaveExact e) := by
  let t' : State := { t with exact := Sparse.set none t.exact e.1 none }
  have gone : s.ReadTo t' :=
    ⟨h.canonical.setExact e.1 none, fun x hx => h.exact x (Sparse.mem_of_mem_set_default hx), h.byte, h.cur, h.regs, h.pend⟩
  unfold State.leaveExact
  dsimp only
  split
  · next x _ =>
    split
    · next f _ =>
      split
      · have hst := StorageOnly.setNum t' e.1 (x.value f) (updBytes x.ty)
        have hme : (t'.setNum e.1 (x.value f) (updBytes x.ty)).me = t'.me := by
          obtain ⟨_, _, _, hst⟩ := hst
          rw [hst]
          rfl
        have hcur : (t'.setNum e.1 (x.value f) (updBytes x.ty)).cur = t'.cur := by
          obtain ⟨_, _, _, hst⟩ := hst
          rw [hst]
        refine ⟨gone.canonical.setNum _ _ _, fun y hy => gone.exact y (by rwa [State.exact_setNum] at hy), fun a ha => ?_,
          hcur.trans gone.cur, hme ▸ gone.regs, hme ▸ gone.pend⟩
        have hle := updBytes_le x.ty
        refine (State.byte_setNum_of_notMem gone.canonical fun hin => ha e he ⟨hin.1, ?_⟩).trans (gone.byte a ha)
        omega
      · exact gone
    · exact gone
  · exact gone
theorem State.ReadTo.flushLine (h : s.ReadTo t) (l : Nat) : s.ReadTo (t.flushLine l) := by
  have hl : ∀ e ∈ t.lineExact l, e ∈ s.exact := fun e he => h.exact e (List.mem_of_mem_filter he)
  rw [State.flushLine_eq]
  generalize t.lineExact l = es at hl
  induction es generalizing t with
  | nil => exact h
  | cons e es ih => exact ih (h.leaveExact (hl e List.mem_cons_self)) fun x hx => hl x (List.mem_cons_of_mem _ hx)
theorem State.ReadTo.flushLocs (h : s.ReadTo t) (ls : List Nat) : s.ReadTo (t.flushLocs ls) := by
  unfold State.flushLocs
  induction ls generalizing t with
  | nil => exact h
  | cons l ls ih =>
    refine ih ?_
    dsimp only
    split
    · exact h
    · exact h.flushLine l

/-! ## Accesses that are logged -/

theorem State.ReadTo.logged (h : s.ReadTo t) (k : AKind) (l : List Span) : s.ReadTo (t.logged k l) :=
  ⟨h.canonical.mk', h.exact, h.byte, h.cur, h.regs, h.pend⟩
theorem State.ReadTo.noted (h : s.ReadTo t) (k : AKind) (l : List Span) : s.ReadTo (t.noted k l) := by
  have hme : (t.noted k l).me = _ := t.me_modMe _
  exact ⟨h.canonical.noted k l, h.exact, h.byte, h.cur, hme ▸ h.regs, hme ▸ h.pend⟩
theorem mTouch_ok {k : AKind} {ls : List Nat} {a : Word} (h : s.mTouch k ls a = .ok t) :
    t = (s.logged k (spansOf [(a, ls)])).noted k (spansOf [(a, ls)]) := by
  unfold State.mTouch at h
  cases hall : s.mTouchAll k (spansOf [(a, ls)]) with
  | error f => rw [hall] at h; cases h
  | ok u =>
    rw [hall] at h
    cases h
    rw [(mTouchAll_ok hall).2]
theorem State.ReadTo.touchReads {rs : List (Nat × List Nat)} (h : s.ReadTo t) (hr : t.touchReads rs = .ok u) : s.ReadTo u := by
  induction rs generalizing t with
  | nil =>
    cases hr
    exact h
  | cons r rs ih =>
    rw [State.touchReads] at hr
    split at hr
    · cases hr
    · next t' ht =>
      rw [mTouch_ok ht] at hr
      exact ih (((h.logged ..).noted ..).flushLocs r.2) hr

/-! ## Writes held until the close (R36, R255) -/

/-- The M slot's own writes, as they wait for the close of their phase. -/
def heldWrites (once : Bool) (ws : List (Nat × List Host.Cell)) : List Pend :=
  ws.map fun w => ⟨.bytes w.2, BitVec.ofNat 64 w.1, once, false, some 0⟩
/-- `t` is `s` with the writes `ps` held besides: no register and no byte changes. -/
structure State.HoldsBesides (s : State) (ps : List Pend) (t : State) : Prop where
  byte : ∀ a, t.byte a = s.byte a
  cur : t.cur = s.cur
  regs : SameRegs s.me t.me
  pend : t.me.pend = s.me.pend ++ ps
theorem State.holdWrites_ok {once : Bool} {ws : List (Nat × List Host.Cell)} (h : s.holdWrites once ws = .ok t) :
    s.HoldsBesides (heldWrites once ws) t := by
  induction ws generalizing s with
  | nil =>
    cases h
    exact ⟨fun _ => rfl, rfl, .refl _, (List.append_nil _).symm⟩
  | cons w ws ih =>
    rw [State.holdWrites] at h
    split at h
    · cases h
    · next s' hs =>
      rw [mTouch_ok hs] at h
      obtain ⟨hbyte, hcur, hregs, hpend⟩ := ih h
      rw [State.me_modMe, State.noted, State.me_modMe] at hregs hpend
      exact ⟨hbyte, hcur, hregs, hpend.trans (List.append_assoc ..)⟩

/-- A projection that is used, or waited for, changes no register, held write or byte (R210). -/
theorem State.projUsed_holds (s : State) (hcb : Nat) (rows : List Byte) : s.HoldsBesides [] (s.projUsed hcb rows) := by
  have hcore (f : CoreSt → CoreSt) : s.HoldsBesides [] (s.modCore s.cur.core f) :=
    ⟨fun _ => rfl, rfl, .refl _, (List.append_nil _).symm⟩
  have hwait : s.HoldsBesides [] (s.modMe fun c => { c with wait := .projection hcb }) := by
    have hme : (s.modMe fun c => { c with wait := .projection hcb }).me = _ := s.me_modMe _
    refine ⟨fun _ => rfl, rfl, ?_, ?_⟩
    · rw [hme]; exact .refl s.me
    · rw [hme]; exact (List.append_nil _).symm
  unfold State.projUsed
  split
  · split
    · exact hcore _
    · exact hwait
  · exact hwait

end Sys2Proof.Machine
end

section
/-!
CERTIFICATE. Signatures and stored keys (O26).
-/
namespace Sys2Proof.Machine
open Sys2Proof.Laws

theorem past_ok {α : Type} (s : State) (sl : Slot) {g : Gate α} {a : α} (k : α → Res) (h : g = .ok a) : s.past sl g k = k a := by
  rw [h]
  rfl
theorem misaligned_eq_false {a : Word} {n : Nat} (h : a.toNat % n = 0) : misaligned a n = false :=
  decide_eq_false (not_not.2 h)

/-- Settles O26: each operation passes its checks one by one, and its effect is that of its reads, its held writes and its
use of the projection. -/
theorem headOperationsComplete : Obligations.HeadOperationsComplete := by
  unfold Obligations.HeadOperationsComplete
  refine ⟨?_, ?_⟩
  · intro s u p d a h ety x y hc pr t hp hxs harith htrack va w hhcb hproj hwaits htouch sig
    refine (congrArg (s.slotOp u.slot p) ?_).trans (slotOp_done hp)
    rw [hxs, need_ok]
    have hx : nth [x, y] 0 = x := rfl
    dsimp only
    rw [hx, harith, need_ok, htrack, need_ok, past_ok s _ _ hhcb, past_ok s _ _ hproj, if_neg (Bool.eq_false_iff.1 hwaits), htouch]
    rfl
  · intro s p r base off ka ha hc pr k ws t u hcan hp hea hha hka8 hha8 key v see kb hcheck hwait hpoison hclear hhcb hproj sig hall
      hgate hwaits htouch hhold
    refine ⟨(u.projUsed ha.toNat pr.2).issued, ?_, rfl, ?_⟩
    · refine (congrArg (s.slotOp .m p) ?_).trans (slotOp_done hp)
      rw [hea, need_ok, hha, need_ok, misaligned_eq_false hka8, misaligned_eq_false hha8, if_neg Bool.false_ne_true,
        if_neg Bool.false_ne_true, spadRead_ok hcheck hwait hpoison hclear]
      rw [past_ok s _ _ hhcb, past_ok s _ _ hproj, past_ok s _ _ hall, past_ok s _ _ hgate, if_neg (Bool.eq_false_iff.1 hwaits),
        htouch, need_ok, hhold]
      rfl
    · have hread : s.ReadTo t := ((State.ReadTo.refl hcan).logged ..).touchReads htouch
      have hheld := State.holdWrites_ok hhold
      have hused := u.projUsed_holds ha.toNat pr.2
      refine ⟨hread.regs.trans (hheld.regs.trans hused.regs), fun a hap => ?_, ?_⟩
      · exact (hused.byte a).trans ((hheld.byte a).trans (hread.byte a hap))
      · calc (u.projUsed ha.toNat pr.2).me.pend = u.me.pend := hused.pend.trans (List.append_nil _)
          _ = t.me.pend ++ heldWrites true ws := hheld.pend
          _ = s.me.pend ++ heldWrites true ws := by rw [hread.pend]

end Sys2Proof.Machine
end

section
/-!
SUPPORT. Commands of the engines: a command that is alone in its lane, and what the engines' own operations leave of it.
-/
namespace Sys2Proof.Machine
open Sys2Proof.Laws

variable {s t : State} {k : KCmd}

/-! ## A command that no other command of its lane stands beside -/

/-- `k` is in flight, and is the only command of its lane. -/
def State.Lone (s : State) (k : KCmd) : Prop := s.getK k.id = some k ∧ ∀ q ∈ s.kcmds, q ≠ k → q.owner ≠ k.owner

theorem State.Lone.eq_of_owner (h : s.Lone k) {q : KCmd} (hq : q ∈ s.kcmds) (ho : q.owner = k.owner) : q = k := by
  by_contra hne
  exact h.2 q hq hne ho
theorem State.Lone.of_kcmds (h : s.Lone k) (hks : t.kcmds = s.kcmds) : t.Lone k := by
  rw [State.Lone, State.getK, hks]
  exact h

/-- `k` stands alone in its lane: nothing has failed in it, its step has not stopped, and it waits to be ordered after nothing. -/
structure State.Alone (s : State) (k : KCmd) : Prop where
  lone : s.Lone k
  unfailed : k.failed = none
  unfaulted : k.waitFault = none
  alive : k.dead = false
  unord : k.unord = []
  loose : k.loose = []

/-- No node is dying, and no slot of a ring is claimed. -/
structure State.Calm (s : State) : Prop where
  nodes : ∀ n ∈ s.nodes, n.dying = none
  claims : ∀ q ∈ s.kcmds, q.claim = none

/-- Nothing is ahead of it on its path (R176). -/
theorem State.Lone.ahead (h : s.Lone k) : s.ahead k = [] := by
  rw [State.ahead, List.filter_eq_nil_iff]
  intro q hq hp
  simp only [Bool.and_eq_true, decide_eq_true_iff] at hp
  obtain ⟨⟨⟨ho, -⟩, -⟩, hlt⟩ := hp
  rw [h.eq_of_owner hq ho] at hlt
  exact Nat.lt_irrefl _ hlt

/-- Where no command of a lane waits to be ordered after another, a footprint that becomes known fails none (R254). -/
theorem State.failLater_of_ordered {c : CtxId} (h : ∀ q ∈ s.kcmds, q.owner = c → q.unord = []) (run id : Nat) (f : Foot) :
    s.failLater c run id f = s := by
  have hmap : (s.failLater c run id f).kcmds = s.kcmds := by
    rw [State.failLater]
    refine (List.map_congr_left fun q hq => ?_).trans (List.map_id _)
    split
    · next u hu =>
      split at hu
      · next hc =>
        simp only [Bool.and_eq_true, decide_eq_true_iff] at hc
        rw [h q hq hc.1.1.1] at hu
        cases hu
      · cases hu
    · rfl
  exact congrArg (fun ks => ({ s with kcmds := ks } : State)) hmap

/-- No command of its lane comes to wait to be ordered after another by a change that keeps lane and order. -/
theorem State.Lone.ordered_modK (h : s.Lone k) (hu : k.unord = []) {id : Nat} {f : KCmd → KCmd} (hf : ∀ q, (f q).owner = q.owner)
    (hf' : ∀ q, (f q).unord = q.unord) : ∀ q ∈ (s.modK id f).kcmds, q.owner = k.owner → q.unord = [] := by
  intro q hq ho
  obtain ⟨r, hr, rfl⟩ := List.mem_map.1 hq
  split at ho
  · next hid => rw [if_pos hid, hf', h.eq_of_owner hr ((hf r).symm.trans ho), hu]
  · next hid => rw [if_neg hid, h.eq_of_owner hr ho, hu]

/-- The command of a number after it is replaced. -/
theorem State.getK_modK_replace {id : Nat} (hk : s.getK id = some k) {k' : KCmd} (hid : k'.id = id) :
    (s.modK id fun _ => k').getK id = some k' := by
  have same : ((fun q : KCmd => decide (q.id = id)) ∘ fun q : KCmd => if q.id = id then k' else q) =
      fun q => decide (q.id = id) := by
    funext q
    rw [Function.comp_apply]
    split
    · next h => rw [hid, h]
    · rfl
  show (s.kcmds.map _).find? _ = some k'
  rw [List.find?_map, same]
  exact congrArg (Option.map _) hk |>.trans (by rw [Option.map_some, if_pos (State.id_of_getK hk)])

/-! ## A command that takes part in no round of a KA2A -/

/-- `k` is a KA2A. -/
def KCmd.Exchanges (k : KCmd) : Prop := ∃ p dd ds sa sb kd, k.op = .ka2a p dd ds sa sb kd

theorem State.a2aLater_of_not (h : ¬k.Exchanges) : s.a2aLater k = false := by
  unfold State.a2aLater
  split
  · exact absurd ⟨_, _, _, _, _, _, ‹_›⟩ h
  · rfl
theorem State.exchanged_of_not (h : ¬k.Exchanges) : s.exchanged k = true := by
  unfold State.exchanged
  split
  · exact absurd ⟨_, _, _, _, _, _, ‹_›⟩ h
  · rfl
theorem State.roundPoison_of_not (h : ¬k.Exchanges) : s.roundPoison k = none := by
  unfold State.roundPoison
  dsimp only
  split
  · exact absurd ⟨_, _, _, _, _, _, ‹_›⟩ h
  · rfl
theorem State.noteShown_of_not (h : ¬k.Exchanges) : s.noteShown k = s := by
  unfold State.noteShown
  split
  · exact absurd ⟨_, _, _, _, _, _, ‹_›⟩ h
  · rfl
theorem State.roundError_of_not (h : ¬k.Exchanges) (f : Fail) : s.roundError k f = s := by
  unfold State.roundError
  split
  · exact absurd ⟨_, _, _, _, _, _, ‹_›⟩ h
  · rfl

/-! ## Conflicts, flits, elements in exact form -/

/-- A command that waits to be ordered after nothing meets no conflict of its lane, wherever its footprint lies (R254). -/
theorem State.laneClash_of_ordered (hu : k.unord = []) (hl : k.loose = []) : s.laneClash k = none := by
  rw [State.laneClash, hu, hl]
  rfl

/-- A loop changes the ports alone when its body does. -/
theorem State.foldl_ports {β : Type} {f : State → β → State} (hf : ∀ s b, ∃ ps, f s b = { s with ports := ps }) (l : List β)
    (s : State) : ∃ ps, l.foldl f s = { s with ports := ps } := by
  induction l generalizing s with
  | nil => exact ⟨s.ports, rfl⟩
  | cons b l ih =>
    obtain ⟨ps, h⟩ := hf s b
    obtain ⟨ps', h'⟩ := ih { s with ports := ps }
    exact ⟨ps', by rw [List.foldl_cons, h, h']⟩

/-- Flits that leave change the ports alone (R307). -/
theorem State.sendFlits_ports (s : State) (dev : Nat) (vl : Fin 4) (n : Nat) (u : FlitUse) :
    ∃ ps, s.sendFlits dev vl n u = { s with ports := ps } := by
  unfold State.sendFlits
  split
  · exact ⟨_, rfl⟩
  · exact ⟨s.ports, rfl⟩
theorem State.sendCopy_ports (s : State) (id : Nat) (p : KPlan) : ∃ ps, s.sendCopy id p = { s with ports := ps } := by
  unfold State.sendCopy
  exact State.foldl_ports (fun _ _ => State.sendFlits_ports ..) _ s
theorem State.tellAll_ports (s : State) (n : Nat) (u : FlitUse) : ∃ ps, s.tellAll n u = { s with ports := ps } := by
  unfold State.tellAll
  exact State.foldl_ports (fun _ _ => State.sendFlits_ports ..) _ s
theorem State.flushSpans_plain (h : s.exact = []) (l : List Span) : s.flushSpans l = s :=
  State.flushLocs_plain fun _ _ => State.lineExact_of_exact_nil h _

/-- An access that is not refused is logged, and changes nothing else. -/
theorem State.touchAs_ok {c : CtxId} {run : Nat} {step : Word} {a : AKind} {opn : Nat} {cls : Option Nat} {l : List Span} {id : Nat}
    (h : s.touchAs c run step a opn cls l id = .ok t) : ∃ as, t = { s with accs := as } := by
  unfold State.touchAs at h
  split at h
  · cases h
  · cases h
    exact ⟨_, rfl⟩

/-! ## Commands that are over (R343) -/

/-- Where no node is dying no abort is waited for. -/
theorem State.settleAborts_of_calm (h : ∀ n ∈ s.nodes, n.dying = none) : s.settleAborts = s := by
  unfold State.settleAborts
  generalize s.nodes = l at h
  induction l with
  | nil => rfl
  | cons n l ih =>
    rw [List.foldl_cons, h n List.mem_cons_self]
    exact ih fun m hm => h m (List.mem_cons_of_mem n hm)
theorem State.reap_of_calm (h : ∀ n ∈ s.nodes, n.dying = none) :
    s.reap = { s with kcmds := s.kcmds.filter fun k => !(k.over && !s.live k) } := by
  rw [State.reap]
  exact State.settleAborts_of_calm h
theorem State.byte_reap (h : ∀ n ∈ s.nodes, n.dying = none) (a : Nat) : s.reap.byte a = s.byte a := by
  rw [State.reap_of_calm h]
  rfl
theorem State.ctx_reap (h : ∀ n ∈ s.nodes, n.dying = none) (c : CtxId) : s.reap.ctx c = s.ctx c := by
  rw [State.reap_of_calm h]
  rfl

/-- A command of a step that runs is not forgotten. -/
theorem State.getK_reap (h : ∀ n ∈ s.nodes, n.dying = none) {id : Nat} (hk : s.getK id = some k) (hl : s.live k = true) :
    s.reap.getK id = some k := by
  rw [State.reap_of_calm h]
  show (s.kcmds.filter _).find? _ = some k
  rw [List.find?_filter]
  obtain ⟨hid, as, bs, hsplit, hbefore⟩ := List.find?_eq_some_iff_append.1 hk
  refine List.find?_eq_some_iff_append.2 ⟨?_, as, bs, hsplit, fun q hq => ?_⟩
  · rw [hl]
    simpa using hid
  · have := hbefore q hq
    simp only [Bool.not_eq_true', decide_eq_false_iff_not] at this
    simp [this]

theorem State.claims_of_calm (h : ∀ q ∈ s.kcmds, q.claim = none) (loc : Nat) : s.claims loc = [] := by
  rw [State.claims, List.filter_eq_nil_iff]
  intro q hq
  simp [h q hq]

/-- Without claims no ring advances (R186). -/
theorem State.advance_of_calm (h : ∀ q ∈ s.kcmds, q.claim = none) (loc : Nat) :
    State.advance loc (s.claims loc).length s = .ok s := by
  rw [State.claims_of_calm h]
  rfl
theorem State.calm_modK (h : ∀ q ∈ s.kcmds, q.claim = none) (id : Nat) {f : KCmd → KCmd}
    (hf : ∀ q, q.claim = none → (f q).claim = none) : ∀ q ∈ (s.modK id f).kcmds, q.claim = none := by
  intro q hq
  obtain ⟨r, hr, rfl⟩ := List.mem_map.1 hq
  split
  · exact hf r (h r hr)
  · exact h r hr

end Sys2Proof.Machine
end

section
/-!
CERTIFICATE. Engine commands from start to completion (O45).
-/
namespace Sys2Proof.Machine
open Sys2Proof.Laws

variable {s t u : State} {k : KCmd} {p : KPlan}

/-! ## Start (R176) -/

theorem exec_kCommandStart (id : Nat) (s : State) : exec (.kCommandStart id) s = execKCommandStart id s := rfl

theorem State.Alone.mayStart (h : s.Alone k) (he : k.errored = false) (hpath : k.path.isSome = true) (hst : k.stage = .queued)
    (hidx : k.gathers = true → k.idx ≠ []) (hcut : s.severed k.owner.core = false)
    (hbank : s.banksLocked k.owner.core k.id (k.srcFoot ++ k.dstFoot ++ k.area) = false) : s.mayStart k = true := by
  have hready : (!k.gathers || !k.idx.isEmpty) = true := by
    cases hg : k.gathers with
    | false => rfl
    | true => simpa using hidx hg
  simpa [State.mayStart, h.lone.ahead, h.unfailed, h.unfaulted, he, hpath, hst, hcut, hready] using hbank

/-- A gather that has its indices takes none from the queue. -/
theorem State.takeIdx_of_idx (hidx : k.gathers = true → k.idx ≠ []) : s.takeIdx k = (k, s) := by
  refine if_neg fun h => ?_
  simp only [Bool.and_eq_true, List.isEmpty_iff] at h
  exact hidx h.1.1 h.1.2

/-- A command with its footprint as a plan names it (R178). -/
def KCmd.planned (k : KCmd) (p : KPlan) : KCmd := { k with
  srcFoot := p.reads
  dstFoot := p.dst }

/-- A command that has started with the footprint of its plan. -/
def KCmd.started (p : KPlan) (q : KCmd) : KCmd := { q with
  stage := .started
  srcFoot := p.reads
  dstFoot := p.dst }

/-- Nothing stands against a command and its plan as it starts (R176, R254, R310, R370, R417). -/
structure State.PlanClear (s : State) (k : KCmd) (p : KPlan) : Prop where
  static : s.kstatic k = .ok ()
  arrived : (spanLocs ((s.knownFeet k).1 ++ (s.knownFeet k).2 ++ k.area)).any s.onItsWay = false
  plan : s.kplan k (s.lookK k) = .ok p
  reached : s.unreached (p.reads ++ p.dst) = none
  unfenced : s.fenceFail k ⟨p.reads, p.dst, false⟩ = none
  unpaused : s.linkPaused p = false

/-- A command that stands alone starts, and its flits leave. -/
theorem State.Alone.start_eq (h : s.Alone k) (ho : ¬k.Exchanges) (hmay : s.mayStart k = true) (hidx : k.gathers = true → k.idx ≠ [])
    (hwait : k.waitsIdx = false) (hp : s.PlanClear k p) :
    exec (.kCommandStart k.id) s = .next ((s.modK k.id (KCmd.started p)).sendCopy k.id p) := by
  have hclash : s.laneClash (k.planned p) = none := State.laneClash_of_ordered h.unord h.loose
  have hlater := State.failLater_of_ordered (h.lone.ordered_modK (id := k.id) (f := fun q => { q with
      stage := .started
      srcFoot := p.reads
      dstFoot := p.dst }) h.unord (fun _ => rfl) fun _ => rfl) k.run k.id (k.planned p).foot
  have hfence' : s.fenceFail (k.planned p) ⟨p.reads, p.dst, false⟩ = none := hp.unfenced
  dsimp only [KCmd.planned] at hclash hfence' hlater
  rw [exec_kCommandStart, execKCommandStart, h.lone.1]
  simp only [hmay, State.takeIdx_of_idx hidx, Bool.not_true, Bool.false_eq_true, if_false, hp.static, hp.arrived,
    State.a2aLater_of_not ho, Bool.or_self, hwait, hp.plan, hclash, hp.reached, hfence', hp.unpaused, hlater]
  split
  · exact absurd ⟨_, _, _, _, _, _, ‹_›⟩ ho
  · rfl

/-- What the start of a command that stands alone leaves. -/
theorem State.Alone.start (h : s.Alone k) (ho : ¬k.Exchanges) (hmay : s.mayStart k = true) (hidx : k.gathers = true → k.idx ≠ [])
    (hwait : k.waitsIdx = false) (hp : s.PlanClear k p) :
    ∃ t, exec (.kCommandStart k.id) s = .next t ∧ (∀ a, t.byte a = s.byte a) ∧ (∀ e, t.ctx e = s.ctx e) ∧
      t.getK k.id = some (k.started p) := by
  have hstart := h.start_eq ho hmay hidx hwait hp
  obtain ⟨ps, hports⟩ := State.sendCopy_ports (s.modK k.id (KCmd.started p)) k.id p
  rw [hports] at hstart
  exact ⟨_, hstart, fun _ => rfl, fun _ => rfl, State.getK_modK (f := KCmd.started p) h.lone.1 fun _ => rfl⟩

/-! ## Source-read-done (R177, R404) -/

/-- A command whose destination writes stand ready (R404): they are held until it is visible. -/
def KCmd.fetched (p : KPlan) (ops : List Pend) (q : KCmd) : KCmd := { q with
  held := ops
  srcFoot := p.reads
  dstFoot := p.dst }

/-- The destination writes of a plan, as its command holds them. -/
def KCmd.readyOps (k : KCmd) (p : KPlan) : List Pend :=
  p.ops.map fun o => ⟨o.near, (p.dst.headD ⟨0, 0, 0⟩).name, k.updates, true, some k.bit⟩

/-- The source of a command can be read as its plan says, and `u` is `s` with the access logged (R254, R258, R401, R417). -/
structure State.Readable (s : State) (k : KCmd) (p : KPlan) (u : State) : Prop where
  rounded : s.exact = []
  static : k.gathers = true → s.kstatic k = .ok ()
  plan : s.kplan k (s.lookK k) = .ok p
  unfenced : k.gathers = true → s.fenceFail k ⟨p.reads, p.dst, false⟩ = none
  sound : s.spanPoison (localSpans p.reads) = none
  touched : s.touchAs k.owner k.run k.step .read k.opn k.closeAt (localSpans p.reads) k.id = .ok u

/-- A command that stands alone reads its source. -/
theorem State.Alone.fetch (h : s.Alone k) (hr : s.Readable k p u) :
    s.fetch k = .ok (u.modK k.id (KCmd.fetched p (k.readyOps p))) := by
  have hlate : s.latePlan k = .ok p := by
    have hchecked : (if k.gathers then s.kstatic k else .ok ()) = .ok () := by
      split
      · exact hr.static ‹_›
      · rfl
    rw [State.latePlan, hchecked]
    exact hr.plan
  have hclash : s.lateClashK (k.planned p) = none := by
    have hfence' : k.gathers = true → s.fenceFail (k.planned p) (k.planned p).foot = none := hr.unfenced
    rw [State.lateClashK, State.laneClash_of_ordered (k := k.planned p) h.unord h.loose]
    split
    · exact hfence' ‹_›
    · rfl
  obtain ⟨as, hu⟩ := State.touchAs_ok hr.touched
  have hexact : u.exact = [] := by rw [hu]; exact hr.rounded
  have hlone : u.Lone k := by rw [hu]; exact h.lone
  have hlater := State.failLater_of_ordered (hlone.ordered_modK (id := k.id) (f := KCmd.fetched p (k.readyOps p)) h.unord
    (fun _ => rfl) fun _ => rfl) k.run k.id (k.planned p).foot
  rw [State.fetch, hlate]
  dsimp only [KCmd.planned] at hclash hlater ⊢
  rw [hclash, hr.sound]
  dsimp only [Option.or]
  rw [hr.touched]
  dsimp only
  rw [State.flushSpans_plain hexact]
  exact congrArg Except.ok hlater

theorem exec_sourceReadDone (id : Nat) (s : State) : exec (.sourceReadDone id) s = execSourceReadDone id s := rfl

theorem State.Alone.mayRead (h : s.Alone k) (ho : ¬k.Exchanges) (hst : k.stage = .started) (hcut : s.severed k.owner.core = false)
    (hidx : k.waitsIdx = false) (hfar : k.farHere = true) (hup : k.updates = false) (hring : k.ringing = false) : s.mayRead k = true := by
  simp [State.mayRead, h.lone.ahead, State.exchanged_of_not ho, h.unfailed, h.unfaulted, hst, hcut, hidx, hfar, hup, hring]

/-- Storage that is sound takes the writes of a command that is no KRING (R341, R401). -/
theorem State.dstPoison_of_sound (hp : s.poisonWrite (k.held.flatMap fun p => p.op.cells) = none) (hring : k.ringing = false) :
    s.dstPoison k = none := by
  have hh : s.heldPoison k = none := by rw [State.heldPoison, hp]; rfl
  have hr : s.ringPoison k = none := by
    rw [State.ringPoison, hring]
    rfl
  unfold State.dstPoison
  split
  · rfl
  · rw [hh, hr]
    rfl

/-- A command at source-read-done. -/
def KCmd.readDone (live : Bool) (q : KCmd) : KCmd := { q with
  stage := .srcDone
  srcDoneWord := q.srcWord.isSome && live }

/-- A command with its writes ready comes to source-read-done. -/
theorem State.Alone.readDone_eq (h : s.Alone k) (hmay : s.mayRead k = true) (ho : ¬k.Exchanges) (hup : k.updates = false)
    (hring : k.ringing = false) (hw : k.srcWord = none) (hfetch : s.fetch k = .ok (u.modK k.id (KCmd.fetched p (k.readyOps p))))
    (hu : u.getK k.id = some k) (hsound : u.poisonWrite (p.ops.flatMap fun o => o.near.cells) = none) :
    exec (.sourceReadDone k.id) s = .next ((u.modK k.id (KCmd.fetched p (k.readyOps p))).modK k.id
      (KCmd.readDone ((u.modK k.id (KCmd.fetched p (k.readyOps p))).live k))) := by
  have hv : (u.modK k.id (KCmd.fetched p (k.readyOps p))).getK k.id = some (k.fetched p (k.readyOps p)) :=
    State.getK_modK hu fun _ => rfl
  have hclean : (u.modK k.id (KCmd.fetched p (k.readyOps p))).dstPoison (k.fetched p (k.readyOps p)) = none := by
    refine State.dstPoison_of_sound ?_ hring
    show u.poisonWrite ((k.readyOps p).flatMap fun q => q.op.cells) = none
    rw [KCmd.readyOps, List.flatMap_map]
    exact hsound
  rw [exec_sourceReadDone, execSourceReadDone, h.lone.1]
  simp only [hmay, Bool.not_true, Bool.false_eq_true, if_false, State.roundPoison_of_not ho, h.alive]
  split
  · next heq => simp [KCmd.updates, heq] at hup
  · exact absurd ⟨_, _, _, _, _, _, ‹_›⟩ ho
  · rw [hfetch, andThen, hv, Option.bind_some, hclean, hw]
    rfl

/-- What source-read-done leaves of a command that stands alone. -/
theorem State.Alone.readDone (h : s.Alone k) (hr : s.Readable k p u) (hmay : s.mayRead k = true) (ho : ¬k.Exchanges)
    (hup : k.updates = false) (hring : k.ringing = false) (hw : k.srcWord = none)
    (hsound : s.poisonWrite (p.ops.flatMap fun o => o.near.cells) = none) :
    ∃ t, exec (.sourceReadDone k.id) s = .next t ∧ (∀ a, t.byte a = s.byte a) ∧ (∀ e, t.ctx e = s.ctx e) ∧
      t.getK k.id = some { k.fetched p (k.readyOps p) with
        stage := .srcDone
        srcDoneWord := false } := by
  have hfetch := h.fetch hr
  obtain ⟨as, rfl⟩ := State.touchAs_ok hr.touched
  have hgot := State.getK_modK (s := ({ s with accs := as } : State)) (f := KCmd.fetched p (k.readyOps p)) h.lone.1 fun _ => rfl
  refine ⟨_, h.readDone_eq hmay ho hup hring hw hfetch h.lone.1 hsound, fun _ => rfl, fun _ => rfl, ?_⟩
  refine (State.getK_modK (f := KCmd.readDone _) hgot fun _ => rfl).trans ?_
  rw [KCmd.readDone, KCmd.fetched, hw]
  rfl

/-! ## Contributions (R404) -/

theorem exec_kredAccept (id : Nat) (s : State) : exec (.kredAccept id) s = execKredAccept id s := rfl

/-- Whether a home refuses a held write rests on storage alone. -/
theorem State.refusePend_withStorage (u s : State) (q : Pend) :
    (u.withStorage s).refusePend q = none ↔ s.refusePend q = none := by
  rw [State.refusePend, State.refusePend]
  cases q.op with
  | bytes cs =>
    dsimp only
    split
    · rfl
    · rw [Option.map_eq_none_iff, Option.map_eq_none_iff]
      rfl
  | upd => rfl

/-- Storage as the homes of a command find it: they have taken the visible writes of its own step (R176, R177). -/
def State.homesOf (s : State) (k : KCmd) : State :=
  (if s.live k then (s.ctx k.owner).pend.filter (·.sure) else []).foldl State.applyPend s

/-- The homes of a command accept its contributions, however far it and its lane's accesses have come. -/
theorem State.refuseRed_none {q : Pend} (h : (s.homesOf k).refusePend { q with sure := false } = none)
    {v : State} (hv : v = v.withStorage s) (hc : v.ctxs = s.ctxs) {k' : KCmd} (ho : k'.owner = k.owner) (hr : k'.run = k.run) : v.refuseRed k' q = none := by
  have hctx : v.ctx k'.owner = s.ctx k.owner := by rw [State.ctx, hc, ho]; rfl
  have hlive : v.live k' = s.live k := by rw [State.live, State.live, State.runLive, State.runLive, hctx, hr]
  rw [State.refuseRed, Option.map_eq_none_iff, hlive, hctx, hv, State.foldl_withStorage (State.applyPend_withStorage v),
    State.refusePend_withStorage]
  exact h

theorem KCmd.gathers_of_updates (h : k.updates = true) : k.gathers = false := by
  unfold KCmd.updates at h
  split at h
  · next hop => rw [KCmd.gathers, hop]
  · cases h

theorem State.Alone.accept_eq (h : s.Alone k) (hup : k.updates = true) (hst : k.stage = .started) (hacc : k.accepted = false)
    (hcut : s.severed k.owner.core = false) {v : State} {k' : KCmd} (hfetch : s.fetch k = .ok v) (hv : v.getK k.id = some k')
    (hheld : k'.held.findSome? (v.refuseRed k') = none) :
    exec (.kredAccept k.id) s = .next (v.modK k.id fun q => { q with accepted := true }) := by
  rw [exec_kredAccept, execKredAccept, h.lone.1]
  simp only [hup, hst, h.unfailed, h.unfaulted, hacc, h.alive, hcut, hfetch, andThen, hv, hheld]
  rfl

/-- What the acceptance of its contributions leaves of a command that stands alone. -/
theorem State.Alone.accept (h : s.Alone k) (hr : s.Readable k p u) (hup : k.updates = true) (hst : k.stage = .started)
    (hacc : k.accepted = false) (hcut : s.severed k.owner.core = false)
    (haccept : ∀ q ∈ k.readyOps p, (s.homesOf k).refusePend { q with sure := false } = none) :
    ∃ t, exec (.kredAccept k.id) s = .next t ∧ (∀ a, t.byte a = s.byte a) ∧
      t.getK k.id = some { k.fetched p (k.readyOps p) with accepted := true } := by
  have hfetch := h.fetch hr
  obtain ⟨as, rfl⟩ := State.touchAs_ok hr.touched
  have hgot := State.getK_modK (s := ({ s with accs := as } : State)) (f := KCmd.fetched p (k.readyOps p)) h.lone.1 fun _ => rfl
  let v : State := ({ s with accs := as } : State).modK k.id (KCmd.fetched p (k.readyOps p))
  have hv : v = v.withStorage s := rfl
  have hnone : (k.fetched p (k.readyOps p)).held.findSome? (v.refuseRed (k.fetched p (k.readyOps p))) = none :=
    List.findSome?_eq_none_iff.2 fun q hq => State.refuseRed_none (haccept q hq) hv rfl rfl rfl
  exact ⟨_, h.accept_eq hup hst hacc hcut hfetch hgot hnone, fun _ => rfl,
    State.getK_modK (f := fun q => { q with accepted := true }) hgot fun _ => rfl⟩

/-! ## Ring slots (R186, R408) -/

theorem exec_kringClaim (id : Nat) (s : State) : exec (.kringClaim id) s = execKringClaim id s := rfl

/-- A command that is the only one to ask for rings goes first. -/
theorem State.ringFirst_of_only (h : ∀ q ∈ s.kcmds, q.ringing = true → q = k) (loc : Nat) : s.ringFirst k loc = true := by
  rw [State.ringFirst, Bool.not_eq_true', List.any_eq_false]
  intro q hq hp
  simp only [Bool.and_eq_true, decide_eq_true_iff] at hp
  obtain ⟨⟨⟨⟨⟨⟨hring, -⟩, -⟩, -⟩, -⟩, hlt⟩, -⟩ := hp
  rw [h q hq hring] at hlt
  exact Nat.lt_irrefl _ hlt

/-- A KRING with a claim to the next slot of its ring (R186). -/
def KCmd.claimed (k : KCmd) (now : Nat) (loc : Nat) (r : RingObj) : KCmd := { k with
  claim := some (0, r.wp % r.nslot)
  ringLoc := loc
  wopn := now }

/-- A KRING that asks for a slot of its ring while no other does, and no claim stands. -/
structure State.AsksSlot (s : State) (k : KCmd) (ls : List Nat) (b : RingBind) (r : RingObj) : Prop where
  here : s.getK k.id = some k
  asks : (!(k.ringing && k.stage = .started && k.claim.isNone && k.failed.isNone && k.waitFault.isNone && !k.dead) ||
    s.severed k.owner.core) = false
  calm : ∀ q ∈ s.kcmds, q.claim = none
  only : ∀ q ∈ s.kcmds, q.ringing = true → q = k
  obj : s.kringObj k = .ok (ls, b, r)
  ready : (s.fresh (ls.headD 0) 64 || ls.any (s.inTransit k.owner)) = false
  goesOn : r.over = false

section
variable {ls : List Nat} {b : RingBind} {r : RingObj}

/-- It waits while no slot is free. -/
theorem State.AsksSlot.waits (h : s.AsksSlot k ls b r) (hfull : r.nslot ≤ r.filled) : exec (.kringClaim k.id) s = .next s := by
  rw [exec_kringClaim, execKringClaim, h.here]
  dsimp only
  rw [h.asks, if_neg Bool.false_ne_true, h.obj]
  dsimp only
  rw [h.ready, State.ringFirst_of_only h.only, if_neg (by decide), h.goesOn, if_neg Bool.false_ne_true,
    State.claims_of_calm h.calm, List.length_nil, Nat.add_zero, if_pos hfull]

/-- It claims the next slot, and its writes open. -/
theorem State.AsksSlot.takes (h : s.AsksSlot k ls b r) (hroom : r.filled < r.nslot)
    (hplan : s.kplan (k.claimed s.time (ls.headD 0) r) (s.lookK (k.claimed s.time (ls.headD 0) r)) = .ok p)
    (hway : (spanLocs p.dst).any s.onItsWay = false)
    (hfence : s.fenceFail (k.claimed s.time (ls.headD 0) r) ⟨[], p.dst, false⟩ = none) :
    exec (.kringClaim k.id) s = .next (s.modK k.id fun _ => { k.claimed s.time (ls.headD 0) r with dstFoot := p.dst }) := by
  have hpos : freePos [] = 0 := rfl
  dsimp only [KCmd.claimed] at hplan hfence ⊢
  rw [exec_kringClaim, execKringClaim, h.here]
  dsimp only
  rw [h.asks, if_neg Bool.false_ne_true, h.obj]
  dsimp only
  rw [h.ready, State.ringFirst_of_only h.only, if_neg (by decide), h.goesOn, if_neg Bool.false_ne_true,
    State.claims_of_calm h.calm, List.length_nil, List.filterMap_nil, hpos, Nat.add_zero, Nat.add_zero,
    if_neg (Nat.not_le.2 hroom), hplan]
  dsimp only
  rw [hway, if_neg Bool.false_ne_true, hfence]
end

/-! ## Synchronisation writes (R177, R256) -/

section
variable {l : List Span} {loc : Nat} {v : Word}

/-- A synchronisation write that nothing refuses: the phase closes, the write is made, a phase opens. -/
theorem State.syncWrite_ok (ht : s.touchAs k.owner k.run k.step .sync s.time none l = .ok t) {once : Bool}
    (hu : t.closePhase k.owner k.slot k.pc once = .ok u) (write : State → State) :
    s.syncWrite k l once write = .ok ((write u).openPhase k.owner) := by
  rw [State.syncWrite, ht]
  dsimp only
  rw [hu]

/-- The word that a command writes: its own, or that of its error (R125, R177). -/
theorem State.completion_ok (hl : s.live k = true)
    (ht : s.touchAs k.owner k.run k.step .sync s.time none [⟨BitVec.ofNat 64 ((loc - 2 ^ 52) % 2 ^ 22), loc, 8⟩] = .ok t)
    (hu : t.closePhase k.owner k.slot k.pc false = .ok u) :
    s.completion k (some (loc, v)) none = .ok ((u.setNum loc v.toNat 8).openPhase k.owner) := by
  unfold State.completion
  dsimp only
  rw [hl, if_pos rfl, State.syncWrite_ok ht hu]
theorem State.completion_error (hl : s.live k = true)
    (ht : s.touchAs k.owner k.run k.step .sync s.time none [⟨BitVec.ofNat 64 ((loc - 2 ^ 52) % 2 ^ 22), loc, 8⟩] = .ok t)
    (hu : t.closePhase k.owner k.slot k.pc false = .ok u) {code : BitVec 8} (hcode : ¬(code = 0x36 ∨ code = 0x37)) :
    s.completion k (some (loc, v)) (some code) = .ok ((u.setNum loc (errWord code).toNat 8).openPhase k.owner) := by
  unfold State.completion
  dsimp only
  rw [hl, if_pos rfl, State.syncWrite_ok ht hu, if_neg (by simpa using hcode)]
end

/-! ## Closes (R35, R36) -/

/-- A command after a close of lane `c` at time `now`: its first closing event is noted. -/
def KCmd.closedBy (c : CtxId) (run now : Nat) (k : KCmd) : KCmd :=
  if k.owner = c && k.run = run && k.closeAt = none then { k with closeAt := some now } else k
theorem KCmd.closedBy_eq (c : CtxId) (run now : Nat) (k : KCmd) : ∃ a, k.closedBy c run now = { k with closeAt := a } := by
  unfold KCmd.closedBy
  split
  · exact ⟨_, rfl⟩
  · exact ⟨k.closeAt, rfl⟩

/-- What a close leaves: nodes and the time stay, its lane holds nothing of the phase, its commands note the event. -/
theorem State.closePhase_frame {c : CtxId} {sl : Slot} {pc : W32} {once : Bool} (h : s.closePhase c sl pc once = .ok t) :
    t.nodes = s.nodes ∧ t.time = s.time ∧ t.ctx c = (s.ctx c).closed s.time ∧
    t.kcmds = s.kcmds.map (KCmd.closedBy c (s.ctx c).run s.time) := by
  unfold State.closePhase at h
  dsimp only at h
  split at h
  · cases h
  · split at h
    · cases h
    · next s' happ =>
      have hst : StorageOnly s s' := by
        split at happ
        · cases happ
          exact .refl s
        · exact .applyAll happ
      obtain ⟨m, po, e, rfl⟩ := hst
      cases h
      exact ⟨rfl, rfl, State.ctx_modCtx s c (Ctx.closed s.time), rfl⟩

theorem State.getK_of_map {f : KCmd → KCmd} (h : t.kcmds = s.kcmds.map f) (hf : ∀ q, (f q).id = q.id) {id : Nat}
    (hk : s.getK id = some k) : t.getK id = some (f k) := by
  have same : ((fun q : KCmd => decide (q.id = id)) ∘ f) = fun q => decide (q.id = id) := by
    funext q
    rw [Function.comp_apply, hf]
  rw [State.getK] at hk
  rw [State.getK, h, List.find?_map, same, hk, Option.map_some]

/-- Whether a command's step runs is seen in its lane alone. -/
theorem State.live_of_ctx {k' : KCmd} (ho : k'.owner = k.owner) (hr : k'.run = k.run) (hrun : (t.ctx k.owner).run = (s.ctx k.owner).run)
    (hstat : (t.ctx k.owner).stat = (s.ctx k.owner).stat) : t.live k' = s.live k := by
  rw [State.live, State.live, State.runLive, State.runLive, ho, hr, hrun, hstat]

theorem State.live_modK (s : State) (id : Nat) (f : KCmd → KCmd) (k : KCmd) : (s.modK id f).live k = s.live k := rfl

/-! ## Load blocks (R170) -/

theorem exec_loadBlockResident (id : Nat) (s : State) : exec (.loadBlockResident id) s = execLoadBlockResident id s := rfl

/-- A load block whose lines are resident, its word still to be written. -/
def KCmd.loaded (k : KCmd) : KCmd := { k with
  stage := .visible
  visDoneWord := true }
theorem State.Alone.loadBlock_eq {ls : List Nat} (h : s.Alone k) (hpath : k.path = none) (hst : k.stage = .queued)
    (hcut : s.severed k.owner.core = false) (hgate : s.gate1 k.asid k.sa.toNat k.sb.toNat ⟨false, false⟩ = .ok ls)
    (hdone : (s.modK k.id KCmd.loaded).completion k k.visWord none = .ok t) :
    exec (.loadBlockResident k.id) s = .next t.reap := by
  have hguard : (!(k.path.isNone && k.stage = .queued && k.failed.isNone && k.waitFault.isNone && !k.dead) ||
      s.severed k.owner.core) = false := by simp [h.unfailed, h.unfaulted, h.alive, hpath, hst, hcut]
  rw [exec_loadBlockResident, execLoadBlockResident, h.lone.1]
  dsimp only
  rw [hguard, if_neg Bool.false_ne_true, hgate]
  exact congrArg (fun r => Host.Outcome.next (settle r).reap) hdone

/-- What the word of a command leaves of its lane and of its commands: the step runs on in a new phase. -/
theorem State.openPhase_written {loc v : Nat} {c : CtxId} {sl : Slot} {pc : W32} {once : Bool}
    (h : s.closePhase c sl pc once = .ok t) : let w := (t.setNum loc v 8).openPhase c
    w.nodes = s.nodes ∧ w.kcmds = s.kcmds.map (KCmd.closedBy c (s.ctx c).run s.time) ∧ (w.ctx c).run = (s.ctx c).run ∧
      (w.ctx c).stat = (s.ctx c).stat ∧ (w.ctx c).phaseOpen = s.time := by
  obtain ⟨hnodes, htime, hctx, hks⟩ := State.closePhase_frame h
  obtain ⟨m, po, e, hset⟩ := StorageOnly.setNum t loc v 8
  have hw : ((t.setNum loc v 8).openPhase c).ctx c = { t.ctx c with phaseOpen := t.time } := by
    rw [hset]
    exact State.ctx_modCtx { t with mem := m, poison := po, exact := e } c _
  dsimp only
  rw [hw, hctx, htime]
  refine ⟨?_, ?_, rfl, rfl, rfl⟩
  · rw [hset]
    exact hnodes
  · rw [hset]
    exact hks
theorem KCmd.closedBy_id (c : CtxId) (run now : Nat) (k : KCmd) : (k.closedBy c run now).id = k.id := by
  obtain ⟨_, h⟩ := k.closedBy_eq c run now
  rw [h]

/-- What a load block leaves: its word, its lane in a new phase, and the command at its end. -/
theorem State.Alone.loadBlock {ls : List Nat} {loc : Nat} {v : Word} (h : s.Alone k) (hcalm : s.Calm) (hpath : k.path = none)
    (hst : k.stage = .queued) (hvw : k.visWord = some (loc, v)) (hlive : s.live k = true) (hcut : s.severed k.owner.core = false)
    (hgate : s.gate1 k.asid k.sa.toNat k.sb.toNat ⟨false, false⟩ = .ok ls)
    (ht : (s.modK k.id KCmd.loaded).touchAs k.owner k.run k.step .sync s.time none
      [⟨BitVec.ofNat 64 ((loc - 2 ^ 52) % 2 ^ 22), loc, 8⟩] = .ok t)
    (hu : t.closePhase k.owner .m k.pc false = .ok u) :
    ∃ z q, exec (.loadBlockResident k.id) s = .next z ∧ (∀ a, z.byte a = (u.setNum loc v.toNat 8).byte a) ∧
      z.getK k.id = some q ∧ q.stage = .visible ∧ (z.ctx k.owner).phaseOpen = s.time := by
  have hslot : k.slot = .m := by
    rw [KCmd.slot, hpath]
    rfl
  have hdone := State.completion_ok (s := s.modK k.id KCmd.loaded) (v := v) hlive ht (hslot ▸ hu)
  have hex := h.loadBlock_eq hpath hst hcut hgate (hvw ▸ hdone)
  obtain ⟨as, rfl⟩ := State.touchAs_ok ht
  obtain ⟨hnodes, hks, hrun, hstat, hopen⟩ := State.openPhase_written (loc := loc) (v := v.toNat) hu
  have hn : ∀ n ∈ ((u.setNum loc v.toNat 8).openPhase k.owner).nodes, n.dying = none := by
    rw [hnodes]
    exact hcalm.nodes
  have hk := State.getK_of_map hks (fun _ => KCmd.closedBy_id ..) (State.getK_modK (f := KCmd.loaded) h.lone.1 fun _ => rfl)
  obtain ⟨a, hclosed⟩ := k.loaded.closedBy_eq k.owner (s.ctx k.owner).run s.time
  have hlive' : ((u.setNum loc v.toNat 8).openPhase k.owner).live { k.loaded with closeAt := a } = true :=
    (State.live_of_ctx (k := k) rfl rfl hrun hstat).trans hlive
  refine ⟨_, _, hex, fun a => State.byte_reap hn a, State.getK_reap hn (hk.trans (congrArg some hclosed)) hlive', rfl, ?_⟩
  rw [State.ctx_reap hn]
  exact hopen

/-! ## Closes that arrive (R75, R255, R334) -/

theorem exec_closeWriteArrival (c : CtxId) (s : State) : exec (.closeWriteArrival c) s = execCloseWriteArrival c s := rfl

section
variable {c : CtxId} {q : Closing} {f : Fail}

theorem State.closeArrival_taken (hq : s.closing.find? (·.owner = c) = some q)
    (h : ({ s with closing := s.closing.erase q } : State).applyAll q.ops = .ok u) :
    exec (.closeWriteArrival c) s = .next (u.settleFence c).settleAborts := by
  rw [exec_closeWriteArrival, execCloseWriteArrival, hq]
  dsimp only
  rw [h]
theorem State.closeArrival_refused (hq : s.closing.find? (·.owner = c) = some q)
    (h : ({ s with closing := s.closing.erase q } : State).applyAll q.ops = .error f) :
    exec (.closeWriteArrival c) s = .next (if s.runLive c q.run then
        (({ s with closing := s.closing.erase q } : State).modCtx c fun x => { x with
          undo := x.undo ++ q.undo
          unpoison := x.unpoison ++ q.unpoison }).trap c q.slot 0 q.pc (s.ctx c).pc f
      else ({ s with closing := s.closing.erase q } : State).abortNode q.asid q.opb f.code.toNat c.core q.step []) := by
  rw [exec_closeWriteArrival, execCloseWriteArrival, hq]
  dsimp only
  rw [h]
end

/-! ## Visible level (R177, R255, R404) -/

theorem exec_visibleLevel (id : Nat) (s : State) : exec (.visibleLevel id) s = execVisibleLevel id s := rfl

/-- `t` has the commands and nodes of `s`, and lane `c` runs the same step. -/
structure State.SameWork (c : CtxId) (s t : State) : Prop where
  kcmds : t.kcmds = s.kcmds
  nodes : t.nodes = s.nodes
  run : (t.ctx c).run = (s.ctx c).run
  stat : (t.ctx c).stat = (s.ctx c).stat

/-- `t` has the memory of `s`, and the writes that lane `c` holds. -/
structure State.SameWrites (c : CtxId) (s t : State) : Prop where
  mem : t.mem = s.mem
  pend : (t.ctx c).pend = (s.ctx c).pend

section
variable {c : CtxId} {f : Ctx → Ctx}

theorem State.SameWork.refl (c : CtxId) (s : State) : s.SameWork c s := ⟨rfl, rfl, rfl, rfl⟩
theorem State.SameWork.trans (h : s.SameWork c t) (h' : t.SameWork c u) : s.SameWork c u :=
  ⟨h'.kcmds.trans h.kcmds, h'.nodes.trans h.nodes, h'.run.trans h.run, h'.stat.trans h.stat⟩
theorem State.SameWork.of_storage (h : StorageOnly s t) (c : CtxId) : s.SameWork c t := by
  obtain ⟨_, _, _, rfl⟩ := h
  exact ⟨rfl, rfl, rfl, rfl⟩
theorem State.SameWork.modCtx (hr : (f (s.ctx c)).run = (s.ctx c).run) (hs : (f (s.ctx c)).stat = (s.ctx c).stat) :
    s.SameWork c (s.modCtx c f) := by
  have hc : (s.modCtx c f).ctx c = f (s.ctx c) := State.ctx_modCtx s c f
  exact ⟨rfl, rfl, hc ▸ hr, hc ▸ hs⟩
theorem State.SameWork.spadWrite (s : State) (c : CtxId) (cs : List Host.Cell) : s.SameWork c (s.spadWrite c cs) := by
  unfold State.spadWrite
  dsimp only
  split
  · exact .refl c s
  · refine (State.SameWork.of_storage (StorageOnly.putCells s cs) c).trans ?_
    exact .modCtx rfl rfl
theorem State.pend_spadWrite (s : State) (c : CtxId) (cs : List Host.Cell) : ((s.spadWrite c cs).ctx c).pend = (s.ctx c).pend := by
  unfold State.spadWrite
  dsimp only
  split
  · rfl
  · refine (congrArg Ctx.pend (State.ctx_modCtx (s.putCells cs) c _)).trans ?_
    have hput := congrArg Ctx.pend ((StorageOnly.putCells s cs).ctx c)
    exact hput
theorem State.SameWork.live (h : s.SameWork k.owner t) {k' : KCmd} (ho : k'.owner = k.owner) (hr : k'.run = k.run) : t.live k' = s.live k :=
  State.live_of_ctx ho hr h.run h.stat
theorem State.SameWrites.modCtx (hp : (f (s.ctx c)).pend = (s.ctx c).pend) : s.SameWrites c (s.modCtx c f) := by
  have hc : (s.modCtx c f).ctx c = f (s.ctx c) := State.ctx_modCtx s c f
  exact ⟨rfl, hc ▸ hp⟩
theorem State.SameWrites.trans (h : s.SameWrites c t) (h' : t.SameWrites c u) : s.SameWrites c u :=
  ⟨h'.mem.trans h.mem, h'.pend.trans h.pend⟩
theorem State.SameWrites.byte (h : s.SameWrites c t) (a : Nat) : t.byte a = s.byte a := by
  rw [State.byte, h.mem]
  rfl
end

/-- Location `l` lies in the scratchpad of a command's core. -/
def KCmd.inSpad (k : KCmd) (l : Nat) : Bool := spadLoc k.owner.core 0 ≤ l && l < spadLoc k.owner.core 0 + 2 ^ 22

section
variable {h : Pend} {cs : List Host.Cell}

/-- A command's one held write: the bytes in its own scratchpad are made, the others wait for the close (R255). -/
theorem State.commit_eq (hl : s.live k = true) (hh : k.held = [h]) (hop : h.op = .bytes cs) :
    s.commit k = (s.spadWrite k.owner (cs.filter fun x => k.inSpad x.1)).modCtx k.owner fun x => { x with
      pend := x.pend ++ [{ h with op := .bytes (cs.filter fun x => !k.inSpad x.1) }].filter fun p => !p.locs.isEmpty } := by
  rw [State.commit, hl, if_pos rfl, hh, List.flatMap_singleton, List.map_singleton, hop]
  rfl
theorem State.SameWork.commit (hl : s.live k = true) (hh : k.held = [h]) (hop : h.op = .bytes cs) : s.SameWork k.owner (s.commit k) := by
  rw [State.commit_eq hl hh hop]
  exact (State.SameWork.spadWrite s k.owner _).trans (.modCtx rfl rfl)
theorem State.commit_own (hl : s.live k = true) (hh : k.held = [h]) (hop : h.op = .bytes cs) (hown : ∀ x ∈ cs, k.inSpad x.1 = true) :
    s.commit k = s.spadWrite k.owner cs := by
  have hin : (cs.filter fun x => k.inSpad x.1) = cs := List.filter_eq_self.2 hown
  have hout : (cs.filter fun x => !k.inSpad x.1) = [] := List.filter_eq_nil_iff.2 fun x hx => by simp [hown x hx]
  rw [State.commit_eq hl hh hop, hin, hout]
  refine State.modCtx_of_fixed ?_
  rw [List.filter_cons_of_neg (by simp [Pend.locs, PendOp.locs]), List.filter_nil, List.append_nil]
theorem State.commit_away (hl : s.live k = true) (hh : k.held = [h]) (hop : h.op = .bytes cs) (hne : cs ≠ [])
    (haway : ∀ x ∈ cs, k.inSpad x.1 = false) : s.commit k = s.modCtx k.owner fun x => { x with pend := x.pend ++ [h] } := by
  have hin : (cs.filter fun x => k.inSpad x.1) = [] := List.filter_eq_nil_iff.2 fun x hx => by simp [haway x hx]
  have hout : (cs.filter fun x => !k.inSpad x.1) = cs := List.filter_eq_self.2 fun x hx => by simp [haway x hx]
  have hself : ({ h with op := .bytes cs } : Pend) = h := by rw [← hop]
  rw [State.commit_eq hl hh hop, hin, hout, hself, List.filter_cons_of_pos (by simpa [Pend.locs, PendOp.locs, hop] using hne)]
  rfl
end

/-- The writes of a command that stands alone are read by no other; its lane's registers and held writes stay. -/
theorem State.putSnap_lone (h : s.Lone k) (ops : List PendOp) :
    s.SameWork k.owner (s.putSnap k.owner k.run k.id ops) ∧ s.SameWrites k.owner (s.putSnap k.owner k.run k.id ops) := by
  have hks : (s.kcmds.map fun (q : KCmd) =>
      if q.owner = k.owner && q.run = k.run && k.id < q.id then { q with snap := q.snap.put ops } else q) = s.kcmds := by
    refine (List.map_congr_left fun q hq => if_neg fun hp => ?_).trans (List.map_id _)
    simp only [Bool.and_eq_true, decide_eq_true_iff] at hp
    obtain ⟨⟨ho, -⟩, hlt⟩ := hp
    rw [h.eq_of_owner hq ho] at hlt
    exact Nat.lt_irrefl _ hlt
  rw [State.putSnap, hks]
  split
  · exact ⟨.modCtx rfl rfl, .modCtx rfl⟩
  · exact ⟨.refl _ _, rfl, rfl⟩
theorem State.noteCopy_same (s : State) (k : KCmd) : s.SameWork k.owner (s.noteCopy k) ∧ s.SameWrites k.owner (s.noteCopy k) := by
  rw [State.noteCopy]
  split
  · exact ⟨⟨rfl, rfl, rfl, rfl⟩, rfl, rfl⟩
  · exact ⟨.refl _ _, rfl, rfl⟩

theorem State.Alone.mayShow (h : s.Alone k) (ho : ¬k.Exchanges) (hst : k.stage = .srcDone)
    (hcut : s.severed k.owner.core = false) (hhome : k.home = true) (hack : s.acked k.id = true) : s.mayShow k = true := by
  simp [State.mayShow, h.lone.ahead, State.exchanged_of_not ho, h.unfailed, hst, hcut, hhome, hack]
theorem State.showWrites_ok (hl : s.live k = true) (hup : k.updates = false)
    (ht : s.touchAs k.owner k.run k.step .write k.wopn none k.written k.id = .ok u) : s.showWrites k = .ok u := by
  rw [State.showWrites, hl, hup, if_pos rfl, if_neg Bool.false_ne_true, ht]

/-- The storage, the lane and the commands once the writes of a command are made. -/
def State.shownTo (u : State) (k : KCmd) : State := (((u.commit k).putSnap k.owner k.run k.id (k.held.map (·.op))).noteCopy k)
theorem State.shownTo_same {h : Pend} {cs : List Host.Cell} (hk : u.Lone k) (hl : u.live k = true) (hh : k.held = [h])
    (hop : h.op = .bytes cs) : u.SameWork k.owner (u.shownTo k) ∧ (u.commit k).SameWrites k.owner (u.shownTo k) := by
  have hcommit := State.SameWork.commit hl hh hop
  obtain ⟨hput, hput'⟩ := State.putSnap_lone (hk.of_kcmds hcommit.kcmds) (k.held.map (·.op))
  obtain ⟨hnote, hnote'⟩ := ((u.commit k).putSnap k.owner k.run k.id (k.held.map (·.op))).noteCopy_same k
  exact ⟨hcommit.trans (hput.trans hnote), hput'.trans hnote'⟩

/-- A command that is visible, with no word to write. -/
def KCmd.shown (live : Bool) (q : KCmd) : KCmd := { q with
  stage := .visible
  held := []
  visDoneWord := q.visWord.isSome && live }

/-- A command without a visible word becomes visible, and no ring advances. -/
theorem State.Alone.visible_eq (h : s.Alone k) (ho : ¬k.Exchanges) (hmay : s.mayShow k = true)
    (hw : k.visWord = none) (hshow : s.showWrites k = .ok u) (hlive : (u.shownTo k).live k = true)
    (hcalm : ∀ q ∈ (u.shownTo k).kcmds, q.claim = none) :
    exec (.visibleLevel k.id) s = .next ((u.shownTo k).modK k.id (KCmd.shown true)).reap := by
  have hlive' : ((u.shownTo k).modK k.id (KCmd.shown true)).live k = true := hlive
  have hcalm' := State.calm_modK hcalm k.id (f := KCmd.shown true) fun _ h => h
  have hdone (x : State) (hx : x = (u.shownTo k).modK k.id (KCmd.shown true)) :
      (settle (andThen (x.completion k none none) (State.advance k.ringLoc (x.claims k.ringLoc).length))).reap =
        ((u.shownTo k).modK k.id (KCmd.shown true)).reap := by
    rw [hx]
    exact congrArg (fun r => (settle r).reap) (State.advance_of_calm hcalm' k.ringLoc)
  rw [exec_visibleLevel, execVisibleLevel, h.lone.1]
  dsimp only
  rw [hmay, h.alive, hshow, hw, if_neg (by decide), if_neg Bool.false_ne_true]
  dsimp only
  rw [State.noteShown_of_not ho, ← State.shownTo, hlive]
  exact congrArg Host.Outcome.next (hdone _ (if_pos hlive'))

/-- What the visible level of a command leaves: its one held write committed, and the command visible. -/
theorem State.Alone.visible {w : Pend} {cs : List Host.Cell} (h : s.Alone k) (hcalm : s.Calm) (ho : ¬k.Exchanges)
    (hmay : s.mayShow k = true) (hvw : k.visWord = none) (hlive : s.live k = true) (hheld : k.held = [w]) (hop : w.op = .bytes cs)
    {as : List Access} (hshow : s.showWrites k = .ok { s with accs := as }) :
    ∃ t, exec (.visibleLevel k.id) s = .next t ∧
      t.getK k.id = some { k with
        stage := .visible
        held := []
        visDoneWord := false } ∧
      (({ s with accs := as } : State).commit k).SameWrites k.owner t := by
  obtain ⟨hsame, hwrites⟩ := State.shownTo_same (u := { s with accs := as }) h.lone hlive hheld hop
  have hex := h.visible_eq ho hmay hvw hshow
  generalize ({ s with accs := as } : State).shownTo k = v at hsame hwrites hex
  have hvlive : v.live k = true := (hsame.live rfl rfl).trans hlive
  have hn : ∀ n ∈ (v.modK k.id (KCmd.shown true)).nodes, n.dying = none := hsame.nodes ▸ hcalm.nodes
  have hshown : KCmd.shown true k = { k with
      stage := .visible
      held := []
      visDoneWord := false } := by
    rw [KCmd.shown, hvw]
    rfl
  refine ⟨_, hex hvlive (by rw [hsame.kcmds]; exact hcalm.claims), ?_, hwrites.trans ?_⟩
  · rw [← hshown]
    exact State.getK_reap hn (State.getK_modK (h.lone.of_kcmds hsame.kcmds).1 fun _ => rfl) hvlive
  · rw [State.reap_of_calm hn]
    exact ⟨rfl, rfl⟩

theorem KCmd.inSpad_iff (l : Nat) : k.inSpad l = true ↔ spadLoc k.owner.core 0 ≤ l ∧ l < spadLoc k.owner.core 0 + 2 ^ 22 := by
  rw [KCmd.inSpad, Bool.and_eq_true, decide_eq_true_iff, decide_eq_true_iff]
section
variable {h : Pend} {cs : List Host.Cell} {as : List Access}

/-- Writes in the own scratchpad are made at once. -/
theorem State.commit_own_writes (hl : s.live k = true) (hh : k.held = [h]) (hop : h.op = .bytes cs)
    (hown : ∀ x ∈ cs, k.inSpad x.1 = true)
    (ht : (({ s with accs := as } : State).commit k).SameWrites k.owner t) :
    (∀ a, t.byte a = (s.setCells cs).byte a) ∧ (t.ctx k.owner).pend = (s.ctx k.owner).pend := by
  have hcommit := State.commit_own (s := { s with accs := as }) hl hh hop hown
  have hcells := State.setCells_withStorage { s with accs := as } s cs
  rw [hcommit] at ht
  refine ⟨fun a => (ht.byte a).trans ((State.byte_spadWrite ..).trans ?_), ht.pend.trans (State.pend_spadWrite ..)⟩
  have hbyte := congrArg (State.byte · a) hcells
  exact hbyte

/-- Writes elsewhere are held until the lane's next close. -/
theorem State.commit_away_writes (hl : s.live k = true) (hh : k.held = [h]) (hop : h.op = .bytes cs) (hne : cs ≠ [])
    (haway : ∀ x ∈ cs, k.inSpad x.1 = false) (ht : (({ s with accs := as } : State).commit k).SameWrites k.owner t) :
    (∀ a, t.byte a = s.byte a) ∧ (t.ctx k.owner).pend = (s.ctx k.owner).pend ++ [h] := by
  have hcommit := State.commit_away (s := { s with accs := as }) hl hh hop hne haway
  rw [hcommit] at ht
  exact ⟨ht.byte, ht.pend.trans (congrArg Ctx.pend (State.ctx_modCtx ..))⟩
end

/-! ## Errors (R337, R339, R340) -/

theorem exec_commandError (id : Nat) (s : State) : exec (.commandError id) s = execCommandError id s := rfl

/-- A change of commands that leaves each its number, its lane, its step and its claim. -/
def KeepsKeys (g : KCmd → KCmd) : Prop := ∀ q, (g q).id = q.id ∧ (g q).owner = q.owner ∧ (g q).run = q.run ∧ (g q).claim = q.claim

/-- `t` has the contexts and nodes of `s`, and its commands under the same keys. -/
def State.SameKeys (s t : State) : Prop :=
  ∃ g, KeepsKeys g ∧ t.kcmds = s.kcmds.map g ∧ t.ctxs = s.ctxs ∧ t.nodes = s.nodes
theorem State.SameKeys.refl (s : State) : s.SameKeys s := ⟨id, fun _ => ⟨rfl, rfl, rfl, rfl⟩, (List.map_id _).symm, rfl, rfl⟩
theorem State.sameKeys_a2aFail (s : State) (l r : Nat) (c : BitVec 8) : s.SameKeys (s.a2aFail l r c) := by
  obtain ⟨ps, h⟩ := (s.a2aDrop l r c).tellAll_ports 1 .reply
  obtain ⟨m, po, e, hn⟩ := StorageOnly.setNum s (l + 8) 0 4
  rw [State.a2aFail, h, State.a2aDrop, hn]
  refine ⟨_, fun q => ?_, rfl, rfl, rfl⟩
  split <;> exact ⟨rfl, rfl, rfl, rfl⟩
theorem State.sameKeys_roundError (s : State) (k : KCmd) (f : Fail) : s.SameKeys (s.roundError k f) := by
  unfold State.roundError
  split
  · split
    · exact s.sameKeys_a2aFail _ _ _
    · split
      · split
        · exact s.sameKeys_a2aFail _ _ _
        · exact .refl s
      · exact .refl s
  · exact .refl s

theorem State.ringSeq_withStorage (u s : State) (cb : Nat) :
    (u.withStorage s).ringSeq cb = ((s.ringSeq cb).1, u.withStorage (s.ringSeq cb).2) :=
  congrArg (Prod.mk _) (State.setNum_withStorage u s _ _ _)
theorem State.ringPut_withStorage (u s : State) (cb : Nat) (ws : List Word) :
    (u.withStorage s).ringPut cb ws = u.withStorage (s.ringPut cb ws) := by
  rw [State.ringPut, State.ringPut, ← State.setNum_withStorage, ← State.plainWrite_withStorage]
  rfl
theorem State.ringSpace_withStorage (u s : State) (cb : Nat) : (u.withStorage s).ringSpace cb = s.ringSpace cb := rfl

/-- A record is written where its ring has space and none waits before it (R339). -/
theorem State.ctxRecord_written {c : CtxId} (hq : (s.ctx c).ringQ = []) (hs : (s.ringSeq (s.ringOf c)).2.ringSpace (s.ringOf c) = true)
    (ws : List Word) (a : After) : s.ctxRecord c ws a = ((s.ringSeq (s.ringOf c)).2.ringPut (s.ringOf c)
      (ws ++ [(s.ringSeq (s.ringOf c)).1])).after c.core.val (bits (ws.headD 0) 0 8) a := by
  have hctx : (s.ringSeq (s.ringOf c)).2.ctx c = s.ctx c := (StorageOnly.setNum s _ _ _).ctx c
  have hspace : (((s.ringSeq (s.ringOf c)).2.ctx c).ringQ.isEmpty && (s.ringSeq (s.ringOf c)).2.ringSpace (s.ringOf c)) = true := by
    rw [hctx, hq, hs]
    rfl
  exact if_pos hspace

/-- A command whose error has been reported (R340). -/
def KCmd.reported (seen : Bool) (q : KCmd) : KCmd := { q with
  errored := true
  claim := none
  posted := false
  held := []
  srcDoneWord := q.srcWord.isSome
  visDoneWord := q.visWord.isSome
  seenSrc := q.seenSrc || seen
  seenVis := q.seenVis || seen }

/-- A command whose record waits for its ring, or is written (R339). -/
def KCmd.recorded (b : Bool) (q : KCmd) : KCmd := { q with record := some b }

/-- The record of a command's error is written. -/
theorem State.errorRecord_written {c : CtxId} {ws : List Word} (hq : (s.ctx c).ringQ = [])
    (hs : (s.ringSeq (s.ringOf c)).2.ringSpace (s.ringOf c) = true) (id : Nat) :
    (s.modK id (KCmd.recorded false)).ctxRecord c ws (.errorWords id) =
      ((s.modK id (KCmd.recorded false)).withStorage ((s.ringSeq (s.ringOf c)).2.ringPut (s.ringOf c)
        (ws ++ [(s.ringSeq (s.ringOf c)).1]))).modK id (KCmd.recorded true) := by
  have hring : (s.modK id (KCmd.recorded false)).ringOf c = s.ringOf c := rfl
  have hseq : (s.modK id (KCmd.recorded false)).ringSeq (s.ringOf c) =
      ((s.ringSeq (s.ringOf c)).1, (s.modK id (KCmd.recorded false)).withStorage (s.ringSeq (s.ringOf c)).2) :=
    State.ringSeq_withStorage (s.modK id (KCmd.recorded false)) s (s.ringOf c)
  have hput := State.ringPut_withStorage (s.modK id (KCmd.recorded false)) (s.ringSeq (s.ringOf c)).2 (s.ringOf c)
    (ws ++ [(s.ringSeq (s.ringOf c)).1])
  have hspace : ((s.modK id (KCmd.recorded false)).ringSeq ((s.modK id (KCmd.recorded false)).ringOf c)).2.ringSpace
      ((s.modK id (KCmd.recorded false)).ringOf c) = true := by rw [hring, hseq, State.ringSpace_withStorage, hs]
  rw [State.ctxRecord_written (s := s.modK id (KCmd.recorded false)) hq hspace, hring, hseq]
  exact congrArg (fun u => State.modK u id (KCmd.recorded true)) hput

/-- A command of a running step has failed with `f`, and its error, with no word to write, can be reported (R340). -/
structure State.Reports (s : State) (k : KCmd) (f : Fail) : Prop where
  lone : s.Lone k
  failed : k.failed = some f
  unreported : k.errored = false
  alive : k.dead = false
  unrecorded : k.record = none
  inside : f.code ≠ 0x37
  noSrcWord : k.srcWord = none
  noVisWord : k.visWord = none
  uncut : s.severed k.owner.core = false
  joined : s.a2aLater k = false

/-- It is reported once its record is written. -/
theorem State.Reports.error_eq {f : Fail} {q : KCmd} (h : s.Reports k f)
    (hwritten : ((s.roundError k f).modK k.id (KCmd.recorded false)).ctxRecord k.owner (errorWords2 k f) (.errorWords k.id) = u)
    (hq : u.getK k.id = some q) (hqr : q.record = some true) (hlive : u.live k = true) (hcalm : ∀ q ∈ u.kcmds, q.claim = none) :
    exec (.commandError k.id) s = .next (u.modK k.id (KCmd.reported (k.lvl ≠ 0))).reap := by
  have hcalm' := State.calm_modK hcalm k.id (f := KCmd.reported (k.lvl ≠ 0)) fun _ _ => rfl
  have hguard : (k.errored || s.severed k.owner.core || (s.ahead k).any (fun q => !(q.stage = .visible || q.errored)) ||
      s.a2aLater k) = false := by simp [h.unreported, h.uncut, h.lone.ahead, h.joined]
  have hwritten' : ((s.roundError k f).modK k.id fun q => { q with record := some false }).ctxRecord k.owner (errorWords2 k f)
      (.errorWords k.id) = u := hwritten
  have hcode : decide (f.code = 0x37) = false := decide_eq_false h.inside
  rw [exec_commandError, execCommandError, h.lone.1]
  dsimp only
  rw [h.failed]
  dsimp only
  rw [hguard, if_neg Bool.false_ne_true, h.unrecorded, Option.isNone_none, Bool.true_and, hcode, if_pos rfl,
    if_neg Bool.false_ne_true, if_pos rfl, hwritten', hq]
  dsimp only
  rw [hqr, if_neg (not_not.2 rfl), h.alive, if_neg Bool.false_ne_true, hlive, if_neg (by decide), h.noSrcWord, h.noVisWord]
  exact congrArg (fun r => Host.Outcome.next (settle r).reap) (State.advance_of_calm hcalm' k.ringLoc)

/-- What the report of a command's error leaves: the record in its ring, and the command at its end. -/
theorem State.Reports.error {f : Fail} (h : s.Reports k f) (hc : s.Calm) (hlive : s.live k = true) {v : State}
    (hv : v = s.roundError k f)
    (hring : (s.ctx k.owner).ringQ = []) (hspace : (v.ringSeq (v.ringOf k.owner)).2.ringSpace (v.ringOf k.owner) = true) :
    ∃ t q, exec (.commandError k.id) s = .next t ∧ (∀ a, t.byte a = ((v.ringSeq (v.ringOf k.owner)).2.ringPut (v.ringOf k.owner)
        (errorWords2 k f ++ [(v.ringSeq (v.ringOf k.owner)).1])).byte a) ∧
      t.getK k.id = some q ∧ q.errored = true ∧ q.record = some true ∧ q.held = [] ∧ ∀ e, t.ctx e = s.ctx e := by
  obtain ⟨g, hg, hvk, hvc, hvn⟩ := hv ▸ s.sameKeys_roundError k f
  have hctx (e : CtxId) : v.ctx e = s.ctx e := by rw [State.ctx, hvc]; rfl
  have hwritten := State.errorRecord_written (ws := errorWords2 k f) (hctx k.owner ▸ hring) hspace k.id
  generalize (v.ringSeq (v.ringOf k.owner)).2.ringPut (v.ringOf k.owner)
    (errorWords2 k f ++ [(v.ringSeq (v.ringOf k.owner)).1]) = put at hwritten ⊢
  let u : State := ((v.modK k.id (KCmd.recorded false)).withStorage put).modK k.id (KCmd.recorded true)
  have hvg : v.getK k.id = some (g k) := State.getK_of_map hvk (fun q => (hg q).1) h.lone.1
  have hug : u.getK k.id = some (((g k).recorded false).recorded true) := by
    have hwaits : ((v.modK k.id (KCmd.recorded false)).withStorage put).getK k.id = some ((g k).recorded false) :=
      State.getK_modK hvg fun _ => rfl
    exact State.getK_modK hwaits fun _ => rfl
  have hcalm : ∀ q ∈ u.kcmds, q.claim = none := by
    refine State.calm_modK (s := (v.modK k.id (KCmd.recorded false)).withStorage put) (State.calm_modK ?_ _ fun _ hq => hq) _
      fun _ hq => hq
    rw [hvk]
    intro q hq
    obtain ⟨r, hr, rfl⟩ := List.mem_map.1 hq
    exact (hg r).2.2.2.trans (hc.claims r hr)
  have hulive {k' : KCmd} (ho : k'.owner = k.owner) (hr : k'.run = k.run) : u.live k' = true :=
    (State.live_of_ctx ho hr (congrArg Ctx.run (hctx k.owner)) (congrArg Ctx.stat (hctx k.owner))).trans hlive
  have hwn : ∀ n ∈ (u.modK k.id (KCmd.reported (k.lvl ≠ 0))).nodes, n.dying = none := by
    intro n hn
    exact hc.nodes n (hvn ▸ hn)
  obtain ⟨-, hgo, hgr, -⟩ := hg k
  have hgot := State.getK_reap hwn (State.getK_modK (f := KCmd.reported (k.lvl ≠ 0)) hug fun _ => rfl)
    ((State.live_modK ..).trans (hulive hgo hgr))
  have hex := h.error_eq (by rw [← hv]; exact hwritten) hug rfl (hulive rfl rfl) hcalm
  have hbyte (a : Nat) : (u.modK k.id (KCmd.reported (k.lvl ≠ 0))).byte a = put.byte a := rfl
  exact ⟨_, _, hex, fun a => (State.byte_reap hwn a).trans (hbyte a), hgot, rfl, rfl, rfl,
    fun e => (State.ctx_reap hwn e).trans (hctx e)⟩

/-- Settles O45: with nothing of its lane in its way a command passes each check, and its step is what is left. -/
theorem engineCommandsProgress : Obligations.EngineCommandsProgress := by
  unfold Obligations.EngineCommandsProgress
  intro alone calm same a2a
  have halone {s : State} {k : KCmd} : alone s k → s.Alone k := fun ⟨hk, hothers, hf, hw, _, hd, hu, hl⟩ =>
    ⟨⟨hk, hothers⟩, hf, hw, hd, hu, hl⟩
  have hcalmOf {s : State} : calm s → s.Calm := fun ⟨hnodes, hclaims⟩ => ⟨hnodes, hclaims⟩
  refine ⟨?_, ?_, ?_, ?_, ?_, ?_, ?_, ?_, ?_⟩
  · intro s k p h ho hpath hst hidx hwait hcut hbank hstat hway hplan hreach hfence hlink
    obtain ⟨-, -, -, -, he, -⟩ := id h
    have hmay := (halone h).mayStart he hpath hst hidx hcut hbank
    exact (halone h).start ho hmay hidx hwait ⟨hstat, hway, hplan, hreach, hfence, hlink⟩
  · intro s k p u h ho hst hup hring hsw hx hidx hstat hcut hfar hplan hfence hpois hwrite ht
    have hmay := (halone h).mayRead ho hst hcut hidx hfar hup hring
    have hread := (halone h).readDone ⟨hx, hstat, hplan, hfence, hpois, ht⟩ hmay ho hup hring hsw hwrite
    rw [KCmd.readyOps, hup] at hread
    exact hread
  · intro s k cs w u h hcalm ho hst hup hvw hlive hop hheld hne _ hcut hhome hack ht own
    have hmay := (halone h).mayShow ho hst hcut hhome hack
    have hshow := State.showWrites_ok hlive hup ht
    obtain ⟨as, rfl⟩ := State.touchAs_ok ht
    obtain ⟨t, hex, hgot, hsame⟩ := (halone h).visible (hcalmOf hcalm) ho hmay hvw hlive hheld hop hshow
    exact ⟨t, hex, hgot,
      fun hown => State.commit_own_writes hlive hheld hop (fun x hx => (KCmd.inSpad_iff x.1).2 (hown x hx)) hsame,
      fun haway => State.commit_away_writes hlive hheld hop hne
        (fun x hx => Bool.eq_false_iff.2 fun h => haway x hx ((KCmd.inSpad_iff x.1).1 h)) hsame⟩
  · intro s k p u h hup hst hacc hcut hx hplan hpois ht haccept
    have hg := KCmd.gathers_of_updates hup
    have hr : s.Readable k p u := ⟨hx, by simp [hg], hplan, by simp [hg], hpois, ht⟩
    have hred := (halone h).accept hr hup hst hacc hcut
    rw [KCmd.readyOps, hup] at hred
    refine hred fun q hq => ?_
    obtain ⟨o, ho, rfl⟩ := List.mem_map.1 hq
    exact haccept o ho
  · intro s k ls b r h hring hst hclaims hobj hcut hfresh hway hover taken
    obtain ⟨⟨hk, -⟩, hf, hw, hd, -, -⟩ := halone h
    have hclaim : k.claim = none := (hclaims k (List.mem_of_find?_eq_some hk)).1
    have hasks : s.AsksSlot k ls b r := ⟨hk, by simp [hring, hst, hf, hw, hd, hcut, hclaim], fun q hq => (hclaims q hq).1,
      fun q hq => (hclaims q hq).2, hobj, by rw [hfresh, hway]; rfl, decide_eq_false hover⟩
    refine ⟨hasks.waits, fun hroom p hplan hown hfence => ⟨_, hasks.takes hroom hplan hown hfence, fun _ => rfl, ?_⟩⟩
    exact State.getK_modK_replace hk rfl
  · intro s k f hk hcalm hf he hd hothers hlive hrec hcode _ hsw hvw hcut hlater v
    exact ⟨fun ho => State.roundError_of_not ho f,
      State.Reports.error ⟨⟨hk, hothers⟩, hf, he, hd, hrec, hcode, hsw, hvw, hcut, hlater⟩ (hcalmOf hcalm) hlive rfl⟩
  · intro s k loc v t u hlive ht hu
    have hword : (errWord 0x23).toNat = 0x8000000000000023 := by decide
    exact ⟨State.completion_ok hlive ht hu, hword ▸ State.completion_error hlive ht hu (by decide)⟩
  · intro s k ls loc v t u h hcalm hpath hst hvw hlive hcut hgate shown ht hu
    exact (halone h).loadBlock (hcalmOf hcalm) hpath hst hvw hlive hcut hgate ht hu
  · intro s c q hq rest
    refine ⟨fun u hu => State.closeArrival_taken hq hu, fun f hf => ⟨fun hrun => ?_, fun hrun => ?_⟩⟩
    · rw [State.closeArrival_refused hq hf, if_pos hrun]
    · rw [State.closeArrival_refused hq hf, if_neg (Bool.eq_false_iff.1 hrun)]

end Sys2Proof.Machine
end

section
/-!
CERTIFICATE. The moves of whole vector lanes (O30).
-/
namespace Sys2Proof.Machine
open Sys2Proof.Laws

section
variable {s : State} {u : VUnit} {p : Fin 64} {d : Dst 32} {mask : Fin 8} {srcs : List VSrc} {xs : List VIn}

theorem exec_vmov (u : VUnit) (p : Fin 64) (d : Dst 32) (a : VSrc) (mask : Fin 8) (s : State) :
    exec (.vmov u p d a mask) s = execVmov u p d a mask s := rfl
theorem exec_vbcast (u : VUnit) (p : Fin 64) (d : Dst 32) (a b : VSrc) (mask : Fin 8) (s : State) :
    exec (.vbcast u p d a b mask) s = execVbcast u p d a b mask s := rfl
theorem exec_vrotl (u : VUnit) (p : Fin 64) (d : Dst 32) (a b : VSrc) (mask : Fin 8) (s : State) :
    exec (.vrotl u p d a b mask) s = execVrotl u p d a b mask s := rfl
theorem exec_vperm (u : VUnit) (p : Fin 64) (d : Dst 32) (a b c : VSrc) (mask : Fin 8) (s : State) :
    exec (.vperm u p d a b c mask) s = execVperm u p d a b c mask s := rfl
theorem exec_vsel (u : VUnit) (p : Fin 64) (d : Dst 32) (a b : VSrc) (ks : Fin 8) (s : State) :
    exec (.vsel u p d a b ks) s = execVsel u p d a b ks s := rfl
theorem exec_vins (u : VUnit) (p : Fin 64) (d : Dst 32) (a b c : VSrc) (s : State) :
    exec (.vins u p d a b c) s = execVins u p d a b c s := rfl
theorem exec_viota (u : VUnit) (p : Fin 64) (d : Dst 32) (a : VSrc) (m : VMods) (s : State) :
    exec (.viota u p d a m) s = vop u p d m.mask (some fmtOk) 2 [a] (fun _ => .ok ()) (fun xs _ => ⟨m.ety.toNat, headOf (nth xs 0),
      (nth xs 0).scale, fun i => (((nth xs 0).lane (fmtBits m.ety.toNat) i + i) % 2 ^ fmtBits m.ety.toNat, 0)⟩) s := rfl
theorem exec_vextr (u : VUnit) (p : Fin 64) (d : Dst 32) (a b : VSrc) (s : State) :
    exec (.vextr u p d a b) s = execVextr u p d a b s := rfl

theorem bits_lt {n : Nat} (x : BitVec n) (lo w : Nat) : bits x lo w < 2 ^ w := Nat.mod_lt _ (Nat.two_pow_pos w)
theorem headOf_eq (x : VIn) : headOf x = 16 * bits x.tag 4 6 := Nat.mul_comm _ _

/-- `vop_delivers` for a result given by its parts. -/
theorem vop_delivers_parts {i : Instr} {merge : Option (Nat → VIn → Except Fail Unit)} {lat : Nat} {chk : List VIn → Except Fail Unit}
    {f : List VIn → Nat → VRes} {fmt h head : Nat} {sc : W32} {lane : Nat → Nat × Flags}
    (he : exec i s = vop u p d mask merge lat srcs chk f s) (hp : s.me.pget p = true) (hm : merge = none → mask = 0)
    (ho : mask ≠ 0 → merge.getD fmtOk fmt (.reg s.me.vreg[d.reg]) = .ok ()) (hs : s.Sources d mask fmt srcs xs) (hc : chk xs = .ok ())
    (hr : f xs (commonPv (s.vtags d mask xs)) = ⟨fmt, h, sc, lane⟩) (hf : fmt < 16) (hh : h = 16 * head) (h6 : head < 64) :
    DeliversV i s u d lat (s.me.kget mask) fmt head sc lane :=
  vop_delivers (r := ⟨fmt, h, sc, lane⟩) he hp hm hr ho hs hc hf hh h6

/-- A move of lanes whose checks pass delivers them with the format, scl, scale, prov and ver of its first source. -/
theorem vmove_delivers {i : Instr} {merge : Option (Nat → VIn → Except Fail Unit)} {lat : Nat}
    {chk : List VIn → Except Fail Unit} {g : List VIn → Nat → Nat} {x : VIn} {lane : Nat → Nat × Flags}
    (he : exec i s = vmove u p d mask merge lat srcs chk g s)
    (hp : s.me.pget p = true) (hm : merge = some fmtOk ∨ merge = none ∧ mask = 0)
    (hs : s.Sources d mask (bits x.tag 0 4) srcs (x :: xs)) (hc : chk (x :: xs) = .ok ())
    (hlane : ∀ j < 128, (g (x :: xs) j % 2 ^ fmtBits (bits x.tag 0 4), 0) = lane j) :
    DeliversV i s u d lat (s.me.kget mask) (bits x.tag 0 4) (bits x.tag 4 6) x.scale lane := by
  have hfmtOk : merge.getD fmtOk = fmtOk := by
    rcases hm with h | ⟨h, _⟩ <;> rw [h] <;> rfl
  have hmask : merge = none → mask = 0 := fun h => hm.elim (fun h' => absurd (h ▸ h') (by simp)) And.right
  unfold vmove at he
  exact DeliversV.congr (vop_delivers_parts he hp hmask (fun h => by rw [hfmtOk]; exact State.Sources.old_ok hs h) hs hc rfl
    (bits_lt _ 0 4)
    (headOf_eq _) (bits_lt _ 4 6)) hlane

/-- Two sources of one format, or one of which is untyped, agree in format. -/
theorem dataOk_two {x y : VIn} (h : bits x.tag 0 4 = 0 ∨ bits y.tag 0 4 = 0 ∨ bits x.tag 0 4 = bits y.tag 0 4) :
    dataOk [x, y] = .ok () := by
  have hxy : tagFmt x.tag = 0 ∨ tagFmt y.tag = 0 ∨ tagFmt x.tag = tagFmt y.tag := h
  by_cases hx : tagFmt x.tag = 0
  · by_cases hy : tagFmt y.tag = 0 <;> simp [dataOk, disagree, hx, hy]
  · by_cases hy : tagFmt y.tag = 0
    · simp [dataOk, disagree, hx, hy]
    · have heq : tagFmt y.tag = tagFmt x.tag := by tauto
      simp [dataOk, disagree, hx, heq]

/-- A pattern as an integer of a format, in a scalar register (R207). -/
theorem ofInt_intOf {f n : Nat} (hn : n < 2 ^ fmtBits f) : BitVec.ofInt 64 (intOf (fmtSigned f) (fmtBits f) n) =
    if f = 7 ∨ f = 9 ∨ f = 11 then BitVec.ofInt 64 (sextNat n (fmtBits f)) else BitVec.ofNat 64 n := by
  by_cases hf : f = 7 ∨ f = 9 ∨ f = 11
  · have hs : fmtSigned f = true := by simpa [fmtSigned, or_assoc] using hf
    rw [intOf, if_pos hs, if_pos hf]
  · have hs : fmtSigned f = false := by simpa [fmtSigned, and_assoc] using hf
    rw [intOf, hs, if_neg Bool.false_ne_true, if_neg hf, Nat.mod_eq_of_lt hn, BitVec.ofInt_natCast]
theorem VIn.lane_lt (x : VIn) (w i : Nat) : x.lane w i < 2 ^ w := by
  cases x <;> exact Nat.mod_lt _ (Nat.two_pow_pos w)

theorem exec_vextr_ok {a b : VSrc} {x y : VIn} (hp : s.me.pget p = true) (hr : s.me.readVs [a, b] = .ok [x, y])
    (ht : Agree [x.tag, y.tag]) : exec (.vextr u p d a b) s = .next (s.landS u.slot 3 (dstVS d) (BitVec.ofInt 64
      (intOf (fmtSigned (tagFmt x.tag)) (fmtBits (tagFmt x.tag)) (x.lane (fmtBits (tagFmt x.tag)) (laneNo y)))) 0).issued := by
  rw [exec_vextr, execVextr]
  refine (congrArg (s.slotOp u.slot p) ?_).trans (slotOp_done hp)
  rw [hr, need_ok, show trackOk ([x, y].map VIn.tag) = .ok () from trackOk_agree ht, need_ok]
  rfl
end

/-- Settles O30: each move but VIOTA and VEXTR is one `vmove`, whose lanes are those stated. -/
theorem vectorLanesMove : Obligations.VectorLanesMove := by
  unfold Obligations.VectorLanesMove
  intro s u p d a b c mask hp gives laneOf agree
  refine ⟨fun x hs => ?_, fun x y hs => ⟨?_, ?_⟩, fun x y z hs hxz => ?_, fun x y ks hs hxy => ?_, fun x y z hs hxy => ?_,
    fun x m hs => ?_, fun x y hr ht => ?_⟩
  · exact vmove_delivers (exec_vmov ..) hp (.inl rfl) hs rfl fun _ _ => rfl
  · exact vmove_delivers (exec_vbcast ..) hp (.inl rfl) hs rfl fun _ _ => rfl
  · exact vmove_delivers (exec_vrotl ..) hp (.inl rfl) hs rfl fun _ _ => rfl
  · refine vmove_delivers (exec_vperm ..) hp (.inl rfl) hs (dataOk_two hxz) fun i _ => ?_
    have htop : (y.lane 8 i).testBit 7 = !decide (y.lane 8 i < 128) := by
      have hlt : y.lane 8 i < 256 := y.lane_lt 8 i
      rw [Nat.testBit_eq_decide_div_mod_eq]
      by_cases h : y.lane 8 i < 128 <;> simp [h] <;> omega
    dsimp only
    rw [htop]
    by_cases h : y.lane 8 i < 128 <;> simp [nth, h]
  · exact vmove_delivers (exec_vsel ..) hp (.inr ⟨rfl, rfl⟩) hs (dataOk_two hxy) fun _ _ => rfl
  · refine vmove_delivers (exec_vins ..) hp (.inr ⟨rfl, rfl⟩) hs (dataOk_two hxy) fun i _ => ?_
    dsimp only
    rw [show laneOf z = laneNo z from rfl]
    by_cases h : i = laneNo z <;> simp [nth, h]
  · exact vop_delivers_parts (exec_viota ..) hp (fun h => nomatch h) (fun h => State.Sources.old_ok hs h) hs rfl rfl
      m.ety.isLt (headOf_eq x) (bits_lt _ 4 6)
  · rw [exec_vextr_ok hp hr ht, ofInt_intOf (x.lane_lt _ _)]
    rfl

end Sys2Proof.Machine
end

section
/-!
CERTIFICATE. Reductions and the scan (O33): the levels of the tree and of the scan of R108.
-/
namespace Sys2Proof.Machine
open Sys2Proof.Laws

/-! ## The levels of the tree and of the scan (R108) -/

section
variable {op : W32 → W32 → W32 × Flags}

/-- A tree over `2 ^ k` values, whose level `m` has the values `l m`: its result, and the flags of its nodes. -/
theorem treeGo_levels {k : Nat} {l : Nat → Nat → W32} (f : Flags)
    (hl : ∀ m < k, ∀ i < 2 ^ (k - 1 - m), l (m + 1) i = (op (l m i) (l m (i + 2 ^ (k - 1 - m)))).1) :
    (treeGo op k ((List.range (2 ^ k)).map (l 0)) f).1 = l k 0 ∧
    ∀ b : Nat, (treeGo op k ((List.range (2 ^ k)).map (l 0)) f).2.getLsbD b = true ↔ f.getLsbD b = true ∨
      ∃ m < k, ∃ i < 2 ^ (k - 1 - m), (op (l m i) (l m (i + 2 ^ (k - 1 - m)))).2.getLsbD b = true := by
  induction k generalizing l f with
  | zero => simp [treeGo]
  | succ k ih =>
    have hpair : List.zipWith op (((List.range (2 ^ (k + 1))).map (l 0)).take (2 ^ k))
        (((List.range (2 ^ (k + 1))).map (l 0)).drop (2 ^ k)) =
        (List.range (2 ^ k)).map fun i => op (l 0 i) (l 0 (i + 2 ^ k)) := by
      refine List.ext_getElem ?_ fun i _ _ => ?_
      · simp; omega
      · simp [Nat.add_comm]
    have hnext : ((List.range (2 ^ k)).map fun i => op (l 0 i) (l 0 (i + 2 ^ k))).map Prod.fst = (List.range (2 ^ k)).map (l 1) := by
      rw [List.map_map]
      exact List.map_congr_left fun i hi => (hl 0 (by omega) i (by simpa using hi)).symm
    have hexp (m : Nat) : k - 1 - m = k - (m + 1) := by omega
    rw [treeGo, hpair, hnext]
    obtain ⟨hval, hflags⟩ := ih (l := fun m => l (m + 1)) (((List.range (2 ^ k)).map fun i => op (l 0 i) (l 0 (i + 2 ^ k))).foldl
      (fun a x => a ||| x.2) f) fun m hm i hi => by
        rw [hexp] at hi ⊢
        exact hl (m + 1) (by omega) i hi
    refine ⟨hval, fun b => ?_⟩
    rw [hflags b, foldl_or_bit, Nat.exists_lt_succ_left]
    simp only [Nat.add_sub_cancel, hexp, List.mem_map, List.mem_range, exists_exists_and_eq_and, Nat.sub_zero, or_assoc]

theorem treeReduce_levels {l : Nat → Nat → W32} {f : Flags} {start : List W32} (hs : start = (List.range 128).map (l 0))
    (hl : ∀ k < 7, ∀ i < 2 ^ (6 - k), l (k + 1) i = (op (l k i) (l k (i + 2 ^ (6 - k)))).1)
    (hf : ∀ b : Nat, f.getLsbD b = true ↔ ∃ k < 7, ∃ i < 2 ^ (6 - k), (op (l k i) (l k (i + 2 ^ (6 - k)))).2.getLsbD b = true) :
    treeReduce op start = (l 7 0, f) := by
  obtain ⟨hval, hflags⟩ := treeGo_levels (k := 7) 0 hl
  rw [hs]
  refine Prod.ext hval (BitVec.eq_of_getLsbD_eq fun b _ => Bool.eq_iff_iff.2 ((hflags b).trans ?_))
  rw [hf b]
  simp

/-- One level of the scan over the values `v`. -/
theorem scanLevel_eq (v : Nat → W32) (n k : Nat) : scanLevel op k ((List.range n).map v) =
    (List.range n).map fun i => if i < k then (v i, 0) else op (v (i - k)) (v i) := by
  refine List.ext_getElem ?_ fun i hi _ => ?_
  · simp [scanLevel]; omega
  · have hn : i < n := by simp [scanLevel] at hi; omega
    by_cases h : i < k
    · simp [scanLevel, h, hn]
    · have hk : min k n = k := by omega
      have hadd : k + (i - k) = i := by omega
      simp [scanLevel, h, List.getElem_append, hk, hadd]

/-- A scan of `n` doubling levels from distance `k`, whose level `m` has the values `l m`. -/
theorem scanGo_levels {n k w : Nat} {l : Nat → Nat → W32} (f : Flags)
    (hl : ∀ m < n, ∀ i < w, l (m + 1) i = if i < k * 2 ^ m then l m i else (op (l m (i - k * 2 ^ m)) (l m i)).1) :
    (scanGo op n k ((List.range w).map (l 0)) f).1 = (List.range w).map (l n) ∧
    ∀ b : Nat, (scanGo op n k ((List.range w).map (l 0)) f).2.getLsbD b = true ↔ f.getLsbD b = true ∨
      ∃ m < n, ∃ i < w, k * 2 ^ m ≤ i ∧ (op (l m (i - k * 2 ^ m)) (l m i)).2.getLsbD b = true := by
  induction n generalizing l f k with
  | zero => simp [scanGo]
  | succ n ih =>
    have hnext : ((List.range w).map fun i => if i < k then (l 0 i, (0 : Flags)) else op (l 0 (i - k)) (l 0 i)).map Prod.fst =
        (List.range w).map (l 1) := by
      rw [List.map_map]
      refine List.map_congr_left fun i hi => ?_
      rw [hl 0 (by omega) i (by simpa using hi), pow_zero, mul_one, Function.comp_apply]
      split <;> rfl
    have hexp (m : Nat) : 2 * k * 2 ^ m = k * 2 ^ (m + 1) := by rw [pow_succ]; ring
    rw [scanGo, scanLevel_eq, hnext]
    obtain ⟨hval, hflags⟩ := ih (k := 2 * k) (l := fun m => l (m + 1)) (((List.range w).map fun i =>
      if i < k then (l 0 i, (0 : Flags)) else op (l 0 (i - k)) (l 0 i)).foldl (fun a x => a ||| x.2) f) fun m hm i hi => by
        rw [hexp]
        exact hl (m + 1) (by omega) i hi
    refine ⟨hval, fun b => ?_⟩
    have hnode (i : Nat) : (if i < k then (l 0 i, (0 : Flags)) else op (l 0 (i - k)) (l 0 i)).2.getLsbD b = true ↔
        k ≤ i ∧ (op (l 0 (i - k)) (l 0 i)).2.getLsbD b = true := by
      by_cases h : i < k
      · simp [h]
      · simp [h, Nat.le_of_not_lt h]
    rw [hflags b, foldl_or_bit, Nat.exists_lt_succ_left]
    simp only [hexp, List.mem_map, List.mem_range, exists_exists_and_eq_and, hnode, pow_zero, mul_one, or_assoc]

theorem scanGo_seven {l : Nat → Nat → W32} {f : Flags} {start : List W32} (hs : start = (List.range 128).map (l 0))
    (hl : ∀ k < 7, ∀ i < 128, l (k + 1) i = if i < 2 ^ k then l k i else (op (l k (i - 2 ^ k)) (l k i)).1)
    (hf : ∀ b : Nat, f.getLsbD b = true ↔ ∃ k < 7, ∃ i < 128, 2 ^ k ≤ i ∧ (op (l k (i - 2 ^ k)) (l k i)).2.getLsbD b = true) :
    scanGo op 7 1 start 0 = ((List.range 128).map (l 7), f) := by
  obtain ⟨hval, hflags⟩ := scanGo_levels (n := 7) (k := 1) (w := 128) (l := l) 0 (by simpa using hl)
  rw [hs]
  refine Prod.ext hval (BitVec.eq_of_getLsbD_eq fun b _ => Bool.eq_iff_iff.2 ((hflags b).trans ?_))
  rw [hf b]
  simp
end

/-! ## The patterns of an element type (R103, R104, R188) -/

section
variable {m : VMods}

/-- The element types that reductions take (R189). -/
def Reducible (e : Nat) : Prop := e = 0 ∨ (1 ≤ e ∧ e ≤ 3) ∨ (7 ≤ e ∧ e ≤ 12)

theorem float_of_reducible (h : Reducible m.ety.toNat) : m.float = fmtOf m.ety.toNat := by
  unfold Reducible at h
  unfold VMods.float
  generalize m.ety = t at h ⊢
  revert t
  decide
theorem zero_of_float {q : Fmt} (h : Reducible m.ety.toNat) (hq : fmtOf m.ety.toNat = some q) :
    m.zero = 2 ^ (fmtBits m.ety.toNat - 1) := by
  rw [VMods.zero, float_of_reducible h, hq]
  have h3 : m.ety.toNat = 1 ∨ m.ety.toNat = 2 ∨ m.ety.toNat = 3 := by
    have hsome : (fmtOf m.ety.toNat).isSome = true := hq ▸ rfl
    unfold Reducible at h
    generalize m.ety = t at h hsome ⊢
    clear hq
    revert t
    decide
  rcases h3 with h | h | h <;> rw [h] at hq ⊢ <;> cases hq <;> rfl

/-- The pattern of the greater or lesser of two values, by the tests that a node of R205 makes. -/
theorem fpPick_eq (q : Fmt) (gt : Bool) (v t : Nat) : fpPick q gt v t =
    if (q.dec v).isNan || (q.dec t).isNan then q.nan
    else if xor gt ((q.dec v).lt (q.dec t) || ((q.dec v).eqv (q.dec t) && (q.dec v).neg)) then v else t := by
  rw [fpPick]
  by_cases hnan : ((q.dec v).isNan || (q.dec t).isNan) = true
  · rw [if_pos hnan, if_pos hnan]
  · obtain ⟨hv, ht⟩ : (q.dec v).isNan = false ∧ (q.dec t).isNan = false := by simpa using hnan
    rw [if_neg hnan, if_neg hnan, XV.lt, XV.eqv, hv, ht]
    cases (q.dec v).cmp (q.dec t) <;> cases gt <;> cases (q.dec v).neg <;> rfl

theorem fmtSigned_eq (e : Nat) : fmtSigned e = decide (e = 7 ∨ e = 9 ∨ e = 11) := by
  simp [fmtSigned, Bool.decide_or, Bool.or_assoc]
end

/-! ## The operations -/

section
variable {s : State} {u : VUnit} {p : Fin 64} {d : Dst 32} {a : VSrc} {m : VMods} {x : VIn} {i : Instr} {z : Nat}
  {g : Nat → Nat → Nat × Flags} {l : Nat → Nat → W32} {f : Flags}

theorem exec_vradd (u : VUnit) (p : Fin 64) (d : Dst 32) (a : VSrc) (m : VMods) (s : State) :
    exec (.vradd u p d a m) s = vreduce u p d a m m.zero m.sum s := rfl
theorem exec_vrmax (u : VUnit) (p : Fin 64) (d : Dst 32) (a : VSrc) (m : VMods) (s : State) :
    exec (.vrmax u p d a m) s = vreduce u p d a m (m.extreme true) (m.pick true) s := rfl
theorem exec_vrmin (u : VUnit) (p : Fin 64) (d : Dst 32) (a : VSrc) (m : VMods) (s : State) :
    exec (.vrmin u p d a m) s = vreduce u p d a m (m.extreme false) (m.pick false) s := rfl
theorem exec_vscan (u : VUnit) (p : Fin 64) (d : Dst 32) (a : VSrc) (m : VMods) (s : State) :
    exec (.vscan u p d a m) s = execVscan u p d a m s := rfl

/-- The source of a reduction, lane by lane, with the identity where the mask leaves a lane out. -/
theorem masked_eq {v : Nat → W32} {w : Nat} {k : Mask}
    (h : ∀ i < 128, v i = BitVec.ofNat 32 (if k.getLsbD i then x.lane w i else z)) : masked x w k z = (List.range 128).map v :=
  List.map_congr_left fun i hi => (h i (by simpa using hi)).symm

theorem vreduce_delivers (he : exec i s = vreduce u p d a m z g s) (hp : s.me.pget p = true)
    (hs : s.Sources d 0 m.ety.toNat [a] [x]) (hx : Plain m.ety.toNat x)
    (h0 : ∀ i < 128, l 0 i = BitVec.ofNat 32 (if (s.me.kget m.mask).getLsbD i then x.lane (fmtBits m.ety.toNat) i else z))
    (hl : ∀ k < 7, ∀ i < 2 ^ (6 - k), l (k + 1) i = BitVec.ofNat 32 (g (l k i).toNat (l k (i + 2 ^ (6 - k))).toNat).1)
    (hf : ∀ b : Nat, f.getLsbD b = true ↔
      ∃ k < 7, ∃ i < 2 ^ (6 - k), (g (l k i).toNat (l k (i + 2 ^ (6 - k))).toNat).2.getLsbD b = true) :
    DeliversV i s u d 6 (s.me.kget 0) m.ety.toNat (s.common d 0 [x]) one32 fun _ => ((l 7 0).toNat, f) := by
  have htree : treeReduce (onW32 g) (masked x (fmtBits m.ety.toNat) (s.me.kget m.mask) z) = (l 7 0, f) :=
    treeReduce_levels (masked_eq h0) hl hf
  obtain ⟨hcommon, hlt⟩ := commonPv_head s d 0 [x]
  unfold vreduce at he
  refine vop_delivers_parts he hp (fun _ => rfl) (fun h => absurd rfl h) hs (allOk_arith (by simpa using hx)) ?_ m.ety.isLt
    hcommon hlt
  rw [show nth [x] 0 = x from rfl, htree]

theorem vscan_delivers (hp : s.me.pget p = true) (hs : s.Sources d 0 m.ety.toNat [a] [x]) (hx : Plain m.ety.toNat x)
    (h0 : ∀ i < 128, l 0 i =
      BitVec.ofNat 32 (if (s.me.kget m.mask).getLsbD i then x.lane (fmtBits m.ety.toNat) i else m.zero))
    (hl : ∀ k < 7, ∀ i < 128, l (k + 1) i =
      if i < 2 ^ k then l k i else BitVec.ofNat 32 (m.sum (l k (i - 2 ^ k)).toNat (l k i).toNat).1)
    (hf : ∀ b : Nat, f.getLsbD b = true ↔
      ∃ k < 7, ∃ i < 128, 2 ^ k ≤ i ∧ (m.sum (l k (i - 2 ^ k)).toNat (l k i).toNat).2.getLsbD b = true) :
    DeliversV (.vscan u p d a m) s u d 6 (s.me.kget 0) m.ety.toNat (s.common d 0 [x]) one32 fun j => ((l 7 j).toNat, f) := by
  have hscan : scanGo (onW32 m.sum) 7 1 (masked x (fmtBits m.ety.toNat) (s.me.kget m.mask) m.zero) 0 =
      ((List.range 128).map (l 7), f) :=
    scanGo_seven (masked_eq h0) hl hf
  obtain ⟨hcommon, hlt⟩ := commonPv_head s d 0 [x]
  have he := exec_vscan u p d a m s
  unfold execVscan at he
  refine DeliversV.congr (vop_delivers_parts he hp (fun _ => rfl) (fun h => absurd rfl h) hs (allOk_arith (by simpa using hx)) rfl
    m.ety.isLt hcommon hlt) fun j hj => ?_
  rw [show nth [x] 0 = x from rfl, hscan]
  simp [hj]
end

/-- Settles O33: the identities and nodes of each element type are those stated, and the levels are unique. -/
theorem reductionsDeliver : Obligations.ReductionsDeliver := by
  unfold Obligations.ReductionsDeliver
  intro s u p d a m x e hp he hs hx start gives tree scan least l f
  have hfloat := float_of_reducible he
  refine ⟨fun q hq => ?_, fun hq => ?_⟩
  · intro sum minusZero
    have hsum : m.sum = sum := by
      funext v t
      rw [VMods.sum, VMods.bin, hfloat, hq]
      rfl
    have hpick (gt : Bool) : m.pick gt = least q gt := by
      funext v t
      rw [VMods.pick, hfloat, hq]
      exact congrArg (·, 0) (fpPick_eq q gt v t)
    have hext (gt : Bool) : m.extreme gt = q.infp gt := by
      rw [VMods.extreme, hfloat, hq]
    have hzero : m.zero = minusZero := zero_of_float he hq
    refine ⟨?_, ?_, ?_, ?_⟩
    · rintro ⟨h0, hl, hf⟩
      exact vreduce_delivers (hzero ▸ hsum ▸ exec_vradd ..) hp hs hx h0 hl hf
    · rintro ⟨h0, hl, hf⟩
      exact vreduce_delivers (hext true ▸ hpick true ▸ exec_vrmax ..) hp hs hx h0 hl hf
    · rintro ⟨h0, hl, hf⟩
      exact vreduce_delivers (hext false ▸ hpick false ▸ exec_vrmin ..) hp hs hx h0 hl hf
    · rw [← hsum, ← hzero]
      rintro ⟨h0, hl, hf⟩
      exact vscan_delivers hp hs hx h0 hl hf
  · intro w sg val sum pick
    have hint : m.int = val := by
      funext n
      rw [VMods.int, fmtSigned_eq]
      rfl
    have hsum : m.sum = sum := by
      funext v t
      rw [VMods.sum, VMods.bin, hfloat, hq, VMods.ofInt, fmtSigned_eq, hint]
    have hpick (gt : Bool) : m.pick gt = pick gt := by
      funext v t
      rw [VMods.pick, hfloat, hq, hint]
      cases gt <;> simp [pick]
    have hext (gt : Bool) : m.extreme gt = wrapNat w (if gt then intLo sg w else intHi sg w) := by
      rw [VMods.extreme, hfloat, hq, fmtSigned_eq]
    have hzero : m.zero = 0 := by
      rw [VMods.zero, hfloat, hq]
    refine ⟨?_, ?_, ?_, ?_⟩
    · rintro ⟨h0, hl, hf⟩
      exact vreduce_delivers (hzero ▸ hsum ▸ exec_vradd ..) hp hs hx h0 hl hf
    · rintro ⟨h0, hl, hf⟩
      exact vreduce_delivers (hext true ▸ hpick true ▸ exec_vrmax ..) hp hs hx h0 hl hf
    · rintro ⟨h0, hl, hf⟩
      exact vreduce_delivers (hext false ▸ hpick false ▸ exec_vrmin ..) hp hs hx h0 hl hf
    · rw [← hsum, ← hzero]
      rintro ⟨h0, hl, hf⟩
      exact vscan_delivers hp hs hx h0 hl hf

end Sys2Proof.Machine
end

section
/-!
CERTIFICATE. What stops a scalar, memory or vector operation at issue (O34).
-/
namespace Sys2Proof.Machine
open Sys2Proof.Laws

section
variable {s : State} {i : Instr} {sl : Slot} {p : Fin 64} {f : Fail}

/-! ## A slot operation that fails -/

theorem traps_of_fail {r : Res} (hp : s.me.pget p = true) (he : exec i s = s.slotOp sl p r) (hr : r = .fail f) :
    Traps i s sl f := by
  rw [Traps, he, hr, slotOp_fail hp]
theorem traps_of_need {α : Type} {e : Except Fail α} {k : α → Res} (hp : s.me.pget p = true)
    (he : exec i s = s.slotOp sl p (.need e k)) (hf : e = .error f) : Traps i s sl f :=
  traps_of_fail hp he (hf ▸ rfl)

/-! ## The classes of latches, and residues (R368, R369) -/

theorem classFail_eq (q : Fin 16) : classFail q = { code := 0x05, d1 := BitVec.ofNat 64 (q.val * 2 ^ 16) } := by
  rw [classFail, Nat.shiftLeft_eq]

section
variable {c : Ctx} {q : Fin 16}

theorem Ctx.readS_class (h : (∃ x, c.qreg[q] = .pred x) ∨ (∃ x, c.qreg[q] = .mask x) ∨ ∃ x, c.qreg[q] = .vec x) :
    c.readS (.latch q) = .error (classFail q) := by
  rcases h with ⟨x, h⟩ | ⟨x, h⟩ | ⟨x, h⟩ <;> rw [Ctx.readS, h]
theorem Ctx.readP_class (h : (∃ x, c.qreg[q] = .scalar x) ∨ (∃ x, c.qreg[q] = .mask x) ∨ ∃ x, c.qreg[q] = .vec x) :
    c.readP (.latch q) = .error (classFail q) := by
  rcases h with ⟨x, h⟩ | ⟨x, h⟩ | ⟨x, h⟩ <;> rw [Ctx.readP, h]
theorem Ctx.readVs_class (h : (∃ x, c.qreg[q] = .scalar x) ∨ (∃ x, c.qreg[q] = .pred x) ∨ ∃ x, c.qreg[q] = .mask x)
    (l : List VSrc) : c.readVs (.latch q :: l) = .error (classFail q) := by
  have hread : c.readV (.latch q) = .error (classFail q) := by
    rcases h with ⟨x, h⟩ | ⟨x, h⟩ | ⟨x, h⟩ <;> rw [Ctx.readV, h]
  rw [Ctx.readVs, List.mapM_cons, hread]
  rfl
theorem Ctx.checkedS_latch {x : SVal} (h : c.qreg[q] = .scalar x) (hr : x.res.toNat ≠ x.val.toNat % 15) :
    c.checkedS (.latch q) = .error { code := 0x0C, d1 := BitVec.ofNat 64 (q.val + 64) } := by
  have hread : c.readS (.latch q) = .ok x := by rw [Ctx.readS, h]
  rw [Ctx.checkedS, hread]
  exact if_neg (by simpa [SVal.good] using hr)
theorem Ctx.checkedS_reg {r : Fin 64} (hr : (c.sget r).res.toNat ≠ (c.sget r).val.toNat % 15) :
    c.checkedS (.reg r) = .error { code := 0x0C, d1 := BitVec.ofNat 64 r.val } := by
  rw [Ctx.checkedS, Ctx.readS]
  exact if_neg (by simpa [SVal.good] using hr)
end

/-! ## Addresses (R374, R379) -/

theorem Units.check_misaligned {a : Word} {n al : Nat} (h : a.toNat % al ≠ 0) : Units.check [(a, n)] al = .error (alignFail a) := by
  simp [Units.check, Units.misaligned, h]
theorem Units.check_outside {a : Word} {n al : Nat} (h : a.toNat % al = 0) (ha : 0x400000 ≤ a.toNat) (hn : 0 < n) :
    Units.check [(a, n)] al = .error { code := 0x28, faddr := a } := by
  have hout : Units.outside [(a, n)] = some a := by
    obtain ⟨k, rfl⟩ := Nat.exists_eq_succ_of_ne_zero (Nat.ne_of_gt hn)
    simp only [Units.outside, List.findSome?_cons, Nat.succ_eq_add_one, List.range_succ_eq_map, List.map_cons, List.find?_cons,
      BitVec.add_zero, ha, decide_true]
  simp [Units.check, Units.misaligned, h, hout]
theorem misaligned_eq_true {a : Word} {n : Nat} (h : a.toNat % n ≠ 0) : misaligned a n = true := decide_eq_true h

section
variable {base r : Fin 64} {off : MOff} {ty : BitVec 4} {a v : Word}

/-- A scratchpad access that its units' checks stop. -/
theorem exec_ld_check (hp : s.me.pget p = true) (ha : s.me.ea base off = .ok a)
    (h : Units.check [(a, scalarBytes ty)] (scalarBytes ty) = .error f) (d : Dst 64) : Traps (.ld p d base off ty) s .m f := by
  refine traps_of_fail hp (exec_ld p d base off ty s) ?_
  rw [ha, need_ok, State.spadRead, h, need_error]
theorem exec_st_check (hp : s.me.pget p = true) (ha : s.me.ea base off = .ok a) (hv : s.me.checked r = .ok v)
    (h : Units.check [(a, scalarBytes ty)] (scalarBytes ty) = .error f) : Traps (.st p r base off ty) s .m f := by
  refine traps_of_fail hp (exec_st p r base off ty s) ?_
  rw [ha, need_ok, hv, need_ok, State.spadStore, h, need_error]
theorem exec_ldg_misaligned (hp : s.me.pget p = true) (ha : s.me.ea base off = .ok a) (h : a.toNat % scalarBytes ty ≠ 0)
    (d : Dst 64) : Traps (.ldg p d base off ty) s .m (alignFail a) := by
  refine traps_of_fail hp (exec_ldg p d base off ty s) ?_
  rw [ha, need_ok, State.globalRead, misaligned_eq_true h, if_pos rfl]
theorem exec_stg_misaligned (hp : s.me.pget p = true) (ha : s.me.ea base off = .ok a) (hv : s.me.checked r = .ok v)
    (h : a.toNat % scalarBytes ty ≠ 0) : Traps (.stg p r base off ty) s .m (alignFail a) := by
  refine traps_of_fail hp (exec_stg p r base off ty s) ?_
  rw [ha, need_ok, hv, need_ok, State.globalWrite, misaligned_eq_true h, if_pos rfl]
theorem commUpdate_misaligned {u : UKind} (hp : s.me.pget p = true) (he : exec i s = commUpdate u p r base off ty s)
    (ha : s.me.ea base off = .ok a) (hv : s.me.checked r = .ok v) (h : a.toNat % updBytes ty ≠ 0) : Traps i s .m (alignFail a) := by
  refine traps_of_fail hp he ?_
  rw [ha, need_ok, hv, need_ok]
  exact if_pos (misaligned_eq_true h)
theorem futureUse_misaligned (h : a.toNat % 16 ≠ 0) (w : Bool) (k : List Nat → Res) : s.futureUse a w k = .fail (alignFail a) :=
  if_pos (misaligned_eq_true h)
theorem exec_futrd_misaligned (hp : s.me.pget p = true) (ha : s.me.ea base off = .ok a) (h : a.toNat % 16 ≠ 0) (d : Dst 64) :
    Traps (.futrd p d base off) s .m (alignFail a) := by
  refine traps_of_fail hp (exec_futrd p d base off s) ?_
  rw [ha, need_ok, futureUse_misaligned h]
theorem exec_futfill_misaligned (hp : s.me.pget p = true) (ha : s.me.ea base off = .ok a) (hv : s.me.checked r = .ok v)
    (h : a.toNat % 16 ≠ 0) : Traps (.futfill p r base off) s .m (alignFail a) := by
  refine traps_of_fail hp (exec_futfill p r base off s) ?_
  rw [ha, need_ok, hv, need_ok, futureUse_misaligned h]
end

/-! ## Sources of the V slot (R99, R191, R192, R372) -/

theorem tagFail_eq {code found expected : Nat} (hf : found < 2 ^ 16) (he : expected < 2 ^ 16) :
    tagFail code found expected = { code := BitVec.ofNat 8 code, d1 := BitVec.ofNat 64 (found + expected * 2 ^ 16) } := by
  rw [tagFail, Nat.mod_eq_of_lt hf, Nat.mod_eq_of_lt he]
theorem arithOk_of_not_plain {e : Nat} {x : VIn} (h : ¬Plain e x) : arithOk e x = .error (tagFail 0x07 x.tag.toNat e) := by
  obtain ⟨h0, he⟩ := not_or.1 h
  have hbad : (decide (tagFmt x.tag ≠ e) || bitAt x.tag 4) = true := by
    by_cases hf : tagFmt x.tag = e
    · have hscl : bitAt x.tag 4 = true := by simpa using mt (And.intro hf) he
      rw [hscl, Bool.or_true]
    · simp [hf]
  have h0' : ¬tagFmt x.tag = 0 := h0
  rw [arithOk, if_neg h0', if_pos hbad]

section
variable {t t' : Half}

theorem trackOk_version (h : bits t 6 4 ≠ 0) (h' : bits t' 6 4 ≠ 0) (hne : bits t 6 4 ≠ bits t' 6 4) :
    trackOk [t, t'] = .error (tagFail 0x08 t'.toNat t.toNat) := by
  simp [trackOk, tagVer, disagree, h, h', Ne.symm hne]
theorem trackOk_provenance (h' : bits t' 6 4 ≠ 0) (heq : bits t 6 4 = bits t' 6 4)
    (hne : bits t 5 1 ≠ bits t' 5 1) : trackOk [t, t'] = .error (tagFail 0x09 t'.toNat t.toNat) := by
  simp [trackOk, tagVer, disagree, h', heq, Ne.symm hne]
end

section
variable {u : VUnit} {d : Dst 32} {mask : Fin 8} {merge : Option (Nat → VIn → Except Fail Unit)} {lat : Nat} {srcs : List VSrc}
  {chk : List VIn → Except Fail Unit} {g : List VIn → Nat → VRes} {xs : List VIn}

/-- The checks of a V-slot operation in their order: the classes of its sources, its format check, the destination it merges
into, and the tracked tags. -/
theorem vop_class (hp : s.me.pget p = true) (he : exec i s = vop u p d mask merge lat srcs chk g s)
    (hr : s.me.readVs srcs = .error f) : Traps i s u.slot f := traps_of_need hp he hr
theorem vop_check (hp : s.me.pget p = true) (he : exec i s = vop u p d mask merge lat srcs chk g s)
    (hr : s.me.readVs srcs = .ok xs) (hc : chk xs = .error f) : Traps i s u.slot f := by
  refine traps_of_fail hp he ?_
  rw [hr, need_ok, hc, need_error]
theorem vop_old {old : Nat → VIn → Except Fail Unit} (hp : s.me.pget p = true)
    (he : exec i s = vop u p d mask (some old) lat srcs chk g s) (hr : s.me.readVs srcs = .ok xs) (hc : chk xs = .ok ())
    (hm : mask ≠ 0) (ho : ∀ pv, old (g xs pv).fmt (.reg s.me.vreg[d.reg]) = .error f) : Traps i s u.slot f := by
  refine traps_of_fail hp he ?_
  have hmg : ((some old).isSome && decide (mask ≠ 0)) = true := by simp [hm]
  rw [hr, need_ok, hc, need_ok, hmg, if_pos rfl, Option.getD_some, ho, need_error]
theorem vop_track (hp : s.me.pget p = true) (he : exec i s = vop u p d mask merge lat srcs chk g s)
    (hr : s.me.readVs srcs = .ok xs) (hc : chk xs = .ok ()) (hm : mask = 0) (ht : trackOk (xs.map VIn.tag) = .error f) :
    Traps i s u.slot f := by
  refine traps_of_fail hp he ?_
  have hmg : (merge.isSome && decide (mask ≠ 0)) = false := by simp [hm]
  rw [hr, need_ok, hc, need_ok, hmg, if_neg Bool.false_ne_true, if_neg Bool.false_ne_true, need_ok, List.append_nil, ht, need_error]
end

section
variable {u : VUnit} {d : Dst 32} {a b : VSrc} {m : VMods} {lat : Nat} {g : List Nat → Nat × Flags} {x y : VIn}

/-- What the tags of two sources stop of arithmetic: each source in turn, and then the destination. -/
theorem varith_first (hp : s.me.pget p = true) (he : exec i s = varith u p d [a, b] m lat g s)
    (hr : s.me.readVs [a, b] = .ok [x, y]) (hx : ¬Plain m.ety.toNat x) :
    Traps i s u.slot (tagFail 0x07 x.tag.toNat m.ety.toNat) := by
  unfold varith at he
  refine vop_check hp he hr ?_
  rw [List.map_cons, arithOk_of_not_plain hx]
  rfl
theorem varith_second (hp : s.me.pget p = true) (he : exec i s = varith u p d [a, b] m lat g s)
    (hr : s.me.readVs [a, b] = .ok [x, y]) (hx : Plain m.ety.toNat x) (hy : ¬Plain m.ety.toNat y) :
    Traps i s u.slot (tagFail 0x07 y.tag.toNat m.ety.toNat) := by
  unfold varith at he
  refine vop_check hp he hr ?_
  rw [List.map_cons, List.map_cons, arithOk_plain hx, arithOk_of_not_plain hy]
  rfl
theorem allOk_arith_two (hx : Plain m.ety.toNat x) (hy : Plain m.ety.toNat y) :
    allOk ([x, y].map (arithOk m.ety.toNat)) = .ok () := allOk_arith (by simp [hx, hy])
theorem varith_old (hp : s.me.pget p = true) (he : exec i s = varith u p d [a, b] m lat g s)
    (hr : s.me.readVs [a, b] = .ok [x, y]) (hm : m.mask ≠ 0) (hx : Plain m.ety.toNat x) (hy : Plain m.ety.toNat y)
    (ho : ¬s.OldPlain d m.mask m.ety.toNat) :
    Traps i s u.slot (tagFail 0x07 s.me.vreg[d.reg].tag.toNat m.ety.toNat) := by
  unfold varith at he
  exact vop_old hp he hr (allOk_arith_two hx hy) hm fun _ => arithOk_of_not_plain fun h => ho fun _ => h
theorem varith_track (hp : s.me.pget p = true) (he : exec i s = varith u p d [a, b] m lat g s)
    (hr : s.me.readVs [a, b] = .ok [x, y]) (hm : m.mask = 0) (hx : Plain m.ety.toNat x) (hy : Plain m.ety.toNat y)
    (ht : trackOk [x.tag, y.tag] = .error f) : Traps i s u.slot f := by
  unfold varith at he
  exact vop_track hp he hr (allOk_arith_two hx hy) hm ht

theorem varith_class {srcs : List VSrc} (hp : s.me.pget p = true) (he : exec i s = varith u p d srcs m lat g s)
    (hr : s.me.readVs srcs = .error f) : Traps i s u.slot f := by
  unfold varith at he
  exact vop_class hp he hr
theorem vfun_class {g : Fmt → Nat → Bool → XV → Nat × Flags} (hp : s.me.pget p = true) (he : exec i s = vfun u p d a m g s)
    (hr : s.me.readVs [a] = .error f) : Traps i s u.slot f := by
  unfold vfun at he
  exact varith_class hp he hr
theorem vlogic_class {g : Nat → Nat → Nat} (hp : s.me.pget p = true) (he : exec i s = vlogic u p d a b m g s)
    (hr : s.me.readVs [a, b] = .error f) : Traps i s u.slot f := by
  unfold vlogic at he
  exact vop_class hp he hr
theorem vlogic_track {g : Nat → Nat → Nat} (hp : s.me.pget p = true) (he : exec i s = vlogic u p d a b m g s)
    (hr : s.me.readVs [a, b] = .ok [x, y]) (hm : m.mask = 0) (ht : trackOk [x.tag, y.tag] = .error f) : Traps i s u.slot f := by
  unfold vlogic at he
  exact vop_track hp he hr rfl hm ht
theorem vmove_class {srcs : List VSrc} {mask : Fin 8} {merge : Option (Nat → VIn → Except Fail Unit)}
    {chk : List VIn → Except Fail Unit} {g : List VIn → Nat → Nat} (hp : s.me.pget p = true)
    (he : exec i s = vmove u p d mask merge lat srcs chk g s) (hr : s.me.readVs srcs = .error f) : Traps i s u.slot f := by
  unfold vmove at he
  exact vop_class hp he hr
theorem vmove_track {mask : Fin 8} {merge : Option (Nat → VIn → Except Fail Unit)}
    {chk : List VIn → Except Fail Unit} {g : List VIn → Nat → Nat} (hp : s.me.pget p = true)
    (he : exec i s = vmove u p d mask merge lat [a, b] chk g s) (hr : s.me.readVs [a, b] = .ok [x, y]) (hc : chk [x, y] = .ok ())
    (hm : mask = 0) (ht : trackOk [x.tag, y.tag] = .error f) : Traps i s u.slot f := by
  unfold vmove at he
  exact vop_track hp he hr hc hm ht
end
end

theorem exec_add (u : SUnit) (p : Fin 64) (d : Dst 64) (a : SSrc) (b : SBSrc) (s : State) :
    exec (.add u p d a b) s = execAdd u p d a b s := rfl
theorem exec_divs (u : SUnit) (p : Fin 64) (d : Dst 64) (a : SSrc) (b : SBSrc) (s : State) :
    exec (.divs u p d a b) s = execDivs u p d a b s := rfl
theorem exec_sext (u : SUnit) (p : Fin 64) (d : Dst 64) (a : SSrc) (w : BitVec 12) (s : State) :
    exec (.sext u p d a w) s = execSext u p d a w s := rfl
theorem exec_cmpeq (u : SUnit) (p : Fin 64) (d : Dst 64) (a : SSrc) (b : SBSrc) (s : State) :
    exec (.cmpeq u p d a b) s = execCmpeq u p d a b s := rfl
theorem exec_fcvtis (u : SUnit) (p : Fin 64) (d : Dst 64) (a : SSrc) (rm : BitVec 2) (s : State) :
    exec (.fcvtis u p d a rm) s = execFcvtis u p d a rm s := rfl
theorem exec_sel (u : SUnit) (p : Fin 64) (d : Dst 64) (a : SSrc) (b : SBSrc) (s : State) :
    exec (.sel u p d a b) s = execSel u p d a b s := rfl
theorem exec_pmov (u : SUnit) (p : Fin 64) (d : Dst 64) (a : SSrc) (s : State) :
    exec (.pmov u p d a) s = execPmov u p d a s := rfl
theorem exec_ptos (u : SUnit) (p : Fin 64) (d : Dst 64) (a : SSrc) (s : State) :
    exec (.ptos u p d a) s = execPtos u p d a s := rfl
theorem exec_crwr (u : SUnit) (p : Fin 64) (a : SSrc) (n : BitVec 12) (s : State) :
    exec (.crwr u p a n) s = execCrwr u p a n s := rfl
theorem exec_dset (u : SUnit) (p : Fin 64) (d : Dst 16) (a : SSrc) (f : Fin 8) (s : State) :
    exec (.dset u p d a f) s = execDset u p d a f s := rfl
theorem exec_amadd (p r base : Fin 64) (off : MOff) (ty : BitVec 4) (s : State) :
    exec (.amadd p r base off ty) s = commUpdate .sum p r base off ty s := rfl
theorem exec_ammax (p r base : Fin 64) (off : MOff) (ty : BitVec 4) (s : State) :
    exec (.ammax p r base off ty) s = commUpdate .max p r base off ty s := rfl
theorem exec_ammin (p r base : Fin 64) (off : MOff) (ty : BitVec 4) (s : State) :
    exec (.ammin p r base off ty) s = commUpdate .min p r base off ty s := rfl
theorem exec_amand (p r base : Fin 64) (off : MOff) (ty : BitVec 4) (s : State) :
    exec (.amand p r base off ty) s = commUpdate .and p r base off ty s := rfl
theorem exec_amor (p r base : Fin 64) (off : MOff) (ty : BitVec 4) (s : State) :
    exec (.amor p r base off ty) s = commUpdate .or p r base off ty s := rfl
theorem exec_vadd (u : VUnit) (p : Fin 64) (d : Dst 32) (a b : VSrc) (m : VMods) (s : State) :
    exec (.vadd u p d a b m) s = varith u p d [a, b] m 2 (two m.sum) s := rfl
theorem exec_vmul (u : VUnit) (p : Fin 64) (d : Dst 32) (a b : VSrc) (m : VMods) (s : State) :
    exec (.vmul u p d a b m) s = varith u p d [a, b] m (latVMul s.me.kclass) (two (m.bin XV.mul (· * ·))) s := rfl
theorem exec_vmin (u : VUnit) (p : Fin 64) (d : Dst 32) (a b : VSrc) (m : VMods) (s : State) :
    exec (.vmin u p d a b m) s = varith u p d [a, b] m 2 (two (m.pick false)) s := rfl
theorem exec_vand (u : VUnit) (p : Fin 64) (d : Dst 32) (a b : VSrc) (m : VMods) (s : State) :
    exec (.vand u p d a b m) s = vlogic u p d a b m (· &&& ·) s := rfl
theorem exec_vrcp (u : VUnit) (p : Fin 64) (d : Dst 32) (a : VSrc) (m : VMods) (s : State) :
    exec (.vrcp u p d a m) s = vfun u p d a m Fmt.recip s := rfl

/-- Settles O34: the scalar slots by the class and residue of one source, the M slot by the address, the V slot by the checks of
its sources in their order. -/
theorem issueChecksTrap : Obligations.IssueChecksTrap := by
  unfold Obligations.IssueChecksTrap
  refine ⟨fun s u p d a b q hp ha => ?_, fun s p d r base off ty a v hp ha hv => ?_, fun s u p d a b m hp => ?_⟩
  · subst ha
    intro wrong
    have hwrong : classFail q = wrong := classFail_eq q
    refine ⟨fun h => ?_, fun h => ?_, fun x h hr => ?_, fun r hr => ?_⟩
    · have hread := Ctx.readS_class h
      rw [hwrong] at hread
      exact ⟨traps_of_need hp (exec_add ..) hread, traps_of_need hp (exec_divs ..) hread, traps_of_need hp (exec_sext ..) hread,
        traps_of_need hp (exec_cmpeq ..) hread, traps_of_need hp (exec_fcvtis ..) hread⟩
    · have hread := Ctx.readP_class h
      rw [hwrong] at hread
      exact ⟨traps_of_need hp (exec_sel ..) hread, traps_of_need hp (exec_pmov ..) hread, traps_of_need hp (exec_ptos ..) hread⟩
    · have hread := Ctx.checkedS_latch h hr
      exact ⟨fun n => traps_of_need hp (exec_crwr ..) hread, fun e f => traps_of_need hp (exec_dset ..) hread⟩
    · have hread := Ctx.checkedS_reg hr
      exact ⟨fun n => traps_of_need hp (exec_crwr ..) hread, fun e f => traps_of_need hp (exec_dset ..) hread⟩
  · refine ⟨fun h => ?_, fun h => ?_, fun h hout hn => ?_⟩
    · have hcheck := Units.check_misaligned (n := scalarBytes ty) h
      exact ⟨exec_ld_check hp ha hcheck d, exec_st_check hp ha hv hcheck, exec_ldg_misaligned hp ha h d,
        exec_stg_misaligned hp ha hv h, commUpdate_misaligned hp (exec_amadd ..) ha hv h,
        commUpdate_misaligned hp (exec_ammax ..) ha hv h, commUpdate_misaligned hp (exec_ammin ..) ha hv h,
        commUpdate_misaligned hp (exec_amand ..) ha hv h, commUpdate_misaligned hp (exec_amor ..) ha hv h⟩
    · exact ⟨exec_futrd_misaligned hp ha h d, exec_futfill_misaligned hp ha hv h⟩
    · have hcheck := Units.check_outside (n := scalarBytes ty) h hout hn
      exact ⟨exec_ld_check hp ha hcheck d, exec_st_check hp ha hv hcheck⟩
  · intro tag e
    have hformat {x : Half} : tag 0x07 x.toNat e = tagFail 0x07 x.toNat e := (tagFail_eq x.isLt (by omega)).symm
    have hversion {x y : Half} : tag 0x08 y.toNat x.toNat = tagFail 0x08 y.toNat x.toNat := (tagFail_eq y.isLt x.isLt).symm
    have hprovenance {x y : Half} : tag 0x09 y.toNat x.toNat = tagFail 0x09 y.toNat x.toNat := (tagFail_eq y.isLt x.isLt).symm
    refine ⟨fun q ha h => ?_, fun x y hr => ⟨fun hx => ?_, fun hx hy => ?_, fun hm hx hy ho => ?_, fun hm hvx hvy =>
      ⟨fun hv => ?_, fun hv hprov => ?_⟩⟩⟩
    · subst ha
      intro wrong
      have hread (l : List VSrc) : s.me.readVs (.latch q :: l) = .error wrong :=
        (Ctx.readVs_class h l).trans (congrArg Except.error (classFail_eq q))
      exact ⟨varith_class hp (exec_vadd ..) (hread _), vlogic_class hp (exec_vand ..) (hread _),
        vmove_class hp (exec_vmov ..) (hread _),
        vfun_class hp (exec_vrcp ..) (hread _)⟩
    · rw [hformat]
      exact ⟨varith_first hp (exec_vadd ..) hr hx, varith_first hp (exec_vmul ..) hr hx, varith_first hp (exec_vmin ..) hr hx⟩
    · rw [hformat]
      exact ⟨varith_second hp (exec_vadd ..) hr hx hy, varith_second hp (exec_vmul ..) hr hx hy,
        varith_second hp (exec_vmin ..) hr hx hy⟩
    · rw [hformat]
      exact ⟨varith_old hp (exec_vadd ..) hr hm hx hy ho, varith_old hp (exec_vmul ..) hr hm hx hy ho,
        varith_old hp (exec_vmin ..) hr hm hx hy ho⟩
    · have ht := trackOk_version hvx hvy hv
      rw [hversion]
      exact ⟨vlogic_track hp (exec_vand ..) hr hm ht, vmove_track hp (exec_vrotl ..) hr rfl hm ht,
        fun hx hy => varith_track hp (exec_vadd ..) hr hm hx hy ht⟩
    · have ht := trackOk_provenance hvy hv hprov
      rw [hprovenance]
      exact ⟨vlogic_track hp (exec_vand ..) hr hm ht, vmove_track hp (exec_vrotl ..) hr rfl hm ht,
        fun hx hy => varith_track hp (exec_vadd ..) hr hm hx hy ht⟩

end Sys2Proof.Machine
end

section
/-!
CERTIFICATE. The arithmetic of an engine step for one element, and the checksums of an accumulator (O41).
-/
namespace Sys2Proof.Machine
open Sys2Proof.Laws

/-! ## Blocks and chains (R106, R107) -/

/-- A value that is neither infinite nor NaN. -/
def XV.Finite (v : XV) : Prop := ∃ n m d e, v = .fin n m d e

theorem XV.Finite.isNan {v : XV} (h : v.Finite) : v.isNan = false := by
  obtain ⟨_, _, _, _, rfl⟩ := h; rfl
theorem XV.Finite.isInf {v : XV} (h : v.Finite) : v.isInf = false := by
  obtain ⟨_, _, _, _, rfl⟩ := h; rfl
theorem XV.Finite.mul {v w : XV} (hv : v.Finite) (hw : w.Finite) : (XV.mul v w).1.Finite ∧ (XV.mul v w).2 = 0 := by
  obtain ⟨_, _, _, _, rfl⟩ := hv
  obtain ⟨_, _, _, _, rfl⟩ := hw
  exact ⟨⟨_, _, _, _, rfl⟩, rfl⟩
theorem XV.Finite.add {v w : XV} (hv : v.Finite) (hw : w.Finite) (rm : Nat) : (XV.add rm v w).1.Finite := by
  obtain ⟨_, _, _, _, rfl⟩ := hv
  obtain ⟨_, _, _, _, rfl⟩ := hw
  rw [XV.add]
  split <;> exact ⟨_, _, _, _, rfl⟩

/-- The exact sum of products that R106 names. -/
def productSum (l : List (XV × XV)) : XV := l.foldl (fun a p => (XV.add 0 a (XV.mul p.1 p.2).1).1) XV.zero

section
variable {l : List (XV × XV)} (h : ∀ p ∈ l, p.1.Finite ∧ p.2.Finite)
include h

theorem productSum_finite : (productSum l).Finite := by
  have hfold : ∀ a : XV, a.Finite → (l.foldl (fun a p => (XV.add 0 a (XV.mul p.1 p.2).1).1) a).Finite := by
    induction l with
    | nil => exact fun a ha => ha
    | cons p l ih =>
      intro a ha
      obtain ⟨h1, h2⟩ := h p List.mem_cons_self
      exact ih (fun q hq => h q (List.mem_cons_of_mem _ hq)) _ (ha.add (h1.mul h2).1 0)
  exact hfold XV.zero ⟨_, _, _, _, rfl⟩
/-- Finite products make no infinity and no NaN, so that their sum is exact. -/
theorem blockSum_finite : blockSum l = (productSum l, 0) := by
  have hp : ∀ p ∈ l.map fun p => XV.mul p.1 p.2, p.1.Finite ∧ p.2 = 0 := by
    intro p hp
    obtain ⟨q, hq, rfl⟩ := List.mem_map.1 hp
    exact (h q hq).1.mul (h q hq).2
  have hnone (f : XV × Flags → Bool) (hf : ∀ p, p.1.Finite → p.2 = 0 → f p = false) :
      (l.map fun p => XV.mul p.1 p.2).any f = false :=
    List.any_eq_false.2 fun p hm => Bool.eq_false_iff.1 (hf p (hp p hm).1 (hp p hm).2)
  rw [blockSum]
  rw [hnone (fun p => p.1.isInf && !p.1.neg) fun p hv _ => by rw [hv.isInf, Bool.false_and],
    hnone (fun p => p.1.isInf && p.1.neg) fun p hv _ => by rw [hv.isInf, Bool.false_and],
    hnone (fun p => decide (p.2 ≠ 0)) fun p _ h0 => by simp [h0], hnone (fun p => p.1.isNan) fun p hv _ => hv.isNan, List.foldl_map]
  rfl
theorem blockStep_zero {sa sb : XV} {acc : W32} (h0 : (productSum l).isZero = true) : blockStep sa sb l acc = (acc, 0) := by
  rw [blockStep, blockSum_finite h]
  exact if_pos h0
/-- A sum that is not zero is scaled and rounded, added to the element, and rounded once more. -/
theorem blockStep_nonzero {sa sb : XV} {acc : W32} (h0 : (productSum l).isZero = false) :
    (blockStep sa sb l acc).1 = (add32 acc (r32 (XV.mul (XV.mul (productSum l) sa).1 sb).1).1).1 := by
  have hnan := (productSum_finite h).isNan
  rw [blockStep, blockSum_finite h]
  dsimp only
  rw [h0, hnan]
  rfl
end

theorem chainStep_append (l : List (W32 × W32)) (a b acc : W32) :
    (chainStep (l ++ [(a, b)]) acc).1 = (fma32 false a b (chainStep l acc).1).1 := by
  rw [chainStep, List.foldl_append]
  rfl
theorem XV.eq_nan {v : XV} (h : v.isNan = true) : v = .nan := by
  cases v with
  | nan => rfl
  | inf _ => cases h
  | fin _ _ _ _ => cases h
theorem XV.mul_nan (v : XV) : (XV.mul v .nan).1 = .nan := by cases v <;> rfl
theorem XV.add_nan (rm : Nat) (v : XV) : (XV.add rm v .nan).1 = .nan := by cases v <;> rfl
/-- One fused step: the exact product and sum, rounded once (R107). -/
theorem fma32_eq (a b c : W32) : (fma32 false a b c).1 =
    BitVec.ofNat 32 (fp32.round 0 false (XV.add 0 (f32 c) (XV.mul (f32 a) (f32 b)).1).1).1 := by
  rw [fma32]
  split
  · next hnan =>
    have hsum : (XV.add 0 (f32 c) (XV.mul (f32 a) (f32 b)).1).1 = .nan := by
      rcases Bool.or_eq_true_iff.1 hnan with hab | hc
      · have hp : (XV.mul (f32 a) (f32 b)).1 = .nan := by
          rcases Bool.or_eq_true_iff.1 hab with ha | hb
          · rw [XV.eq_nan ha]; rfl
          · rw [XV.eq_nan hb, XV.mul_nan]
        rw [hp, XV.add_nan]
      · rw [XV.eq_nan hc]; rfl
    rw [hsum]
    rfl
  · rfl

/-! ## Sums of patterns (R381) -/

theorem sum32_map_range (f : Nat → W32) (n : Nat) : sum32 ((List.range n).map f) = ∑ i ∈ Finset.range n, f i :=
  (List.sum_eq_foldl (xs := (List.range n).map f)).symm
/-- Two sums of which one term differs differ by that term. -/
theorem sum32_sub {f g : Nat → W32} {n k : Nat} (hk : k < n) (h : ∀ i < n, i ≠ k → f i = g i) :
    sum32 ((List.range n).map f) - sum32 ((List.range n).map g) = f k - g k := by
  rw [sum32_map_range, sum32_map_range, ← Finset.sum_sub_distrib]
  refine Finset.sum_eq_single k (fun i hi hne => ?_) fun hne => absurd (Finset.mem_range.2 hk) hne
  rw [h i (Finset.mem_range.1 hi) hne, sub_self]

/-! ## The words of an accumulator -/

/-- The stored word in row `i` and column `j`. -/
def Acc.at (a : Acc) (i j : Nat) : W32 := ((a.el.toList.map fun r => r.toList).getD i []).getD j 0
/-- The sum of the visible elements of row `i`. -/
def Acc.rowSum (a : Acc) (i : Nat) : W32 := sum32 ((List.range 128).map (a.at i))
/-- The sum of the visible elements of column `j`. -/
def Acc.colSum (a : Acc) (j : Nat) : W32 := sum32 ((List.range 128).map fun i => a.at i j)

section
variable {a : Acc} {i j : Nat}

theorem Acc.at_eq (hi : i < 129) (hj : j < 129) : a.at i j = a.el[i][j] := by
  simp [Acc.at, hi, hj]
/-- The first `k` words of a row. -/
theorem Acc.row_take {k : Nat} (hi : i < 129) (hk : k ≤ 129) : (a.el[i]).toList.take k = (List.range k).map (a.at i) := by
  refine List.ext_getElem ?_ fun j _ _ => ?_
  · simp [hk]
  · have hj : j < 129 := by simp_all; omega
    simp [Acc.at_eq hi hj]
theorem Acc.grid_eq (a : Acc) : a.grid = (List.range 128).map fun i => (List.range 128).map (a.at i) := by
  refine List.ext_getElem ?_ fun i hi _ => ?_
  · simp [Acc.grid]
  · have hi : i < 128 := by simpa [Acc.grid] using hi
    simpa [Acc.grid] using Acc.row_take (a := a) (k := 128) (show i < 129 by omega) (by omega)

theorem getD_map_range {α : Type} {f : Nat → α} {n k : Nat} {d : α} (h : k < n) : ((List.range n).map f).getD k d = f k := by
  simp [h]

/-- The rows and columns whose sums do not agree with their checksums (R382). -/
def Acc.badRows (a : Acc) : List Nat := (List.range 128).filter fun i => a.rowSum i ≠ a.at i 128
def Acc.badCols (a : Acc) : List Nat := (List.range 128).filter fun j => a.colSum j ≠ a.at 128 j

/-! ## The verdict on an accumulator (R382) -/

theorem Acc.visible_eq (a : Acc) : ((a.el.toList.map fun r => r.toList).take 128).map (fun r => r.take 128) =
    (List.range 128).map fun i => (List.range 128).map (a.at i) := by
  rw [← Acc.grid_eq, Acc.grid, List.map_take, List.map_take, List.map_map]
  rfl
theorem Acc.rowSums_eq (a : Acc) : ((List.range 128).map fun i => (List.range 128).map (a.at i)).map sum32 =
    (List.range 128).map a.rowSum := by
  rw [List.map_map]
  exact List.map_congr_left fun i _ => by rw [Function.comp_apply, Acc.rowSum]
theorem Acc.colSums_eq (a : Acc) : ((List.range 128).map fun j =>
    sum32 (((List.range 128).map fun i => (List.range 128).map (a.at i)).map fun r => r.getD j 0)) =
      (List.range 128).map a.colSum := by
  refine List.map_congr_left fun j hj => ?_
  rw [List.map_map]
  exact congrArg sum32 (List.map_congr_left fun i _ => getD_map_range (List.mem_range.1 hj))
theorem Acc.checks_eq (a : Acc) : ((a.el.toList.map fun r => r.toList).take 128).map (fun r => r.getD 128 0) =
    (List.range 128).map fun i => a.at i 128 := by
  refine List.ext_getElem ?_ fun i hi _ => ?_
  · simp
  · have hi : i < 128 := by simpa using hi
    simp [Acc.at_eq (show i < 129 by omega)]
theorem Acc.last_eq (a : Acc) (j : Nat) : ((a.el.toList.map fun r => r.toList).getD 128 []).getD j 0 = a.at 128 j := rfl
theorem Acc.badRows_eq (a : Acc) : (List.range 128).filter (fun i => decide (((List.range 128).map a.rowSum).getD i 0 ≠
    ((List.range 128).map fun i => a.at i 128).getD i 0)) = a.badRows :=
  List.filter_congr fun i hi => by rw [getD_map_range (List.mem_range.1 hi), getD_map_range (List.mem_range.1 hi)]
theorem Acc.badCols_eq (a : Acc) : (List.range 128).filter (fun j => decide (((List.range 128).map a.colSum).getD j 0 ≠
    ((a.el.toList.map fun r => r.toList).getD 128 []).getD j 0)) = a.badCols :=
  List.filter_congr fun j hj => by rw [getD_map_range (List.mem_range.1 hj)]; rfl

theorem Acc.verify_clean (hs : a.sound = true) (hr : a.badRows = []) (hc : a.badCols = [])
    (hx : sum32 ((List.range 128).map a.rowSum) = a.at 128 128) : a.verify = .clean := by
  rw [Acc.verify]
  dsimp only
  rw [Acc.visible_eq, Acc.rowSums_eq, Acc.colSums_eq, Acc.checks_eq, Acc.badRows_eq, Acc.badCols_eq, hs, hr, hc,
    Bool.not_true, if_neg Bool.false_ne_true]
  dsimp only
  rw [Acc.last_eq, if_pos hx]
theorem Acc.verify_fixed (hs : a.sound = true) (hi : i < 128) (hj : j < 128) (hr : a.badRows = [i]) (hc : a.badCols = [j])
    (hd : a.at 128 j - a.colSum j = a.at i 128 - a.rowSum i) : a.verify =
      .fixed (a.putWord (Fin.ofNat 129 i) (Fin.ofNat 129 j) (a.at i j + (a.at i 128 - a.rowSum i))) i j
        (a.at i 128 - a.rowSum i) := by
  rw [Acc.verify]
  dsimp only
  rw [Acc.visible_eq, Acc.rowSums_eq, Acc.colSums_eq, Acc.checks_eq, Acc.badRows_eq, Acc.badCols_eq, hs, hr, hc,
    Bool.not_true, if_neg Bool.false_ne_true]
  dsimp only
  rw [getD_map_range hi, getD_map_range hi, getD_map_range hi, getD_map_range hj, getD_map_range hj]
  rw [Acc.last_eq, if_pos hd]
end

/-! ## The checksums written with a tile (R381) -/

section
variable {f : Nat → Nat → W32}

/-- Row `i` of a tile of the elements `f`, with its checksum. -/
def sealedRow (f : Nat → Nat → W32) (i : Nat) : List W32 :=
  (List.range 128).map (f i) ++ [sum32 ((List.range 128).map (f i))]
theorem sealedRow_elem {i j : Nat} (hj : j < 128) : (sealedRow f i).getD j 0 = f i j := by
  simp [sealedRow, hj, List.getElem?_append]
theorem sealedRow_check {i : Nat} : (sealedRow f i).getD 128 0 = sum32 ((List.range 128).map (f i)) := by
  simp [sealedRow]
/-- The stored word of a tile: of one of its rows, or a sum of a column. -/
theorem sealed_getElem {i j : Nat} (hi : i < 129) (hj : j < 129) :
    (Grid.sealed ((List.range 128).map fun i => (List.range 128).map (f i)))[i][j] =
      if i < 128 then (sealedRow f i).getD j 0 else sum32 ((List.range 128).map fun k => (sealedRow f k).getD j 0) := by
  rw [Grid.sealed]
  dsimp only
  rw [tab_get _ _ _ hi, tab_get _ _ _ hj, List.map_map]
  split
  · next h => simp [h, List.getElem?_append, sealedRow]
  · next h =>
    obtain rfl : i = 128 := by omega
    rw [List.getD_append_right _ _ _ _ (by simp)]
    simp [hj, sealedRow, Function.comp_def]
end

section
variable {a : Acc} (hseal : a = { a with el := a.grid.sealed })
include hseal

theorem Acc.at_sealed {i j : Nat} (hi : i < 129) (hj : j < 129) : a.at i j =
    if i < 128 then (sealedRow a.at i).getD j 0 else sum32 ((List.range 128).map fun k => (sealedRow a.at k).getD j 0) := by
  rw [← sealed_getElem hi hj, Acc.at_eq hi hj, ← Acc.grid_eq]
  exact congrArg (fun z : Acc => z.el[i][j]) hseal
theorem Acc.rowSum_sealed {i : Nat} (hi : i < 128) : a.at i 128 = a.rowSum i := by
  rw [Acc.at_sealed hseal (by omega) (by omega), if_pos hi, sealedRow_check, Acc.rowSum]
theorem Acc.colSum_sealed {j : Nat} (hj : j < 128) : a.at 128 j = a.colSum j := by
  rw [Acc.at_sealed hseal (by omega) (by omega), if_neg (by omega), Acc.colSum]
  exact congrArg sum32 (List.map_congr_left fun i _ => sealedRow_elem hj)
theorem Acc.total_sealed : sum32 ((List.range 128).map a.rowSum) = a.at 128 128 := by
  rw [Acc.at_sealed hseal (by omega) (by omega), if_neg (by omega)]
  exact congrArg sum32 (List.map_congr_left fun i _ => sealedRow_check.symm)
theorem Acc.badRows_sealed : a.badRows = [] :=
  List.filter_eq_nil_iff.2 fun i hi => by simp [Acc.rowSum_sealed hseal (List.mem_range.1 hi)]
theorem Acc.badCols_sealed : a.badCols = [] :=
  List.filter_eq_nil_iff.2 fun j hj => by simp [Acc.colSum_sealed hseal (List.mem_range.1 hj)]
end

/-! ## One element struck (R382) -/

theorem filter_range_eq_singleton {p : Nat → Bool} {n k : Nat} (hk : k < n) (h : ∀ i < n, p i = true ↔ i = k) :
    (List.range n).filter p = [k] := by
  rw [List.filter_congr (q := (· == k)) fun i hi => by rw [Bool.eq_iff_iff, h i (List.mem_range.1 hi), beq_iff_eq],
    List.filter_beq, List.count_eq_one_of_mem List.nodup_range (List.mem_range.2 hk)]
  rfl

theorem Acc.putWord_at (a : Acc) (i j : Fin 129) (w : W32) {k m : Nat} (hk : k < 129) (hm : m < 129) :
    (a.putWord i j w).at k m = if k = i ∧ m = j then w else a.at k m := by
  rw [Acc.at_eq hk hm, Acc.at_eq hk hm, Acc.putWord]
  by_cases h : i.val = k
  · subst h
    by_cases h : j.val = m
    · subst h; simp
    · simp [h, Ne.symm h]
  · simp [h, Ne.symm h]
/-- Putting a word back restores the accumulator. -/
theorem Acc.putWord_putWord (a : Acc) (i j : Fin 129) (w : W32) : (a.putWord i j w).putWord i j (a.at i j) = a := by
  rw [Acc.at_eq i.isLt j.isLt]
  simp [Acc.putWord]

section
variable {a : Acc} {i j : Nat} {w : W32} (hi : i < 128) (hj : j < 128)
include hi hj

theorem Acc.rowSum_putWord {k : Nat} (hk : k < 128) :
    (a.putWord ⟨i, by omega⟩ ⟨j, by omega⟩ w).rowSum k - a.rowSum k = if k = i then w - a.at i j else 0 := by
  have hat (m : Nat) (hm : m < 128) := a.putWord_at ⟨i, by omega⟩ ⟨j, by omega⟩ w (show k < 129 by omega) (show m < 129 by omega)
  rw [Acc.rowSum, Acc.rowSum, sum32_sub hj fun m hm hne => by rw [hat m hm, if_neg fun h => hne h.2], hat j hj]
  by_cases h : k = i
  · subst h; simp
  · simp [h]
theorem Acc.colSum_putWord {k : Nat} (hk : k < 128) :
    (a.putWord ⟨i, by omega⟩ ⟨j, by omega⟩ w).colSum k - a.colSum k = if k = j then w - a.at i j else 0 := by
  have hat (m : Nat) (hm : m < 128) := a.putWord_at ⟨i, by omega⟩ ⟨j, by omega⟩ w (show m < 129 by omega) (show k < 129 by omega)
  rw [Acc.colSum, Acc.colSum, sum32_sub hi fun m hm hne => by rw [hat m hm, if_neg fun h => hne h.1], hat i hi]
  by_cases h : k = j
  · subst h; simp
  · simp [h]

variable (hseal : a = { a with el := a.grid.sealed })
include hseal

/-- A row of a struck accumulator differs from its checksum by the change of its element. -/
theorem Acc.row_struck {k : Nat} (hk : k < 128) :
    (a.putWord ⟨i, by omega⟩ ⟨j, by omega⟩ w).at k 128 - (a.putWord ⟨i, by omega⟩ ⟨j, by omega⟩ w).rowSum k =
      if k = i then a.at i j - w else 0 := by
  rw [Acc.putWord_at _ _ _ _ (by omega) (by omega), if_neg fun h => absurd h.2 (by simp; omega), Acc.rowSum_sealed hseal hk,
    ← neg_sub, Acc.rowSum_putWord hi hj hk, apply_ite Neg.neg, neg_sub, neg_zero]
theorem Acc.col_struck {k : Nat} (hk : k < 128) :
    (a.putWord ⟨i, by omega⟩ ⟨j, by omega⟩ w).at 128 k - (a.putWord ⟨i, by omega⟩ ⟨j, by omega⟩ w).colSum k =
      if k = j then a.at i j - w else 0 := by
  rw [Acc.putWord_at _ _ _ _ (by omega) (by omega), if_neg fun h => absurd h.1 (by simp; omega), Acc.colSum_sealed hseal hk,
    ← neg_sub, Acc.colSum_putWord hi hj hk, apply_ite Neg.neg, neg_sub, neg_zero]

variable (hw : w ≠ a.at i j)
include hw

theorem Acc.badRows_struck : (a.putWord ⟨i, by omega⟩ ⟨j, by omega⟩ w).badRows = [i] :=
  filter_range_eq_singleton hi fun k hk => by
    rw [decide_eq_true_iff, ne_comm, ← sub_ne_zero, Acc.row_struck hi hj hseal hk]
    exact ite_ne_right_iff.trans (and_iff_left (sub_ne_zero.2 hw.symm))
theorem Acc.badCols_struck : (a.putWord ⟨i, by omega⟩ ⟨j, by omega⟩ w).badCols = [j] :=
  filter_range_eq_singleton hj fun k hk => by
    rw [decide_eq_true_iff, ne_comm, ← sub_ne_zero, Acc.col_struck hi hj hseal hk]
    exact ite_ne_right_iff.trans (and_iff_left (sub_ne_zero.2 hw.symm))
/-- The verdict restores the element from the difference of its row. -/
theorem Acc.verify_struck (hs : a.sound = true) :
    (a.putWord ⟨i, by omega⟩ ⟨j, by omega⟩ w).verify = .fixed a i j (a.at i j - w) := by
  have hrow := Acc.row_struck (w := w) hi hj hseal hi
  have hcol := Acc.col_struck (w := w) hi hj hseal hj
  rw [if_pos rfl] at hrow hcol
  rw [Acc.verify_fixed (hs := by exact hs) hi hj (Acc.badRows_struck hi hj hseal hw) (Acc.badCols_struck hi hj hseal hw)
    (hcol.trans hrow.symm), hrow, Acc.putWord_at _ _ _ _ (by omega) (by omega), if_pos ⟨rfl, rfl⟩, add_sub_cancel]
  have hij : Fin.ofNat 129 i = ⟨i, by omega⟩ ∧ Fin.ofNat 129 j = ⟨j, by omega⟩ :=
    ⟨Fin.ext (Nat.mod_eq_of_lt (by omega)), Fin.ext (Nat.mod_eq_of_lt (by omega))⟩
  rw [hij.1, hij.2, a.putWord_putWord ⟨i, by omega⟩ ⟨j, by omega⟩ w]
end

/-- Settles O41: finite products make an exact sum, and a sum of patterns that lost one term shows which. -/
theorem engineArithmeticAndChecksums : Obligations.EngineArithmeticAndChecksums := by
  refine ⟨⟨fun sa sb l acc h => ⟨blockStep_zero h, fun h0 => ⟨(blockStep sa sb l acc).2, Prod.ext (blockStep_nonzero h h0) rfl⟩⟩,
    fun l a b acc => ⟨rfl, ?_⟩⟩, fun a ht hl hseal => ?_⟩
  · rw [chainStep_append]
    exact fma32_eq a b _
  have hs : a.sound = true := by rw [Acc.sound, ht, hl]; rfl
  refine ⟨Acc.verify_clean hs (Acc.badRows_sealed hseal) (Acc.badCols_sealed hseal) (Acc.total_sealed hseal),
    fun i j w hw => ⟨_, Acc.verify_struck i.isLt j.isLt hseal (fun h => hw ?_) hs⟩⟩
  have hword : a.word ⟨i.val, by omega⟩ ⟨j.val, by omega⟩ = a.at i j := (Acc.at_eq (by omega) (by omega)).symm
  rw [hword] at h
  simpa using h
end Sys2Proof.Machine
end

section
/-!
CERTIFICATE. What the vector stores write, and the flags they raise (O20).
-/
namespace Sys2Proof.Machine
open Sys2Proof.Laws

/-! ## Equations of the instructions -/

theorem exec_vst (p : Fin 64) (r : Fin 32) (base : Fin 64) (off : MOff) (ty : BitVec 4) (s : State) :
    exec (.vst p r base off ty) s =
    s.slotOp .m p (.need (s.me.ea base off) fun a => s.vecStore s.me.vreg[r] ty (unitsVld ty a)) := rfl
theorem exec_vsts (p : Fin 64) (r : Fin 32) (base : Fin 64) (pitch : MOff) (ty : BitVec 4) (s : State) :
    exec (.vsts p r base pitch ty) s = s.slotOp .m p (.need (s.me.checked base) fun b => .need (s.me.offset pitch) fun q =>
      s.vecStore s.me.vreg[r] ty (unitsVlds ty b q)) := rfl
theorem exec_vstx (p : Fin 64) (r : Fin 32) (base : Fin 64) (vi : Fin 32) (sc : BitVec 2) (ty : BitVec 4) (s : State) :
    exec (.vstx p r base vi sc ty) s = s.slotOp .m p (.need (s.me.checked base) fun b =>
      s.vecStore s.me.vreg[r] ty (unitsVldx ty b s.me.vreg[vi] sc)) := rfl

/-! ## The format check of a store (R99) -/

theorem eq_six_iff {ty : BitVec 4} : ty = 6 ↔ ty.toNat = 6 := ⟨fun h => h ▸ rfl, fun h => BitVec.eq_of_toNat_eq h⟩
theorem bits_format (x : Half) : bits x 0 4 = x.toNat % 16 := congrArg (· % 16) (Nat.shiftRight_zero ..)

section
variable {v : VReg} {ty : BitVec 4}

theorem storeFmt_ok (h : v.tag.toNat % 16 = 0 ∨ v.tag.toNat % 16 = ty.toNat ∨ (ty = 6 ∧ v.tag.toNat % 16 = 4)) :
    storeFmt v ty.toNat = .ok () := by
  have hcond : (bits v.tag 0 4 = 0 || bits v.tag 0 4 = ty.toNat || (ty.toNat = 6 && bits v.tag 0 4 = 4)) = true := by
    rw [bits_format]
    rcases h with h | h | ⟨rfl, h⟩ <;> simp [h]
  exact if_pos hcond
theorem storeFmt_error (h : ¬(v.tag.toNat % 16 = 0 ∨ v.tag.toNat % 16 = ty.toNat ∨ (ty = 6 ∧ v.tag.toNat % 16 = 4))) :
    storeFmt v ty.toNat = .error (tagFail 0x07 v.tag.toNat ty.toNat) := by
  rw [eq_six_iff] at h
  have hcond : ¬(bits v.tag 0 4 = 0 || bits v.tag 0 4 = ty.toNat || (ty.toNat = 6 && bits v.tag 0 4 = 4)) = true := by
    rw [bits_format]
    simpa [not_or, or_assoc] using h
  exact if_neg hcond
end

/-! ## The state that a store leaves -/

/-- A scratchpad write changes in its lane only what a squash of the phase restores from. -/
theorem State.me_spadWrite_eq (u : State) (cs : List Host.Cell) : ∃ un up, (u.spadWrite u.cur cs).me = { u.me with
    undo := un
    unpoison := up } := by
  have hme (f : Ctx → Ctx) : ((u.putCells cs).modCtx u.cur f).me = f u.me := by
    obtain ⟨m, q, e, h⟩ := StorageOnly.putCells u cs
    rw [h]
    exact State.ctx_modCtx { u with mem := m, poison := q, exact := e } u.cur f
  rw [State.spadWrite]
  split
  · exact ⟨u.me.undo, u.me.unpoison, rfl⟩
  · exact ⟨_, _, hme _⟩

section
variable (s : State) (sp : List Span) (cs : List Host.Cell) (f : Flags)

/-- The state after a vector store of the cells `cs` that raises `f`. -/
def State.vecStored : State :=
  (((s.logged .write sp).spadWrite s.cur cs).modMe fun c => c.raise .m c.pc f).issued

theorem State.byte_vecStored (a : Nat) : (s.vecStored sp cs f).byte a = (s.setCells cs).byte a := by
  refine (State.byte_spadWrite (s.logged .write sp) s.cur cs a).trans ?_
  have hcells : (s.logged .write sp).setCells cs = (s.logged .write sp).withStorage (s.setCells cs) :=
    State.setCells_withStorage (s.logged .write sp) s cs
  rw [hcells]
  rfl
theorem State.me_vecStored : ∃ un up, (s.vecStored sp cs f).me = { s.me with
    undo := un
    unpoison := up
    cr := (s.me.raise .m s.me.pc f).cr } := by
  obtain ⟨un, up, hme⟩ := State.me_spadWrite_eq (s.logged .write sp) cs
  have hraise : (s.vecStored sp cs f).me = ((s.logged .write sp).spadWrite s.cur cs).me.raise .m
      ((s.logged .write sp).spadWrite s.cur cs).me.pc f :=
    State.me_modMe ((s.logged .write sp).spadWrite s.cur cs) fun c => c.raise .m c.pc f
  have hme : ((s.logged .write sp).spadWrite s.cur cs).me = { s.me with
      undo := un
      unpoison := up } := hme
  rw [hraise, hme]
  exact ⟨un, up, rfl⟩
end

section
variable {s : State} {p : Fin 64} {v : VReg} {ty : BitVec 4} {us : Units}

theorem vecStore_wrongFormat (h : ¬(v.tag.toNat % 16 = 0 ∨ v.tag.toNat % 16 = ty.toNat ∨ (ty = 6 ∧ v.tag.toNat % 16 = 4))) :
    s.vecStore v ty us = .fail { code := 0x07, d1 := BitVec.ofNat 64 (v.tag.toNat + ty.toNat * 2 ^ 16) } := by
  rw [State.vecStore, storeFmt_error h, need_error, tagFail_eq v.tag.isLt (by omega)]
  rfl
theorem vecStore_ok (hfmt : v.tag.toNat % 16 = 0 ∨ v.tag.toNat % 16 = ty.toNat ∨ (ty = 6 ∧ v.tag.toNat % 16 = 4))
    (hc : us.check (vecAlign ty) = .ok ()) (hw : s.waits (us.locs s.cur.core) = false)
    (hq : s.poisonWrite ((us.zip (storedUnits ty v).1).flatMap fun u => cellsAt (spadLoc s.cur.core u.1.1.toNat) u.2) = none)
    (ht : s.Clear .write (s.unitSpans ty.toNat us)) (hp : s.me.pget p = true) :
    s.slotOp .m p (s.vecStore v ty us) = .next (s.vecStored (s.unitSpans ty.toNat us)
      ((us.zip (storedUnits ty v).1).flatMap fun u => cellsAt (spadLoc s.cur.core u.1.1.toNat) u.2) (storedUnits ty v).2) := by
  rw [State.vecStore, storeFmt_ok hfmt, need_ok]
  dsimp only
  rw [spadStore_ok hc hw hq ht, slotOp_done hp]
  rfl
end

/-- Settles O20: each form is the same store to its own units. -/
theorem vectorStoresMove : Obligations.VectorStoresMove := by
  intro s p r base off ty b hs hp v g fits st stores
  have hstore {i : Instr} {us : Units} (he : exec i s = s.slotOp .m p (s.vecStore v ty us)) : stores i us := by
    refine ⟨fun hf => traps_of_fail hp he (vecStore_wrongFormat hf), fun hf hc hw hq ht => ?_⟩
    obtain ⟨un, up, hme⟩ := s.me_vecStored (s.unitSpans ty.toNat us)
      ((us.zip st.1).flatMap fun u => cellsAt (spadLoc s.cur.core u.1.1.toNat) u.2) st.2
    refine ⟨_, he.trans (vecStore_ok hf hc hw hq ht hp), rfl, s.byte_vecStored _ _ _,
      fun a ha => (s.byte_vecStored _ _ _ a).trans (State.byte_setCells_of_notMem hs.mem ha), ?_, ?_⟩
    · rw [hme]
      exact ⟨rfl, rfl, rfl, rfl, rfl, rfl, rfl, rfl, rfl, rfl, rfl, rfl⟩
    · rw [hme]
  refine ⟨fun ha => hstore ?_, fun q hb hq => hstore ?_, fun vi sc hb => hstore ?_⟩
  · rw [exec_vst, ha, need_ok]
  · rw [exec_vsts, hb, need_ok, hq, need_ok]
  · rw [exec_vstx, hb, need_ok]
end Sys2Proof.Machine
end

section
/-!
CERTIFICATE. Where the units of a vector access stand, and what a vector load delivers (O21).
-/
namespace Sys2Proof.Machine
open Sys2Proof.Laws

/-! ## Equations of the instructions -/

theorem exec_vld (p : Fin 64) (d : Dst 32) (base : Fin 64) (off : MOff) (ty : BitVec 4) (s : State) :
    exec (.vld p d base off ty) s =
    s.slotOp .m p (.need (s.me.ea base off) fun a => s.vecLoad d ty (unitsVld ty a)) := rfl
theorem exec_vlds (p : Fin 64) (d : Dst 32) (base : Fin 64) (pitch : MOff) (ty : BitVec 4) (s : State) :
    exec (.vlds p d base pitch ty) s = s.slotOp .m p (.need (s.me.checked base) fun b => .need (s.me.offset pitch) fun q =>
      s.vecLoad d ty (unitsVlds ty b q)) := rfl
theorem exec_vldx (p : Fin 64) (d : Dst 32) (base : Fin 64) (vi : Fin 32) (sc : BitVec 2) (ty : BitVec 4) (s : State) :
    exec (.vldx p d base vi sc ty) s = s.slotOp .m p (.need (s.me.checked base) fun b =>
      s.vecLoad d ty (unitsVldx ty b s.me.vreg[vi] sc)) := rfl
theorem exec_vldsc (p : Fin 64) (d : Dst 32) (base : Fin 64) (off : MOff) (ty : BitVec 4) (s : State) :
    exec (.vldsc p d base off ty) s = execVldsc p d base off ty s := rfl

/-! ## Units (R166) -/

section
variable {ty : BitVec 4} {i : Nat}

theorem unitBytes_of_ne (h : ty ≠ 6) : unitBytes ty = fmtBits ty.toNat / 8 := if_neg h
theorem unitsVld_get (ty : BitVec 4) (b : Word) (hi : i < if ty = 6 then 32 else 128) :
    (unitsVld ty b)[i]? = some (b + BitVec.ofNat 64 (i * unitBytes ty), unitBytes ty) := by
  rw [unitsVld, List.getElem?_map, List.getElem?_range hi]
  rfl
theorem unitsVlds_get (ty : BitVec 4) (b pitch : Word) (hi : i < 128) :
    (unitsVlds ty b pitch)[i]? = some (b + BitVec.ofNat 64 i * pitch, unitBytes ty) := by
  rw [unitsVlds, List.getElem?_map, List.getElem?_range hi]
  rfl
theorem unitsVldx_get (ty : BitVec 4) (b : Word) (vi : VReg) (sc : BitVec 2) (hi : i < 128) :
    (unitsVldx ty b vi sc)[i]? = some (b + ((vi.lanes[i]!).zeroExtend 64 : Word) <<< sc.toNat, unitBytes ty) := by
  simp [unitsVldx, hi]

theorem length_unitsVld (ty : BitVec 4) (b : Word) : (unitsVld ty b).length = if ty = 6 then 32 else 128 := by
  rw [unitsVld, List.length_map, List.length_range]
theorem length_unitsVlds (ty : BitVec 4) (b q : Word) : (unitsVlds ty b q).length = 128 := by
  rw [unitsVlds, List.length_map, List.length_range]
theorem length_unitsVldx (ty : BitVec 4) (b : Word) (vi : VReg) (sc : BitVec 2) : (unitsVldx ty b vi sc).length = 128 := by
  rw [unitsVldx, List.length_map, Vector.length_toList]

/-- Units enough for the 128 lanes, each of the bytes of its type. -/
structure Units.Whole (ty : BitVec 4) (us : Units) : Prop where
  count : (if ty = 6 then 32 else 128) ≤ us.length
  bytes : ∀ u ∈ us, u.2 = unitBytes ty

theorem whole_unitsVld (ty : BitVec 4) (b : Word) : (unitsVld ty b).Whole ty :=
  ⟨(length_unitsVld ty b).ge, List.forall_mem_map.2 fun _ _ => rfl⟩
theorem whole_unitsVlds (ty : BitVec 4) (b q : Word) : (unitsVlds ty b q).Whole ty :=
  ⟨by rw [length_unitsVlds]; split <;> decide, List.forall_mem_map.2 fun _ _ => rfl⟩
theorem whole_unitsVldx (ty : BitVec 4) (b : Word) (vi : VReg) (sc : BitVec 2) : (unitsVldx ty b vi sc).Whole ty :=
  ⟨by rw [length_unitsVldx]; split <;> decide, List.forall_mem_map.2 fun _ _ => rfl⟩
end

/-! ## Cutting bytes into units -/

section
variable {α β : Type} {n i : Nat}

theorem chunks_get (n : Nat) {k : Nat} (hi : i < k) (l : List α) : (chunks n k l)[i]? = some ((l.drop (n * i)).take n) := by
  induction k generalizing i l with
  | zero => exact absurd hi (Nat.not_lt_zero i)
  | succ k ih =>
    rw [chunks]
    cases i with
    | zero => rfl
    | succ i =>
      rw [List.getElem?_cons_succ, ih (Nat.lt_of_succ_lt_succ hi), List.drop_drop, Nat.mul_succ, Nat.add_comm n]
/-- A part of a list that is made of parts of `n` elements. -/
theorem take_drop_flatMap {g : α → List β} {l : List α} (hg : ∀ a ∈ l, (g a).length = n) {a : α} (hi : l[i]? = some a)
    (rest : List β) : ((l.flatMap g ++ rest).drop (n * i)).take n = g a := by
  induction l generalizing i with
  | nil => simp at hi
  | cons b l ih =>
    have hb := hg b List.mem_cons_self
    rw [List.flatMap_cons, List.append_assoc]
    cases i with
    | zero =>
      obtain rfl : b = a := by simpa using hi
      rw [Nat.mul_zero, List.drop_zero, List.take_left' hb]
    | succ i =>
      rw [Nat.mul_succ, Nat.add_comm, ← List.drop_drop, List.drop_left' hb]
      exact ih (fun a ha => hg a (List.mem_cons_of_mem _ ha)) (by simpa using hi)
theorem length_flatMap_parts {g : α → List β} {l : List α} (hg : ∀ a ∈ l, (g a).length = n) :
    (l.flatMap g).length = n * l.length := by
  rw [List.length_flatMap, List.map_congr_left hg, List.map_const', List.sum_replicate, smul_eq_mul, Nat.mul_comm]
end

/-! ## The lanes of a load (R167) -/

/-- The bytes of one unit, and the element of lane `j` in the bytes of its unit. -/
def State.unitOf (s : State) (u : Word × Nat) : List Byte := (Units.locs [u] s.cur.core).map s.byte
def laneOf (ty : BitVec 4) (j : Nat) (bs : List Byte) : Nat := if ty = 6 then widen6 (elemOf 6 (j % 4) bs) else leNat bs
/-- The unit of lane `j`. -/
def laneUnit (ty : BitVec 4) (j : Nat) : Nat := if ty = 6 then j / 4 else j

section
variable {s : State} {ty : BitVec 4} {us : Units}

theorem unitElems_get (j : Nat) (bs : List Byte) :
    (unitElems ty.toNat bs)[if ty = 6 then j % 4 else 0]? = some (laneOf ty j bs) := by
  rw [unitElems, laneOf]
  by_cases h : ty = 6
  · rw [if_pos h, if_pos h, if_pos (eq_six_iff.1 h), List.getElem?_map, List.getElem?_range (Nat.mod_lt j (by decide))]
    rfl
  · rw [if_neg h, if_neg h, if_neg (mt eq_six_iff.2 h)]
    rfl
theorem length_unitElems (bs : List Byte) : (unitElems ty.toNat bs).length = if ty = 6 then 4 else 1 := by
  simp only [unitElems, eq_six_iff]
  split <;> rfl

theorem map_locs (s : State) (us : Units) : (us.locs s.cur.core).map s.byte = us.flatMap s.unitOf := by
  rw [Units.locs, List.map_flatMap]
  exact List.flatMap_congr fun u _ => congrArg (List.map s.byte) (Units.locs_one u.1 u.2 s.cur.core).symm
theorem length_unitOf (s : State) (u : Word × Nat) : (s.unitOf u).length = u.2 := by
  rw [State.unitOf, List.length_map, Units.locs_one u.1 u.2, List.length_map, List.length_range]

/-- The patterns that a load of these bytes gives the lanes. -/
def loadedPats (ty : BitVec 4) (bs : List Byte) (n : Nat) : List Nat := (chunks (unitBytes ty) n bs).flatMap (unitElems ty.toNat)
theorem loadedV_eq (ty : BitVec 4) (bs : List Byte) (n : Nat) : loadedV ty bs n =
    ⟨lanesOf (loadedPats ty bs n), mkTag (loadFmt ty.toNat) false 0 (loadedPats ty bs n), one32⟩ := rfl

theorem loadedPats_get (hus : us.Whole ty) (rest : List Byte) {j : Nat} (hj : laneUnit ty j < us.length) :
    (loadedPats ty (us.flatMap s.unitOf ++ rest) us.length).getD j 0 = laneOf ty j (s.unitOf (us.getD (laneUnit ty j) (0, 0))) := by
  have hpiece : (chunks (unitBytes ty) us.length (us.flatMap s.unitOf ++ rest))[laneUnit ty j]? =
      some (s.unitOf us[laneUnit ty j]) := by
    rw [chunks_get _ hj, take_drop_flatMap (fun u hu => (length_unitOf s u).trans (hus.bytes u hu)) (List.getElem?_eq_getElem hj)]
  have hpart := getElem?_flatMap_parts (g := unitElems ty.toNat) (i := if ty = 6 then j % 4 else 0) length_unitElems
    (by split <;> omega) (chunks (unitBytes ty) us.length (us.flatMap s.unitOf ++ rest)) (laneUnit ty j)
  have hpos : (if ty = 6 then 4 else 1) * laneUnit ty j + (if ty = 6 then j % 4 else 0) = j := by
    rw [laneUnit]
    split <;> omega
  rw [hpos, hpiece, Option.bind_some, unitElems_get] at hpart
  rw [List.getD_eq_getElem?_getD, loadedPats, hpart, List.getD_eq_getElem?_getD, List.getElem?_eq_getElem hj]
  rfl
theorem length_loadedPats (bs : List Byte) (n : Nat) : (loadedPats ty bs n).length = (if ty = 6 then 4 else 1) * n := by
  have hlen : ∀ n (l : List Byte), (chunks (unitBytes ty) n l).length = n := by
    intro n
    induction n with
    | zero => exact fun _ => rfl
    | succ n ih => exact fun l => congrArg (· + 1) (ih _)
  rw [loadedPats, length_flatMap_parts fun bs _ => length_unitElems bs, hlen]
end

/-! ## The tag of a load (R97, R98) -/

theorem lanesOf_pats {ps : List Nat} (hlen : ps.length = 128) (hlt : ∀ p ∈ ps, p < 2 ^ 32) :
    (lanesOf ps).toList.map BitVec.toNat = ps := by
  refine List.ext_getElem (by simp [hlen]) fun j hj _ => ?_
  have hj : j < 128 := by simpa using hj
  have hlane : (lanesOf ps)[j] = BitVec.ofNat 32 (ps.getD j 0) := lanesOf_get ps ⟨j, hj⟩
  have hp : ps[j] < 2 ^ 32 := hlt _ (List.getElem_mem _)
  simpa [hlane, show j < ps.length by omega] using hp
theorem scl_bit (scl : Bool) : (if scl = true then 2 ^ 4 else 0) = 16 * scl.toNat := by cases scl <;> rfl
/-- The summaries of any patterns take two bits. -/
theorem summary_two_bits (f : Nat) (ps : List Nat) : ∃ a b : Bool, summary f ps = a.toNat * 2 ^ 10 + b.toNat * 2 ^ 11 := by
  have hbit (b : Bool) (n : Nat) : (if b = true then n else 0) = b.toNat * n := by cases b <;> simp
  rw [summary]
  cases fmtOf f with
  | none => exact ⟨false, ps.all (· = 0), by rw [hbit]; exact (Nat.zero_add _).symm⟩
  | some q => exact ⟨_, _, congrArg₂ (· + ·) (hbit _ _) (hbit _ _)⟩
theorem mkTag_eq {f : Nat} {scl a b : Bool} {ps : List Nat} (hs : summary f ps = a.toNat * 2 ^ 10 + b.toNat * 2 ^ 11) :
    mkTag f scl 0 ps = BitVec.ofNat 16 (f + 16 * scl.toNat + (a.toNat * 2 ^ 10 + b.toNat * 2 ^ 11)) := by
  rw [mkTag, hs, scl_bit, Nat.add_zero]
/-- The parts of the tag of a load, scaled or not. -/
theorem mkTag_parts {f : Nat} (hf : f < 16) (scl : Bool) (ps : List Nat) :
    bits (mkTag f scl 0 ps) 0 4 = f ∧ bits (mkTag f scl 0 ps) 4 6 = scl.toNat ∧ bits (mkTag f scl 0 ps) 12 4 = 0 := by
  obtain ⟨a, b, hs⟩ := summary_two_bits f ps
  obtain ⟨hfmt, hhead, -, -, hhigh⟩ := tag_parts f scl.toNat a b hf (by cases scl <;> decide)
  rw [mkTag_eq hs]
  exact ⟨hfmt, hhead, hhigh⟩
/-- The summaries in the tag are those of the lanes. -/
theorem mkTag_summaries {f : Nat} (hf : f < 16) (scl : Bool) {ps : List Nat} {v : Vector W32 128}
    (hv : v.toList.map BitVec.toNat = ps) : ((mkTag f scl 0 ps).getLsbD 10 = true ↔ someNonfin f v) ∧
      ((mkTag f scl 0 ps).getLsbD 11 = true ↔ allZeros f v) := by
  obtain ⟨a, b, hs, ha, hb⟩ := summary_lanes f v
  obtain ⟨-, -, hnonfin, hzero, -⟩ := tag_parts f scl.toNat a b hf (by cases scl <;> decide)
  rw [mkTag_eq (hv ▸ hs), hnonfin, hzero]
  exact ⟨ha, hb⟩
/-- Setting scl in an unscaled tag. -/
theorem mkTag_scaled {f : Nat} (hf : f < 16) (ps : List Nat) : mkTag f false 0 ps ||| 0x10 = mkTag f true 0 ps := by
  obtain ⟨a, b, hs⟩ := summary_two_bits f ps
  have hset : ∀ (f : Fin 16) (a b : Bool), (BitVec.ofNat 16 (f + 0 + 0 + (a.toNat * 2 ^ 10 + b.toNat * 2 ^ 11)) ||| 0x10 : Half) =
      BitVec.ofNat 16 (f + 2 ^ 4 + 0 + (a.toNat * 2 ^ 10 + b.toNat * 2 ^ 11)) := by decide
  rw [mkTag, mkTag, hs]
  exact hset ⟨f, hf⟩ a b
theorem bits_five (x : Half) : bits x 5 5 = bits x 4 6 / 2 := by
  simp only [bits, Nat.shiftRight_eq_div_pow]
  omega
theorem getLsbD_four (x : Half) : x.getLsbD 4 = decide (bits x 4 6 % 2 = 1) := by
  simp only [bits, BitVec.getLsbD, Nat.testBit_eq_decide_div_mod_eq, Nat.shiftRight_eq_div_pow]
  exact decide_eq_decide.2 (by omega)

theorem loadFmt_lt (ty : BitVec 4) : loadFmt ty.toNat < 16 := by
  rw [loadFmt]
  split
  · decide
  · exact ty.isLt
theorem loadFmt_eq (ty : BitVec 4) : loadFmt ty.toNat = if ty = 6 then 4 else ty.toNat := by
  simp only [loadFmt, eq_six_iff]

/-! ## The register that a load delivers (R98, R167) -/

theorem widen6_lt : ∀ p : Fin 64, widen6 p.val < 2 ^ 32 := by decide
theorem fmtBits_le (f : Nat) : fmtBits f ≤ 32 := by
  unfold fmtBits
  split <;> decide
theorem laneOf_lt {ty : BitVec 4} (j : Nat) {bs : List Byte} (h : bs.length = unitBytes ty) : laneOf ty j bs < 2 ^ 32 := by
  rw [laneOf]
  split
  · exact widen6_lt ⟨elemOf 6 (j % 4) bs, Nat.mod_lt _ (by decide)⟩
  · next h6 =>
    have hlen : bs.length ≤ 4 := by
      rw [h, unitBytes_of_ne h6]
      have := fmtBits_le ty.toNat
      omega
    exact (leNat_lt bs).trans_le (Nat.pow_le_pow_right (by decide) hlen)

/-- The lanes, tag and scale of a loaded register `x`, as R98 and R167 give them. -/
structure Loaded (s : State) (ty : BitVec 4) (us : Units) (scl : Bool) (x : VReg) : Prop where
  lanes : ∀ j : Fin 128, x.lanes[j] = BitVec.ofNat 32 (laneOf ty j.val (s.unitOf (us.getD (laneUnit ty j.val) (0, 0))))
  fmt   : bits x.tag 0 4 = loadFmt ty.toNat
  head  : bits x.tag 4 6 = scl.toNat
  high  : bits x.tag 12 4 = 0
  whole : us.length = (if ty = 6 then 32 else 128) → (x.tag.getLsbD 10 = true ↔ someNonfin (loadFmt ty.toNat) x.lanes) ∧
    (x.tag.getLsbD 11 = true ↔ allZeros (loadFmt ty.toNat) x.lanes)

section
variable {s : State} {ty : BitVec 4} {us : Units}

theorem Units.Whole.laneUnit_lt (hus : us.Whole ty) {j : Nat} (hj : j < 128) : laneUnit ty j < us.length := by
  refine Nat.lt_of_lt_of_le ?_ hus.count
  rw [laneUnit]
  split <;> omega
theorem loaded_lanesOf (hus : us.Whole ty) (rest : List Byte) (scl : Bool) (scale : W32) : Loaded s ty us scl
    ⟨lanesOf (loadedPats ty (us.flatMap s.unitOf ++ rest) us.length),
      mkTag (loadFmt ty.toNat) scl 0 (loadedPats ty (us.flatMap s.unitOf ++ rest) us.length), scale⟩ := by
  obtain ⟨hfmt, hhead, hhigh⟩ := mkTag_parts (loadFmt_lt ty) scl (loadedPats ty (us.flatMap s.unitOf ++ rest) us.length)
  have hget {j : Nat} (hj : j < 128) := loadedPats_get (s := s) hus rest (hus.laneUnit_lt hj)
  refine ⟨fun j => (lanesOf_get _ j).trans (congrArg _ (hget j.isLt)), hfmt, hhead, hhigh, fun hlen =>
    mkTag_summaries (loadFmt_lt ty) scl (lanesOf_pats ?_ fun p hp => ?_)⟩
  · rw [length_loadedPats, hlen]
    split <;> rfl
  · obtain ⟨j, hj, rfl⟩ := List.mem_iff_getElem.1 hp
    have hj' : j < 128 := by
      rw [length_loadedPats, hlen] at hj
      split at hj <;> exact hj
    have hunit : (s.unitOf (us.getD (laneUnit ty j) (0, 0))).length = unitBytes ty := by
      rw [List.getD_eq_getElem _ _ (hus.laneUnit_lt hj'), length_unitOf]
      exact hus.bytes _ (List.getElem_mem _)
    have hp := hget hj'
    rw [List.getD_eq_getElem _ _ hj] at hp
    rw [hp]
    exact laneOf_lt j hunit
theorem loadedV_loaded (hus : us.Whole ty) : Loaded s ty us false (loadedV ty ((us.locs s.cur.core).map s.byte) us.length) := by
  have h := loaded_lanesOf (s := s) hus [] false one32
  rwa [List.append_nil, ← map_locs] at h

/-- The scratchpad access to these units is made (R363, R75). -/
structure State.ReadsUnits (s : State) (us : Units) (al : Nat) : Prop where
  check  : us.check al = .ok ()
  waits  : s.waits (us.locs s.cur.core) = false
  poison : s.spadPoison us = none
  clear  : s.Clear .read (s.unitSpans 0 us)
/-- The state after a load of `x` from these units. -/
def State.landsUnits (s : State) (d : Dst 32) (us : Units) (x : VReg) : State :=
  ((s.logged .read (s.unitSpans 0 us)).land .m (latLoad s.me.kclass) (dstV d x) (some (.vec x)) 0).issued

section
variable {p base : Fin 64} {off : MOff} {b : Word} (hp : s.me.pget p = true)
include hp

theorem vecLoad_ok (d : Dst 32) (h : s.ReadsUnits us (vecAlign ty)) : s.slotOp .m p (s.vecLoad d ty us) =
    .next (s.landsUnits d us (loadedV ty ((us.locs s.cur.core).map s.byte) us.length)) := by
  rw [State.vecLoad, spadRead_ok h.check h.waits h.poison h.clear, slotOp_done hp]
  rfl
/-- VLDSC reads the elements and then its scale. -/
theorem exec_vldsc_ok (d : Dst 32) (ha : s.me.ea base off = .ok b) {after : Word × Nat}
    (hafter : after = (b + BitVec.ofNat 64 ((unitsVld ty b).length * unitBytes ty), 4))
    (hc : (unitsVld ty b).check (vecAlign ty) = .ok ()) (h : s.ReadsUnits (unitsVld ty b ++ [after]) 1) :
    ∃ x, exec (.vldsc p d base off ty) s = .next (s.landsUnits d (unitsVld ty b ++ [after]) x) ∧
      Loaded s ty (unitsVld ty b) true x ∧ x.scale = BitVec.ofNat 32 (leNat (s.unitOf after)) := by
  have hwhole := whole_unitsVld ty b
  have hbytes : ((unitsVld ty b ++ [after]).locs s.cur.core).map s.byte = (unitsVld ty b).flatMap s.unitOf ++ s.unitOf after := by
    rw [map_locs, List.flatMap_append, List.flatMap_singleton]
  have hlen : ((unitsVld ty b).flatMap s.unitOf).length = (unitsVld ty b).length * unitBytes ty := by
    rw [length_flatMap_parts fun u hu => (length_unitOf s u).trans (hwhole.bytes u hu), Nat.mul_comm]
  refine ⟨_, ?_, loaded_lanesOf hwhole (s.unitOf after) true (BitVec.ofNat 32 (leNat (s.unitOf after))), rfl⟩
  rw [exec_vldsc, execVldsc, ha, need_ok]
  dsimp only
  rw [hc, need_ok, ← hafter, spadRead_ok h.check h.waits h.poison h.clear, slotOp_done hp, hbytes, List.drop_left' hlen, loadedV_eq]
  dsimp only
  rw [mkTag_scaled (loadFmt_lt ty)]
  rfl
end
end

/-- Settles O21: the units of each form are whole, so that a load cuts the bytes it reads where they begin. -/
theorem vectorLoadsDeliver : Obligations.VectorLoadsDeliver := by
  refine ⟨fun ty b pitch vi sc i hi h6 => ?_, fun s p d base off ty b hp => ?_⟩
  · rw [← unitBytes_of_ne h6]
    exact ⟨unitsVld_get ty b (by rwa [if_neg h6]), unitsVlds_get ty b pitch hi, unitsVldx_get ty b vi sc hi, length_unitsVld 6 b,
      fun j hj => unitsVld_get 6 b hj⟩
  · intro lat reads got lands holds delivers
    have hreads {us : Units} {al : Nat} (h : reads us al) : s.ReadsUnits us al :=
      ⟨h.1, h.2.1, h.2.2.1, h.2.2.2⟩
    have hholds {us : Units} {scl : Bool} {x : VReg} (h : Loaded s ty us scl x) : holds us x ∧ x.tag.getLsbD 4 = scl := by
      refine ⟨⟨fun j => (h.lanes j).trans (congrArg _ ?_), h.fmt.trans (loadFmt_eq ty), ?_, h.high, fun hlen => ?_⟩, ?_⟩
      · rw [laneOf, laneUnit]
        split <;> rfl
      · rw [bits_five, h.head]
        cases scl <;> rfl
      · rw [h.fmt]
        exact h.whole hlen
      · rw [getLsbD_four, h.head]
        cases scl <;> rfl
    have hload {i : Instr} {us : Units} (hus : us.Whole ty) (he : exec i s = s.slotOp .m p (s.vecLoad d ty us)) : delivers i us := by
      intro hr
      obtain ⟨hx, hscl⟩ := hholds (loadedV_loaded (s := s) hus)
      exact ⟨_, he.trans (vecLoad_ok hp d (hreads hr)), hx, hscl, rfl⟩
    refine ⟨fun ha => hload (whole_unitsVld ty b) ?_, fun q hb hq => hload (whole_unitsVlds ty b q) ?_,
      fun vi sc hb => hload (whole_unitsVldx ty b _ sc) ?_, fun ha hc hr => ?_⟩
    · rw [exec_vld, ha, need_ok]
    · rw [exec_vlds, hb, need_ok, hq, need_ok]
    · rw [exec_vldx, hb, need_ok]
    · obtain ⟨x, he, hx, hscale⟩ := exec_vldsc_ok hp d ha rfl hc (hreads hr)
      obtain ⟨hx, hscl⟩ := hholds hx
      exact ⟨x, he, hx, hscl, hscale⟩
end Sys2Proof.Machine
end

section
/-!
CERTIFICATE. One row of a descriptor's tile: the bytes that its gates name, and what VLDT and VSTT move (O22).
-/
namespace Sys2Proof.Machine
open Sys2Proof.Laws

/-! ## The bytes that a gate names (R395, R399) -/

theorem Gate.bind_eq_ok {α β : Type} {g : Gate α} {k : α → Gate β} {b : β} (h : g.bind k = .ok b) :
    ∃ a, g = .ok a ∧ k a = .ok b := by
  cases g with
  | ok a => exact ⟨a, rfl, h⟩
  | fault f => cases h
  | fail f => cases h
theorem Gate.both_eq_ok {α β γ : Type} {g : Gate α} {h : Gate β} {k : α → β → γ} {c : γ} (e : g.both h k = .ok c) :
    ∃ a b, g = .ok a ∧ h = .ok b ∧ c = k a b := by
  have hmixed {b : Bool} {x y : Fail} : (if b then Gate.fail (α := γ) x else .fault y) ≠ .ok c ∧
      (if b then Gate.fault (α := γ) x else .fail y) ≠ .ok c := by cases b <;> exact ⟨nofun, nofun⟩
  cases g with
  | ok a => cases h with
    | ok b => exact ⟨a, b, rfl, rfl, (Gate.ok.inj e).symm⟩
    | fault f => cases e
    | fail f => cases e
  | fault f => cases h with
    | ok b => cases e
    | fault _ => cases e
    | fail _ => exact absurd e hmixed.1
  | fail f => cases h with
    | ok b => cases e
    | fault _ => exact absurd e hmixed.2
    | fail _ => cases e

/-- A gate that names `n` bytes where it lets its access pass. -/
def Gate.Names (n : Nat) (g : Gate (List Nat)) : Prop := ∀ ls, g = .ok ls → ls.length = n

section
variable {n : Nat} {g h : Gate (List Nat)}

theorem Gate.Names.fail (f : Fail) : Gate.Names n (.fail f) := fun _ h => nomatch h
theorem Gate.Names.fault (f : Fail) : Gate.Names n (.fault f) := fun _ h => nomatch h
theorem Gate.Names.range (f : Nat → Nat) : Gate.Names n (.ok ((List.range n).map f)) := by
  intro ls h
  rw [← Gate.ok.inj h, List.length_map, List.length_range]
theorem Gate.Names.bind {α : Type} (e : Gate α) {k : α → Gate (List Nat)} (hk : ∀ a, (k a).Names n) : (e.bind k).Names n := by
  intro ls h
  obtain ⟨a, -, ha⟩ := Gate.bind_eq_ok h
  exact hk a ls ha
theorem Gate.Names.ite {c : Prop} [Decidable c] (hg : g.Names n) (hh : h.Names n) : (if c then g else h).Names n := by
  split
  · exact hg
  · exact hh
end

section
variable (s : State) (a : BitVec 12) (w : Want)

/-- The pages of an access hold all its bytes. -/
theorem State.length_pieces {k va n : Nat} (hn : n = 0 ∨ va % 65536 + n ≤ 65536 * k) {ps : List Piece}
    (h : s.pieces a w k va n = .ok ps) : (ps.flatMap fun p => (List.range p.2).map (p.1 + ·)).length = n := by
  induction k generalizing va n ps with
  | zero =>
    cases h
    exact (show n = 0 by omega).symm
  | succ k ih =>
    rw [State.pieces] at h
    by_cases h0 : n = 0
    · rw [if_pos h0] at h
      cases h
      exact h0.symm
    · rw [if_neg h0] at h
      obtain ⟨pa, t, -, ht, rfl⟩ := Gate.both_eq_ok h
      rw [List.flatMap_cons, List.length_append, List.length_map, List.length_range, ih (by omega) ht]
      omega
theorem State.gate1_names (va n : Nat) : (s.gate1 a va n w).Names n := by
  have hpages : ((s.pieces a w (n / 65536 + 2) va n).bind fun ps =>
      .ok (ps.flatMap fun p => (List.range p.2).map (p.1 + ·))).Names n := by
    intro ls h
    obtain ⟨ps, hps, h⟩ := Gate.bind_eq_ok h
    rw [← Gate.ok.inj h]
    exact s.length_pieces a w (by omega) hps
  exact .ite (.bind _ fun _ => hpages) hpages
theorem gate0_names (c : Fin 128) (x : Int) (n : Nat) : (gate0 c x n).Names n := by
  unfold gate0
  dsimp only
  split
  · exact .fail _
  · exact .range _
theorem gate4_names (c : Fin 128) (x : Int) (n : Nat) : (gate4 c x n).Names n := .ite (.fail _) (.ite (.fail _) (.range _))
theorem State.gate2_names (h : Word) (o : Int) (n : Nat) : (s.gate2 a h o n w).Names n :=
  .ite (.fail _) (.ite (.fail _) (.ite (.fail _) (.ite (.fail _) (s.gate1_names a w _ n))))
theorem State.gate3_names (tenstab : Word) (t lay f : Nat) (row col : Int) (n : Nat) :
    (s.gate3 a tenstab t lay f row col n w).Names n :=
  .ite (.fail _) <| .bind _ fun _ => .ite (.fail _) <| .bind _ fun _ => .bind _ fun _ => .ite (.fail _) <|
    .bind _ fun _ => .ite (.fault _) <| .bind _ fun _ => .range _
end

section
variable (s : State) (a : Actor) (w : Want)

theorem State.spaceGate_names (sp : Nat) (h : Word) (x : Int) (n : Nat) : (s.spaceGate a sp h x n w).Names n := by
  unfold State.spaceGate
  split
  · exact gate0_names _ _ _
  · exact .ite (.fail _) (s.gate1_names _ _ _ _)
  · exact s.gate2_names _ _ _ _ _
  · exact gate4_names _ _ _
theorem State.elemGate_names (d : Desc) (f i j : Nat) : (s.elemGate a d f i j w).Names (groupBytes f) :=
  .ite (s.gate3_names _ _ _ _ _ _ _ _ _) (s.spaceGate_names _ _ _ _ _ _)
end

theorem gateAll_names {α : Type} {g : α → Gate (List Nat)} {n : Nat} (hg : ∀ x, (g x).Names n) {l : List α} {ls : List (List Nat)}
    (h : gateAll g l = .ok ls) : ls.length = l.length ∧ ∀ x ∈ ls, x.length = n := by
  induction l generalizing ls with
  | nil =>
    cases h
    exact ⟨rfl, fun x hx => nomatch hx⟩
  | cons x l ih =>
    obtain ⟨a, t, ha, ht, rfl⟩ := Gate.both_eq_ok h
    obtain ⟨hlen, hall⟩ := ih ht
    exact ⟨congrArg (· + 1) hlen, List.forall_mem_cons.2 ⟨hg x a ha, hall⟩⟩

/-! ## The state after a row has been accessed (R254, R257) -/

/-- The state `s` with other accesses logged, and other accesses of the lane noted. -/
def State.accessed (s : State) (as : List Access) (foot : List (AKind × Span)) : State :=
  { s with accs := as }.modMe fun c => { c with mfoot := foot }

section
variable {s t : State} {as : List Access} {foot : List (AKind × Span)}

theorem State.me_accessed (s : State) (as : List Access) (foot : List (AKind × Span)) : (s.accessed as foot).me = { s.me with
    mfoot := foot } := State.me_modMe _ _
theorem State.noted_accessed (s : State) (as : List Access) (foot : List (AKind × Span)) (k : AKind) (l : List Span) :
    ∃ as' foot', ((s.accessed as foot).logged k l).noted k l = s.accessed as' foot' :=
  ⟨((s.accessed as foot).logged k l).accs, foot ++ (l.filter fun x => !isSpad x.loc).map fun x => (k, x),
    State.modCtx_modCtx { s with accs := ((s.accessed as foot).logged k l).accs } s.cur (fun c => { c with mfoot := foot })
      fun c => { c with mfoot := c.mfoot ++ (l.filter fun x => !isSpad x.loc).map fun x => (k, x) }⟩
theorem State.touchRow_accessed {k : AKind} {l : List (Word × List Nat)} (h : (s.accessed as foot).touchRow k l = .ok t) :
    ∃ as' foot', t = s.accessed as' foot' := by
  induction l generalizing as foot with
  | nil => exact ⟨as, foot, (Except.ok.inj h).symm⟩
  | cons x l ih =>
    rw [State.touchRow] at h
    cases hx : (s.accessed as foot).mTouch k x.2 x.1 with
    | error f => rw [hx] at h; cases h
    | ok u =>
      rw [hx] at h
      obtain ⟨as', foot', hu⟩ := s.noted_accessed as foot k (spansOf [(x.1, x.2)])
      rw [mTouch_ok hx, hu] at h
      exact ih h
theorem State.touchRow_ok {k : AKind} {l : List (Word × List Nat)} (h : s.touchRow k l = .ok t) :
    ∃ as foot, t = s.accessed as foot := by
  have hs : s.accessed s.accs s.me.mfoot = s :=
    State.modCtx_of_fixed (s := s) (c := s.cur) (f := fun c => { c with mfoot := s.me.mfoot }) rfl
  rw [← hs] at h
  exact State.touchRow_accessed h
theorem State.plainByte_withStorage (u v : State) (l : Nat) : (u.withStorage v).plainByte l = v.plainByte l := by
  have hflush : ((u.withStorage v).flushLine l).byte l = (v.flushLine l).byte l := by
    rw [State.flushLine_withStorage]
    rfl
  rw [State.plainByte, hflush]
  rfl
/-- An access changes nothing of what its lane sees. -/
theorem State.plainByte_view_accessed (l : Nat) : ((s.accessed as foot).view s.cur).plainByte l = (s.view s.cur).plainByte l := by
  have hctx : (s.accessed as foot).ctx s.cur = { s.me with mfoot := foot } := s.me_accessed as foot
  have hview : (s.accessed as foot).view s.cur = (s.accessed as foot).withStorage (s.view s.cur) :=
    State.view_withStorage (u := s.accessed as foot) s rfl (by rw [hctx]; rfl) (by rw [hctx]; rfl)
  rw [hview]
  exact State.plainByte_withStorage _ _ _
end

/-! ## The checks of a row (R168, R370, R374) -/

section
variable {s : State} {base : Fin 64} {dn : Fin 16} {i : Word}

theorem Ctx.rowDesc_ok {c : Ctx} {dest : Bool} (hi : c.checked base = .ok i)
    (hb : Desc.bad ((c.dreg[dn]).set 7 0) (rowUse dest) = none)
    (hrow : i.toNat < Desc.rows (c.dreg[dn])) : c.rowDesc dn base dest = .ok (c.dreg[dn], i.toNat) := by
  rw [Ctx.rowDesc, hi]
  dsimp only
  rw [hb]
  exact if_neg (Nat.not_le.2 hrow)
/-- The elements of a row's first `n` columns pass the checks of an access that wants `w`, and stand at `ls`. -/
structure State.RowReached (s : State) (q : Desc) (row n : Nat) (w : Want) (ls : List (List Nat)) : Prop where
  aligned : q.rowMisaligned (s.me.actor s.cur.core) row n = none
  units   : q.space = 0 → (q.rowUnits (s.me.actor s.cur.core) row n w.write).check 1 = .ok ()
  gates   : gateAll (fun j => s.elemGate (s.me.actor s.cur.core) q q.fmt row j w) (List.range n) = .ok ls
  waits   : s.waits ls.flatten = false

variable {q : Desc} {row n : Nat} {w : Want} {ls : List (List Nat)}

theorem State.rowUse_ok (h : s.RowReached q row n w ls) (k : List (List Nat) → Res) : s.rowUse q row n w k = k ls := by
  have hcheck : (if q.space = 0 then (q.rowUnits (s.me.actor s.cur.core) row n w.write).check 1 else .ok ()) = .ok () := by
    split
    · next h0 => exact h.units h0
    · rfl
  rw [State.rowUse, h.aligned]
  dsimp only
  rw [hcheck, need_ok, h.gates]
  dsimp only
  rw [h.waits]
  rfl
/-- Each element of a row has the bytes of its group. -/
theorem State.RowReached.lengths (h : s.RowReached q row n w ls) : ls.length = n ∧ ∀ l ∈ ls, l.length = groupBytes q.fmt := by
  obtain ⟨hlen, hbytes⟩ := gateAll_names (fun j => s.elemGate_names _ _ _ _ _ _) h.gates
  exact ⟨hlen.trans List.length_range, hbytes⟩
end

/-! ## A row that is loaded (R98, R168) -/

/-- The pattern that a load gives the lane of an element of format `f` whose group has these bytes. -/
def rowElem (f sub : Nat) (bs : List Byte) : Nat := if f = 6 then widen6 (elemOf f sub bs) else elemOf f sub bs
/-- The register that a load gives `n` elements of a descriptor's row. -/
def Desc.rowReg (q : Desc) (n : Nat) (e : Nat → Nat) (scale : W32) : VReg :=
  ⟨lanesOf ((List.range n).map e), mkTag (loadFmt q.fmt) q.scl (bits q.tag 5 5 * 2 ^ 5)
    ((List.range n).map e ++ List.replicate (128 - n) 0), scale⟩

theorem Desc.fmt_lt (q : Desc) : q.fmt < 16 := bits_lt _ 0 4
theorem loadFmt_lt_of_lt {f : Nat} (h : f < 16) : loadFmt f < 16 := by
  rw [loadFmt]
  split
  · decide
  · exact h
/-- Format and scl of a tag, whatever its other bits. -/
theorem mkTag_low {f : Nat} (hf : f < 16) (scl : Bool) (pv : Nat) (ps : List Nat) :
    (mkTag f scl (pv * 2 ^ 5) ps).toNat % 2 ^ 4 = f ∧ (mkTag f scl (pv * 2 ^ 5) ps).getLsbD 4 = scl := by
  obtain ⟨a, b, hs⟩ := summary_two_bits f ps
  have hbit : scl.toNat < 2 := scl.toNat_lt
  have hnat : (mkTag f scl (pv * 2 ^ 5) ps).toNat =
      (f + 16 * scl.toNat + pv * 2 ^ 5 + (a.toNat * 2 ^ 10 + b.toNat * 2 ^ 11)) % 2 ^ 16 := by
    rw [mkTag, hs, scl_bit, BitVec.toNat_ofNat]
  constructor
  · rw [hnat]
    omega
  · rw [BitVec.getLsbD, hnat, Nat.testBit_eq_decide_div_mod_eq,
      show (f + 16 * scl.toNat + pv * 2 ^ 5 + (a.toNat * 2 ^ 10 + b.toNat * 2 ^ 11)) % 2 ^ 16 / 2 ^ 4 % 2 = scl.toNat by omega]
    cases scl <;> rfl

section
variable {q : Desc} {n : Nat} {e : Nat → Nat} {scale : W32}

theorem Desc.tag_rowReg (q : Desc) (n : Nat) (e : Nat → Nat) (scale : W32) :
    (q.rowReg n e scale).tag.toNat % 2 ^ 4 = loadFmt q.fmt ∧ (q.rowReg n e scale).tag.getLsbD 4 = q.scl :=
  mkTag_low (loadFmt_lt_of_lt q.fmt_lt) _ _ _
theorem Desc.lane_rowReg (q : Desc) (n : Nat) (e : Nat → Nat) (scale : W32) (j : Fin 128) :
    (q.rowReg n e scale).lanes[j] = if j.val < n then BitVec.ofNat 32 (e j.val) else 0 := by
  refine (lanesOf_get _ j).trans ?_
  split
  · next h => simp [h]
  · next h => simp [h]
end

section
variable {ls : List (List Nat)} {sl : List Nat} {n g : Nat} {see : Nat → Byte}

/-- A row's bytes, with those of its scale after them, cut where the elements begin. -/
theorem chunks_row_get (hls : ls.length = n) (hg : ∀ l ∈ ls, l.length = g) {j : Nat} (hj : j < n) :
    (chunks g n ((ls.flatten ++ sl).map see)).getD j [] = (ls.getD j []).map see := by
  have hget : ls[j]? = some (ls.getD j []) := by simp [show j < ls.length by omega]
  rw [List.getD_eq_getElem?_getD, chunks_get g hj, List.map_append, List.map_flatten, ← List.flatMap_def,
    take_drop_flatMap (fun l hl => (List.length_map see).trans (hg l hl)) hget]
  rfl
theorem drop_row (hls : ls.length = n) (hg : ∀ l ∈ ls, l.length = g) :
    ((ls.flatten ++ sl).map see).drop (n * g) = sl.map see := by
  rw [List.map_append]
  refine List.drop_left' ?_
  rw [List.length_map, ← List.flatMap_id', length_flatMap_parts hg, hls, Nat.mul_comm]
end

theorem exec_vldt (p : Fin 64) (d : Dst 32) (base : Fin 64) (dn : Fin 16) (s : State) :
    exec (.vldt p d base dn) s = execVldt p d base dn s := rfl

/-- A loaded row joins the pipeline: at the load latency from the scratchpad, else interlocked (R55). -/
def State.rowLanded (t : State) (d : Dst 32) (sp lat : Nat) (x : VReg) (src : List Span) : State :=
  if sp = 0 then t.land .m lat (dstV d x) (some (.vec x)) 0 else t.landLater (dstV d x) (.vec x) src false

section
variable {s t : State}

theorem State.me_rowLanded {foot : List (AKind × Span)} (hme : t.me = { s.me with mfoot := foot }) (htime : t.time = s.time)
    (d : Dst 32) (sp lat : Nat) (x : VReg) (src : List Span) : (t.rowLanded d sp lat x src).me = { s.me with
      pipe := s.me.pipe ++ [⟨.m, s.me.n, s.me.pc, if sp = 0 then some (s.me.n + lat) else none, dstV d x, some (.vec x), 0,
        if sp = 0 then [] else src, if sp = 0 then s.time + lat else s.time, false⟩]
      mfoot := (t.rowLanded d sp lat x src).me.mfoot } := by
  by_cases h : sp = 0
  · rw [State.rowLanded, if_pos h, if_pos h, if_pos h, if_pos h, State.land, State.me_modMe, hme, htime]
  · rw [State.rowLanded, if_neg h, if_neg h, if_neg h, if_neg h, State.landLater, State.me_modMe, hme, htime]
/-- A plain read after accesses that were logged: the bytes that the lane saw before them. -/
theorem State.plainRead_accessed (as : List Access) (foot : List (AKind × Span)) (ls : List Nat) :
    (s.accessed as foot).plainRead (s.accessed as foot).cur ls =
      (ls.map (s.view s.cur).plainByte, (s.accessed as foot).flushLocs ls) :=
  congrArg (·, _) (List.map_congr_left fun l _ => State.plainByte_view_accessed l)
theorem State.flushLocs_storageOnly (s : State) (ls : List Nat) : StorageOnly s (s.flushLocs ls) := by
  refine StorageOnly.foldl (fun s l => ?_) ls s
  split
  · exact .refl s
  · exact .flushLine s l

/-- The names of a row's elements and of its scale (R403). -/
def State.rowNames (s : State) (q : Desc) (row n : Nat) (ls : List (List Nat)) (sl : List Nat) : List (Word × List Nat) :=
  (List.range n).zipWith (fun j l => q.named (s.me.actor s.cur.core) row j l) ls ++
    [(q.flatName ((q.scaleAddr.toNat + 4 * row : Nat) : Int), sl)]
/-- The register that the elements at `ls` and the scale at `sl` give, as the lane sees their bytes. -/
def State.rowRead (s : State) (q : Desc) (row n : Nat) (ls : List (List Nat)) (sl : List Nat) : VReg :=
  q.rowReg n (fun j => rowElem q.fmt (q.sub (s.me.actor s.cur.core) row j) ((ls.getD j []).map (s.view s.cur).plainByte))
    (if q.scl then BitVec.ofNat 32 (leNat (sl.map (s.view s.cur).plainByte)) else one32)

variable {p base : Fin 64} {dn : Fin 16} {q : Desc} {row n : Nat} {ls : List (List Nat)} {sl : List Nat}

/-- VLDT, where its checks pass, loads the elements as its lane sees them. -/
theorem exec_vldt_ok (hp : s.me.pget p = true) (hd : s.me.rowDesc dn base false = .ok (q, row)) (hn : min q.cols 128 = n)
    (h : s.RowReached q row n ⟨false, false⟩ ls) (hsc : s.rowScale (s.me.actor s.cur.core) q row = .ok sl)
    (hw : s.waits sl = false) (hq : s.namedPoison (s.rowNames q row n ls sl) = none)
    (ht : s.touchRow .read (s.rowNames q row n ls sl) = .ok t) (d : Dst 32) :
    exec (.vldt p d base dn) s = .next ((t.flushLocs (ls.flatten ++ sl)).rowLanded d q.space (latLoad s.me.kclass)
      (s.rowRead q row n ls sl) (spansOf (s.rowNames q row n ls sl))).issued := by
  obtain ⟨as, foot, rfl⟩ := State.touchRow_ok ht
  obtain ⟨hlen, hbytes⟩ := h.lengths
  have hps : ((List.range n).map fun j =>
      let e := elemOf q.fmt (q.sub (s.me.actor s.cur.core) row j)
        ((chunks (groupBytes q.fmt) n ((ls.flatten ++ sl).map (s.view s.cur).plainByte)).getD j [])
      if q.fmt = 6 then widen6 e else e) = (List.range n).map fun j =>
        rowElem q.fmt (q.sub (s.me.actor s.cur.core) row j) ((ls.getD j []).map (s.view s.cur).plainByte) :=
    List.map_congr_left fun j hj => by rw [chunks_row_get hlen hbytes (List.mem_range.1 hj)]; rfl
  rw [State.rowNames] at hq ht
  rw [exec_vldt, execVldt, hd, need_ok]
  dsimp only
  rw [hn, State.rowUse_ok h, hsc]
  dsimp only
  rw [hw, if_neg Bool.false_ne_true, hq]
  dsimp only
  rw [ht, need_ok, State.plainRead_accessed, hps, drop_row hlen hbytes, State.rowLanded]
  split <;> exact slotOp_done hp
end

/-! ## A row that is stored (R99, R168) -/

theorem exec_vstt (p : Fin 64) (r : Fin 32) (base : Fin 64) (dn : Fin 16) (s : State) :
    exec (.vstt p r base dn) s = execVstt p r base dn s := rfl

/-- The pattern that a store of format `f` takes from lane `j`. -/
def VReg.rowPat (v : VReg) (f j : Nat) : Nat :=
  if f = 6 then (narrow6 (v.lanes[j]?.getD 0).toNat).1 else (v.lanes[j]?.getD 0).toNat
/-- The flags of the narrowing of `n` lanes. -/
def VReg.rowFlags (v : VReg) (f n : Nat) : Flags := ((List.range n).map fun j =>
  let x := (v.lanes[j]?).getD 0
  if f = 6 then narrow6 x.toNat else (x.toNat, 0)).foldl (fun f e => f ||| e.2) 0
/-- The cells that a store of `v` to the elements at `ls` writes. -/
def State.rowCells (s : State) (q : Desc) (row n : Nat) (ls : List (List Nat)) (v : VReg) : List Host.Cell :=
  cellsOf (putAll q.fmt (s.view s.cur).plainByte
    ((List.range n).map fun j => (ls.getD j [], q.sub (s.me.actor s.cur.core) row j, v.rowPat q.fmt j)) [])
/-- Cells are written: those of the own scratchpad at once, the others held to the close at address `a` (R47, R69). -/
def State.splitWrite (t : State) (k : Fin 128) (cs : List Host.Cell) (a : Word) : State :=
  let u := t.spadWrite t.cur (cs.filter fun c => ownSpad k c.1)
  if cs.filter (fun c => !ownSpad k c.1) = [] then u
  else u.modMe fun c => { c with pend := c.pend ++ [⟨.bytes (cs.filter fun c => !ownSpad k c.1), a, false, false, some 0⟩] }

/-- The state after a row has been stored, with the flags `f` of its narrowing. -/
def State.rowStored (t : State) (k : Fin 128) (cs : List Host.Cell) (a : Word) (f : Flags) : State :=
  ((t.splitWrite k cs a).modMe fun c => c.raise .m c.pc f).issued

section
variable {s t : State} {p base : Fin 64} {dn : Fin 16} {q : Desc} {row n : Nat} {ls : List (List Nat)} {r : Fin 32}

/-- VSTT, where its checks pass, writes its elements into the groups that hold them. -/
theorem exec_vstt_ok (hp : s.me.pget p = true) (hd : s.me.rowDesc dn base true = .ok (q, row)) (hn : min q.cols 128 = n)
    (hf : storeFmt s.me.vreg[r] q.fmt = .ok ()) (h : s.RowReached q row n ⟨true, false⟩ ls)
    (hq : s.poisonWrite (s.rowCells q row n ls s.me.vreg[r]) = none)
    (ht : s.touchRow .write (((List.range n).zipWith (fun j l => q.named (s.me.actor s.cur.core) row j l) ls).map
      (widenNamed q.fmt)) = .ok t) :
    exec (.vstt p r base dn) s = .next (t.rowStored s.cur.core (s.rowCells q row n ls s.me.vreg[r])
      (BitVec.ofInt 64 (q.addr (s.me.actor s.cur.core) row 0)) ((s.me.vreg[r]).rowFlags q.fmt n)) := by
  have hpats : ((List.range n).map fun j => (ls.getD j [], q.sub (s.me.actor s.cur.core) row j,
      (((List.range n).map fun j => let x := (s.me.vreg[r].lanes[j]?).getD 0
        if q.fmt = 6 then narrow6 x.toNat else (x.toNat, 0)).getD j (0, 0)).1)) =
      (List.range n).map fun j => (ls.getD j [], q.sub (s.me.actor s.cur.core) row j, (s.me.vreg[r]).rowPat q.fmt j) := by
    refine List.map_congr_left fun j hj => ?_
    rw [getD_map_range (List.mem_range.1 hj), VReg.rowPat]
    split <;> rfl
  rw [State.rowCells] at hq
  rw [exec_vstt, execVstt, hd, need_ok]
  dsimp only
  rw [hf, need_ok, hn, State.rowUse_ok h, hpats, hq]
  dsimp only
  rw [ht, need_ok, List.partition_eq_filter_filter, slotOp_done hp, State.rowStored, State.splitWrite, ← State.rowCells]
  simp only [List.isEmpty_iff]
  rfl
end

section
variable (s : State) (as : List Access) (foot : List (AKind × Span)) (k : Fin 128) (cs : List Host.Cell) (a : Word) (f : Flags)

theorem State.byte_splitWrite (x : Nat) : ((s.accessed as foot).splitWrite k cs a).byte x =
    (s.setCells (cs.filter fun c => ownSpad k c.1)).byte x := by
  have hcells : (s.accessed as foot).setCells (cs.filter fun c => ownSpad k c.1) =
      (s.accessed as foot).withStorage (s.setCells (cs.filter fun c => ownSpad k c.1)) :=
    State.setCells_withStorage (s.accessed as foot) s _
  have hown := State.byte_spadWrite (s.accessed as foot) s.cur (cs.filter fun c => ownSpad k c.1) x
  rw [hcells] at hown
  rw [State.splitWrite]
  split <;> exact hown
/-- What a store changes in its lane, beside the record of its slot. -/
theorem State.me_splitWrite : ∃ un up, ((s.accessed as foot).splitWrite k cs a).me = { s.me with
    mfoot := foot
    undo := un
    unpoison := up
    pend := s.me.pend ++ if (cs.filter fun c => !ownSpad k c.1) = [] then []
      else [⟨.bytes (cs.filter fun c => !ownSpad k c.1), a, false, false, some 0⟩] } := by
  obtain ⟨un, up, hme⟩ := State.me_spadWrite_eq (s.accessed as foot) (cs.filter fun c => ownSpad k c.1)
  refine ⟨un, up, ?_⟩
  rw [State.me_accessed] at hme
  rw [State.splitWrite]
  split
  · rw [hme, List.append_nil]
  · rw [State.me_modMe, hme]
theorem State.me_rowStored : ((s.accessed as foot).rowStored k cs a f).me.vreg = s.me.vreg ∧
    ((s.accessed as foot).rowStored k cs a f).me.pipe = s.me.pipe ∧ ((s.accessed as foot).rowStored k cs a f).me.pend =
      s.me.pend ++ if (cs.filter fun c => !ownSpad k c.1) = [] then []
        else [⟨.bytes (cs.filter fun c => !ownSpad k c.1), a, false, false, some 0⟩] := by
  obtain ⟨un, up, hme⟩ := s.me_splitWrite as foot k cs a
  have hraise : ((s.accessed as foot).rowStored k cs a f).me =
      ((s.accessed as foot).splitWrite k cs a).me.raise .m ((s.accessed as foot).splitWrite k cs a).me.pc f :=
    State.me_modMe ((s.accessed as foot).splitWrite k cs a) fun c => c.raise .m c.pc f
  rw [hraise, hme]
  exact ⟨rfl, rfl, rfl⟩
theorem State.byte_rowStored (x : Nat) : ((s.accessed as foot).rowStored k cs a f).byte x =
    (s.setCells (cs.filter fun c => ownSpad k c.1)).byte x := s.byte_splitWrite as foot k cs a x
end

/-- Settles O22: what a lane reads does not change while its accesses are logged, and each gate names the bytes of one group. -/
theorem descriptorRowsMove : Obligations.DescriptorRowsMove := by
  intro s p base dn i ls hs hp hi q a n row see lat hrow hm hw
  refine ⟨?_, ?_⟩
  · intro d sl hc hws hb hg hsc named hq t ht
    obtain ⟨as, foot, rfl⟩ := State.touchRow_ok ht
    have hstorage := State.flushLocs_storageOnly (s.accessed as foot) (ls.flatten ++ sl)
    have hme : ((s.accessed as foot).flushLocs (ls.flatten ++ sl)).me = { s.me with mfoot := foot } := by
      obtain ⟨m, e, x, h⟩ := hstorage
      rw [h]
      exact s.me_accessed as foot
    have hu := State.me_rowLanded hme hstorage.time d q.space lat (s.rowRead q row n ls sl) (spansOf named)
    obtain ⟨hfmt, hscl⟩ := q.tag_rowReg n (fun j => rowElem q.fmt (q.sub a row j) ((ls.getD j []).map see))
      (if q.scl then BitVec.ofNat 32 (leNat (sl.map see)) else one32)
    refine ⟨_, s.rowRead q row n ls sl, exec_vldt_ok hp (Ctx.rowDesc_ok hi hb hrow) rfl ⟨hm, hc, hg, hw⟩ hsc hws hq ht d, rfl,
      hu, rfl, hfmt, hscl, fun j => Desc.lane_rowReg q n _ _ j⟩
  · intro r hc hb hf hg pat cs hq t ht
    obtain ⟨as, foot, rfl⟩ := State.touchRow_ok ht
    have hcs : cs = s.rowCells q row n ls s.me.vreg[r] := rfl
    clear_value cs
    subst hcs
    obtain ⟨hvreg, hpipe, hpend⟩ := s.me_rowStored as foot s.cur.core (s.rowCells q row n ls s.me.vreg[r])
      (BitVec.ofInt 64 (q.addr a row 0)) ((s.me.vreg[r]).rowFlags q.fmt n)
    have hbyte := s.byte_rowStored as foot s.cur.core (s.rowCells q row n ls s.me.vreg[r])
      (BitVec.ofInt 64 (q.addr a row 0)) ((s.me.vreg[r]).rowFlags q.fmt n)
    refine ⟨_, exec_vstt_ok hp (Ctx.rowDesc_ok hi hb hrow) rfl hf ⟨hm, hc, hg, hw⟩ hq ht, rfl, hvreg, hpipe, hbyte,
      fun x hx => (hbyte x).trans (State.byte_setCells_of_notMem hs.mem fun hmem => hx ?_), hpend⟩
    obtain ⟨c, hc, rfl⟩ := List.mem_map.1 hmem
    exact List.mem_map_of_mem (List.mem_of_mem_filter hc)
end Sys2Proof.Machine
end

section
/-!
CERTIFICATE. The statements about the decoder and the encoder.
-/
namespace Sys2Proof.Laws.RoundTrip

/-- Every instruction comes back from its encoding: one lemma for each constructor, in the order of `Instr`. -/
theorem statement_all (i : Instr) : Statement i :=
  Instr.casesOn i
    -- S slot (R139 to R148)
    add sub mul mulh mulhn divs divn rems remn and or xor andn shl shr sra min max minn maxn movi movk lea sext zext popc clz
    ctz bext bins cmpeq cmpne cmplt cmple cmpltn cmplen sel pand por pxor pandn pmov ptos dset dget crrd crwr sfld fadds fmuls
    fcmplt fcvtis fcvtsi
    -- C slot (R149)
    br brs call ret loop loopi tail phase fence waiteq waitge hwait hrel hset trap bkpt
    -- M slot (R164)
    ld st ldg stg vld vst vlds vsts vldx vstx vldt vstt ldb amadd ammax ammin amand amor futrd futfill kst dld dst vldsc
    -- V slot (R189)
    vadd vsub vmul vfma vfms vfnma vmin vmax vabs vneg vcpys vand vor vxor vshl vshr vsra vcmpeq vcmplt vcmple vcmpne vclass
    vsel vrcp vrsqrt vsqrt vexp2 vlog2 vtanh vcvt vscale vquant vradd vrmax vrmin vbcast vperm vrotl viota vmovk kpopc vsig
    vmov vextr vins vscan
    -- X slot (R211, R231)
    mzero mmul mopa macc mscl mdrn mldz mtrn mcopy mlu mchol mtrs mqr msolve mresume mperm mnorm
    -- K slot (R175)
    kcpy kmcst kred kidx kgth ksct kroute ka2a kgat kring kfill
    -- O slot (R224)
    osgd omom oadam oclip oscl ogsq
    -- Lanes, bundles and gangs
    syncBundle syncRelease endOfStepBundle laneFinish resultLand bankSwitch waitSatisfied hwaitSatisfied remoteFutureAnswer
    remoteWakeUp
    -- Engines
    projectionCacheFill xBarrierSatisfied matrixEngineStep matrixStepReplay kCommandStart sourceReadDone visibleLevel
    commandError kredAccept kringClaim ka2aSend ka2aRoundAdvance loadBlockResident closeWriteArrival trapRingConsume
    dataPoison faultAnswer
    -- Mailbox commands, taken by Zenhel from mailbox `mb` (R303)
    submitGraph loadModule preemptNode preemptAsid resumeNode setDebugging releaseBreakpoint abortNodes poisonFuture
    mailboxReservedCommand
    -- Scheduling
    dispatchDecision clusterClaim traceReplayDispatch traceWaitTimeout traceFullClear stepSnapshotSave stepStart
    nodeActivation randomBufferFill nodeRetirement slotBoundary watchdogExpiry preemptionSave saveAbandon
    -- Boot, configuration, monitors
    moduleReset bootStageComplete configRegisterWrite monitorSample monitorClear counterClear
    -- Plibin link
    flitReceive flitReplay pauseFlit resumeFlit remoteKcpyArrival
    -- Neighbour voting and fencing
    heartbeatSend heartbeatReceive heartbeatPeriodEnd voteReceive fenceNotice selfTestComplete appealReceive
    reinstatementNotice controlHeartbeat standbyTakeover
    -- Changes of the outside world
    cxlDeviceRemoved portDown portRetrained softError translationInvalidation remoteFutureAccess

end Sys2Proof.Laws.RoundTrip

namespace Sys2Proof

/-- Settles O56: every constructor's lemma says it of its own encoding. -/
theorem decodeOfEncodeIsTheInstruction : Obligations.DecodeOfEncodeIsTheInstruction :=
  fun i sl w hwf henc => Laws.RoundTrip.statement_all i hwf sl w henc

theorem decodeSlot_of_encode {i : Instr} {sl : Slot} {w : Nat} (henc : encode i = some (sl, w)) (hwf : Instr.wf i = true) :
    decodeSlot sl w = .ok (some i) := (decodeOfEncodeIsTheInstruction i sl w hwf henc).1

/-- Settles O55: a word that the formats give an instruction is its encoding (O56); NOP and the refused words are decoded as
they stand. -/
theorem decodeWords : Obligations.DecodeWords :=
  ⟨decodeSlot_of_encode rfl rfl, decodeSlot_of_encode rfl rfl, decodeSlot_of_encode rfl rfl, decodeSlot_of_encode rfl rfl,
    decodeSlot_of_encode rfl rfl, decodeSlot_of_encode rfl rfl, decodeSlot_of_encode rfl rfl, decodeSlot_of_encode rfl rfl,
    decodeSlot_of_encode rfl rfl, decodeSlot_of_encode rfl rfl, rfl, rfl, rfl, rfl⟩

end Sys2Proof
end

section
/-!
SUPPORT. The word operations of the scalar slots as arithmetic: shifts, compares, division, bit fields, low halves; and
what a control register reads as and what a write leaves of the others.
-/
namespace Sys2Proof.Machine

/-! ## Shifts, signed compares and the division (R139, R140, R143) -/

theorem shiftCount_eq (y : Word) : shiftCount y = y.toNat % 64 := by
  simp [shiftCount, bits]
theorem shiftLeft_eq_ofNat (x : Word) (n : Nat) : x <<< n = BitVec.ofNat 64 (x.toNat * 2 ^ n) :=
  BitVec.eq_of_toNat_eq (by rw [BitVec.toNat_shiftLeft, BitVec.toNat_ofNat, Nat.shiftLeft_eq])
theorem ushiftRight_eq_ofNat (x : Word) (n : Nat) : x >>> n = BitVec.ofNat 64 (x.toNat / 2 ^ n) := by
  refine BitVec.eq_of_toNat_eq ?_
  rw [BitVec.toNat_ushiftRight, BitVec.toNat_ofNat, Nat.shiftRight_eq_div_pow,
    Nat.mod_eq_of_lt (lt_of_le_of_lt (Nat.div_le_self _ _) x.isLt)]
theorem sshiftRight_eq_ofInt (x : Word) (n : Nat) : x.sshiftRight n = BitVec.ofInt 64 (x.toInt / 2 ^ n) := by
  rw [BitVec.sshiftRight, Int.shiftRight_eq_div_pow]
  norm_cast
theorem ite_sle {α : Type} (x y : Word) (a b : α) : (if x.sle y then a else b) = if x.toInt ≤ y.toInt then a else b := by
  simp [BitVec.sle]
theorem ite_ule {α : Type} (x y : Word) (a b : α) : (if x.ule y then a else b) = if x.toNat ≤ y.toNat then a else b := by
  simp [BitVec.ule]

/-- A zero divisor (R140). -/
theorem divide_zero (signed : Bool) (x : Word) : divide signed x 0 = (BitVec.allOnes 64, x, fDz) := if_pos rfl
/-- The unsigned quotient and remainder (R140). -/
theorem divide_unsigned {x y : Word} (h : y ≠ 0) :
    divide false x y = (BitVec.ofNat 64 (x.toNat / y.toNat), BitVec.ofNat 64 (x.toNat % y.toNat), 0) := by
  have hq : x / y = BitVec.ofNat 64 (x.toNat / y.toNat) := by
    rw [← BitVec.toNat_udiv, BitVec.ofNat_toNat, BitVec.setWidth_eq]
  have hr : x % y = BitVec.ofNat 64 (x.toNat % y.toNat) := by
    rw [← BitVec.toNat_umod, BitVec.ofNat_toNat, BitVec.setWidth_eq]
  rw [divide, if_neg h, hq, hr]
  rfl
/-- The one signed quotient that has no 64-bit value (R140). -/
theorem divide_overflow : divide true (BitVec.intMin 64) (BitVec.allOnes 64) = (BitVec.intMin 64, 0, fOvf) := by decide
/-- The signed quotient is truncated toward zero (R140). -/
theorem divide_signed {x y : Word} (h : y ≠ 0) (ho : ¬(x = BitVec.intMin 64 ∧ y = BitVec.allOnes 64)) :
    divide true x y = (BitVec.ofInt 64 (x.toInt.tdiv y.toInt), BitVec.ofInt 64 (x.toInt.tmod y.toInt), 0) := by
  have hq : x.sdiv y = BitVec.ofInt 64 (x.toInt.tdiv y.toInt) := by
    refine BitVec.eq_of_toInt_eq ?_
    rw [BitVec.toInt_sdiv, BitVec.toInt_ofInt]
  have hr : x.srem y = BitVec.ofInt 64 (x.toInt.tmod y.toInt) := by
    rw [← BitVec.toInt_srem, BitVec.ofInt_toInt]
  rw [divide, if_neg h, if_pos rfl, if_neg (by simpa using ho), hq, hr]

/-! ## Bit fields (R142) -/

/-- Inside the field stand the bits of the value, outside those of the old word. -/
theorem getLsbD_insertBits (old v : Word) (lo w : Nat) {i : Nat} (hi : i < 64) :
    (insertBits old v lo w).getLsbD i = if lo ≤ i ∧ i < lo + w then v.getLsbD (i - lo) else old.getLsbD i := by
  have mask : (BitVec.ofNat 64 ((2 ^ w - 1) <<< lo)).getLsbD i = decide (lo ≤ i ∧ i < lo + w) := by
    rw [BitVec.getLsbD_ofNat, Nat.testBit_shiftLeft, Nat.testBit_two_pow_sub_one, decide_eq_true hi, Bool.true_and,
      ← Bool.decide_and]
    exact decide_eq_decide.2 (by omega)
  simp only [insertBits, BitVec.getLsbD_or, BitVec.getLsbD_and, BitVec.getLsbD_not, BitVec.getLsbD_shiftLeft, mask, hi]
  by_cases h : lo ≤ i ∧ i < lo + w
  · simp [h, Nat.not_lt.2 h.1]
  · simp [h]
theorem bits_low_six (y : Word) : bits y 0 6 = y.toNat % 64 := rfl
theorem bits_next_six (y : Word) : bits y 6 6 = y.toNat / 64 % 64 := by
  rw [bits, Nat.shiftRight_eq_div_pow]
  rfl
theorem natLen_le {n : Nat} (h : n < 2 ^ 64) : natLen n ≤ 64 := by
  unfold natLen
  split
  · omega
  next h0 => exact (Nat.log2_lt h0).2 h
theorem lt_two_pow_natLen (n : Nat) : n < 2 ^ natLen n := by
  unfold natLen
  split
  next h => simp [h]
  · exact Nat.lt_log2_self
theorem two_pow_le_of_natLen {n k : Nat} (h : natLen n = k + 1) : 2 ^ k ≤ n := by
  unfold natLen at h
  split at h
  · omega
  next h0 =>
    obtain rfl : k = n.log2 := by omega
    exact Nat.log2_self_le h0
/-- The place of the lowest 1 bit, or the width. -/
theorem find_lowest_bit (x : Word) :
    let n := ((List.range 64).find? fun i => x.getLsbD i).getD 64
    n ≤ 64 ∧ (∀ i < n, x.getLsbD i = false) ∧ (n < 64 → x.getLsbD n = true) := by
  dsimp only
  cases h : (List.range 64).find? fun i => x.getLsbD i with
  | none =>
    rw [List.find?_range_eq_none] at h
    exact ⟨le_refl _, fun i hi => by simpa using h i hi, fun h => absurd h (by decide)⟩
  | some n =>
    obtain ⟨h1, h2, h3⟩ := List.find?_range_eq_some.1 h
    exact ⟨(List.mem_range.1 h2).le, fun i hi => by simpa using h3 i hi, fun _ => h1⟩

/-! ## Low halves (R148) -/

theorem lo32_toNat (x : Word) : (lo32 x).toNat = x.toNat % 2 ^ 32 := by
  simp [lo32]
theorem f32_lo32 (x : Word) : f32 (lo32 x) = fp32.dec (x.toNat % 2 ^ 32) := by rw [f32, lo32_toNat]

/-! ## Control registers (R146, R162) -/

/-- The sticky records are read with their first field above their flags (R111, R162). -/
theorem State.crRead_fx (s : State) (c : CtxId) (i : Fin 8) : s.crRead c (0x010 + i.val) =
    BitVec.ofNat 64 ((s.ctx c).cr.fx[i].flags.toNat + (s.ctx c).cr.fx[i].first.toNat * 2 ^ 16) := by
  have hi : 0x010 ≤ 0x010 + i.val ∧ 0x010 + i.val ≤ 0x017 := by omega
  unfold State.crRead
  rw [if_neg (by omega), if_neg (by omega), if_neg (by omega), if_neg (by omega), if_neg (by omega), if_neg (by omega),
    if_neg (by omega), if_neg (by omega), if_neg (by omega), dif_pos hi]
  simp only [Nat.add_sub_cancel_left, Fin.getElem_fin]
theorem State.crRead_mseq (s : State) (c : CtxId) (i : Fin 8) : s.crRead c (0x030 + i.val) = (s.ctx c).cr.mseq[i] := by
  fin_cases i <;> rfl
theorem CReg.write_fx (r : CReg) (i : Fin 8) (w : Word) : r.write (0x010 + i.val) w = { r with
    fx := r.fx.set i ⟨r.fx[i].flags &&& ~~~(w.truncate 6),
      if r.fx[i].flags &&& ~~~(w.truncate 6) = 0 then 0 else r.fx[i].first⟩ } := by
  have hi : 0x010 ≤ 0x010 + i.val ∧ 0x010 + i.val ≤ 0x017 := by omega
  unfold CReg.write
  rw [if_neg (by omega), dif_pos hi]
  simp only [Nat.add_sub_cancel_left, Fin.eta]
theorem CReg.write_mseq (r : CReg) (i : Fin 8) (w : Word) :
    r.write (0x030 + i.val) w = { r with mseq := r.mseq.set i w } := by
  fin_cases i <;> rfl
/-- A number that no clause of a write names: the register keeps its value (R4, R162). -/
theorem CReg.write_readOnly (r : CReg) (w : Word) {n : Nat}
    (h : n ≤ 0x007 ∨ n = 0x021 ∨ n = 0x024 ∨ n = 0x02A ∨ n = 0x02B ∨ n = 0x040 ∨ n = 0x041) : r.write n w = r := by
  unfold CReg.write
  rw [if_neg (by omega), dif_neg (by omega), if_neg (by omega), if_neg (by omega), if_neg (by omega), if_neg (by omega),
    if_neg (by omega), if_neg (by omega), if_neg (by omega), if_neg (by omega), dif_neg (by omega)]

end Sys2Proof.Machine
end

section
/-!
CERTIFICATE. The scalar slots: integers, bit fields, compares and predicates, FP32, fields and control registers (O1 to
O4, O8).
-/
namespace Sys2Proof.Machine
open Sys2Proof.Laws

/-! ## Integers (O1) -/

section
variable {s : State} {u : SUnit} {p : Fin 64} {d : Dst 64} {a : SSrc} {b : SBSrc} {x y : SVal} {lat : Nat}

theorem sop2_gives {f : Word → Word → Word × Flags} {v : Word} {g : Flags} (hp : s.me.pget p = true)
    (ha : s.me.readS a = .ok x) (hb : s.me.readSB b = .ok y) (h : f x.val y.val = (v, g)) :
    sop2 u p d a b lat f s = .next (s.landS u.slot lat d v g).issued := by
  rw [sop2_ok hp ha hb, h]
theorem sop2_plain {f : Word → Word → Word} {v : Word} (hp : s.me.pget p = true)
    (ha : s.me.readS a = .ok x) (hb : s.me.readSB b = .ok y) (h : f x.val y.val = v) :
    sop2 u p d a b lat (plain f) s = .next (s.landS u.slot lat d v 0).issued :=
  sop2_gives hp ha hb (by rw [plain, h])

theorem exec_divn (u : SUnit) (p : Fin 64) (d : Dst 64) (a : SSrc) (b : SBSrc) (s : State) :
    exec (.divn u p d a b) s = execDivn u p d a b s := rfl
theorem exec_rems (u : SUnit) (p : Fin 64) (d : Dst 64) (a : SSrc) (b : SBSrc) (s : State) :
    exec (.rems u p d a b) s = execRems u p d a b s := rfl
theorem exec_remn (u : SUnit) (p : Fin 64) (d : Dst 64) (a : SSrc) (b : SBSrc) (s : State) :
    exec (.remn u p d a b) s = execRemn u p d a b s := rfl
/-- DIVS and REMS deliver the parts of a signed division. -/
theorem signed_give {q r : Word} {g : Flags} (hp : s.me.pget p = true)
    (ha : s.me.readS a = .ok x) (hb : s.me.readSB b = .ok y) (h : divide true x.val y.val = (q, r, g)) :
    exec (.divs u p d a b) s = .next (s.landS u.slot 18 d q g).issued ∧
    exec (.rems u p d a b) s = .next (s.landS u.slot 18 d r g).issued := by
  rw [exec_divs, exec_rems]
  exact ⟨sop2_gives hp ha hb (by rw [h]), sop2_gives hp ha hb (by rw [h])⟩
/-- DIVN and REMN deliver the parts of an unsigned one. -/
theorem unsigned_give {q r : Word} {g : Flags} (hp : s.me.pget p = true)
    (ha : s.me.readS a = .ok x) (hb : s.me.readSB b = .ok y) (h : divide false x.val y.val = (q, r, g)) :
    exec (.divn u p d a b) s = .next (s.landS u.slot 18 d q g).issued ∧
    exec (.remn u p d a b) s = .next (s.landS u.slot 18 d r g).issued := by
  rw [exec_divn, exec_remn]
  exact ⟨sop2_gives hp ha hb (by rw [h]), sop2_gives hp ha hb (by rw [h])⟩
end

/-- Settles O1: every row of R139 is a function of the two operands, and R140 is `divide` by its cases. -/
theorem scalarIntegersDeliver : Obligations.ScalarIntegersDeliver := by
  refine ⟨fun s u p d a b x y hp ha hb => ?_, fun s u p d a b x y hp ha hb => ?_⟩
  · exact ⟨sop2_plain hp ha hb rfl, sop2_plain hp ha hb rfl, sop2_plain hp ha hb rfl, sop2_plain hp ha hb rfl,
      sop2_plain hp ha hb rfl, sop2_plain hp ha hb rfl, sop2_plain hp ha hb rfl, sop2_plain hp ha hb rfl,
      sop2_plain hp ha hb rfl,
      sop2_plain hp ha hb (by rw [shiftCount_eq, shiftLeft_eq_ofNat]),
      sop2_plain hp ha hb (by rw [shiftCount_eq, ushiftRight_eq_ofNat]),
      sop2_plain hp ha hb (by rw [shiftCount_eq, sshiftRight_eq_ofInt]),
      sop2_plain hp ha hb (by rw [ite_sle]), sop2_plain hp ha hb (by rw [ite_sle]),
      sop2_plain hp ha hb (by rw [ite_ule]), sop2_plain hp ha hb (by rw [ite_ule]), sop2_plain hp ha hb rfl⟩
  · refine ⟨fun hy => ?_, fun hy => ?_, fun hx hy => ?_, fun hy ho => ?_⟩
    · have signed := signed_give (u := u) (d := d) hp ha hb (hy ▸ divide_zero true x.val)
      have unsigned := unsigned_give (u := u) (d := d) hp ha hb (hy ▸ divide_zero false x.val)
      exact ⟨signed.1, unsigned.1, signed.2, unsigned.2⟩
    · exact unsigned_give hp ha hb (divide_unsigned hy)
    · exact signed_give hp ha hb (by rw [hx, hy, divide_overflow])
    · exact signed_give hp ha hb (divide_signed hy ho)

/-! ## Bit fields (O2) -/

theorem exec_zext (u : SUnit) (p : Fin 64) (d : Dst 64) (a : SSrc) (w : BitVec 12) (s : State) :
    exec (.zext u p d a w) s = execZext u p d a w s := rfl
theorem exec_popc (u : SUnit) (p : Fin 64) (d : Dst 64) (a : SSrc) (s : State) :
    exec (.popc u p d a) s = execPopc u p d a s := rfl
theorem exec_clz (u : SUnit) (p : Fin 64) (d : Dst 64) (a : SSrc) (s : State) :
    exec (.clz u p d a) s = execClz u p d a s := rfl
theorem exec_ctz (u : SUnit) (p : Fin 64) (d : Dst 64) (a : SSrc) (s : State) :
    exec (.ctz u p d a) s = execCtz u p d a s := rfl
theorem exec_bins (u : SUnit) (p : Fin 64) (d : Dst 64) (a : SSrc) (b : SBSrc) (s : State) :
    exec (.bins u p d a b) s = execBins u p d a b s := rfl
theorem exec_bext (u : SUnit) (p : Fin 64) (d : Dst 64) (a : SSrc) (b : SBSrc) (s : State) :
    exec (.bext u p d a b) s = execBext u p d a b s := rfl

/-- BEXT gives the field that b names. -/
theorem exec_bext_ok {s : State} {u : SUnit} {p : Fin 64} {d : Dst 64} {a : SSrc} {b : SBSrc} {x y : SVal}
    (hp : s.me.pget p = true) (ha : s.me.readS a = .ok x) (hb : s.me.readSB b = .ok y) :
    exec (.bext u p d a b) s = .next (s.landS u.slot 1 d
      (BitVec.ofNat 64 (x.val.toNat / 2 ^ (y.val.toNat % 64) % 2 ^ (y.val.toNat / 64 % 64 + 1))) 0).issued := by
  rw [exec_bext, execBext, sop2_ok hp ha hb, plain, bits_low_six, bits_next_six, bits, Nat.shiftRight_eq_div_pow]

/-- Settles O2, bit by bit where an instruction puts a field into the old word. -/
theorem bitFieldsDeliver : Obligations.BitFieldsDeliver := by
  intro s u p d hp
  refine ⟨fun imm => slotOp_done (sl := u.slot) hp, fun v h => ⟨_, slotOp_done (sl := u.slot) hp, fun i hi => ?_⟩,
    fun a x w ha => ?_,
    fun a b x y ha hb => ⟨exec_bext_ok hp ha hb, _, (exec_bins ..).trans (sop2_ok hp ha hb), fun i hi => ?_⟩⟩
  · rw [getLsbD_insertBits _ _ _ _ hi]
    refine ite_congr rfl (fun hin => ?_) fun _ => rfl
    have hlow : i - 16 * h.toNat < 64 := by omega
    rw [BitVec.getLsbD_setWidth, decide_eq_true hlow, Bool.true_and]
  · refine ⟨(exec_sext ..).trans (sop1_ok hp ha), (exec_zext ..).trans (sop1_ok hp ha),
      (exec_popc ..).trans (sop1_ok hp ha), ⟨64 - natLen x.val.toNat, (exec_clz ..).trans (sop1_ok hp ha), ?_⟩,
      ⟨_, (exec_ctz ..).trans (sop1_ok hp ha), find_lowest_bit x.val⟩⟩
    have hlen := natLen_le x.val.isLt
    refine ⟨Nat.sub_le _ _, ?_, fun hn => two_pow_le_of_natLen (by omega)⟩
    rw [Nat.sub_sub_self hlen]
    exact lt_two_pow_natLen _
  · rw [plain, getLsbD_insertBits _ _ _ _ hi, bits_low_six, bits_next_six]

/-! ## Compares and predicates (O3) -/

/-- Settles O3: each operation is its relation or connective of the two values read. -/
theorem comparesAndPredicatesDeliver : Obligations.ComparesAndPredicatesDeliver := by
  refine ⟨fun s u p d a b x y hp ha hb => ?_, fun s u p d a x hp ha => ⟨fun b y hb => ?_, ?_, ?_, fun b y hb => ?_⟩⟩
  · have ne : (x.val != y.val) = decide (x.val ≠ y.val) := decide_not.symm
    exact ⟨scmp_ok hp ha hb, ne ▸ scmp_ok hp ha hb, scmp_ok hp ha hb, scmp_ok hp ha hb, scmp_ok hp ha hb,
      scmp_ok hp ha hb⟩
  · exact ⟨pop2_ok hp ha hb, pop2_ok hp ha hb, pop2_ok hp ha hb, pop2_ok hp ha hb⟩
  · dsimp only
    rw [exec_pmov, execPmov, ha]
    exact slotOp_done hp
  · rw [exec_ptos, execPtos, ha]
    exact slotOp_done hp
  · rw [exec_sel, execSel, ha, hb]
    exact slotOp_done hp

/-! ## FP32 (O4) -/

theorem exec_fadds (u : SUnit) (p : Fin 64) (d : Dst 64) (a b : SSrc) (s : State) :
    exec (.fadds u p d a b) s = execFadds u p d a b s := rfl
theorem exec_fmuls (u : SUnit) (p : Fin 64) (d : Dst 64) (a b : SSrc) (s : State) :
    exec (.fmuls u p d a b) s = execFmuls u p d a b s := rfl
theorem exec_fcmplt (u : SUnit) (p : Fin 64) (d : Dst 64) (a b : SSrc) (s : State) :
    exec (.fcmplt u p d a b) s = execFcmplt u p d a b s := rfl
theorem exec_fcvtsi (u : SUnit) (p : Fin 64) (d : Dst 64) (a : SSrc) (rm : BitVec 2) (sat : Bool) (s : State) :
    exec (.fcvtsi u p d a rm sat) s = execFcvtsi u p d a rm sat s := rfl

/-- Settles O4: the operands are read as the FP32 values of their low halves. -/
theorem scalarFloatDelivers : Obligations.ScalarFloatDelivers := by
  intro s u p d a b x y hp ha hb
  refine ⟨?_, ?_, ?_, fun rm => (exec_fcvtis ..).trans (sop1_ok hp ha), fun rm sat => ?_⟩
  · rw [exec_fadds, execFadds, ha, hb, ← f32_lo32, ← f32_lo32]
    exact slotOp_done hp
  · rw [exec_fmuls, execFmuls, ha, hb, ← f32_lo32, ← f32_lo32]
    exact slotOp_done hp
  · rw [exec_fcmplt, execFcmplt, ha, hb, ← f32_lo32, ← f32_lo32, need_ok, need_ok, slotOp_done hp, flagIf]
    simp only [Bool.or_eq_true]
  · rw [exec_fcvtsi, execFcvtsi, sop1_ok hp ha, f32_lo32]

/-! ## Descriptor fields and control registers (O8) -/

section
variable {s : State} {u : SUnit} {p : Fin 64}

theorem exec_sfld (u : SUnit) (p : Fin 64) (d : Dst 64) (a : SSrc) (i : BitVec 12) (s : State) :
    exec (.sfld u p d a i) s = execSfld u p d a i s := rfl
theorem exec_dset_ok {d : Dst 16} {a : SSrc} {x : Word} (hp : s.me.pget p = true) (ha : s.me.checkedS a = .ok x)
    (f : Fin 8) : exec (.dset u p d a f) s =
      .next (s.land u.slot 1 (if d.nowb then [] else [.df d.reg f x]) (some (.scalar (SVal.of x))) 0).issued := by
  rw [exec_dset, execDset, ha]
  exact slotOp_done hp
theorem exec_crwr_ok {a : SSrc} {x : Word} (hp : s.me.pget p = true) (ha : s.me.checkedS a = .ok x) (n : BitVec 12) :
    exec (.crwr u p a n) s = .next (s.land u.slot 1 [.cr n.toNat x] none 0).issued := by
  rw [exec_crwr, execCrwr, ha]
  exact slotOp_done hp
end

/-- Settles O8: the writes by the number that each clause of `CReg.write` names. -/
theorem fieldsAndControlRegistersDeliver : Obligations.FieldsAndControlRegistersDeliver := by
  refine ⟨fun s u p hp => ⟨fun d a f x ha => exec_dset_ok hp ha f, fun d a f => slotOp_done (sl := u.slot) hp,
    fun d n => slotOp_done (sl := u.slot) hp, fun a n x ha => exec_crwr_ok hp ha n,
    fun d a i x ha => (exec_sfld ..).trans (sop1_ok hp ha)⟩,
    fun s c => ?_, fun r w => ?_⟩
  · exact ⟨rfl, rfl, rfl, rfl, rfl, rfl, rfl, rfl, rfl, rfl, rfl, rfl, rfl, rfl, rfl, rfl, rfl, s.crRead_mseq c,
      s.crRead_fx c⟩
  · refine ⟨rfl, rfl, rfl, rfl, rfl, rfl, rfl, rfl, fun n => r.write_readOnly w, fun i => r.write_mseq i w, fun i => ?_⟩
    rw [r.write_fx i w]
    simp only [Fin.getElem_fin, Vector.getElem_set_self]

end Sys2Proof.Machine
end

section
/-!
CERTIFICATE. Loops, tails and ring bindings (O11), software records (O16).
-/
namespace Sys2Proof.Machine
open Sys2Proof.Laws

section
variable {s : State} {p : Fin 64}

/-! ## Loops, tails and ring bindings (O11) -/

theorem exec_loop (p a : Fin 64) (e : Byte) (s : State) : exec (.loop p a e) s = execLoop p a e s := rfl
theorem exec_loopi (p : Fin 64) (n : BitVec 12) (e : Byte) (s : State) : exec (.loopi p n e) s = execLoopi p n e s := rfl
theorem exec_tail (p a : Fin 64) (s : State) : exec (.tail p a) s = execTail p a s := rfl
theorem exec_hset (p : Fin 64) (h : Fin 8) (a : Fin 64) (sp : BitVec 3) (s : State) :
    exec (.hset p h a sp) s = execHset p h a sp s := rfl

/-- A LOOP pushes its entry, or sends fetch past its end (R153). -/
theorem State.modMe_loopPush (s : State) (n : W32) (e : Byte) : (s.modMe fun c => c.loopPush n e) =
    if n = 0 then s.modMe fun c => { c with skip := some (c.succ (s.me.pc + e.zeroExtend 32)) }
    else s.modMe fun c => { c with loops := (⟨c.succ c.pc, s.me.pc + e.zeroExtend 32, n⟩ :: c.loops).take 4 } := by
  split
  next h => exact State.modCtx_congr (if_pos h)
  next h => exact State.modCtx_congr (if_neg h)

theorem exec_tail_ok {a : Fin 64} {v : Word} (hp : s.me.pget p = true) (ha : s.me.checked a = .ok v)
    (hal : v.toNat % 256 = 0) (hv : v.toNat < 2 ^ 56) :
    exec (.tail p a) s = .next (s.modMe fun c => { c with tails := c.tails ++ [v] }).issued := by
  rw [exec_tail, execTail, ha, need_ok, if_neg (by simpa [hal, Nat.shiftRight_eq_div_pow] using hv)]
  exact slotOp_done hp
theorem exec_tail_traps {a : Fin 64} {v : Word} (hp : s.me.pget p = true) (ha : s.me.checked a = .ok v)
    (h : v.toNat % 256 ≠ 0 ∨ 2 ^ 56 ≤ v.toNat) : Traps (.tail p a) s .c { code := 0x27, faddr := v } := by
  have high : 2 ^ 56 ≤ v.toNat → v.toNat >>> 56 ≠ 0 := fun h => by
    rw [Nat.shiftRight_eq_div_pow]
    exact Nat.ne_of_gt (Nat.div_pos h (by decide))
  rw [Traps, exec_tail, execTail, ha, need_ok, if_pos (by simpa using h.imp_right high)]
  exact slotOp_fail hp
theorem exec_hset_ok {a : Fin 64} {v : Word} (hp : s.me.pget p = true) (ha : s.me.checked a = .ok v)
    (hal : v.toNat % 64 = 0) (h : Fin 8) (sp : BitVec 3) :
    exec (.hset p h a sp) s = .next (s.modMe fun c => { c with hreg := c.hreg.set h (some ⟨v, sp⟩) }).issued := by
  rw [exec_hset, execHset, ha, need_ok, if_neg (not_not.2 hal)]
  exact slotOp_done hp
theorem exec_hset_traps {a : Fin 64} {v : Word} (hp : s.me.pget p = true) (ha : s.me.checked a = .ok v)
    (hal : v.toNat % 64 ≠ 0) (h : Fin 8) (sp : BitVec 3) : Traps (.hset p h a sp) s .c { code := 0x27, faddr := v } := by
  rw [Traps, exec_hset, execHset, ha, need_ok, if_pos hal]
  exact slotOp_fail hp

/-! ## Software records (O16) -/

theorem exec_trap (p : Fin 64) (c : Byte) (a : Fin 64) (s : State) : exec (.trap p c a) s = execTrap p c a s := rfl
theorem exec_bkpt (p : Fin 64) (c : Byte) (s : State) : exec (.bkpt p c) s = execBkpt p c s := rfl

theorem exec_trap_goesOn {a : Fin 64} {v : Word} {c : Byte} (hp : s.me.pget p = true) (ha : s.me.checked a = .ok v)
    (h : c.getLsbD 7 = false) :
    exec (.trap p c a) s = .next (s.ctxRecord s.cur (softWords s.cur s.me c v) .nothing).issued := by
  rw [exec_trap, execTrap, ha, need_ok, if_neg (by simpa [bitAt] using h)]
  exact slotOp_done hp
theorem exec_trap_aborts {a : Fin 64} {v : Word} {c : Byte} (hp : s.me.pget p = true) (ha : s.me.checked a = .ok v)
    (h : c.getLsbD 7 = true) : exec (.trap p c a) s =
      .next ((s.stopRun s.me.run).ctxRecord s.cur (softWords s.cur s.me c v) (.abort s.me.run)).issued := by
  rw [exec_trap, execTrap, ha, need_ok, if_pos (show bitAt c 7 = true from h)]
  exact slotOp_done hp
theorem exec_bkpt_off (hp : s.me.pget p = true) (h : s.me.debug = false) (c : Byte) :
    exec (.bkpt p c) s = .next s.issued := by
  rw [exec_bkpt, execBkpt, if_neg (by simp [h])]
  exact slotOp_done hp
theorem exec_bkpt_on (hp : s.me.pget p = true) (h : s.me.debug = true) (c : Byte) : exec (.bkpt p c) s =
    .next ((s.modMe fun x => { x.wdPause s.time with
      wait := .bkpt
      save := some (2, s.time)
      dump := none }).ctxRecord s.cur (softWords s.cur s.me c 0) .nothing).issued := by
  rw [exec_bkpt, execBkpt, if_pos h]
  exact slotOp_done hp
end

/-- Settles O11. -/
theorem loopsTailsAndRingBindings : Obligations.LoopsTailsAndRingBindings := by
  refine ⟨fun s p e hp => ⟨fun a v ha => ?_, fun n => ?_⟩, fun s p a v hp ha => ⟨exec_tail_ok hp ha, exec_tail_traps hp ha,
    fun h sp => ⟨fun hal => exec_hset_ok hp ha hal h sp, fun hal => exec_hset_traps hp ha hal h sp⟩⟩⟩
  · rw [exec_loop, execLoop, ha, need_ok, slotOp_done hp, s.modMe_loopPush]
    rfl
  · rw [exec_loopi, execLoopi, slotOp_done hp, s.modMe_loopPush]

/-- Settles O16. -/
theorem trapAndBreakpointRecord : Obligations.TrapAndBreakpointRecord :=
  fun _ _ c hp => ⟨fun _ _ ha => ⟨exec_trap_goesOn hp ha, exec_trap_aborts hp ha⟩, fun h => exec_bkpt_off hp h c,
    fun h => exec_bkpt_on hp h c⟩

end Sys2Proof.Machine
end

section
/-!
CERTIFICATE. FENCE (O13): results that land while their lane stalls, and what else a completed fence orders.
-/
namespace Sys2Proof.Machine
open Sys2Proof.Laws

/-! ## Landings write registers, and read none but those (R47, R51, R111) -/

/-- `x` with the registers of `r`, the control registers among them. -/
def Ctx.withRegs (x r : Ctx) : Ctx := { x with
  sreg := r.sreg
  preg := r.preg
  vreg := r.vreg
  kreg := r.kreg
  dreg := r.dreg
  zreg := r.zreg
  pvreg := r.pvreg
  hreg := r.hreg
  oreg := r.oreg
  qreg := r.qreg
  cr := r.cr
  trapring := r.trapring }

section
variable (x r : Ctx)

theorem Ctx.withRegs_of_sameRegs {x r : Ctx} (h : SameRegs r x) : x.withRegs r = x := by
  obtain ⟨hs, hp, hv, hk, hd, hz, hpv, hh, ho, hq, hcr, ht⟩ := h
  rw [Ctx.withRegs, ← hs, ← hp, ← hv, ← hk, ← hd, ← hz, ← hpv, ← hh, ← ho, ← hq, ← hcr, ← ht]
theorem Ctx.write_withRegs (w : RegWrite) : (x.withRegs r).write w = x.withRegs (r.write w) := by
  cases w <;> rw [Ctx.write, Ctx.write] <;> repeat' split
  all_goals rfl
theorem Ctx.writes_withRegs (ws : List RegWrite) :
    ws.foldl Ctx.write (x.withRegs r) = x.withRegs (ws.foldl Ctx.write r) := by
  induction ws generalizing r with
  | nil => rfl
  | cons w ws ih => rw [List.foldl_cons, Ctx.write_withRegs, ih, List.foldl_cons]
theorem Ctx.pushLatch_withRegs (sl : Slot) (v : Latch) : (x.withRegs r).pushLatch sl v = x.withRegs (r.pushLatch sl v) := by
  rw [Ctx.pushLatch, Ctx.pushLatch]
  split <;> rfl
theorem Ctx.raise_withRegs (sl : Slot) (pc : W32) (f : Flags) :
    (x.withRegs r).raise sl pc f = x.withRegs (r.raise sl pc f) := by
  rw [Ctx.raise, Ctx.raise]
  split <;> rfl
theorem Ctx.landed_withRegs (l : Landing) : (x.withRegs r).landed l = x.withRegs (r.landed l) := by
  rw [Ctx.landed, Ctx.landed, Ctx.writes_withRegs]
  cases l.latch with
  | none => exact Ctx.raise_withRegs ..
  | some v => exact (congrArg (fun y => y.raise l.slot l.pc l.flags) (Ctx.pushLatch_withRegs ..)).trans (Ctx.raise_withRegs ..)
theorem Ctx.landedAll_withRegs (ls : List Landing) :
    ls.foldl Ctx.landed (x.withRegs r) = x.withRegs (ls.foldl Ctx.landed r) := by
  induction ls generalizing r with
  | nil => rfl
  | cons l ls ih => rw [List.foldl_cons, Ctx.landed_withRegs, ih, List.foldl_cons]
end

/-! ## Results that land one after another -/

/-- Results have landed on `c` that leave its registers as in `r`: of the rest of the lane they have changed what its open
phase holds. -/
structure State.LandedOn (c : CtxId) (r : Ctx) (s t : State) : Prop where
  ctx   : t.ctx c = { (s.ctx c).withRegs r with
    phaseOpen := (t.ctx c).phaseOpen
    undo := (t.ctx c).undo
    unpoison := (t.ctx c).unpoison }
  cur   : t.cur = s.cur
  kcmds : t.kcmds = s.kcmds

section
variable {c : CtxId} {r r' : Ctx} {s t u : State}

theorem State.LandedOn.regs (h : s.LandedOn c r t) : SameRegs r (t.ctx c) := by
  rw [h.ctx]
  exact .refl r
theorem State.LandedOn.trans (h : s.LandedOn c r t) (h' : t.LandedOn c r' u) : s.LandedOn c r' u where
  ctx := by rw [h'.ctx, h.ctx]; rfl
  cur := h'.cur.trans h.cur
  kcmds := h'.kcmds.trans h.kcmds
theorem State.LandedOn.congr (h : s.LandedOn c r t) (hr : (s.ctx c).withRegs r = (s.ctx c).withRegs r') :
    s.LandedOn c r' t :=
  ⟨hr ▸ h.ctx, h.cur, h.kcmds⟩

/-- Writing a scratchpad leaves the registers of the lane. -/
theorem State.landedOn_spadWrite (s : State) (c : CtxId) (cs : List Host.Cell) :
    s.LandedOn c (s.ctx c) (s.spadWrite c cs) := by
  rw [State.spadWrite]
  split
  · exact ⟨rfl, rfl, rfl⟩
  · obtain ⟨m, p, e, h⟩ := StorageOnly.putCells s cs
    rw [h]
    exact ⟨by rw [State.ctx_modCtx]; rfl, rfl, rfl⟩
theorem State.landedOn_landOne (s : State) (c : CtxId) (l : Landing) :
    s.LandedOn c ((s.ctx c).landed l) (s.landOne c l) := by
  have hland : s.LandedOn c ((s.ctx c).landed l) (s.modCtx c fun x => x.landed l) := by
    have h : (s.ctx c).landed l = (s.ctx c).withRegs ((s.ctx c).landed l) := (s.ctx c).landed_withRegs (s.ctx c) l
    refine ⟨?_, rfl, rfl⟩
    rw [State.ctx_modCtx, congrArg Ctx.phaseOpen h, congrArg Ctx.undo h, congrArg Ctx.unpoison h]
    exact h
  have hspad := (s.modCtx c fun x => x.landed l).landedOn_spadWrite c (l.writes.flatMap RegWrite.cells)
  rw [State.ctx_modCtx] at hspad
  have h := hland.trans hspad
  rw [State.landOne]
  split
  · exact ⟨by rw [State.ctx_modCtx, h.ctx], h.cur, h.kcmds⟩
  · exact h
/-- Results land with the effect that they have on the registers alone. -/
theorem State.landedOn_landAll (ls : List Landing) (s : State) (c : CtxId) :
    s.LandedOn c (ls.foldl Ctx.landed (s.ctx c)) (ls.foldl (fun s l => s.landOne c l) s) := by
  induction ls generalizing s with
  | nil => exact ⟨rfl, rfl, rfl⟩
  | cons l ls ih =>
    have hl := s.landedOn_landOne c l
    refine (hl.trans (ih _)).congr ?_
    rw [← Ctx.withRegs_of_sameRegs hl.regs, Ctx.landedAll_withRegs]
    rfl
/-- Results that write no scratchpad byte leave storage. -/
theorem State.byte_landAll {ls : List Landing} (h : ∀ l ∈ ls, l.writes.flatMap RegWrite.cells = []) (s : State) (c : CtxId)
    (a : Nat) : (ls.foldl (fun s l => s.landOne c l) s).byte a = s.byte a := by
  induction ls generalizing s with
  | nil => rfl
  | cons l ls ih =>
    obtain ⟨hl, hls⟩ := List.forall_mem_cons.1 h
    rw [List.foldl_cons, ih hls, State.landOne_noCells hl]
    rfl
end

/-! ## FENCE -/

section
variable {s : State} {c : CtxId} {p : Fin 64} {m : BitVec 5}

theorem exec_fence (p : Fin 64) (m : BitVec 5) (s : State) : exec (.fence p m) s = execFence p m s := rfl

/-- What a fence looks at is not the wait of its lane. -/
theorem State.settleFence_fence (s : State) (c : CtxId) (m : BitVec 5) :
    (s.modCtx c fun x => { x with wait := .fence m }).settleFence c = if s.fenceDone c m then
      (s.modCtx c fun x => { x with wait := .fence m }).fenceEnd c m else s.modCtx c fun x => { x with wait := .fence m } := by
  have hwait : ((s.modCtx c fun x => { x with wait := .fence m }).ctx c).wait = .fence m := by rw [State.ctx_modCtx]
  have hdone : (s.modCtx c fun x => { x with wait := .fence m }).fenceDone c m = s.fenceDone c m := by
    simp only [State.fenceDone, State.ctx_modCtx]
    rfl
  rw [State.settleFence, hwait]
  simp only [hdone]

/-- The results that a fence of mask `m` lands, and those that stay in the pipeline. -/
def Ctx.fenced (m : BitVec 5) (x : Ctx) : List Landing := x.pipe.filter (Landing.fenced m)
def Ctx.unfenced (m : BitVec 5) (x : Ctx) : List Landing := x.pipe.filter fun l => !l.fenced m
/-- A result as it lands at the end of a fence in a bank that issues, or in one that does not (R53). -/
def Landing.ofBank (here : Bool) (l : Landing) : Landing := if here then l else { l with latch := none }
theorem Landing.writes_ofBank (here : Bool) (l : Landing) : (l.ofBank here).writes = l.writes := by
  unfold Landing.ofBank
  split <;> rfl
/-- The latches that the next bundle of a bank which does not issue is to bring (R53). -/
def latchesLeft (here : Bool) (n : Nat) (now : List Landing) : List Landing :=
  if here then [] else (now.filter fun l => l.latch.isSome).map fun l =>
    { l with writes := [], flags := 0, due := some n, opens := false }

theorem latchesLeft_eq (here : Bool) (n : Nat) (now : List Landing) : latchesLeft here n now =
    if here then [] else now.filterMap fun l => l.latch.map fun _ =>
      { l with writes := [], flags := 0, due := some n, opens := false } := by
  unfold latchesLeft
  split
  · rfl
  · rw [← List.filterMap_eq_map, List.filterMap_filter]
    refine List.filterMap_congr fun l _ => ?_
    cases h : l.latch <;> simp [h]

/-- A lane whose fence has ended, once its results have landed. -/
def Ctx.fenceEnded (m : BitVec 5) (x : Ctx) : Ctx := { x with
  wait := .none
  pend := x.pend.map (Pend.ordered m)
  mfoot := if m.getLsbD 0 then [] else x.mfoot
  xfoot := if m.getLsbD 2 then [] else x.xfoot }
/-- A command of the lane on a path of the mask no longer holds its bytes open (R178, R213). -/
def KCmd.fenceSeen (c : CtxId) (run : Nat) (m : BitVec 5) (k : KCmd) : KCmd :=
  if k.owner = c ∧ k.run = run ∧ m.getLsbD k.bit then { k with seenSrc := true, seenVis := true } else k

/-- A completed fence lands the results of its paths, and then orders what they did. -/
theorem State.fenceEnd_eq (s : State) (c : CtxId) (m : BitVec 5) :
    let x := s.ctx c
    let here := decide ((s.core c.core).cur = c.bank)
    let u := ((x.fenced m).map (Landing.ofBank here)).foldl (fun s l => s.landOne c l)
      (s.modCtx c fun y => { y with pipe := latchesLeft here x.n (x.fenced m) ++ x.unfenced m })
    s.fenceEnd c m = ({ u with kcmds := u.kcmds.map (KCmd.fenceSeen c x.run m) } : State).modCtx c (Ctx.fenceEnded m) := by
  have hsee : KCmd.fenceSeen c (s.ctx c).run m = fun k : KCmd =>
      if k.owner = c && k.run = (s.ctx c).run && bitAt m k.bit then { k with seenSrc := true, seenVis := true } else k := by
    funext k
    exact if_congr (by simp [bitAt, and_assoc]) rfl rfl
  unfold State.fenceEnd
  simp only [List.partition_eq_filter_filter, latchesLeft_eq, List.foldl_map, hsee, Landing.ofBank, Ctx.fenced, Ctx.unfenced,
    decide_eq_true_eq]
  rfl

theorem filter_notMem_fenced (x : Ctx) (m : BitVec 5) : (x.pipe.filter fun l => decide (l ∉ x.fenced m)) = x.unfenced m :=
  List.filter_congr fun l hl => by simp [Ctx.fenced, hl]

end

/-- A lane whose fence of mask `m` ends, as its results begin to land. -/
def Ctx.fenceLanding (here : Bool) (m : BitVec 5) (x : Ctx) : Ctx := { x with
  wait := .fence m
  pipe := latchesLeft here x.n (x.fenced m) ++ x.unfenced m }

/-- A FENCE whose paths have settled. -/
theorem exec_fence_settled {s : State} {p : Fin 64} {m : BitVec 5} (hp : s.me.pget p = true)
    (h : s.fenceDone s.cur m = true) :
    let here := decide ((s.core s.cur.core).cur = s.cur.bank)
    let lands := (s.me.fenced m).map (Landing.ofBank here)
    ∃ u, (s.modMe (Ctx.fenceLanding here m)).LandedOn s.cur (lands.foldl Ctx.landed s.me) u ∧
      ((∀ l ∈ lands, l.writes.flatMap RegWrite.cells = []) → ∀ a, u.byte a = s.byte a) ∧
      exec (.fence p m) s = .next (({ u with kcmds := u.kcmds.map (KCmd.fenceSeen s.cur s.me.run m) } : State).modCtx s.cur
        (Ctx.fenceEnded m)).issued := by
  intro here lands
  have hx : ((s.modCtx s.cur fun x => { x with wait := .fence m }).ctx s.cur) = { s.me with wait := .fence m } :=
    State.ctx_modCtx ..
  have hland := State.landedOn_landAll lands (s.modMe (Ctx.fenceLanding here m)) s.cur
  have hregs : (s.modMe (Ctx.fenceLanding here m)).ctx s.cur = (s.me.fenceLanding here m).withRegs s.me :=
    State.ctx_modCtx ..
  rw [hregs, Ctx.landedAll_withRegs] at hland
  refine ⟨_, hland.congr (by rw [hregs]; rfl), fun hc a => State.byte_landAll hc _ _ a, ?_⟩
  rw [exec_fence, execFence, slotOp_done hp, State.modMe, State.settleFence_fence, if_pos h, State.fenceEnd_eq]
  rw [hx, State.modCtx_modCtx]
  rfl

/-- Settles O13: a fence that has not settled is its lane's wait; one that has lands the results of its paths. -/
theorem fenceStallsUntilSettled : Obligations.FenceStallsUntilSettled := by
  intro s p m hp
  refine ⟨fun h => ?_, fun h => ?_⟩
  · rw [exec_fence, execFence, slotOp_done hp, State.modMe, State.settleFence_fence, if_neg (by simp [h])]
  · intro now here latches lands
    obtain ⟨u, hu, hbytes, hexec⟩ := exec_fence_settled hp h
    have hcur : u.cur = s.cur := hu.cur
    have hnow : now = s.me.fenced m := rfl
    have hlands : (s.me.fenced m).map (Landing.ofBank (decide here)) = lands :=
      List.map_congr_left fun l _ => by simp [Landing.ofBank]
    have hlatches : latchesLeft (decide here) s.me.n (s.me.fenced m) = latches := by simp [latchesLeft, latches, hnow]
    have hctx := hu.ctx
    rw [State.modMe, State.ctx_modCtx] at hctx
    refine ⟨_, hexec, rfl, hcur, ?_⟩
    have hme : ((({ u with kcmds := u.kcmds.map (KCmd.fenceSeen s.cur s.me.run m) } : State).modCtx s.cur
        (Ctx.fenceEnded m)).issued).me = (u.ctx s.cur).fenceEnded m := by
      show State.ctx _ u.cur = _
      rw [hcur]
      exact State.ctx_modCtx ..
    rw [hme, hctx]
    refine ⟨rfl, ?_, ?_, fun hc => ?_, rfl, rfl, rfl, ?_⟩
    · rw [← hlatches, hnow, filter_notMem_fenced]
      rfl
    · rw [← hlands]
      exact .refl _
    · refine hbytes fun l hl => ?_
      obtain ⟨l, hmem, rfl⟩ := List.mem_map.1 hl
      rw [Landing.writes_ofBank]
      exact List.isEmpty_iff.1 (List.all_eq_true.1 hc l hmem)
    · exact congrArg (List.map _) hu.kcmds
end Sys2Proof.Machine
end

section
/-!
CERTIFICATE. Waits on scratchpad words (O14).
-/
namespace Sys2Proof.Machine
open Sys2Proof.Laws

section
variable {s : State} {p a b : Fin 64} {addr v : Word} {ge : Bool}

/-! ## What a wait finds -/

/-- The condition of a wait on the word at `loc` (R157). -/
def State.WordMeets (s : State) (ge : Bool) (loc : Nat) (v : Word) : Prop :=
  if ge then v.toNat ≤ (BitVec.ofNat 64 (s.num loc 8)).toNat else BitVec.ofNat 64 (s.num loc 8) = v
theorem State.wordHolds_iff {loc : Nat} (hf : s.fresh loc 8 = false) :
    s.wordHolds ge loc v = true ↔ s.WordMeets ge loc v := by
  cases ge <;> simp [State.wordHolds, State.WordMeets, hf, BitVec.ule]

/-- What a wait observes leaves its lane but for the paths of its held writes (R178, R254). -/
theorem State.observe_frame (s : State) (c : CtxId) (loc : Nat) : ∃ ks f, (∀ q : Pend, (f q).op = q.op) ∧
    s.observe c loc = ({ s with kcmds := ks } : State).modCtx c fun x => { x with pend := x.pend.map f } := by
  refine ⟨_, _, fun q => ?_, rfl⟩
  dsimp only
  split <;> rfl

/-- The spans of the 8 bytes of a word that a wait touches (R256). -/
def wordSpans (loc : Nat) : List Span :=
  spansOf [(BitVec.ofNat 64 ((loc - 2 ^ 52) % 2 ^ 22), (List.range 8).map (loc + ·))]

/-- An access that meets no conflict is logged. -/
theorem State.touchAs_clear {c : CtxId} {run : Nat} {step : Word} {k : AKind} {opn : Nat} {cls : Option Nat} {l : List Span}
    (h : s.firstClash c run k opn cls l = none) : ∃ as, s.touchAs c run step k opn cls l = .ok { s with accs := as } := by
  rw [State.touchAs, h]
  exact ⟨_, rfl⟩
/-- A wait that is over opens a phase. -/
theorem State.waitEnd_ok {loc : Nat} {c : CtxId}
    (h : s.firstClash c (s.ctx c).run .observe s.time none (wordSpans loc) = none) :
    ∃ t, s.waitEnd c loc = .ok t ∧ t.cur = s.cur ∧ (∀ x, t.byte x = s.byte x) ∧
      t.ctx c = { s.ctx c with
        wait := .none
        phaseOpen := s.time
        pend := (t.ctx c).pend } ∧ (t.ctx c).pend.map Pend.op = (s.ctx c).pend.map Pend.op := by
  obtain ⟨as, htouch⟩ := State.touchAs_clear (step := (s.ctx c).step) h
  obtain ⟨ks, f, hf, hobs⟩ := ({ s with accs := as } : State).observe_frame c loc
  have hend : s.waitEnd c loc = .ok ((({ s with accs := as, kcmds := ks } : State).modCtx c fun x => { x with
      pend := x.pend.map f
      wait := .none
      phaseOpen := s.time })) := by
    rw [State.waitEnd, State.touch]
    rw [show spansOf _ = wordSpans loc from rfl, htouch]
    dsimp only
    rw [hobs, State.openPhase, State.modCtx_modCtx, State.modCtx_modCtx]
    rfl
  refine ⟨_, hend, rfl, fun _ => rfl, ?_⟩
  rw [State.ctx_modCtx]
  refine ⟨rfl, ?_⟩
  rw [List.map_map]
  exact List.map_congr_left fun q _ => hf q

/-! ## The instructions -/

theorem waitWord_traps {f : Fail} (hp : s.me.pget p = true) (ha : s.me.checked a = .ok addr) (hb : s.me.checked b = .ok v)
    (h : spadWord s.cur addr = .error f) (ge : Bool) :
    waitWord ge p a b s = .next { s.trap s.cur .c 0 s.me.pc s.me.pc f with verdict := .failed .c f } := by
  rw [waitWord, ha, hb, need_ok, need_ok, h]
  exact slotOp_fail hp

/-- The word can be read: it is aligned and in the scratchpad, no close is on its way to it, it is not poisoned, and the
wait's access meets no conflict (R157, R374, R401). -/
structure State.WordReady (s : State) (addr : Word) : Prop where
  aligned : addr.toNat % 8 = 0
  inside  : addr.toNat < 0x400000
  still   : s.wordWaits s.cur (spadLoc s.cur.core addr.toNat) = false
  sound   : s.poisonIn (spadLoc s.cur.core addr.toNat) 8 = none
  old     : s.fresh (spadLoc s.cur.core addr.toNat) 8 = false
  clear   : s.firstClash s.cur s.me.run .observe s.time none (wordSpans (spadLoc s.cur.core addr.toNat)) = none

theorem State.WordReady.waitWord_eq (h : s.WordReady addr) (ha : s.me.checked a = .ok addr)
    (hb : s.me.checked b = .ok v) : waitWord ge p a b s = s.slotOp .c p
      (if s.wordHolds ge (spadLoc s.cur.core addr.toNat) v then .need (s.waitEnd s.cur (spadLoc s.cur.core addr.toNat)) .done
      else .done (s.modMe fun c => { c with wait := .word ge (spadLoc s.cur.core addr.toNat) v })) := by
  rw [waitWord, ha, hb, need_ok, need_ok, spadWord_ok h.aligned h.inside, need_ok, h.still, h.sound]
  rfl
/-- A wait whose condition does not hold sleeps. -/
theorem State.WordReady.sleeps (h : s.WordReady addr) (hp : s.me.pget p = true) (ha : s.me.checked a = .ok addr)
    (hb : s.me.checked b = .ok v) (hc : ¬s.WordMeets ge (spadLoc s.cur.core addr.toNat) v) : waitWord ge p a b s =
      .next (s.modMe fun c => { c with wait := .word ge (spadLoc s.cur.core addr.toNat) v }).issued := by
  rw [h.waitWord_eq ha hb, if_neg (mt (State.wordHolds_iff h.old).1 hc)]
  exact slotOp_done hp
/-- A wait whose condition holds is over. -/
theorem State.WordReady.runs (h : s.WordReady addr) (hp : s.me.pget p = true) (ha : s.me.checked a = .ok addr)
    (hb : s.me.checked b = .ok v) (hc : s.WordMeets ge (spadLoc s.cur.core addr.toNat) v) :
    ∃ t, waitWord ge p a b s = .next t ∧ t.verdict = .ok ∧ t.cur = s.cur ∧ t.me = { s.me with
      wait := .none
      phaseOpen := s.time
      pend := t.me.pend } ∧ t.me.pend.map Pend.op = s.me.pend.map Pend.op ∧ ∀ x, t.byte x = s.byte x := by
  obtain ⟨t, ht, hcur, hbyte, hctx, hops⟩ := State.waitEnd_ok h.clear
  rw [h.waitWord_eq ha hb, if_pos ((State.wordHolds_iff h.old).2 hc), ht]
  have hme : t.issued.me = t.ctx s.cur := by rw [State.me_issued, State.me, hcur]
  refine ⟨t.issued, slotOp_done hp, rfl, hcur, ?_, ?_, hbyte⟩
  · rw [hme]
    exact hctx
  · rw [hme]
    exact hops
end

/-- Settles O14. -/
theorem wordWaits : Obligations.WordWaits := by
  intro s p a b addr v hp ha hb
  refine ⟨fun h8 hlt hw hpo hfr hcl => ?_, fun h8 => ?_, fun h8 hge => ?_⟩
  · have h : s.WordReady addr := ⟨h8, hlt, hw, hpo, hfr, hcl⟩
    refine ⟨fun hv => ?_, fun hv => ?_, fun hv => ?_, fun hv => ?_⟩
    · exact h.runs (ge := false) hp ha hb hv
    · exact h.sleeps (ge := false) hp ha hb hv
    · exact h.runs (ge := true) hp ha hb hv
    · exact h.sleeps (ge := true) hp ha hb (Nat.not_le.2 hv)
  · have h : spadWord s.cur addr = .error { code := 0x27, faddr := addr } := if_pos h8
    exact ⟨waitWord_traps hp ha hb h false, waitWord_traps hp ha hb h true⟩
  · have h : spadWord s.cur addr = .error { code := 0x28, faddr := addr } := by
      rw [spadWord, if_neg (not_not.2 h8), if_pos hge]
    exact ⟨waitWord_traps hp ha hb h false, waitWord_traps hp ha hb h true⟩

end Sys2Proof.Machine
end

section
/-!
CERTIFICATE. Rings in the control slot: HWAIT and HREL (O15).
-/
namespace Sys2Proof.Machine
open Sys2Proof.Laws

/-! ## Bits and bytes of a number -/

/-- Taking away a power of two whose bit is set clears that bit alone. -/
theorem testBit_sub_two_pow {n k : Nat} (h : n.testBit k = true) (i : Nat) :
    (n - 2 ^ k).testBit i = (n.testBit i && decide (i ≠ k)) := by
  induction k generalizing n i with
  | zero =>
    have hodd : n % 2 = 1 := by simpa using h
    cases i with
    | zero =>
      have heven : (n - 1) % 2 = 0 := by omega
      simp [heven]
    | succ i =>
      have hhalf : (n - 1) / 2 = n / 2 := by omega
      simp [Nat.testBit_succ, hhalf]
  | succ k ih =>
    rw [Nat.testBit_succ] at h
    have hhalf : (n - 2 ^ (k + 1)) / 2 = n / 2 - 2 ^ k := by rw [Nat.pow_succ]; omega
    cases i with
    | zero =>
      have hpos : 2 ^ k ≤ n / 2 := Nat.ge_two_pow_of_testBit h
      have hparity : (n - 2 ^ (k + 1)) % 2 = n % 2 := by rw [Nat.pow_succ]; omega
      simp [hparity]
    | succ i =>
      rw [Nat.testBit_succ, hhalf, ih h, Nat.testBit_succ]
      simp
/-- The bytes of a number are its bits below their end. -/
theorem leBytes_congr {v w n : Nat} (h : ∀ i < 8 * n, v.testBit i = w.testBit i) : leBytes v n = leBytes w n := by
  refine List.map_congr_left fun i hi => BitVec.eq_of_getLsbD_eq fun b hb => ?_
  have hi := List.mem_range.1 hi
  rw [BitVec.getLsbD_ofNat, BitVec.getLsbD_ofNat, Nat.testBit_shiftRight, Nat.testBit_shiftRight, h _ (by omega)]

/-! ## The slots that a release passes (R159, R408) -/

/-- Slot `i` is one of the `n` that follow the first `j` from rp on. -/
def RingObj.Passes (r : RingObj) (j n i : Nat) : Prop := ∃ k < n, (r.rp + (j + k)) % r.nslot = i

theorem RingObj.passes_zero (r : RingObj) (j i : Nat) : ¬r.Passes j 0 i := fun ⟨_, hk, _⟩ => absurd hk (Nat.not_lt_zero _)
theorem RingObj.passes_succ (r : RingObj) (j n i : Nat) :
    r.Passes j (n + 1) i ↔ (r.rp + j) % r.nslot = i ∨ r.Passes (j + 1) n i := by
  constructor
  · rintro ⟨k, hk, h⟩
    cases k with
    | zero => exact .inl h
    | succ k => exact .inr ⟨k, by omega, by rw [← h, Nat.add_right_comm, Nat.add_assoc j]⟩
  · rintro (h | ⟨k, hk, h⟩)
    · exact ⟨0, by omega, h⟩
    · exact ⟨k + 1, by omega, by rw [← h, Nat.add_right_comm j, Nat.add_assoc j]⟩

/-- Of the eos bits those of the slots that are passed are cleared. -/
theorem testBit_releaseGo (r : RingObj) (i : Nat) (n : Nat) : ∀ eos j seen,
    (releaseGo eos r n j seen).1.testBit i = true ↔ eos.testBit i = true ∧ ¬r.Passes j n i := by
  induction n with
  | zero => exact fun eos j seen => by simp [releaseGo, r.passes_zero]
  | succ n ih =>
    intro eos j seen
    rw [releaseGo, r.passes_succ]
    split
    next h =>
      rw [ih, testBit_sub_two_pow h, Bool.and_eq_true, decide_eq_true_eq]
      tauto
    next h =>
      rw [ih]
      refine and_congr_right fun hi => not_congr (or_iff_right ?_).symm
      rintro rfl
      exact h hi
/-- Each slot whose eos bit was set is counted once. -/
theorem seen_releaseGo (r : RingObj) (n : Nat) : ∀ (eos j seen : Nat) (ended : List Nat), ended.Nodup →
    (∀ i, i ∈ ended ↔ r.Passes j n i ∧ eos.testBit i = true) → (releaseGo eos r n j seen).2 = seen + ended.length := by
  induction n with
  | zero =>
    intro eos j seen ended _ hm
    have hnil : ended = [] := List.eq_nil_iff_forall_not_mem.2 fun i hi => r.passes_zero j i ((hm i).1 hi).1
    rw [hnil]
    rfl
  | succ n ih =>
    intro eos j seen ended hd hm
    simp only [r.passes_succ] at hm
    rw [releaseGo]
    split
    next h =>
      have hslot : (r.rp + j) % r.nslot ∈ ended := (hm _).2 ⟨.inl rfl, h⟩
      rw [ih _ _ _ (ended.erase ((r.rp + j) % r.nslot)) (hd.erase _) fun i => ?_, List.length_erase_of_mem hslot]
      · have := List.length_pos_of_mem hslot
        omega
      · rw [hd.mem_erase_iff, hm, testBit_sub_two_pow h, Bool.and_eq_true, decide_eq_true_eq]
        constructor
        · rintro ⟨hne, hs | hp, ht⟩
          · exact absurd hs.symm hne
          · exact ⟨hp, ht, hne⟩
        · rintro ⟨hp, ht, hne⟩
          exact ⟨hne, .inr hp, ht⟩
    next h =>
      refine ih _ _ _ ended hd fun i => (hm i).trans (and_congr_left fun hi => or_iff_right ?_)
      rintro rfl
      exact h hi

/-! ## What a ring operation finds -/

section
variable {s : State} {p b : Fin 64} {h : Fin 8} {n : Word} {rb : RingBind} {ls : List Nat} {w : Want}

theorem ne_zero_of_one_le {n : Word} (h : 1 ≤ n.toNat) : n ≠ 0#64 := by
  rintro rfl
  exact absurd h (by decide)
theorem exec_hwait (p : Fin 64) (h : Fin 8) (b : Fin 64) (s : State) : exec (.hwait p h b) s = execHwait p h b s := rfl
theorem exec_hrel (p : Fin 64) (h : Fin 8) (b : Fin 64) (s : State) : exec (.hrel p h b) s = execHrel p h b s := rfl

/-- A bound ring whose object is reached, at rest, sound and well formed (R158, R401, R408). -/
structure State.RingAt (s : State) (h : Fin 8) (w : Want) (rb : RingBind) (ls : List Nat) : Prop where
  bound : s.me.hreg[h] = some rb
  reach : s.ringGate s.cur rb w = .ok ls
  still : s.waits ls = false
  sound : ls.any s.poisoned = false
  form  : (s.ringObj ls).malformed rb = false

theorem State.RingAt.use (hr : s.RingAt h w rb ls) (k : List Nat → RingBind → RingObj → Res) :
    s.ringUse h w k = k ls rb (s.ringObj ls) := by
  have hpoison : s.objPoison ls rb.addr = none := by
    rw [State.objPoison, List.find?_eq_none.2 fun l hl => by simpa using List.any_eq_false.1 hr.sound l hl]
    rfl
  rw [State.ringUse, hr.bound]
  dsimp only
  rw [hr.reach]
  dsimp only
  rw [if_neg (by rw [← State.waits, hr.still]; exact Bool.false_ne_true), hpoison]
  exact if_neg (by rw [hr.form]; exact Bool.false_ne_true)
theorem State.ringUse_unbound (hr : s.me.hreg[h] = none) (w : Want) (k : List Nat → RingBind → RingObj → Res) :
    s.ringUse h w k = .fail { code := 0x33, d1 := 1 } := by
  rw [State.ringUse, hr]
  rfl

/-! ## HWAIT -/

/-- The condition of an HWAIT that asks for `n` slots (R159). -/
def RingObj.Serves (r : RingObj) (n : Word) : Prop := n.toNat ≤ r.filled ∨ r.eosseen = r.nprod

theorem exec_hwait_unbound (hp : s.me.pget p = true) (hn : s.me.checked b = .ok n) (hr : s.me.hreg[h] = none) :
    Traps (.hwait p h b) s .c { code := 0x33, d1 := 1 } := by
  rw [Traps, exec_hwait, execHwait, hn, need_ok, State.ringUse_unbound hr]
  exact slotOp_fail hp
theorem State.RingAt.hwait_eq (hr : s.RingAt h ⟨false, false⟩ rb ls) (hn : s.me.checked b = .ok n) (h1 : 1 ≤ n.toNat)
    (hmax : n.toNat ≤ (s.ringObj ls).nslot) : exec (.hwait p h b) s = s.slotOp .c p
      (if (n.toNat ≤ (s.ringObj ls).filled || (s.ringObj ls).over) && !s.fresh (ls.headD 0) 64 then
        .need (s.hwaitEnd s.cur ls rb.addr (s.me.n + 1) s.me.pc) .done
      else .done (s.modMe fun c => { c with wait := .ring h n })) := by
  rw [exec_hwait, execHwait, hn, need_ok, hr.use, if_neg (by simp [ne_zero_of_one_le h1, hmax])]
/-- A ring that does not serve the wait lets the lane sleep. -/
theorem State.RingAt.hwait_sleeps (hr : s.RingAt h ⟨false, false⟩ rb ls) (hp : s.me.pget p = true)
    (hn : s.me.checked b = .ok n) (h1 : 1 ≤ n.toNat) (hmax : n.toNat ≤ (s.ringObj ls).nslot)
    (hs : ¬(s.ringObj ls).Serves n) : exec (.hwait p h b) s = .next (s.modMe fun c => { c with wait := .ring h n }).issued := by
  rw [hr.hwait_eq hn h1 hmax, if_neg ?_]
  · exact slotOp_done hp
  · rw [RingObj.Serves, not_or] at hs
    simp [RingObj.over, hs]
/-- The lane of an HWAIT that is over: its value is on the way to q6 (R159). -/
def Ctx.hwaited (now : Nat) (v : Word) (x : Ctx) : Ctx := { x with
  wait := .none
  phaseOpen := now
  pipe := x.pipe ++ [⟨.c, x.n, x.pc, some (x.n + 1), [], some (.scalar (SVal.of v)), 0, [], now + 1, false⟩] }
theorem State.RingAt.hwait_ends (hr : s.RingAt h ⟨false, false⟩ rb ls) (hp : s.me.pget p = true)
    (hn : s.me.checked b = .ok n) (h1 : 1 ≤ n.toNat) (hmax : n.toNat ≤ (s.ringObj ls).nslot)
    (hs : (s.ringObj ls).Serves n) (hf : s.fresh (ls.headD 0) 64 = false)
    (hc : s.firstClash s.cur s.me.run .observe s.time none (ringSpans ls rb.addr) = none) :
    ∃ as, exec (.hwait p h b) s = .next ((({ s with accs := as } : State).modCtx s.cur
      (Ctx.hwaited s.time (s.ringObj ls).hwaitValue)).issued) := by
  have htouch : ∃ as, s.ringTouch s.cur .observe s.time ls rb.addr = .ok { s with accs := as } := by
    rw [State.ringTouch, State.touchAs]
    rw [show (s.ctx s.cur).run = s.me.run from rfl, hc]
    exact ⟨_, rfl⟩
  obtain ⟨as, htouch⟩ := htouch
  refine ⟨as, ?_⟩
  have hover : (decide (n.toNat ≤ (s.ringObj ls).filled) || (s.ringObj ls).over) = true := by
    simpa [RingObj.over, RingObj.Serves] using hs
  rw [hr.hwait_eq hn h1 hmax, hover, hf, if_pos (show (true && !false) = true from rfl), State.hwaitEnd, htouch]
  dsimp only
  rw [State.openPhase, State.modCtx_modCtx]
  exact slotOp_done hp

/-! ## HREL -/

/-- A release of more slots than are filled, or of none (R408, case 4). -/
theorem State.RingAt.hrel_overrun (hr : s.RingAt h ⟨true, false⟩ rb ls) (hp : s.me.pget p = true)
    (hn : s.me.checked b = .ok n) (hbad : n.toNat = 0 ∨ (s.ringObj ls).filled < n.toNat) :
    Traps (.hrel p h b) s .c { code := 0x33, faddr := rb.addr, d1 := 4 } := by
  have hzero : n.toNat = 0 → n = 0 := fun h => BitVec.eq_of_toNat_eq h
  rw [Traps, exec_hrel, execHrel, hn, need_ok, hr.use, if_pos (by simpa using hbad.imp_left hzero)]
  exact slotOp_fail hp
/-- The cells of the one synchronisation write of a release: eosseen, rp and eos (R91, R256). -/
def releaseCells (ls : List Nat) (seen rp eos : Nat) : List Host.Cell :=
  (ls.drop 12).zip (leBytes seen 4) ++ (ls.drop 20).zip (leBytes rp 4) ++ (ls.drop 32).zip (leBytes eos 32)

section
variable {eos seen : Nat}
/-- A release that counts more ends of stream than there are producers (R408, case 5). -/
theorem State.RingAt.hrel_overcount (hr : s.RingAt h ⟨true, false⟩ rb ls) (hp : s.me.pget p = true)
    (hn : s.me.checked b = .ok n) (h1 : 1 ≤ n.toNat) (hmax : n.toNat ≤ (s.ringObj ls).filled)
    (hgo : releaseGo (leNat ((ls.drop 32).map s.byte)) (s.ringObj ls) n.toNat 0 (s.ringObj ls).eosseen = (eos, seen))
    (hover : (s.ringObj ls).nprod < seen) : Traps (.hrel p h b) s .c { code := 0x33, faddr := rb.addr, d1 := 5 } := by
  rw [Traps, exec_hrel, execHrel, hn, need_ok, hr.use, if_neg (by simp [ne_zero_of_one_le h1, hmax])]
  dsimp only
  rw [hgo, if_pos hover]
  exact slotOp_fail hp
/-- A release whose close is not refused. -/
theorem State.RingAt.hrel_releases {t u : State} (hr : s.RingAt h ⟨true, false⟩ rb ls) (hp : s.me.pget p = true)
    (hn : s.me.checked b = .ok n) (h1 : 1 ≤ n.toNat) (hmax : n.toNat ≤ (s.ringObj ls).filled)
    (hgo : releaseGo (leNat ((ls.drop 32).map s.byte)) (s.ringObj ls) n.toNat 0 (s.ringObj ls).eosseen = (eos, seen))
    (hin : seen ≤ (s.ringObj ls).nprod) (ht : s.ringTouch s.cur .sync s.time ls rb.addr = .ok t)
    (hu : t.closePhase s.cur .c s.me.pc true = .ok u) : exec (.hrel p h b) s = .next
      ((u.setCells (releaseCells ls seen (((s.ringObj ls).rp + n.toNat) % 2 ^ 32) eos)).openPhase s.cur).issued := by
  rw [exec_hrel, execHrel, hn, need_ok, hr.use, if_neg (by simp [ne_zero_of_one_le h1, hmax])]
  dsimp only
  rw [hgo, if_neg (Nat.not_lt.2 hin), ht, need_ok]
  dsimp only
  rw [hu]
  exact slotOp_done hp
end
end

/-- Settles O15. -/
theorem ringWaitsAndRelease : Obligations.RingWaitsAndRelease := by
  refine ⟨fun s p b h n hp hn => ⟨exec_hwait_unbound hp hn, fun rb ls hb hg hw hs hm h1 hmax => ?_⟩,
    fun s p b h n rb ls hp hn hb hg hw hs hm => ?_⟩
  · have hr : s.RingAt h ⟨false, false⟩ rb ls := ⟨hb, hg, hw, hs, hm⟩
    refine ⟨fun hserves hf hc => ?_, fun hlt hne => hr.hwait_sleeps hp hn h1 hmax (by simp [RingObj.Serves, hlt, hne])⟩
    obtain ⟨as, hexec⟩ := hr.hwait_ends hp hn h1 hmax hserves hf hc
    refine ⟨_, hexec, rfl, rfl, fun _ => rfl, ?_⟩
    have hv : (s.ringObj ls).hwaitValue = BitVec.ofNat 64 ((s.ringObj ls).rp % (s.ringObj ls).nslot +
        (s.ringObj ls).filled % 2 ^ 16 * 2 ^ 32 + if (s.ringObj ls).eosseen = (s.ringObj ls).nprod then 2 ^ 63 else 0) := by
      simp [RingObj.hwaitValue, RingObj.over]
    rw [← hv]
    exact State.ctx_modCtx ..
  · have hr : s.RingAt h ⟨true, false⟩ rb ls := ⟨hb, hg, hw, hs, hm⟩
    intro r eos released ended eos' hd hmem _ hbits seen
    have hpasses : ∀ i, r.Passes 0 n.toNat i ↔ released i := fun i => by simp [RingObj.Passes, released]
    have hseen : (releaseGo eos r n.toNat 0 r.eosseen).2 = seen :=
      seen_releaseGo r n.toNat eos 0 r.eosseen ended hd fun i => by rw [hmem, hpasses]
    have hgo : releaseGo eos r n.toNat 0 r.eosseen = ((releaseGo eos r n.toNat 0 r.eosseen).1, seen) := Prod.ext rfl hseen
    have heos : leBytes (releaseGo eos r n.toNat 0 r.eosseen).1 32 = leBytes eos' 32 :=
      leBytes_congr fun i hi => Bool.eq_iff_iff.2 (by rw [testBit_releaseGo, hpasses, hbits i (by omega)])
    refine ⟨hr.hrel_overrun hp hn, fun h1 hmax hover => hr.hrel_overcount hp hn h1 hmax hgo hover,
      fun h1 hmax hin t ht u hu => ?_⟩
    rw [hr.hrel_releases hp hn h1 hmax hgo hin ht hu, releaseCells, heos]

end Sys2Proof.Machine
end

section
/-!
CERTIFICATE. The mailbox commands (O47): a memory outside the canonical form, in which a resume changes more of the OPB than
it writes.
-/
namespace Sys2Proof.Machine

/-- ASID 1 maps the page at 0 to the frame at 0x30000, where lane record 0 stands, valid and with its check. The first two
cells are not in the order of their keys: the one of 0xA0 hides the one of 0x0A. -/
def hiddenCell : List Host.Cell := [(0xA0, 1), (0x0A, 0x80), (0x1041, 0x20), (0x2000, 1), (0x2002, 1), (0x10000, 1),
  (0x10002, 2), (0x20000, 7), (0x20002, 3), (0x30007, 0x80), (0x30038, 0x27),
  (0x30039, 0x53), (0x3003A, 0x10), (0x3003B, 0xCD)]
/-- A saved node whose OPB stands at physical address 0. -/
def savedNode : Node where
  asid := 1
  opb := 0x100
  phys := 0
  die := 0
  prio := 0
  requeue := []
  carries := []
  inherited := false
  rndDone := false
  ord := none
  pre := .saved
  preMb := []
  preSince := 0
  dying := none
/-- Mailbox 0 resumes it. -/
def resuming : State := { State.reset with
  time := 1
  mem := hiddenCell
  nodes := [savedNode]
  mail := State.reset.mail.set 0 ⟨5, true, 0x100, 1, 0, 0⟩
  mbQueue := [(0, 0)]
  cfg := { State.reset.cfg with asidtab := 0x1000 } }
theorem resuming_notCanonical : ¬ resuming.Canonical := fun h => absurd h.mem (by decide +kernel)
/-- The state in which the command is carried out. -/
def resumeTaken : State := { resuming with
  mbQueue := []
  journal := resuming.journal ++ [⟨0, resuming.mail[(0 : Fin 16)]⟩] }

theorem mail_resuming : resuming.mail[(0 : Fin 16)] = ⟨5, true, 0x100, 1, 0, 0⟩ := by decide +kernel
/-- The command is in order: the node is saved, a gang of one lane, not a chain, and its lane record passes its check. -/
theorem resumeTaken_inOrder : (resumeTaken.findOpb 1 0x100).isSome = true ∧ resumeTaken.node 1 0x100 = some savedNode ∧
    resumeTaken.gangWidth savedNode = 1 ∧ resumeTaken.opbBit savedNode 23 = false ∧
    resumeTaken.readLane savedNode 0 = .good 0 #v[0, 0, 0, 0] := by
  decide +kernel
/-- The write of the walker's step takes the cell of 0xA0 out, and the chain bit of the OPB, at 0x0A, comes to light. -/
theorem opbBit_resumeTaken : (resumeTaken.setOpb savedNode 0xA0 0 64 0).opbBit savedNode 23 = true := by
  decide +kernel

/-- The carries of the nodes held after a step. -/
def Out.carries : Out → List (List Carry)
  | .next t => t.nodes.map (·.carries)
  | _ => []
/-- The node takes the carries of its lane record, as a chain does. -/
theorem carries_resumed : Out.carries (exec (.resumeNode 0) resuming) = [[#v[0, 0, 0, 0]]] := by
  decide +kernel
/-- In the next state that the statement gives it has none. -/
theorem carries_setPre : ((resumeTaken.setOpb savedNode 0xA0 0 64 0).setPre savedNode.asid savedNode.opb .no).nodes.map
    (·.carries) = [[]] := by
  decide +kernel

/-- Refutes O47: the clause on a resumed node whose lane record passes its check gives the next state whole, without the
premise (State.Canonical) that the stores are in canonical form. In `resuming` they are not: the model reads the chain bit of
the OPB again after it has written the walker's step there, finds it set where it was clear, and gives the node the carries of
its lane record. -/
theorem not_mailboxCommandsComplete : ¬ Obligations.MailboxCommandsComplete := by
  unfold Obligations.MailboxCommandsComplete
  intro h
  have hmail := mail_resuming
  obtain ⟨hopb, hnode, hwidth, hchain, hlane⟩ := resumeTaken_inOrder
  obtain ⟨-, -, -, -, -, hresume, -⟩ :=
    h resuming 0 0 [] rfl Nat.zero_lt_one (fun _ hq => absurd hq List.not_mem_nil) (by rw [hmail])
  obtain ⟨hsaved, -⟩ := hresume (by rw [hmail]) (by rw [hmail]; decide) (by rw [hmail]; exact hopb) savedNode
    (by rw [hmail]; exact hnode)
  obtain ⟨hgood, -⟩ := hsaved rfl hwidth hchain
  have hcarries := carries_resumed.symm.trans (congrArg Out.carries (hgood 0 _ hlane))
  exact absurd (hcarries.trans carries_setPre) (by decide)

end Sys2Proof.Machine
end

section
/-!
CERTIFICATE. Commutative updates, held to the close of their phase (O23), and the issue of a load block (O24).
-/
namespace Sys2Proof.Machine
open Sys2Proof.Laws

variable {s : State} {i : Instr} {p r base : Fin 64} {off : MOff} {ty : BitVec 4} {a v w : Word}

/-! ## Updates (R171, R172) -/

/-- An update whose element is aligned, reached, sound and clear of conflicts is logged, and held with its combination. -/
theorem commUpdate_ok {k : UKind} {ls : List Nat} (hp : s.me.pget p = true) (ha : s.me.ea base off = .ok a)
    (hv : s.me.checked r = .ok v) (hal : a.toNat % updBytes ty = 0)
    (hg : s.gate1 s.me.asid a.toNat (updBytes ty) ⟨true, false⟩ = .ok ls) (hw : s.waits ls = false)
    (hpoison : ls.find? s.poisoned = none) (hc : s.Clear .update (spansOf [(a, ls)])) :
    commUpdate k p r base off ty s =
      .next (((s.logged .update (spansOf [(a, ls)])).noted .update (spansOf [(a, ls)])).modMe fun c =>
        { c with pend := c.pend ++ [⟨.upd (ls.headD 0) k ty v, a, true, false, some 0⟩] }).issued := by
  rw [commUpdate, ha, need_ok, hv, need_ok]
  dsimp only
  rw [misaligned_eq_false hal, if_neg Bool.false_ne_true, globalUse_ok hg hw, hpoison]
  dsimp only
  rw [mTouch_clear hc, need_ok, slotOp_done hp]

/-- Settles O23: the five updates are one operation with five combinations. -/
theorem commutativeUpdatesJoinTheirPhase : Obligations.CommutativeUpdatesJoinTheirPhase := by
  unfold Obligations.CommutativeUpdatesJoinTheirPhase
  intro s p r base off ty a v ls hp ha hv n hal hg hw hpoison hc joins
  have join {i : Instr} {k : UKind} (he : exec i s = commUpdate k p r base off ty s) : joins i k :=
    he.trans (commUpdate_ok hp ha hv hal hg hw hpoison hc)
  exact ⟨join (exec_amadd ..), join (exec_ammax ..), join (exec_ammin ..), join (exec_amand ..), join (exec_amor ..)⟩

/-! ## Load blocks (R170, R379) -/

theorem exec_ldb (p r base : Fin 64) (off : MOff) (s : State) : exec (.ldb p r base off) s = execLdb p r base off s := rfl
theorem Ctx.sget_of_checked {x : Ctx} (h : x.checked r = .ok v) : (x.sget r).val = v := by
  rw [Ctx.checked] at h
  split at h
  · exact Except.ok.inj h
  · cases h
/-- The count of LDB's operand word. -/
theorem bits_count (w : Word) : bits w 58 6 = w.toNat / 2 ^ 58 := by
  refine bits_eq (Nat.mod_eq_of_lt ?_)
  have := w.isLt
  omega
/-- Its reserved bits. -/
theorem bits_reserved (w : Word) : bits w 22 36 = w.toNat / 2 ^ 22 % 2 ^ 36 := bits_eq rfl
/-- The address of its completion word. -/
theorem bits_address (w : Word) : (BitVec.ofNat 64 (bits w 0 22)).toNat = w.toNat % 2 ^ 22 := by
  rw [bits_eq (v := w.toNat % 2 ^ 22) (by rw [Nat.pow_zero, Nat.div_one]), BitVec.toNat_ofNat]
  exact Nat.mod_eq_of_lt (by omega)

/-- Settles O24: the word's reserved bits are looked at first; past every check the block joins the commands in flight. -/
theorem loadBlockIssues : Obligations.LoadBlockIssues := by
  unfold Obligations.LoadBlockIssues
  intro s p r base off a w v hp ha hw hv n word
  have hword := Ctx.sget_of_checked hw
  refine ⟨fun hres hpage hal h8 => ?_, fun hres => ?_⟩
  · have haddr : (BitVec.ofNat 64 (bits w 0 22)).toNat = word := bits_address w
    have hloc : spadWord s.cur (BitVec.ofNat 64 (bits w 0 22)) = .ok (spadLoc s.cur.core word) := by
      rw [← haddr] at h8 ⊢
      exact spadWord_ok h8 (by rw [haddr]; exact Nat.mod_lt _ (by decide))
    have hn : 128 * (bits w 58 6 + 1) = n := by rw [bits_count]
    have hv : s.me.checked (nextReg r 1) = .ok v := hv
    rw [exec_ldb, execLdb]
    dsimp only
    rw [hword, bits_reserved, if_neg (not_not.2 hres), ha, need_ok, hw, need_ok, hv, need_ok, hn, if_neg (Nat.not_lt.2 hpage),
      misaligned_eq_false hal, if_neg Bool.false_ne_true, hloc, need_ok, slotOp_done hp]
  · refine traps_of_fail hp (exec_ldb p r base off s) ?_
    dsimp only
    rw [hword, bits_reserved]
    exact if_pos hres

end Sys2Proof.Machine
end

section
/-!
CERTIFICATE. What an engine slot's operation stops on or waits for at issue (O37).
-/
namespace Sys2Proof.Machine
open Sys2Proof.Laws

variable {s : State} {i : Instr} {sl : Slot} {p bar shp : Fin 64} {a v : Word} {f : Fail}

theorem holds_of_hold {r : Res} (hp : s.me.pget p = true) (he : exec i s = s.slotOp sl p r) (hr : r = .hold s) : Holds i s := by
  rw [Holds, he, hr, slotOp_hold hp]

/-! ## Words of the scratchpad (R371, R374) -/

theorem spadWord_misaligned (c : CtxId) (h : a.toNat % 8 ≠ 0) : spadWord c a = .error { code := 0x27, faddr := a } := if_pos h
theorem spadWord_outside (c : CtxId) (h8 : a.toNat % 8 = 0) (h : 0x400000 ≤ a.toNat) :
    spadWord c a = .error { code := 0x28, faddr := a } := by
  rw [spadWord, if_neg (not_not.2 h8), if_pos h]
theorem Ctx.pairOf_ok {x : Ctx} {r : Nat} (ha : x.checked (Fin.ofNat 64 r) = .ok a)
    (hv : x.checked (Fin.ofNat 64 (r + 1)) = .ok v) :
    x.pairOf r = .ok (a, v) := by
  rw [Ctx.pairOf, ha, hv]
  rfl

/-! ## Commands of the X slot (R212, R371) -/

section
variable {x : Ctx} {c : CtxId} {shape : Word → Except Fail Word} {cmd : Word → XCmd}

/-- The barrier's word is placed when all else of a command is in order. -/
theorem Ctx.xwords_barrier (hbar : bar ≠ 0) (hs : shape 0 = .ok 0) (hpair : x.pairOf bar.val = .ok (a, v))
    (hloc : spadWord c a = .error f) : x.xwords c 0 bar shape = .error f := by
  rw [Ctx.xwords, if_pos rfl]
  dsimp only
  rw [if_neg hbar, hpair]
  dsimp only [Except.map]
  rw [hs]
  dsimp only
  rw [hloc]
/-- The word of a shape is looked at when its register and the barrier's pair are in order. -/
theorem Ctx.xwords_shape (hshp : shp ≠ 0) (hv : x.checked shp = .ok v) (hs : shape v = .error f) :
    x.xwords c shp 0 shape = .error f := by
  rw [Ctx.xwords, if_neg hshp, hv]
  dsimp only
  rw [if_pos rfl]
  dsimp only
  rw [hs]

theorem State.issueX_fail (h : s.me.xwords s.cur shp bar shape = .error f) : s.issueX shp bar shape cmd = .fail f := by
  rw [State.issueX, h, need_error]
/-- A command waits for room in the queue. -/
theorem State.issueX_full {w : Word × Option (Nat × Word)} (h : s.me.xwords s.cur shp bar shape = .ok w)
    (hfull : Config.xQueueDepth ≤ s.me.xq.length) : s.issueX shp bar shape cmd = .hold s := by
  rw [State.issueX, h, need_ok]
  exact if_pos hfull
end

theorem exec_mzero (p : Fin 64) (zd : Fin 8) (bar : Fin 64) (s : State) : exec (.mzero p zd bar) s =
    s.slotOp .x p (s.issueX 0 bar noShape fun _ => s.newX (.mzero p zd bar)) := rfl
theorem exec_mscl (p : Fin 64) (zd : Fin 8) (shp : Fin 64) (val : Bool) (bar : Fin 64) (s : State) :
    exec (.mscl p zd shp val bar) s = s.slotOp .x p (s.issueX shp bar
      (fun w => if bits w 32 32 ≠ 0 then .error shapeFail else .ok w) fun _ => s.newX (.mscl p zd shp val bar)) := rfl

/-- A shape word outside the limits of a product, of descriptors that are in order (R215). -/
theorem productShape_limits {da db : Desc} (opa : Bool) (na nb : Fin 16) (hshp : shp ≠ 0)
    (ha : da.sans7.bad (productUse shp) = none) (hb : db.sans7.bad (productUse shp) = none)
    (h : bits v 48 16 ≠ 0 ∨ 128 < bits v 0 16 ∨ 128 < bits v 16 16 ∨ bits v 32 16 % 16 ≠ 0 ∨ bits v 32 16 < 16) :
    productShape opa shp da db na nb v = .error shapeFail := by
  rw [productShape, useDesc_ok ha]
  dsimp only
  rw [useDesc_ok hb]
  dsimp only
  rw [if_neg hshp]
  refine if_pos ?_
  simp only [Bool.or_eq_true, decide_eq_true_eq]
  tauto

theorem State.issueProduct_limits {da db : Fin 16} (i : Instr) (opa : Bool) (hshp : shp ≠ 0) (hv : s.me.checked shp = .ok v)
    (ha : s.me.dreg[da].sans7.bad (productUse shp) = none) (hb : s.me.dreg[db].sans7.bad (productUse shp) = none)
    (h : bits v 48 16 ≠ 0 ∨ 128 < bits v 0 16 ∨ 128 < bits v 16 16 ∨ bits v 32 16 % 16 ≠ 0 ∨ bits v 32 16 < 16) :
    s.issueProduct i opa da db shp 0 = .fail shapeFail :=
  (State.issueProduct_eq ..).trans (State.issueX_fail (Ctx.xwords_shape hshp hv (productShape_limits opa da db hshp ha hb h)))
theorem exec_mmul (p : Fin 64) (zd : Fin 8) (da db : Fin 16) (shp : Fin 64) (st : Bool) (bar : Fin 64) (s : State) :
    exec (.mmul p zd da db shp st bar) s = s.slotOp .x p (s.issueProduct (.mmul p zd da db shp st bar) false da db shp bar) := rfl
theorem exec_mopa (p : Fin 64) (zd : Fin 8) (da db : Fin 16) (shp : Fin 64) (st : Bool) (bar : Fin 64) (s : State) :
    exec (.mopa p zd da db shp st bar) s = s.slotOp .x p (s.issueProduct (.mopa p zd da db shp st bar) true da db shp bar) := rfl

/-! ## Commands of the K slot (R125, R175, R370) -/

section
variable {d : Desc} {k : KDone}

theorem doneOf_default (n : Fin 16) (hl : k.lvl = 0) (hs : k.sc = 0) (hd : d.dlevel = 0) : doneOf d n k = .ok (0, d.dsc) := by
  rw [doneOf, if_pos (by simp [hl, hs]), hd]
  rfl
theorem doneOf_limits (n : Fin 16) (hl : k.lvl = 0) (hs : k.sc = 0) (hd : d.dlevel ≠ 0)
    (h : d.dsc = 0 ∨ (if d.dlevel = 3 then 60 else 62) < d.dsc) : doneOf d n k = .error (descFail n.val 7) := by
  rw [doneOf, if_pos (by simp [hl, hs])]
  refine if_pos ?_
  rw [Bool.and_eq_true, Bool.or_eq_true, decide_eq_true_iff, decide_eq_true_iff, decide_eq_true_iff]
  exact ⟨hd, h⟩
theorem doneOf_own (d : Desc) (n : Fin 16) (hl : k.lvl ≠ 0) : doneOf d n k = .ok (k.lvl, k.sc.val) := by
  exact if_neg fun h => hl (of_decide_eq_true (Bool.and_eq_true_iff.1 h).1)

/-- The one word of level 1 or 2 is placed. -/
theorem kWords_place {x : Ctx} {c : CtxId} {lvl : BitVec 2} {sc : Nat} (hl : lvl = 1 ∨ lvl = 2) (hpair : x.pairOf sc = .ok (a, v))
    (hloc : spadWord c a = .error f) : kWords c x lvl sc = .error f := by
  rw [kWords, hpair]
  dsimp only
  rw [hloc]
  rcases hl with rfl | rfl <;> rfl

variable {path : KPath} {n : Fin 16} {q : KCmd}

theorem State.issueK_badDone (h : doneOf d n k = .error f) : s.issueK path d n k q = .fail f := by
  rw [State.issueK, h, need_error]
theorem State.issueK_badWord {lvl : BitVec 2} {sc : Nat} (h : doneOf d n k = .ok (lvl, sc))
    (hw : kWords s.cur s.me lvl sc = .error f) : s.issueK path d n k q = .fail f := by
  rw [State.issueK, h, need_ok]
  dsimp only
  rw [hw, need_error]
/-- A command without a completion word waits for room on its path. -/
theorem State.issueK_full {sc : Nat} (h : doneOf d n k = .ok (0, sc)) (hfull : s.pathFull s.cur path = true) :
    s.issueK path d n k q = .hold s := by
  rw [State.issueK, h, need_ok]
  exact if_pos hfull
end

theorem exec_kcpy (p : Fin 64) (dd ds : Fin 16) (k : KDone) (s : State) : exec (.kcpy p dd ds k) s =
    s.slotOp .k p (s.issuePair (.kcpy p dd ds k) .copy dd ds 0 0 k) := rfl
theorem exec_kred (p : Fin 64) (dd ds : Fin 16) (k : KDone) (s : State) : exec (.kred p dd ds k) s =
    s.slotOp .k p (s.issuePair (.kred p dd ds k) .copy dd ds 0 0 k) := rfl
theorem exec_kfill (p : Fin 64) (dd : Fin 16) (ra : Fin 64) (k : KDone) (s : State) : exec (.kfill p dd ra k) s =
    s.slotOp .k p (.need (s.me.checked ra) fun a => s.issueK .copy s.me.dreg[dd] dd k
      { s.newK (.kfill p dd ra k) (some .copy) with dd := s.me.dreg[dd], sa := a }) := rfl

/-! ## Operations of the O slot (R224, R230) -/

/-- An update waits for the queued X commands that write its accumulator. -/
theorem State.optimise_busy {z : Fin 8} {r : Fin 128} {n : Fin 16}
    {col : Vector W32 8 → Fmt → XV → W32 → Nat → List Nat → OptCol} (hcheck : optCheck r s.me.dreg[n] n none = .ok ())
    (hbusy : ∃ q ∈ s.me.xq, q.t ≠ s.time ∧ z ∈ q.writes) :
    s.optimise z r n none col = .hold s := by
  have hz : s.zBusy z = true := by
    obtain ⟨q, hq, ht, hw⟩ := hbusy
    exact List.any_eq_true.2 ⟨q, hq, by simp [ht, hw]⟩
  exact (need_of_ok hcheck _).trans (if_pos hz)

theorem exec_oscl (p : Fin 64) (ds : Fin 16) (n : Fin 128) (s : State) : exec (.oscl p ds n) s = execOscl p ds n s := rfl

theorem wrapInt_toNat (a : Word) : wrapInt 64 (a.toNat : Int) = a := by
  rw [wrapInt, BitVec.ofInt_natCast, BitVec.ofNat_toNat, BitVec.setWidth_eq]
theorem gate0_outside (c : Fin 128) (n : Nat) (h : 0x400000 ≤ a.toNat) :
    gate0 c (a.toNat : Int) n = .fail { code := 0x28, faddr := a } := by
  have hbad : (decide ((a.toNat : Int) < 0) || decide ((0x400000 : Int) ≤ a.toNat)) = true := by
    simp; omega
  rw [gate0, hbad, if_pos rfl]
  dsimp only
  rw [wrapInt_toNat]

section
variable {ds : Fin 16} {n : Fin 128} (hp : s.me.pget p = true) (ha : s.me.dreg[ds].base + BitVec.ofNat 64 (32 * n.val) = a)
include hp ha

theorem exec_oscl_misaligned (h : a.toNat % 32 ≠ 0) : Traps (.oscl p ds n) s .o { code := 0x27, faddr := a } := by
  subst ha
  exact traps_of_fail hp (exec_oscl ..) (if_pos (misaligned_eq_true h))
theorem exec_oscl_outside (h32 : a.toNat % 32 = 0) (h : 0x400000 ≤ a.toNat) :
    Traps (.oscl p ds n) s .o { code := 0x28, faddr := a } := by
  refine traps_of_fail hp (exec_oscl ..) ?_
  rw [ha, misaligned_eq_false h32, if_neg Bool.false_ne_true, gate0_outside _ _ h]
end

/-- Settles O37: each check of a slot fails or holds its operation, whatever the operation. -/
theorem engineIssueChecks : Obligations.EngineIssueChecks := by
  unfold Obligations.EngineIssueChecks
  intro s p bar shp ra z dd ds k a v hp ha
  have word {f : Word → Res} : Res.need (s.me.checked ra) f = f a := need_of_ok ha f
  refine ⟨fun hfull => ?_, fun hbar hba hbv => ?_, fun hshp hv da db st hda hdb hlim => ?_, fun hshp hv hbig val => ?_,
    fun hl hs => ?_, fun hl hs => ?_, fun hl hwa hwv => ?_, fun hfull => ?_, fun r hcheck hbusy => ?_, fun n => ?_⟩
  · have hold {i : Instr} {cmd : Word → XCmd} (he : exec i s = s.slotOp .x p (s.issueX 0 0 noShape cmd)) : Holds i s :=
      holds_of_hold hp he (State.issueX_full (w := (0, none)) rfl hfull)
    exact ⟨hold rfl, hold rfl, hold rfl⟩
  · have hpair : s.me.pairOf bar.val = .ok (a, v) := Ctx.pairOf_ok (by simpa using hba) hbv
    have trap {f : Fail} (hloc : spadWord s.cur a = .error f) : Traps (.mzero p z bar) s .x f :=
      traps_of_fail hp (exec_mzero ..) (State.issueX_fail (Ctx.xwords_barrier hbar rfl hpair hloc))
    exact ⟨fun h8 => trap (spadWord_misaligned _ h8), fun h8 hout => trap (spadWord_outside _ h8 hout)⟩
  · exact ⟨traps_of_fail hp (exec_mmul ..) (State.issueProduct_limits _ _ hshp hv hda hdb hlim),
      traps_of_fail hp (exec_mopa ..) (State.issueProduct_limits _ _ hshp hv hda hdb hlim)⟩
  · have hhigh : bits v 32 32 ≠ 0 := by
      rw [bits_eq (v := v.toNat / 2 ^ 32) (Nat.mod_eq_of_lt (by omega))]
      omega
    exact traps_of_fail hp (exec_mscl ..) (State.issueX_fail (Ctx.xwords_shape hshp hv (if_pos hhigh)))
  · intro d hd hfull
    have hdone := doneOf_default (d := d) dd hl hs hd
    exact ⟨holds_of_hold hp (exec_kcpy ..) (State.issueK_full hdone hfull),
      holds_of_hold hp (exec_kfill ..) (word.trans (State.issueK_full hdone hfull))⟩
  · intro d hd hlim bad
    have hdone : doneOf d dd k = .error bad := doneOf_limits dd hl hs hd hlim
    exact ⟨traps_of_fail hp (exec_kcpy ..) (State.issueK_badDone hdone),
      traps_of_fail hp (exec_kfill ..) (word.trans (State.issueK_badDone hdone)),
      traps_of_fail hp (exec_kred ..) (State.issueK_badDone hdone)⟩
  · have hpair := Ctx.pairOf_ok hwa hwv
    have hown : k.lvl ≠ 0 := by rcases hl with h | h <;> rw [h] <;> decide
    have trap {f : Fail} (hloc : spadWord s.cur a = .error f) : Traps (.kcpy p dd ds k) s .k f :=
      traps_of_fail hp (exec_kcpy ..) (State.issueK_badWord (doneOf_own _ dd hown) (kWords_place hl hpair hloc))
    exact ⟨fun h8 => trap (spadWord_misaligned _ h8), fun h8 hout => trap (spadWord_outside _ h8 hout)⟩
  · exact holds_of_hold hp rfl (word.trans (if_pos hfull))
  · exact holds_of_hold hp rfl (State.optimise_busy hcheck hbusy)
  · exact ⟨exec_oscl_misaligned hp rfl, exec_oscl_outside hp rfl⟩

end Sys2Proof.Machine
end

section
/-!
SUPPORT. Published memory and translation rest on storage and on the closes on their way: the commands in flight and the flits on
the ports leave them.
-/
namespace Sys2Proof.Machine

/-! ## Published memory (R36, R75, R85) -/

section
variable {u s t : State} {ops : List Pend} {f : Fail}

/-- What homes make of held writes rests on storage alone. -/
theorem State.applyAll_withStorage (h : s.applyAll ops = .ok t) : (u.withStorage s).applyAll ops = .ok (u.withStorage t) := by
  induction ops generalizing s with
  | nil =>
    cases h
    rfl
  | cons p ops ih =>
    rw [State.applyAll] at h ⊢
    cases hr : s.refusePend p with
    | some f =>
      rw [hr] at h
      cases h
    | none =>
      rw [hr] at h
      rw [(State.refusePend_withStorage u s p).2 hr, State.applyPend_withStorage]
      exact ih h
theorem State.applyAll_withStorage_error (h : s.applyAll ops = .error f) : ∃ e, (u.withStorage s).applyAll ops = .error e := by
  induction ops generalizing s with
  | nil => cases h
  | cons p ops ih =>
    rw [State.applyAll] at h ⊢
    cases hr : (u.withStorage s).refusePend p with
    | some e => exact ⟨e, rfl⟩
    | none =>
      rw [(State.refusePend_withStorage u s p).1 hr] at h
      rw [State.applyPend_withStorage]
      exact ih h
theorem State.arrived_withStorage (hc : u.closing = s.closing) : (u.withStorage s).arrived = u.withStorage s.arrived := by
  refine (congrArg (List.foldl _ _) hc).trans (State.foldl_withStorage (fun s q => ?_) s.closing s)
  cases h : s.applyAll q.ops with
  | ok t => rw [State.applyAll_withStorage h]
  | error f =>
    obtain ⟨e, he⟩ := State.applyAll_withStorage_error (u := u) h
    rw [he]
theorem State.pubNum_withStorage (hc : u.closing = s.closing) (l n : Nat) : (u.withStorage s).pubNum l n = s.pubNum l n := by
  rw [State.pubNum, State.pubNum, State.pubBytes, State.pubBytes, State.arrived_withStorage hc]
  exact congrArg leNat (List.map_congr_left fun l _ => State.plainByte_withStorage u s.arrived l)
end

/-! ## Translation (R79 to R81, R87) -/

/-- The state with other commands in flight, and other flits on the ports. -/
def State.withCommands (s : State) (ks : List KCmd) (ps : Vector Port 16) : State := { s with
  kcmds := ks
  ports := ps }

section
variable (s : State) (ks : List KCmd) (ps : Vector Port 16) (a : BitVec 12) (w : Want)

@[simp] theorem State.pubNum_withCommands (l n : Nat) : (s.withCommands ks ps).pubNum l n = s.pubNum l n :=
  State.pubNum_withStorage (u := s.withCommands ks ps) (s := s) rfl l n
@[simp] theorem State.walkEntry_withCommands (va x level : Nat) :
    (s.withCommands ks ps).walkEntry va x level = s.walkEntry va x level := by
  rw [State.walkEntry, State.walkEntry, State.pubNum_withCommands]
  rfl
@[simp] theorem State.groupGate_withCommands (va g : Nat) : (s.withCommands ks ps).groupGate va g = s.groupGate va g := by
  have hok : (s.withCommands ks ps).groupOk g = s.groupOk g := by simp only [State.groupOk, State.pubNum_withCommands]
  rw [State.groupGate, State.groupGate, hok]
  rfl
@[simp] theorem State.arenaGate_withCommands (va n : Nat) : (s.withCommands ks ps).arenaGate a va n w = s.arenaGate a va n w := rfl
@[simp] theorem State.frameGate_withCommands (va pa : Nat) (b : Bool) :
    (s.withCommands ks ps).frameGate va pa b w = s.frameGate va pa b w := rfl
@[simp] theorem State.asidWord_withCommands (o : Nat) : (s.withCommands ks ps).asidWord a o = s.asidWord a o := rfl
@[simp] theorem State.framePolicy_withCommands (x : Nat) : (s.withCommands ks ps).framePolicy x = s.framePolicy x := rfl
theorem State.translate_withCommands (va n : Nat) : (s.withCommands ks ps).translate a va n w = s.translate a va n w := by
  simp only [State.translate, State.pubNum_withCommands, State.walkEntry_withCommands, State.groupGate_withCommands,
    State.arenaGate_withCommands, State.frameGate_withCommands, State.asidWord_withCommands, State.framePolicy_withCommands]
theorem State.pieces_withCommands (m va n : Nat) : (s.withCommands ks ps).pieces a w m va n = s.pieces a w m va n := by
  induction m generalizing va n with
  | zero => rfl
  | succ m ih =>
    rw [State.pieces, State.pieces]
    dsimp only
    rw [ih, State.translate_withCommands]
theorem State.gate1_withCommands (va n : Nat) : (s.withCommands ks ps).gate1 a va n w = s.gate1 a va n w := by
  rw [State.gate1, State.gate1, State.pieces_withCommands, State.arenaGate_withCommands]
end

end Sys2Proof.Machine
end

section
/-!
CERTIFICATE. An all-to-all round: posts, sends, and its advance (O46).
-/
namespace Sys2Proof.Machine
open Sys2Proof.Laws

variable {s t u : State} {k q : KCmd}

/-! ## A party starts and posts (R183, R405) -/

theorem KCmd.Exchanges.gathers (h : k.Exchanges) : k.gathers = false := by
  obtain ⟨p, dd, ds, sa, sb, kd, hop⟩ := h
  rw [KCmd.gathers, hop]
theorem KCmd.Exchanges.waitsIdx (h : k.Exchanges) : k.waitsIdx = false := by
  rw [KCmd.waitsIdx, h.gathers, Bool.false_and]

/-- No command has posted, here or elsewhere. -/
structure State.Unposted (s : State) : Prop where
  here : ∀ q ∈ s.kcmds, q.posted = false
  far : s.parties = []

theorem State.Unposted.parties (h : s.Unposted) (l r : Nat) : s.a2aParties l r = [] :=
  List.filter_eq_nil_iff.2 fun q hq => by simp [h.here q hq]
theorem State.farParties_nil (h : s.parties = []) (l r : Nat) : s.farParties l r = [] := by
  rw [State.farParties, h]
  rfl
theorem State.Unposted.a2aLater (h : s.Unposted) (k : KCmd) : s.a2aLater k = false := by
  unfold State.a2aLater
  split
  · rw [h.parties]
    rfl
  · rfl
theorem State.Unposted.modK (h : s.Unposted) (id : Nat) {f : KCmd → KCmd} (hf : ∀ q, (f q).posted = q.posted) :
    (s.modK id f).Unposted := by
  refine ⟨fun q hq => ?_, h.far⟩
  obtain ⟨r, hr, rfl⟩ := List.mem_map.1 hq
  split
  · exact (hf r).trans (h.here r hr)
  · exact h.here r hr

/-- Nothing holds a queued command back that is the only one of its lane (R176). -/
theorem State.Lone.mayStart (h : s.Lone k) (hg : k.gathers = false) (hpath : k.path.isSome = true) (hst : k.stage = .queued)
    (hfail : k.failed = none) (hfault : k.waitFault = none) (he : k.errored = false) (hcut : s.severed k.owner.core = false)
    (hbank : s.banksLocked k.owner.core k.id (k.srcFoot ++ k.dstFoot ++ k.area) = false) : s.mayStart k = true := by
  simpa [State.mayStart, h.ahead, hg, hpath, hst, hfail, hfault, he, hcut] using hbank

/-- A party that nothing stands against starts, and posts with the footprint of its plan. -/
theorem State.Lone.startExchange_eq {p : KPlan} (h : s.Lone k) (ho : k.Exchanges) (hu : k.unord = []) (hl : k.loose = [])
    (hmay : s.mayStart k = true) (hlater : s.a2aLater k = false) (hp : s.PlanClear k p) :
    exec (.kCommandStart k.id) s =
      .next (((s.modK k.id (KCmd.started p)).sendCopy k.id p).a2aPost (k.planned p)) := by
  have hidx : k.gathers = true → k.idx ≠ [] := fun hg => absurd (hg.symm.trans ho.gathers) (by decide)
  have hclash : s.laneClash (k.planned p) = none := State.laneClash_of_ordered hu hl
  have hordered := State.failLater_of_ordered (h.ordered_modK (id := k.id) (f := fun q => { q with
      stage := .started
      srcFoot := p.reads
      dstFoot := p.dst }) hu (fun _ => rfl) fun _ => rfl) k.run k.id (k.planned p).foot
  have hfence : s.fenceFail (k.planned p) ⟨p.reads, p.dst, false⟩ = none := hp.unfenced
  dsimp only [KCmd.planned] at hclash hfence hordered
  rw [exec_kCommandStart, execKCommandStart, h.1]
  simp only [hmay, State.takeIdx_of_idx hidx, Bool.not_true, Bool.false_eq_true, if_false, hp.static, hp.arrived, hlater,
    Bool.or_self, ho.waitsIdx, hp.plan, hclash, hp.reached, hfence, hp.unpaused, hordered]
  obtain ⟨_, _, _, _, _, _, hop⟩ := ho
  rw [hop]
  rfl

/-- The group record at `l` after a party of entry `e` has posted: the party is counted, its address and its device stand in its
entry. -/
def State.recorded (s : State) (k : KCmd) (l e : Nat) : State :=
  let counted := s.setNum (l + 8) (s.num (l + 8) 4 + 1) 4
  (counted.setNum e (bits (k.dd.flatName (spaceAddr k.dd.space k.dd.base 0)) 0 56) 8).setNum (e + 8) s.device.toNat 8
/-- A party that has posted. -/
def KCmd.joined (l round parties : Nat) (q : KCmd) : KCmd := { q with
  stage := .started
  posted := true
  round := round
  parties := parties
  ringLoc := l }

theorem State.storageOnly_recorded (s : State) (k : KCmd) (l e : Nat) : StorageOnly s (s.recorded k l e) :=
  ((StorageOnly.setNum ..).trans (.setNum ..)).trans (.setNum ..)

section
variable {l e : Nat}

theorem State.num_recorded_count (hs : s.Canonical) (hentry : l + 12 ≤ e) (hroom : s.num (l + 8) 4 < 2 ^ 32 - 1) :
    (s.recorded k l e).num (l + 8) 4 = s.num (l + 8) 4 + 1 := by
  rw [State.recorded, State.num_setNum_elsewhere ((hs.setNum ..).setNum ..) (by omega),
    State.num_setNum_elsewhere (hs.setNum ..) (by omega), State.num_setNum hs]
  exact Nat.mod_eq_of_lt (by omega)
theorem State.num_recorded_address (hs : s.Canonical) :
    (s.recorded k l e).num e 8 = bits (k.dd.flatName (spaceAddr k.dd.space k.dd.base 0)) 0 56 := by
  rw [State.recorded, State.num_setNum_elsewhere ((hs.setNum ..).setNum ..) (by omega), State.num_setNum (hs.setNum ..)]
  exact Nat.mod_eq_of_lt (Nat.lt_trans (bits_lt _ 0 56) (by decide))
theorem State.num_recorded_device (hs : s.Canonical) : (s.recorded k l e).num (e + 8) 8 = s.device.toNat := by
  rw [State.recorded, State.num_setNum ((hs.setNum ..).setNum ..)]
  exact Nat.mod_eq_of_lt (Nat.lt_trans s.device.isLt (by decide))

/-- The first posts of a round (R183). -/
theorem State.Unposted.a2aPost_eq (h : s.Unposted) (hl : s.a2aLoc k 0 0x40 = .ok l)
    (he : s.a2aLoc k (0x40 + 16 * k.rank) 16 = .ok e) (hrank : k.rank < s.num l 2) :
    s.a2aPost k = ((s.recorded k l e).modK k.id (KCmd.joined l (s.num (l + 12) 4) (s.num l 2))).tellAll 1 (.command k.id) := by
  have hdevice : ((s.setNum (l + 8) (s.num (l + 8) 4 + 1) 4).setNum e
      (bits (k.dd.flatName (spaceAddr k.dd.space k.dd.base 0)) 0 56) 8).device = s.device := by
    obtain ⟨_, _, _, h⟩ := (StorageOnly.setNum s (l + 8) (s.num (l + 8) 4 + 1) 4).trans
      (.setNum _ e (bits (k.dd.flatName (spaceAddr k.dd.space k.dd.base 0)) 0 56) 8)
    rw [h]
  rw [State.a2aPost, hl, he]
  dsimp only
  rw [h.parties, State.farParties_nil h.far, hdevice]
  exact if_neg (by simpa using hrank)
end

theorem State.a2aLoc_withCommands (s : State) (ks : List KCmd) (ps : Vector Port 16) {k k' : KCmd} (ha : k'.asid = k.asid)
    (hr : k'.sa = k.sa) (o n : Nat) : (s.withCommands ks ps).a2aLoc k' o n = s.a2aLoc k o n := by
  rw [State.a2aLoc, State.a2aLoc, State.gate1_withCommands, ha, hr]
  rfl

/-- `t` is what the post of party `k` leaves of `s`: the party has joined its round, and the record at `l` and its entry at `e`
show it. -/
def State.PostedIn (s : State) (k : KCmd) (l e : Nat) (t : State) : Prop := ∃ q, t.getK k.id = some q ∧ q.posted = true ∧
  q.stage = .started ∧ q.round = s.num (l + 12) 4 ∧ q.parties = s.num l 2 ∧ q.ringLoc = l ∧
  t.num (l + 8) 4 = s.num (l + 8) 4 + 1 ∧ t.num e 8 = bits (k.dd.flatName (spaceAddr k.dd.space k.dd.base 0)) 0 56 ∧
  t.num (e + 8) 8 = s.device.toNat

section
variable {l e : Nat} (h : s.Unposted) (hs : s.Canonical) (hl : s.a2aLoc k 0 0x40 = .ok l)
  (he : s.a2aLoc k (0x40 + 16 * k.rank) 16 = .ok e) (hentry : l + 12 ≤ e) (hrank : k.rank < s.num l 2)
  (hroom : s.num (l + 8) 4 < 2 ^ 32 - 1)
include h hs hl he hentry hrank hroom

/-- Whatever the party's own command has become, the first post of a round leaves this. -/
theorem State.Unposted.posts {r : KCmd} (hk : s.getK k.id = some r) : s.PostedIn k l e (s.a2aPost k) := by
  have hgot : (s.recorded k l e).getK k.id = some r := by
    obtain ⟨_, _, _, hrec⟩ := s.storageOnly_recorded k l e
    rw [hrec]
    exact hk
  have hcount := State.num_recorded_count (k := k) hs hentry hroom
  have haddress := State.num_recorded_address (k := k) (l := l) (e := e) hs
  have hdevice := State.num_recorded_device (k := k) (l := l) (e := e) hs
  rw [h.a2aPost_eq hl he hrank]
  generalize s.recorded k l e = v at hgot hcount haddress hdevice
  obtain ⟨ps, hports⟩ := (v.modK k.id (KCmd.joined l (s.num (l + 12) 4) (s.num l 2))).tellAll_ports 1 (.command k.id)
  rw [hports]
  exact ⟨_, State.getK_modK (f := KCmd.joined l (s.num (l + 12) 4) (s.num l 2)) hgot fun _ => rfl, rfl, rfl, rfl, rfl, rfl,
    hcount, haddress, hdevice⟩
/-- So does that of a party that has just started, its flits sent. -/
theorem State.Unposted.posts_started (hk : s.getK k.id = some k) (p : KPlan) :
    s.PostedIn k l e (((s.modK k.id (KCmd.started p)).sendCopy k.id p).a2aPost (k.planned p)) := by
  obtain ⟨ports, hports⟩ := (s.modK k.id (KCmd.started p)).sendCopy_ports k.id p
  rw [hports]
  let u : State := { s.modK k.id (KCmd.started p) with ports := ports }
  have hu : u.Unposted := ⟨(h.modK k.id (f := KCmd.started p) fun _ => rfl).here, h.far⟩
  have hgot : u.getK k.id = some (k.started p) := State.getK_modK (f := KCmd.started p) hk fun _ => rfl
  have hnum (l n : Nat) : u.num l n = s.num l n := State.num_congr fun _ _ => rfl
  have hloc (o n : Nat) : u.a2aLoc (k.planned p) o n = s.a2aLoc k o n := s.a2aLoc_withCommands _ ports rfl rfl o n
  have hposts := hu.posts (k := k.planned p) ⟨hs.mem, hs.exact, hs.policy, hs.arenas⟩ ((hloc ..).trans hl) ((hloc ..).trans he)
    hentry ((hnum l 2).symm ▸ hrank) ((hnum (l + 8) 4).symm ▸ hroom) hgot
  rw [State.PostedIn, hnum, hnum, hnum] at hposts
  exact hposts
end

/-! ## A party sends (R184) -/

theorem gateAll_ok {α β : Type} {g : α → Gate β} {f : α → β} {l : List α} (h : ∀ x ∈ l, g x = .ok (f x)) :
    gateAll g l = .ok (l.map f) := by
  induction l with
  | nil => rfl
  | cons x l ih =>
    rw [gateAll, h x List.mem_cons_self, ih fun y hy => h y (List.mem_cons_of_mem x hy)]
    rfl
theorem foldl_snd_eq_sum (l : List (Nat × Nat)) : l.foldl (fun n x => n + x.2) 0 = (l.map Prod.snd).sum := by
  rw [List.sum_eq_foldl, List.foldl_map]

theorem State.mem_a2aParties {l r : Nat} : q ∈ s.a2aParties l r ↔
    q ∈ s.kcmds ∧ q.posted = true ∧ q.ringLoc = l ∧ q.round = r := by
  simp [State.a2aParties, and_assoc]
theorem State.mem_of_getK {id : Nat} (h : s.getK id = some k) : k ∈ s.kcmds := List.mem_of_find?_eq_some h

/-- All parties of a round that have posted are here (R183). -/
theorem State.a2aCount_near (h : s.parties = []) (l r : Nat) : s.a2aCount l r = (s.a2aParties l r).length := by
  rw [State.a2aCount, State.farParties_nil h]
  rfl

/-- What the parties of a round send to `party`, from the counts of each (R184). -/
theorem State.a2aInto_ok {cnt : KCmd → List Nat} {l r g : Nat} (h : s.parties = [])
    (hcnt : ∀ p ∈ s.a2aParties l r, s.sendCounts p.actor p (s.lookK p) g = .ok (cnt p)) (party : Nat) :
    s.a2aInto l r g party = .ok ((s.a2aParties l r).map fun p => (p.rank, (cnt p).getD party 0)) := by
  rw [State.a2aInto, gateAll_ok (f := fun p => (p.rank, (cnt p).getD party 0)) fun p hp => by rw [hcnt p hp]; rfl,
    State.farParties_nil h]
  exact congrArg Gate.ok (List.append_nil _)
theorem State.a2aTake_ok {cs : List Nat} {c l all : Word × List Nat} {party : Nat}
    (hcs : s.sendCounts k.actor k (s.lookK k) k.parties = .ok cs) (hc : s.sendGate k.actor k (8 * party) 8 = .ok c)
    (hl : s.sendGate k.actor k (8 * k.parties + (cs.take party).sum) (cs.getD party 0) = .ok l)
    (hall : s.sendGate k.actor k 0 (8 * k.parties) = .ok all) (hclean : s.cleanGate [c, l] = .ok ()) :
    s.a2aTake k party = .ok [c, l, all] := by
  have hsum : (cs.take party).foldl (· + ·) 0 = (cs.take party).sum := List.sum_eq_foldl.symm
  rw [State.a2aTake, hcs]
  dsimp only [Gate.bind]
  rw [hc, hsum]
  dsimp only
  rw [hl, hall]
  dsimp only
  rw [hclean]
theorem State.a2aPlace_ok {into : List (Nat × Nat)} {dc dl : Word × List Nat} {rank n : Nat}
    (hc : s.blockGate q.actor q.dd (8 * rank) 8 ⟨true, false⟩ = .ok dc)
    (hl : s.blockGate q.actor q.dd (8 * q.parties + ((into.filter fun x => decide (x.1 < rank)).map Prod.snd).sum) n
      ⟨true, false⟩ = .ok dl) : s.a2aPlace q rank n into = .ok [dc, dl] := by
  rw [State.a2aPlace, hc, foldl_snd_eq_sum]
  dsimp only [Gate.bind]
  rw [hl]

/-- The command of a number after a change of a command. -/
theorem State.getK_modK_other {id id' : Nat} {f : KCmd → KCmd} (hk : s.getK id = some k) (hf : ∀ q, (f q).id = q.id) :
    (s.modK id' f).getK id = some (if k.id = id' then f k else k) :=
  State.getK_of_map (f := fun q => if q.id = id' then f q else q) rfl (fun q => by
    split
    · exact hf q
    · rfl) hk

/-- A party that has sent to `party`. -/
def KCmd.sentTo (party : Nat) (q : KCmd) : KCmd := { q with sent := q.sent ++ [party] }
/-- A party that takes the bytes `bs` at `places` of its buffer, held until it is visible. -/
def KCmd.given (places : List (Word × List Nat)) (bs : List (List Byte)) (q : KCmd) : KCmd := if q.dead then q else { q with
  held := q.held ++ List.zipWith (fun (d : Word × List Nat) b => ⟨.bytes (d.2.zip b), d.1, true, true, some q.bit⟩) places bs }

theorem KCmd.given_id (places : List (Word × List Nat)) (bs : List (List Byte)) (q : KCmd) : (q.given places bs).id = q.id := by
  rw [KCmd.given]
  split <;> rfl
theorem KCmd.given_sent (places : List (Word × List Nat)) (bs : List (List Byte)) (q : KCmd) :
    (q.given places bs).sent = q.sent := by
  rw [KCmd.given]
  split <;> rfl
theorem KCmd.given_alive (h : q.dead = false) (dc dl : Word × List Nat) (b c : List Byte) :
    (q.given [dc, dl] [b, c]).held = q.held ++ [⟨.bytes (dc.2.zip b), dc.1, true, true, some q.bit⟩,
      ⟨.bytes (dl.2.zip c), dl.1, true, true, some q.bit⟩] := by
  rw [KCmd.given, h]
  rfl

/-- Party `k` may send to party `q`, which is here: all have posted, and `k` has not sent to `q` yet. -/
structure State.Sends (s : State) (k q : KCmd) : Prop where
  posted : k.posted = true
  unfailed : k.failed = none
  unfaulted : k.waitFault = none
  alive : k.dead = false
  uncut : s.severed k.owner.core = false
  near : s.parties = []
  found : (s.a2aParties k.ringLoc k.round).find? (fun p => p.rank = q.rank) = some q
  unsent : q.rank ∉ k.sent
  full : (s.a2aParties k.ringLoc k.round).length = k.parties

theorem exec_ka2aSend (id party : Nat) (s : State) : exec (.ka2aSend id party) s = execKa2aSend id party s := rfl

section
variable {c l all dc dl : Word × List Nat} {into : List (Nat × Nat)} (h : s.Sends k q) (hk : s.getK k.id = some k)
  (htake : s.a2aTake k q.rank = .ok [c, l, all]) (hinto : s.a2aInto k.ringLoc k.round k.parties q.rank = .ok into)
  (hexact : s.exact = []) (htouch : s.touchAs k.owner k.run k.step .read k.opn k.closeAt (spansOf [c, l]) k.id = .ok u)
  (hfit : q.overfull into = false) (hplace : s.a2aPlace q k.rank l.2.length into = .ok [dc, dl])
include h hk htake hinto hexact htouch hfit hplace

/-- A send whose bytes are reached, fit and may be read: they are held by the party that they are for. -/
theorem State.Sends.exec_eq : exec (.ka2aSend k.id q.rank) s = .next ((u.modK k.id (KCmd.sentTo q.rank)).modK q.id
    (KCmd.given [dc, dl] [c.2.map (s.lookK k), l.2.map (s.lookK k)])) := by
  have hcan : (!(k.posted && k.failed.isNone && k.waitFault.isNone && !k.sent.contains q.rank &&
      s.a2aCount k.ringLoc k.round = k.parties) || s.severed k.owner.core) = false := by
    simp [h.posted, h.unfailed, h.unfaulted, h.unsent, State.a2aCount_near h.near, h.full, h.uncut]
  have hplain : u.exact = [] := by
    obtain ⟨as, rfl⟩ := State.touchAs_ok htouch
    exact hexact
  have hlen : ((List.map (fun l : Word × List Nat => l.2.map (s.lookK k)) [c, l]).getD 1 []).length = l.2.length :=
    List.length_map _
  rw [exec_ka2aSend, execKa2aSend, hk]
  dsimp only
  rw [hcan, if_neg Bool.false_ne_true, h.found, htake, hinto, h.alive]
  dsimp only [List.take]
  rw [if_neg Bool.false_ne_true, htouch]
  dsimp only [Except.map]
  rw [State.flushSpans_plain hplain, hfit, if_neg Bool.false_ne_true, hlen, hplace]
  rfl

/-- What such a send leaves. -/
theorem State.Sends.delivers (hq : s.getK q.id = some q) (hdead : q.dead = false) :
    ∃ t k' q', exec (.ka2aSend k.id q.rank) s = .next t ∧ (∀ a, t.byte a = s.byte a) ∧
      t.getK k.id = some k' ∧ k'.sent = k.sent ++ [q.rank] ∧ t.getK q.id = some q' ∧
      q'.held = q.held ++ [⟨.bytes (dc.2.zip (c.2.map (s.lookK k))), dc.1, true, true, some q.bit⟩,
        ⟨.bytes (dl.2.zip (l.2.map (s.lookK k))), dl.1, true, true, some q.bit⟩] := by
  have hexec := State.Sends.exec_eq h hk htake hinto hexact htouch hfit hplace
  obtain ⟨as, rfl⟩ := State.touchAs_ok htouch
  have hsent {p : KCmd} (hp : s.getK p.id = some p) :
      (({ s with accs := as } : State).modK k.id (KCmd.sentTo q.rank)).getK p.id =
        some (if p.id = k.id then p.sentTo q.rank else p) :=
    State.getK_modK_other hp fun _ => rfl
  refine ⟨_, _, _, hexec, fun _ => rfl, State.getK_modK_other (hsent hk) (KCmd.given_id _ _), ?_,
    State.getK_modK (hsent hq) (KCmd.given_id _ _), ?_⟩
  · rw [if_pos rfl]
    split
    · exact KCmd.given_sent ..
    · rfl
  · split
    · exact KCmd.given_alive (q := q.sentTo q.rank) hdead ..
    · exact KCmd.given_alive hdead ..
end

/-! ## The round advances (R184) -/

theorem exec_ka2aRoundAdvance (a : BitVec 12) (record : Nat) (s : State) :
    exec (.ka2aRoundAdvance a record) s = execKa2aRoundAdvance a record s := rfl

/-- The commands after round `round` of the record at `l` is over. -/
def State.unposted (s : State) (l round : Nat) : State := { s with
  parties := s.parties.filter fun f => !(f.loc = l && f.round = round)
  kcmds := s.kcmds.map fun (k : KCmd) =>
    if k.posted && k.ringLoc = l && k.round = round then { k with posted := false } else k }
theorem State.not_mem_unposted {l round : Nat} (h : k ∈ (s.unposted l round).kcmds) :
    ¬(k.posted = true ∧ k.ringLoc = l ∧ k.round = round) := by
  obtain ⟨r, -, rfl⟩ := List.mem_map.1 h
  split
  · simp
  · next hr => simpa using hr

/-- The record of a round without parties elsewhere, advanced to the next round. -/
def State.advanced (s : State) (l round : Nat) : State :=
  (s.setNum (l + 8) 0 4).setNum (l + 12) ((round + 1) % 2 ^ 32) 4
theorem State.storageOnly_advanced (s : State) (l round : Nat) : StorageOnly s (s.advanced l round) :=
  (StorageOnly.setNum ..).trans (.setNum ..)

section
variable {l round : Nat}

theorem State.num_advanced_count (hs : s.Canonical) : (s.advanced l round).num (l + 8) 4 = 0 := by
  rw [State.advanced, State.num_setNum_elsewhere (hs.setNum ..) (by omega), State.num_setNum hs, Nat.zero_mod]
theorem State.num_advanced_round (hs : s.Canonical) : (s.advanced l round).num (l + 12) 4 = (round + 1) % 2 ^ 32 := by
  rw [State.advanced, State.num_setNum (hs.setNum ..)]
  exact Nat.mod_mod _ _
theorem State.byte_advanced (hs : s.Canonical) {x : Nat} (hx : ¬(l + 8 ≤ x ∧ x < l + 16)) :
    (s.advanced l round).byte x = s.byte x := by
  rw [State.advanced, State.byte_setNum_of_notMem (hs.setNum ..) (by omega), State.byte_setNum_of_notMem hs (by omega)]
end

/-- A round whose parties are all here and visible is over. -/
theorem exec_ka2aRoundAdvance_over {a : BitVec 12} {record l round : Nat} {ls : List Nat}
    (hg : s.gate1 a record 0x40 ⟨true, false⟩ = .ok ls) (hl : ls.headD 0 = l) (hround : s.num (l + 12) 4 = round)
    (hnear : s.parties = []) (hne : s.a2aParties l round ≠ [])
    (hall : ∀ k ∈ s.a2aParties l round, k.stage = .visible ∧ k.parties = (s.a2aParties l round).length) :
    exec (.ka2aRoundAdvance a record) s = .next ((s.advanced l round).unposted l round).reap := by
  have hover : ((s.a2aParties l round).isEmpty ||
      (s.a2aParties l round).any (fun k => k.stage ≠ .visible || k.parties ≠ s.a2aCount l round) ||
      (s.farParties l round).any fun f => !f.visible) = false := by
    have hvisible : (s.a2aParties l round).any (fun k => k.stage ≠ .visible || k.parties ≠ s.a2aCount l round) = false := by
      refine List.any_eq_false.2 fun k hk => ?_
      obtain ⟨hst, hparties⟩ := hall k hk
      simp [hst, hparties, State.a2aCount_near hnear]
    rw [hvisible, State.farParties_nil hnear, Bool.or_false, Bool.or_eq_false_iff]
    simpa using hne
  rw [exec_ka2aRoundAdvance, execKa2aRoundAdvance, hg]
  dsimp only
  rw [hl, hround, hover, if_neg Bool.false_ne_true, State.farParties_nil hnear]
  rfl
/-- What the end of a round leaves. -/
theorem State.reap_unposted (hs : s.Canonical) (hcalm : ∀ n ∈ s.nodes, n.dying = none) (l round : Nat) :
    let t := ((s.advanced l round).unposted l round).reap
    t.num (l + 8) 4 = 0 ∧ t.num (l + 12) 4 = (round + 1) % 2 ^ 32 ∧
      (∀ k ∈ t.kcmds, ¬(k.posted = true ∧ k.ringLoc = l ∧ k.round = round)) ∧
      ∀ x, ¬(l + 8 ≤ x ∧ x < l + 16) → t.byte x = s.byte x := by
  have hnodes : (s.advanced l round).nodes = s.nodes := by
    obtain ⟨_, _, _, h⟩ := s.storageOnly_advanced l round
    rw [h]
  have hcount := State.num_advanced_count (l := l) (round := round) hs
  have hround := State.num_advanced_round (l := l) (round := round) hs
  have hbyte {x : Nat} := State.byte_advanced (l := l) (round := round) hs (x := x)
  generalize s.advanced l round = v at hnodes hcount hround hbyte
  have hcalm : ∀ n ∈ (v.unposted l round).nodes, n.dying = none := fun n hn => hcalm n (hnodes ▸ hn)
  dsimp only
  rw [State.reap_of_calm hcalm]
  exact ⟨hcount, hround, fun k hk => State.not_mem_unposted (List.mem_of_mem_filter hk), fun x hx => hbyte hx⟩

/-- Settles O46: a party that starts posts in its record, a party that all have posted for sends, and a round whose parties
are all visible is over. -/
theorem allToAllRound : Obligations.AllToAllRound := by
  unfold Obligations.AllToAllRound
  refine ⟨fun s k p l e hk hlone hposted hparties hfail hfault herr hunord hloose hop hpath hst hs hcut hbank hstatic harrived
      hplan hreached hfence hpaused hl he hentry hrank hroom => ?_,
    fun s k q cnt c l all dc dl u n => ?_, fun s a record ls hg hs hcalm hnear => ?_⟩
  · have hpost : s.Unposted := ⟨hposted, hparties⟩
    have hmay := State.Lone.mayStart ⟨hk, hlone⟩ (KCmd.Exchanges.gathers hop) hpath hst hfail hfault herr hcut hbank
    have hstart := State.Lone.startExchange_eq ⟨hk, hlone⟩ hop hunord hloose hmay (hpost.a2aLater k)
      ⟨hstatic, harrived, hplan, hreached, hfence, hpaused⟩
    exact ⟨_, (hpost.posts_started hs hl hentry (by omega) hrank hroom hk p).imp fun q hq => ⟨hstart, hq⟩⟩
  · intro ps hk hq hposted hfail hfault halive hdead hcut hexact hparties hsame hfound hunsent hfull hcnt into hfit hn hc hlen hl
      hall hclean hdc hdl htouch
    subst hn
    have hmem : k ∈ ps := State.mem_a2aParties.2 ⟨State.mem_of_getK hk, hposted, rfl, rfl⟩
    have hsends : s.Sends k q := ⟨hposted, hfail, hfault, halive, hcut, hparties, hfound, hunsent, hfull⟩
    refine hsends.delivers hk (State.a2aTake_ok (hcnt k hmem) hc hl hall hclean) (State.a2aInto_ok hparties hcnt q.rank) hexact
      htouch ?_ (State.a2aPlace_ok hdc ?_) hq hdead
    · rw [KCmd.overfull, foldl_snd_eq_sum, hsame, List.map_map]
      exact decide_eq_false (Nat.not_lt.2 hfit)
    · rw [hlen, hsame, List.filter_map, List.map_map]
      exact hdl
  · intro l round ps hne hall
    exact ⟨_, exec_ka2aRoundAdvance_over hg rfl rfl hnear hne hall, State.reap_unposted hs hcalm l round⟩

end Sys2Proof.Machine
end

section
/-!
SUPPORT. The patterns of an element type of the V slot, and arithmetic on plain sources lane by lane.
-/
namespace Sys2Proof.Machine
open Sys2Proof.Laws

/-! ## Widths and element types (R92, R188) -/

theorem fmtBits_pos (e : Nat) : 0 < fmtBits e := by
  unfold fmtBits
  split <;> decide
/-- The sign is the top bit of a floating pattern. -/
theorem fmtOf_signBit {e : Nat} {q : Fmt} (hq : fmtOf e = some q) : q.e + q.m = fmtBits e - 1 := by
  unfold fmtOf at hq
  split at hq <;> cases hq <;> rfl
theorem one_le_of_fmtOf {e : Nat} {q : Fmt} (hq : fmtOf e = some q) : 1 ≤ e :=
  Nat.pos_of_ne_zero fun h => by rw [h] at hq; cases hq
theorem float_of_fmtOf {m : VMods} {q : Fmt} (he : m.ety.toNat ≤ 3) (hq : fmtOf m.ety.toNat = some q) :
    m.float = some q :=
  (float_of_reducible (.inr (.inl ⟨one_le_of_fmtOf hq, he⟩))).trans hq
theorem float_of_int {m : VMods} (he : m.ety.toNat = 0 ∨ (7 ≤ m.ety.toNat ∧ m.ety.toNat ≤ 12)) : m.float = none := by
  rw [float_of_reducible (he.imp_right .inr)]
  generalize m.ety = t at he ⊢
  revert t
  decide

/-! ## Arithmetic lane by lane (R192, R193) -/

section
variable {i : Instr} {s : State} {u : VUnit} {p : Fin 64} {d : Dst 32} {a b c : VSrc} {m : VMods} {lat : Nat} {x y z : VIn}
  {lane : Nat → Nat × Flags}

theorem varith_one_delivers {g : Nat → Nat × Flags} (he : exec i s = varith u p d [a] m lat (one g) s)
    (hp : s.me.pget p = true) (hs : s.Sources d m.mask m.ety.toNat [a] [x]) (ho : s.OldPlain d m.mask m.ety.toNat)
    (hx : Plain m.ety.toNat x)
    (hlane : ∀ j < 128, g (x.lane (fmtBits m.ety.toNat) j) = lane j) :
    DeliversV i s u d lat (s.me.kget m.mask) m.ety.toNat (s.common d m.mask [x]) one32 lane :=
  DeliversV.congr (varith_delivers he hp hs ho (by simpa using hx)) hlane
theorem varith_two_delivers {g : Nat → Nat → Nat × Flags} (he : exec i s = varith u p d [a, b] m lat (two g) s)
    (hp : s.me.pget p = true) (hs : s.Sources d m.mask m.ety.toNat [a, b] [x, y]) (ho : s.OldPlain d m.mask m.ety.toNat)
    (hx : Plain m.ety.toNat x) (hy : Plain m.ety.toNat y)
    (hlane : ∀ j < 128, g (x.lane (fmtBits m.ety.toNat) j) (y.lane (fmtBits m.ety.toNat) j) = lane j) :
    DeliversV i s u d lat (s.me.kget m.mask) m.ety.toNat (s.common d m.mask [x, y]) one32 lane :=
  DeliversV.congr (varith_delivers he hp hs ho (by simpa using ⟨hx, hy⟩)) hlane
theorem varith_three_delivers {g : List Nat → Nat × Flags} (he : exec i s = varith u p d [a, b, c] m lat g s)
    (hp : s.me.pget p = true) (hs : s.Sources d m.mask m.ety.toNat [a, b, c] [x, y, z]) (ho : s.OldPlain d m.mask m.ety.toNat)
    (hx : Plain m.ety.toNat x) (hy : Plain m.ety.toNat y) (hz : Plain m.ety.toNat z)
    (hlane : ∀ j < 128, g [x.lane (fmtBits m.ety.toNat) j, y.lane (fmtBits m.ety.toNat) j, z.lane (fmtBits m.ety.toNat) j] =
      lane j) :
    DeliversV i s u d lat (s.me.kget m.mask) m.ety.toNat (s.common d m.mask [x, y, z]) one32 lane :=
  DeliversV.congr (varith_delivers he hp hs ho (by simpa using ⟨hx, hy, hz⟩)) hlane
end

/-! ## The arithmetic of the V slot -/

theorem exec_vsub (u : VUnit) (p : Fin 64) (d : Dst 32) (a b : VSrc) (m : VMods) (s : State) :
    exec (.vsub u p d a b m) s = execVsub u p d a b m s := rfl
theorem exec_vmax (u : VUnit) (p : Fin 64) (d : Dst 32) (a b : VSrc) (m : VMods) (s : State) :
    exec (.vmax u p d a b m) s = execVmax u p d a b m s := rfl
theorem exec_vcpys (u : VUnit) (p : Fin 64) (d : Dst 32) (a b : VSrc) (m : VMods) (s : State) :
    exec (.vcpys u p d a b m) s = execVcpys u p d a b m s := rfl
theorem exec_vabs (u : VUnit) (p : Fin 64) (d : Dst 32) (a : VSrc) (m : VMods) (s : State) :
    exec (.vabs u p d a m) s = execVabs u p d a m s := rfl
theorem exec_vneg (u : VUnit) (p : Fin 64) (d : Dst 32) (a : VSrc) (m : VMods) (s : State) :
    exec (.vneg u p d a m) s = execVneg u p d a m s := rfl
theorem exec_vfma (u : VUnit) (p : Fin 64) (d : Dst 32) (a b c : VSrc) (m : VMods) (s : State) :
    exec (.vfma u p d a b c m) s = execVfma u p d a b c m s := rfl
theorem exec_vfms (u : VUnit) (p : Fin 64) (d : Dst 32) (a b c : VSrc) (m : VMods) (s : State) :
    exec (.vfms u p d a b c m) s = execVfms u p d a b c m s := rfl
theorem exec_vfnma (u : VUnit) (p : Fin 64) (d : Dst 32) (a b c : VSrc) (m : VMods) (s : State) :
    exec (.vfnma u p d a b c m) s = execVfnma u p d a b c m s := rfl

end Sys2Proof.Machine
end

section
/-!
CERTIFICATE. The floating arithmetic of the V slot (O27).
-/
namespace Sys2Proof.Machine
open Sys2Proof.Laws

/-! ## The lesser, the greater and the sign of floating patterns (R196) -/

theorem fpPick_nan {q : Fmt} {v t : Nat} (gt : Bool) (h : (q.dec v).isNan = true ∨ (q.dec t).isNan = true) :
    fpPick q gt v t = q.nan := by
  rw [fpPick_eq, if_pos (by simpa using h)]
/-- The first operand is the lesser where it compares below the second, or equal to it and has the sign. -/
theorem fpPick_ordered {q : Fmt} {v t : Nat} (gt : Bool) (hv : (q.dec v).isNan = false) (ht : (q.dec t).isNan = false) :
    let less : Prop := (q.dec v).lt (q.dec t) = true ∨ ((q.dec v).eqv (q.dec t) = true ∧ (q.dec v).neg = true)
    (less → fpPick q gt v t = if gt then t else v) ∧ (¬ less → fpPick q gt v t = if gt then v else t) := by
  intro less
  have hb : ((q.dec v).lt (q.dec t) || ((q.dec v).eqv (q.dec t) && (q.dec v).neg)) = true ↔ less := by simp [less]
  rw [fpPick_eq, hv, ht]
  refine ⟨fun h => ?_, fun h => ?_⟩
  · rw [hb.2 h]
    cases gt <;> rfl
  · rw [Bool.eq_false_iff.2 (mt hb.1 h)]
    cases gt <;> rfl

theorem signTo_eq (q : Fmt) (n : Bool) (v : Nat) :
    signTo q n v = (if (q.dec v).isNan then q.nan else q.signed n (v % 2 ^ (q.e + q.m)), 0) := by
  unfold signTo
  split <;> rfl
theorem testBit_top {t k : Nat} (ht : t < 2 ^ (k + 1)) : t / 2 ^ k = (t.testBit k).toNat := by
  have hlt : t / 2 ^ k < 2 := Nat.div_lt_of_lt_mul (by rwa [← pow_succ])
  rw [Nat.testBit_eq_decide_div_mod_eq, Nat.mod_eq_of_lt hlt]
  generalize t / 2 ^ k = n at hlt
  interval_cases n <;> rfl
theorem signed_eq (q : Fmt) (n : Bool) (v : Nat) : q.signed n v = v + n.toNat * 2 ^ (q.e + q.m) := by
  cases n <;> simp [Fmt.signed]
/-- The sign of another pattern. -/
theorem signed_of_pattern {q : Fmt} {t : Nat} (v : Nat) (ht : t < 2 ^ (q.e + q.m + 1)) :
    q.signed (t.testBit (q.e + q.m)) v = v + t / 2 ^ (q.e + q.m) * 2 ^ (q.e + q.m) := by
  rw [signed_eq, testBit_top ht]
/-- The other sign: half the range is added, modulo the range. -/
theorem signed_flip {q : Fmt} {v : Nat} (hv : v < 2 ^ (q.e + q.m + 1)) :
    q.signed (!v.testBit (q.e + q.m)) (v % 2 ^ (q.e + q.m)) = (v + 2 ^ (q.e + q.m)) % 2 ^ (q.e + q.m + 1) := by
  have hsplit := Nat.mod_add_div v (2 ^ (q.e + q.m))
  have hlow := Nat.mod_lt v (Nat.two_pow_pos (q.e + q.m))
  rw [testBit_top hv] at hsplit
  rw [signed_eq, pow_succ]
  generalize 2 ^ (q.e + q.m) = half at hsplit hlow ⊢
  cases h : v.testBit (q.e + q.m) with
  | false =>
    have hsum : v % half = v := by simpa [h] using hsplit
    rw [hsum, Nat.mod_eq_of_lt (by omega)]
    simp
  | true =>
    have hsum : v + half = v % half + half * 2 := by
      simp [h] at hsplit
      omega
    have hlt : v % half < half * 2 := by omega
    rw [hsum, Nat.add_mod_right, Nat.mod_eq_of_lt hlt]
    simp

/-! ## The arithmetic -/

section
variable {m : VMods} {q : Fmt} (hq : m.float = some q)
include hq

theorem bin_float (ff : XV → XV → XV × Flags) (fi : Int → Int → Int) (v t : Nat) :
    m.bin ff fi v t = ((q.round m.rnd.toNat m.sat (ff (q.dec v) (q.dec t)).1).1,
      (q.round m.rnd.toNat m.sat (ff (q.dec v) (q.dec t)).1).2 ||| (ff (q.dec v) (q.dec t)).2) := by
  rw [VMods.bin, hq]
  rfl
theorem pick_float (gt : Bool) (v t : Nat) : m.pick gt v t = (fpPick q gt v t, 0) := by
  rw [VMods.pick, hq]
theorem fused_float (np nc : Bool) (v t r : Nat) : m.fused np nc [v, t, r] =
    let p := XV.mul (q.dec v) (q.dec t)
    let w := XV.add m.rnd.toNat (if np then p.1.negate else p.1) (if nc then (q.dec r).negate else q.dec r)
    if (q.dec v).isNan || (q.dec t).isNan || (q.dec r).isNan then (q.nan, 0)
    else ((q.round m.rnd.toNat m.sat w.1).1, (q.round m.rnd.toNat m.sat w.1).2 ||| (p.2 ||| w.2)) := by
  rw [VMods.fused, hq]
  rfl
end

/-- Settles O27: on a floating element type each operation is the stated function of two, one or three patterns. -/
theorem floatingVectorsDeliver : Obligations.FloatingVectorsDeliver := by
  unfold Obligations.FloatingVectorsDeliver
  intro s u p d a b c m q hp _ he hq ho e rm w half slow rounded
  have hfloat := float_of_fmtOf he hq
  have hsign : q.e + q.m = w - 1 := fmtOf_signBit hq
  have hwidth : q.e + q.m + 1 = w := by
    have hpos : 0 < w := fmtBits_pos _
    omega
  refine ⟨fun x y hs hx hy => ?_, fun x hs hx => ?_, fun x y z hs hx hy hz => ?_⟩
  · intro gives vx vy less
    refine ⟨?_, ?_, ?_, ⟨fun i => (fpPick q false (x.lane w i) (y.lane w i), 0), ?_, fun i _ => ?_⟩,
      ⟨fun i => (fpPick q true (x.lane w i) (y.lane w i), 0), ?_, fun i _ => ?_⟩, ?_⟩
    · exact varith_two_delivers (exec_vadd ..) hp hs ho hx hy fun i _ => bin_float hfloat ..
    · exact varith_two_delivers (exec_vsub ..) hp hs ho hx hy fun i _ => bin_float hfloat ..
    · exact varith_two_delivers (exec_vmul ..) hp hs ho hx hy fun i _ => bin_float hfloat ..
    · exact varith_two_delivers (exec_vmin ..) hp hs ho hx hy fun i _ => pick_float hfloat ..
    · exact ⟨rfl, fpPick_nan false, fpPick_ordered false⟩
    · exact varith_two_delivers (exec_vmax ..) hp hs ho hx hy fun i _ => pick_float hfloat ..
    · exact ⟨rfl, fpPick_nan true, fpPick_ordered true⟩
    · refine varith_two_delivers (exec_vcpys ..) hp hs ho hx hy fun i _ => ?_
      rw [hfloat]
      dsimp only
      rw [signTo_eq, signed_of_pattern _ (hwidth ▸ y.lane_lt w i), hsign]
  · intro gives
    refine ⟨varith_one_delivers (exec_vabs ..) hp hs ho hx fun i _ => ?_,
      varith_one_delivers (exec_vneg ..) hp hs ho hx fun i _ => ?_⟩
    · rw [hfloat]
      dsimp only
      rw [signTo_eq, hsign]
      rfl
    · rw [hfloat]
      dsimp only
      rw [signTo_eq, signed_flip (hwidth ▸ x.lane_lt w i), hwidth, hsign]
  · intro fused
    exact ⟨varith_three_delivers (exec_vfma ..) hp hs ho hx hy hz fun i _ => fused_float hfloat ..,
      varith_three_delivers (exec_vfms ..) hp hs ho hx hy hz fun i _ => fused_float hfloat ..,
      varith_three_delivers (exec_vfnma ..) hp hs ho hx hy hz fun i _ => fused_float hfloat ..⟩

end Sys2Proof.Machine
end

section
/-!
CERTIFICATE. The integer arithmetic of the V slot (O28).
-/
namespace Sys2Proof.Machine
open Sys2Proof.Laws

/-! ## The integer of a pattern, and the pattern of an integer (R104) -/

section
variable {sg : Bool} {w n : Nat} {lo hi v : Int}

theorem intLo_le_intHi (sg : Bool) (w : Nat) : intLo sg w ≤ intHi sg w := by
  have hhalf := Nat.two_pow_pos (w - 1)
  have hfull := Nat.two_pow_pos w
  cases sg <;> simp only [intLo, intHi, if_true, Bool.false_eq_true, if_false] <;> omega
/-- A range holds as many integers as there are patterns. -/
theorem intHi_sub_intLo (sg : Bool) (hw : 0 < w) : intHi sg w - intLo sg w = 2 ^ w - 1 := by
  obtain ⟨k, rfl⟩ := Nat.exists_eq_succ_of_ne_zero hw.ne'
  cases sg <;> simp [intLo, intHi, pow_succ]
  ring
theorem intOf_mem (sg : Bool) (hw : 0 < w) : intLo sg w ≤ intOf sg w n ∧ intOf sg w n ≤ intHi sg w := by
  have hlt := Nat.mod_lt n (Nat.two_pow_pos w)
  obtain ⟨k, rfl⟩ := Nat.exists_eq_succ_of_ne_zero hw.ne'
  rw [pow_succ] at hlt
  cases sg with
  | false => simp only [intLo, intHi, intOf, Bool.false_eq_true, if_false, pow_succ]; omega
  | true =>
    simp only [intLo, intHi, intOf, sextNat, if_true, Nat.succ_ne_zero, if_false, Nat.succ_sub_one, pow_succ]
    split <;> omega
theorem intOf_emod (sg : Bool) (hw : 0 < w) : intOf sg w n % 2 ^ w = n % 2 ^ w := by
  cases sg with
  | false => simp [intOf]
  | true =>
    simp only [intOf, sextNat, if_true, if_neg hw.ne']
    split <;> simp
/-- Of the integers in a range one only has a given pattern. -/
theorem eq_intOf {a : Int} (hw : 0 < w) (ha : intLo sg w ≤ a ∧ a ≤ intHi sg w) (h : (a - n) % 2 ^ w = 0) :
    a = intOf sg w n := by
  have hspan := intHi_sub_intLo sg hw
  obtain ⟨hlo, hhi⟩ := intOf_mem (n := n) sg hw
  have hmod : intOf sg w n % 2 ^ w = a % 2 ^ w :=
    (intOf_emod sg hw).trans (Int.emod_eq_emod_iff_emod_sub_eq_zero.2 h).symm
  have hzero : a - intOf sg w n = 0 := Int.eq_zero_of_abs_lt_dvd (Int.ModEq.dvd hmod) (abs_lt.2 ⟨by omega, by omega⟩)
  omega

/-- What a lane of an integer operation with exact result `v` is: the wrapped integer, or under `sat` the clamped one with
saturated where that changed it. -/
def FitsInt (w : Nat) (lo hi : Int) (sat : Bool) (r : Nat × Flags) (v : Int) : Prop := r.1 < 2 ^ w ∧
  (sat = false → (r.1 : Int) % 2 ^ w = v % 2 ^ w ∧ r.2 = 0) ∧
  (sat = true → (r.1 : Int) % 2 ^ w = max lo (min hi v) % 2 ^ w ∧ r.2 = if lo ≤ v ∧ v ≤ hi then 0 else fSat)

theorem wrapNat_lt (w : Nat) (v : Int) : wrapNat w v < 2 ^ w := by
  have hpos : (0 : Int) < ((2 ^ w : Nat) : Int) := by exact_mod_cast Nat.two_pow_pos w
  have h0 := Int.emod_nonneg v hpos.ne'
  have h1 := Int.emod_lt_of_pos v hpos
  unfold wrapNat
  omega
theorem wrapNat_eq (w : Nat) (v : Int) : wrapNat w v = (v % 2 ^ w).toNat := by
  rw [wrapNat]
  push_cast
  rfl
theorem clampInt_eq_self (h : lo ≤ hi) : clampInt lo hi v = v ↔ lo ≤ v ∧ v ≤ hi := by
  unfold clampInt
  omega
theorem intToInt_wraps (sg : Bool) (w : Nat) (v : Int) : intToInt sg w false v = ((v % 2 ^ w).toNat, 0) := by
  rw [← wrapNat_eq]
  rfl
theorem intToInt_clamps (sg : Bool) (w : Nat) (v : Int) : intToInt sg w true v =
    ((max (intLo sg w) (min (intHi sg w) v) % 2 ^ w).toNat, if intLo sg w ≤ v ∧ v ≤ intHi sg w then 0 else fSat) := by
  have hclamp := clampInt_eq_self (v := v) (intLo_le_intHi sg w)
  rw [← wrapNat_eq]
  refine Prod.ext rfl ?_
  by_cases hin : intLo sg w ≤ v ∧ v ≤ intHi sg w
  · simp [intToInt, flagIf, hin, hclamp.2 hin]
  · simp [intToInt, flagIf, hin, mt hclamp.1 hin]
theorem toNat_emod_cast (w : Nat) (v : Int) : ((v % 2 ^ w).toNat : Int) % 2 ^ w = v % 2 ^ w := by
  have hpos : (0 : Int) < 2 ^ w := by positivity
  rw [Int.toNat_of_nonneg (Int.emod_nonneg v hpos.ne'), Int.emod_emod]
/-- An exact integer put into a width. -/
theorem fitsInt_intToInt (sg : Bool) (w : Nat) (sat : Bool) (v : Int) :
    FitsInt w (intLo sg w) (intHi sg w) sat (intToInt sg w sat v) v := by
  cases sat with
  | false =>
    rw [intToInt_wraps, ← wrapNat_eq]
    exact ⟨wrapNat_lt w v, fun _ => ⟨wrapNat_eq w v ▸ toNat_emod_cast w v, rfl⟩, Bool.noConfusion⟩
  | true =>
    rw [intToInt_clamps, ← wrapNat_eq]
    exact ⟨wrapNat_lt w _, Bool.noConfusion, fun _ => ⟨wrapNat_eq w _ ▸ toNat_emod_cast w _, rfl⟩⟩
/-- A pattern delivered as it is. -/
theorem fitsInt_pattern (sat : Bool) (hw : 0 < w) (hn : n < 2 ^ w) :
    FitsInt w (intLo sg w) (intHi sg w) sat (n, 0) (intOf sg w n) := by
  have hmem := intOf_mem (n := n) sg hw
  refine ⟨hn, fun _ => ⟨(intOf_emod sg hw).symm, rfl⟩, fun _ => ⟨?_, (if_pos hmem).symm⟩⟩
  rw [show max (intLo sg w) (min (intHi sg w) (intOf sg w n)) = intOf sg w n from
    (clampInt_eq_self (intLo_le_intHi sg w)).2 hmem]
  exact (intOf_emod sg hw).symm
end

/-! ## The arithmetic -/

section
variable {m : VMods} (hm : m.float = none)
include hm

theorem bin_int (ff : XV → XV → XV × Flags) (fi : Int → Int → Int) (v t : Nat) :
    m.bin ff fi v t = m.ofInt m.sat (fi (m.int v) (m.int t)) := by
  rw [VMods.bin, hm]
/-- The lesser or the greater is one of the two patterns. -/
theorem pick_int (gt : Bool) (v t : Nat) : ∃ n, (n = v ∨ n = t) ∧ m.pick gt v t = (n, 0) ∧
    m.int n = if gt then max (m.int v) (m.int t) else min (m.int v) (m.int t) := by
  rw [VMods.pick, hm]
  dsimp only
  generalize hc : (if gt = true then decide (m.int t ≤ m.int v) else decide (m.int v ≤ m.int t)) = c
  cases gt <;> cases c <;> simp at hc ⊢ <;> omega
end

/-- The range of an element type (R104). -/
theorem intBounds_eq {e : Nat} {lo hi : Int}
    (hsg : e = 7 ∨ e = 9 ∨ e = 11 → lo = -(2 ^ (fmtBits e - 1)) ∧ hi = 2 ^ (fmtBits e - 1) - 1)
    (hun : ¬(e = 7 ∨ e = 9 ∨ e = 11) → lo = 0 ∧ hi = 2 ^ fmtBits e - 1) :
    lo = intLo (fmtSigned e) (fmtBits e) ∧ hi = intHi (fmtSigned e) (fmtBits e) := by
  rw [fmtSigned_eq]
  by_cases h : e = 7 ∨ e = 9 ∨ e = 11
  · obtain ⟨rfl, rfl⟩ := hsg h
    simp [h, intLo, intHi]
  · obtain ⟨rfl, rfl⟩ := hun h
    simp [h, intLo, intHi]

/-- Settles O28: the integer of a pattern is the only one of the range with its residue, so it is the model's. -/
theorem integerVectorsDeliver : Obligations.IntegerVectorsDeliver := by
  unfold Obligations.IntegerVectorsDeliver
  intro s u p d a b m hp he ho e w sg lo hi hsg hun slow fits val hval
  obtain ⟨rfl, rfl⟩ := intBounds_eq hsg hun
  have hfloat := float_of_int he
  have hint (x : VIn) (j : Nat) : val (x.lane w j) = m.int (x.lane w j) := by
    obtain ⟨hmin, hmax, hmod⟩ := hval _ (x.lane_lt w j)
    exact eq_intOf (fmtBits_pos _) ⟨hmin, hmax⟩ hmod
  have into (v : Int) : fits (m.ofInt m.sat v) v := fitsInt_intToInt ..
  refine ⟨fun x y hs hx hy => ?_, fun x hs hx => ?_⟩
  · intro gives
    have formed {i : Instr} {lat : Nat} {ff : XV → XV → XV × Flags} {fi : Int → Int → Int}
        (hi : exec i s = varith u p d [a, b] m lat (two (m.bin ff fi)) s) : gives i lat fi := by
      refine ⟨fun j => m.ofInt m.sat (fi (m.int (x.lane w j)) (m.int (y.lane w j))),
        varith_two_delivers hi hp hs ho hx hy fun _ _ => bin_int hfloat .., fun j _ => ?_⟩
      rw [hint, hint]
      exact into _
    have picked {i : Instr} (gt : Bool) (hi : exec i s = varith u p d [a, b] m 2 (two (m.pick gt)) s) :
        gives i 2 fun v t => if gt then max v t else min v t := by
      refine ⟨fun j => m.pick gt (x.lane w j) (y.lane w j), varith_two_delivers hi hp hs ho hx hy fun _ _ => rfl,
        fun j _ => ?_⟩
      obtain ⟨n, hn, hpick, hvalue⟩ := pick_int hfloat gt (x.lane w j) (y.lane w j)
      dsimp only
      rw [hint, hint, hpick, ← hvalue]
      exact fitsInt_pattern m.sat (fmtBits_pos _) (hn.elim (· ▸ x.lane_lt w j) (· ▸ y.lane_lt w j))
    exact ⟨formed (exec_vadd ..), formed (exec_vsub ..), formed (exec_vmul ..), picked false (exec_vmin ..),
      picked true (exec_vmax ..)⟩
  · intro gives
    refine ⟨⟨fun j => m.ofInt m.sat (m.int (x.lane w j)).natAbs, ?_, fun j _ => ?_⟩,
      ⟨fun j => m.ofInt m.sat (-m.int (x.lane w j)), ?_, fun j _ => ?_⟩⟩
    · exact varith_one_delivers (exec_vabs ..) hp hs ho hx fun _ _ => by rw [hfloat]
    · have habs : max (m.int (x.lane w j)) (-m.int (x.lane w j)) = (m.int (x.lane w j)).natAbs := by omega
      dsimp only
      rw [hint, habs]
      exact into _
    · exact varith_one_delivers (exec_vneg ..) hp hs ho hx fun _ _ => by rw [hfloat]
    · rw [hint]
      exact into _

end Sys2Proof.Machine
end

section
/-!
CERTIFICATE. Logic, shifts, compares and mask operations of the V slot (O29).
-/
namespace Sys2Proof.Machine
open Sys2Proof.Laws

/-! ## The operations -/

theorem exec_vor (u : VUnit) (p : Fin 64) (d : Dst 32) (a b : VSrc) (m : VMods) (s : State) :
    exec (.vor u p d a b m) s = execVor u p d a b m s := rfl
theorem exec_vxor (u : VUnit) (p : Fin 64) (d : Dst 32) (a b : VSrc) (m : VMods) (s : State) :
    exec (.vxor u p d a b m) s = execVxor u p d a b m s := rfl
theorem exec_vshl (u : VUnit) (p : Fin 64) (d : Dst 32) (a b : VSrc) (m : VMods) (s : State) :
    exec (.vshl u p d a b m) s = execVshl u p d a b m s := rfl
theorem exec_vshr (u : VUnit) (p : Fin 64) (d : Dst 32) (a b : VSrc) (m : VMods) (s : State) :
    exec (.vshr u p d a b m) s = execVshr u p d a b m s := rfl
theorem exec_vsra (u : VUnit) (p : Fin 64) (d : Dst 32) (a b : VSrc) (m : VMods) (s : State) :
    exec (.vsra u p d a b m) s = vlogic u p d a b m (fun x y => wrapNat (fmtBits m.ety.toNat)
      (sextNat x (fmtBits m.ety.toNat) / ((2 ^ (y % 64) : Nat) : Int))) s := rfl
theorem exec_vcmpeq (u : VUnit) (p : Fin 64) (d : Dst 8) (a b : VSrc) (m : VMods) (s : State) :
    exec (.vcmpeq u p d a b m) s = execVcmpeq u p d a b m s := rfl
theorem exec_vcmpne (u : VUnit) (p : Fin 64) (d : Dst 8) (a b : VSrc) (m : VMods) (s : State) :
    exec (.vcmpne u p d a b m) s = execVcmpne u p d a b m s := rfl
theorem exec_vcmplt (u : VUnit) (p : Fin 64) (d : Dst 8) (a b : VSrc) (m : VMods) (s : State) :
    exec (.vcmplt u p d a b m) s = execVcmplt u p d a b m s := rfl
theorem exec_vcmple (u : VUnit) (p : Fin 64) (d : Dst 8) (a b : VSrc) (m : VMods) (s : State) :
    exec (.vcmple u p d a b m) s = execVcmple u p d a b m s := rfl

/-! ## Logic and shifts (R197) -/

theorem vlogic_delivers {i : Instr} {s : State} {u : VUnit} {p : Fin 64} {d : Dst 32} {a b : VSrc} {m : VMods} {x y : VIn}
    {g : Nat → Nat → Nat} (f : Nat → Nat → Nat) (he : exec i s = vlogic u p d a b m g s) (hp : s.me.pget p = true)
    (hs : s.Sources d m.mask m.ety.toNat [a, b] [x, y])
    (hg : ∀ n < 2 ^ fmtBits m.ety.toNat, ∀ k < 2 ^ fmtBits m.ety.toNat, g n k % 2 ^ fmtBits m.ety.toNat = f n k) :
    DeliversV i s u d 2 (s.me.kget m.mask) m.ety.toNat (s.common d m.mask [x, y]) one32
      (fun j => (f (x.lane (fmtBits m.ety.toNat) j) (y.lane (fmtBits m.ety.toNat) j), 0)) := by
  obtain ⟨hcommon, hlt⟩ := commonPv_head s d m.mask [x, y]
  unfold vlogic at he
  exact DeliversV.congr (vop_delivers_parts he hp (fun h => nomatch h) (fun h => State.Sources.old_ok hs h) hs rfl rfl
    m.ety.isLt hcommon hlt) fun j _ => congrArg (·, 0) (hg _ (x.lane_lt _ j) _ (y.lane_lt _ j))

/-! ## Masks made bit by bit (R198) -/

theorem testBit_foldr_bits (l : List (Bool × Flags)) (j : Nat) :
    (l.foldr (fun b n => (if b.1 then 1 else 0) + 2 * n) 0 : Nat).testBit j = (l.getD j (false, 0)).1 := by
  induction l generalizing j with
  | nil => simp
  | cons b l ih =>
    obtain ⟨v, f⟩ := b
    rw [List.foldr_cons]
    cases j with
    | zero => cases v <;> simp [Nat.testBit_zero]
    | succ j =>
      have hhalf (n : Nat) : ((if v then 1 else 0) + 2 * n) / 2 = n := by cases v <;> simp; omega
      rw [Nat.testBit_succ, hhalf, ih]
      rfl
/-- The union of flags that are each `g` or none. -/
theorem foldl_or_eq_ite {α : Type} {l : List (α × Flags)} {g : Flags} {c : Prop} {_ : Decidable c}
    (h : ∀ x ∈ l, x.2 = 0 ∨ x.2 = g) (hc : c ↔ ∃ x ∈ l, x.2 = g) :
    l.foldl (fun f x => f ||| x.2) 0 = if c then g else 0 := by
  refine BitVec.eq_of_getLsbD_eq fun b _ => Bool.eq_iff_iff.2 ((foldl_or_bit l 0 b).trans ?_)
  rw [show ((0 : Flags).getLsbD b = true) = False by simp, false_or]
  by_cases hh : c
  · rw [if_pos hh]
    obtain ⟨x, hx, hxg⟩ := hc.1 hh
    refine ⟨fun ⟨y, hy, hb⟩ => ?_, fun hb => ⟨x, hx, hxg ▸ hb⟩⟩
    rcases h y hy with h0 | hg
    · simp [h0] at hb
    · exact hg ▸ hb
  · rw [if_neg hh]
    refine ⟨fun ⟨y, hy, hb⟩ => ?_, fun hb => by simp at hb⟩
    rcases h y hy with h0 | hg
    · exact h0 ▸ hb
    · exact absurd (hc.2 ⟨y, hy, hg⟩) hh

section
variable {act old : Mask} {r : Nat → Bool × Flags}

/-- The lanes of a compare under its mask: the relation where it selects, the old bit elsewhere. -/
def maskLanes (act old : Mask) (r : Nat → Bool × Flags) : List (Bool × Flags) :=
  (List.range 128).map fun j => if bitAt act j then r j else (bitAt old j, 0)
theorem getLsbD_maskLanes (j : Fin 128) :
    (BitVec.ofNat 128 ((maskLanes act old r).foldr (fun b n => (if b.1 then 1 else 0) + 2 * n) 0)).getLsbD j.val =
      if act.getLsbD j.val then (r j.val).1 else old.getLsbD j.val := by
  rw [BitVec.getLsbD_ofNat, testBit_foldr_bits, decide_eq_true j.isLt, Bool.true_and, maskLanes,
    List.getD_eq_getElem?_getD, List.getElem?_map, List.getElem?_range j.isLt]
  exact apply_ite Prod.fst _ _ _
theorem flags_maskLanes {inv : Nat → Bool} {g : Flags} {c : Prop} {_ : Decidable c} (hg : g ≠ 0)
    (hr : ∀ j, (r j).2 = flagIf (inv j) g) (hc : c ↔ ∃ j : Fin 128, act.getLsbD j.val = true ∧ inv j.val = true) :
    (maskLanes act old r).foldl (fun f x => f ||| x.2) 0 = if c then g else 0 := by
  have hlane (j : Nat) : (if bitAt act j then r j else (bitAt old j, (0 : Flags))).2 =
      if act.getLsbD j = true ∧ inv j = true then g else 0 := by
    unfold bitAt
    by_cases ha : act.getLsbD j = true
    · simp only [ha, if_true, hr, flagIf, true_and]
    · simp only [ha, if_false, false_and, Bool.false_eq_true]
  refine foldl_or_eq_ite (fun x hx => ?_) (hc.trans ⟨fun ⟨j, hj⟩ => ?_, fun ⟨x, hx, hxg⟩ => ?_⟩)
  · obtain ⟨j, -, rfl⟩ := List.mem_map.1 hx
    rw [hlane]
    split
    · exact .inr rfl
    · exact .inl rfl
  · exact ⟨_, List.mem_map.2 ⟨j.val, List.mem_range.2 j.isLt, rfl⟩, (hlane j.val).trans (if_pos hj)⟩
  · obtain ⟨j, hj, rfl⟩ := List.mem_map.1 hx
    rw [hlane] at hxg
    refine ⟨⟨j, List.mem_range.1 hj⟩, Classical.byContradiction fun hn => hg ?_⟩
    rw [← hxg]
    exact if_neg hn
end

/-! ## Compares (R198) -/

section
variable {i : Instr} {s : State} {u : VUnit} {p : Fin 64} {d : Dst 8} {a b : VSrc} {m : VMods} {x y : VIn} {nanInv : Bool}
  {ff : XV → XV → Bool} {fi : Int → Int → Bool}

/-- What a compare finds of two patterns: the relation, and invalid for a NaN where it raises that. -/
def relate (m : VMods) (nanInv : Bool) (ff : XV → XV → Bool) (fi : Int → Int → Bool) (v t : Nat) : Bool × Flags :=
  match m.float with
  | some f => (ff (f.dec v) (f.dec t), flagIf (nanInv && ((f.dec v).isNan || (f.dec t).isNan)) fInv)
  | none => (fi (m.int v) (m.int t), 0)
theorem relate_float {q : Fmt} (hq : m.float = some q) (v t : Nat) : relate m nanInv ff fi v t =
    (ff (q.dec v) (q.dec t), flagIf (nanInv && ((q.dec v).isNan || (q.dec t).isNan)) fInv) := by
  rw [relate, hq]
theorem relate_int (hm : m.float = none) (v t : Nat) :
    relate m nanInv ff fi v t = (fi (m.int v) (m.int t), flagIf false fInv) := by
  rw [relate, hm]
  rfl

/-- A compare of plain sources that agree delivers the mask of its relation and raises invalid where `c` says. -/
theorem vcmp_delivers {rel inv : Nat → Bool} {c : Prop} {_ : Decidable c} (he : exec i s = vcmp u p d a b m nanInv ff fi s)
    (hp : s.me.pget p = true) (hr : s.me.readVs [a, b] = .ok [x, y]) (ht : Agree [x.tag, y.tag]) (hx : Plain m.ety.toNat x)
    (hy : Plain m.ety.toNat y)
    (hrel : ∀ j, relate m nanInv ff fi (x.lane (fmtBits m.ety.toNat) j) (y.lane (fmtBits m.ety.toNat) j) =
      (rel j, flagIf (inv j) fInv))
    (hc : c ↔ ∃ j : Fin 128, (s.me.kget m.mask).getLsbD j.val = true ∧ inv j.val = true) :
    ∃ (k : Mask) (f : Flags),
      exec i s = .next (s.land u.slot 2 (if d.nowb then [] else [.k d.reg k]) (some (.mask k)) f).issued ∧
      (∀ j : Fin 128, k.getLsbD j.val =
        if (s.me.kget m.mask).getLsbD j.val then rel j.val else (s.me.kget d.reg).getLsbD j.val) ∧
      f = if c then fInv else 0 := by
  have harith : allOk ([x, y].map (arithOk m.ety.toNat)) = .ok () := allOk_arith (by simpa using ⟨hx, hy⟩)
  have htrack : trackOk ([x, y].map VIn.tag) = .ok () := trackOk_agree ht
  let r (j : Nat) : Bool × Flags :=
    relate m nanInv ff fi (x.lane (fmtBits m.ety.toNat) j) (y.lane (fmtBits m.ety.toNat) j)
  have hbit (j : Nat) : (r j).1 = rel j := congrArg Prod.fst (hrel j)
  have hflag (j : Nat) : (r j).2 = flagIf (inv j) fInv := congrArg Prod.snd (hrel j)
  refine ⟨_, _, ?_, fun j => hbit j.val ▸ getLsbD_maskLanes (r := r) j,
    flags_maskLanes (old := s.me.kget d.reg) (by decide) hflag hc⟩
  rw [he, vcmp, hr, need_ok]
  dsimp only
  rw [harith, need_ok, htrack, need_ok]
  exact slotOp_done hp
end

/-! ## Combining and counting masks (R208, R209) -/

theorem getLsbD_lowestBit (x : Mask) (j : Nat) :
    (lowestBit x).getLsbD j = decide (x.getLsbD j = true ∧ ∀ i < j, x.getLsbD i = false) := by
  refine Bool.eq_iff_iff.2 (Iff.trans ?_ decide_eq_true_iff.symm)
  unfold lowestBit
  split
  next i h =>
    obtain ⟨hi, hmem, hbelow⟩ := List.find?_range_eq_some.1 h
    have hi' : x.getLsbD i = true := hi
    have hbelow' (k : Nat) (hk : k < i) : x.getLsbD k = false := by simpa [bitAt] using hbelow k hk
    have htwo : (1#128 <<< i).getLsbD j = true ↔ i = j := by
      rw [show 1#128 <<< i = BitVec.twoPow 128 i from rfl, BitVec.getLsbD_twoPow]
      simpa using fun _ => List.mem_range.1 hmem
    rw [htwo]
    constructor
    · rintro rfl
      exact ⟨hi', hbelow'⟩
    · rintro ⟨hj, hlow⟩
      rcases lt_trichotomy i j with hlt | heq | hgt
      · simp [hlow i hlt] at hi'
      · exact heq
      · simp [hbelow' j hgt] at hj
  next h =>
    have hnone (k : Nat) : x.getLsbD k = false := by
      by_cases hk : k < 128
      · simpa [bitAt] using List.find?_range_eq_none.1 h k hk
      · exact BitVec.getLsbD_of_ge x k (by omega)
    simp [hnone]

theorem popCount_and (x y : Mask) :
    popCount (x &&& y) 128 = ((List.range 128).filter fun j => x.getLsbD j && y.getLsbD j).length := by
  simp only [popCount, BitVec.getLsbD_and]

/-- The integer of a pattern of an element type (R92). -/
theorem intOf_pattern {e n : Nat} (hn : n < 2 ^ fmtBits e) :
    intOf (fmtSigned e) (fmtBits e) n = if e = 7 ∨ e = 9 ∨ e = 11 then sextNat n (fmtBits e) else n := by
  rw [intOf, fmtSigned_eq, Nat.mod_eq_of_lt hn]
  simp only [decide_eq_true_eq]

/-- Settles O29: logic by the model's lane function, compares by `vcmp_delivers`, masks bit by bit. -/
theorem vectorBitsAndMasksDeliver : Obligations.VectorBitsAndMasksDeliver := by
  unfold Obligations.VectorBitsAndMasksDeliver
  refine ⟨fun s u p d a b m x y hp hs => ?_, fun s u p d a b m x y hp hr ht => ?_, fun s u p d a b hp => ?_,
    fun s u p d a mask hp => ?_⟩
  · intro w gives
    refine ⟨vlogic_delivers (· &&& ·) (exec_vand ..) hp hs fun n hn k _ => ?_,
      vlogic_delivers (· ||| ·) (exec_vor ..) hp hs fun n hn k hk => ?_,
      vlogic_delivers (· ^^^ ·) (exec_vxor ..) hp hs fun n hn k hk => ?_,
      vlogic_delivers (fun n k => n * 2 ^ (k % 64) % 2 ^ w) (exec_vshl ..) hp hs fun n _ k _ => ?_,
      vlogic_delivers (fun n k => n / 2 ^ (k % 64)) (exec_vshr ..) hp hs fun n hn k _ => ?_,
      vlogic_delivers (fun n k => (sextNat n w / 2 ^ (k % 64) % 2 ^ w).toNat) (exec_vsra ..) hp hs fun n _ k _ => ?_⟩
    · exact Nat.mod_eq_of_lt (lt_of_le_of_lt Nat.and_le_left hn)
    · exact Nat.mod_eq_of_lt (Nat.or_lt_two_pow hn hk)
    · exact Nat.mod_eq_of_lt (Nat.xor_lt_two_pow hn hk)
    · rw [Nat.shiftLeft_eq]
    · rw [Nat.shiftRight_eq_div_pow]
      exact Nat.mod_eq_of_lt (lt_of_le_of_lt (Nat.div_le_self _ _) hn)
    · rw [Nat.mod_eq_of_lt (wrapNat_lt _ _), wrapNat_eq]
      push_cast
      rfl
  · intro e w hx hy gives
    refine ⟨fun q _ he hq => ?_, fun he => ?_⟩
    · intro vx vy unord
      have hrel (nanInv : Bool) (ff : XV → XV → Bool) (fi : Int → Int → Bool) (j : Nat) :=
        relate_float (nanInv := nanInv) (ff := ff) (fi := fi) (float_of_fmtOf he hq) (x.lane w j) (y.lane w j)
      exact ⟨vcmp_delivers (exec_vcmpeq ..) hp hr ht hx hy (hrel _ _ _) Iff.rfl,
        vcmp_delivers (exec_vcmpne ..) hp hr ht hx hy (hrel _ _ _) Iff.rfl,
        vcmp_delivers (exec_vcmplt ..) hp hr ht hx hy (hrel _ _ _) Iff.rfl,
        vcmp_delivers (exec_vcmple ..) hp hr ht hx hy (hrel _ _ _) Iff.rfl⟩
    · intro val rel
      have hval (z : VIn) (j : Nat) : m.int (z.lane w j) = val (z.lane w j) := intOf_pattern (z.lane_lt w j)
      have hrel (nanInv : Bool) (ff : XV → XV → Bool) (fi : Int → Int → Bool) (j : Nat) :
          relate m nanInv ff fi (x.lane w j) (y.lane w j) = (fi (val (x.lane w j)) (val (y.lane w j)), flagIf false fInv) := by
        rw [relate_int (float_of_int he), hval, hval]
      exact ⟨vcmp_delivers (exec_vcmpeq ..) hp hr ht hx hy (hrel _ _ _) Iff.rfl,
        vcmp_delivers (exec_vcmpne ..) hp hr ht hx hy (hrel _ _ _) Iff.rfl,
        vcmp_delivers (exec_vcmplt ..) hp hr ht hx hy (hrel _ _ _) Iff.rfl,
        vcmp_delivers (exec_vcmple ..) hp hr ht hx hy (hrel _ _ _) Iff.rfl⟩
  · intro x y gives
    exact ⟨slotOp_done (sl := u.slot) hp, slotOp_done (sl := u.slot) hp, slotOp_done (sl := u.slot) hp,
      slotOp_done (sl := u.slot) hp, slotOp_done (sl := u.slot) hp, slotOp_done (sl := u.slot) hp, lowestBit x,
      slotOp_done (sl := u.slot) hp, getLsbD_lowestBit x⟩
  · rw [← popCount_and]
    exact slotOp_done (sl := u.slot) hp

end Sys2Proof.Machine
end

section
/-!
CERTIFICATE. VCLASS and the functions of one operand (O31).
-/
namespace Sys2Proof.Machine
open Sys2Proof.Laws

/-! ## The operations -/

theorem exec_vclass (u : VUnit) (p : Fin 64) (d : Dst 32) (a : VSrc) (m : VMods) (s : State) :
    exec (.vclass u p d a m) s = execVclass u p d a m s := rfl
theorem exec_vrsqrt (u : VUnit) (p : Fin 64) (d : Dst 32) (a : VSrc) (m : VMods) (s : State) :
    exec (.vrsqrt u p d a m) s = execVrsqrt u p d a m s := rfl
theorem exec_vsqrt (u : VUnit) (p : Fin 64) (d : Dst 32) (a : VSrc) (m : VMods) (s : State) :
    exec (.vsqrt u p d a m) s = execVsqrt u p d a m s := rfl
theorem exec_vexp2 (u : VUnit) (p : Fin 64) (d : Dst 32) (a : VSrc) (m : VMods) (s : State) :
    exec (.vexp2 u p d a m) s = execVexp2 u p d a m s := rfl
theorem exec_vlog2 (u : VUnit) (p : Fin 64) (d : Dst 32) (a : VSrc) (m : VMods) (s : State) :
    exec (.vlog2 u p d a m) s = execVlog2 u p d a m s := rfl
theorem exec_vtanh (u : VUnit) (p : Fin 64) (d : Dst 32) (a : VSrc) (m : VMods) (s : State) :
    exec (.vtanh u p d a m) s = execVtanh u p d a m s := rfl

section
variable {i : Instr} {s : State} {u : VUnit} {p : Fin 64} {d : Dst 32} {a : VSrc} {m : VMods} {x : VIn} {q : Fmt}

theorem vfun_delivers {g : Fmt → Nat → Bool → XV → Nat × Flags} (he : exec i s = vfun u p d a m g s)
    (hp : s.me.pget p = true) (hs : s.Sources d m.mask m.ety.toNat [a] [x]) (ho : s.OldPlain d m.mask m.ety.toNat)
    (hx : Plain m.ety.toNat x) (hq : m.float = some q) :
    DeliversV i s u d 8 (s.me.kget m.mask) m.ety.toNat (s.common d m.mask [x]) one32
      (fun j => g q m.rnd.toNat m.sat (q.dec (x.lane (fmtBits m.ety.toNat) j))) :=
  varith_one_delivers he hp hs ho hx fun _ _ => by rw [hq]

theorem vclass_delivers (hp : s.me.pget p = true) (hs : s.Sources d m.mask 12 [a] [x]) (ho : s.OldPlain d m.mask 12)
    (hx : Plain m.ety.toNat x) (hq : fmtOf m.ety.toNat = some q) :
    DeliversV (.vclass u p d a m) s u d 2 (s.me.kget m.mask) 12 (s.common d m.mask [x]) one32
      (fun j => (classBits q (x.lane (fmtBits m.ety.toNat) j), 0)) := by
  obtain ⟨hcommon, hlt⟩ := commonPv_head s d m.mask [x]
  have he := exec_vclass u p d a m s
  unfold execVclass at he
  refine DeliversV.congr (vop_delivers_parts he hp (fun h => nomatch h) (fun h => arithOk_plain (ho h)) hs
    (allOk_arith (by simpa using hx)) rfl (by decide) hcommon hlt) fun j _ => ?_
  rw [hq]
  rfl
end

/-! ## The class of a pattern (R199) -/

/-- The exponent field of a finite pattern is zero where its significand has no leading bit. -/
theorem dec_exponent_zero {q : Fmt} {n v d : Nat} {neg : Bool} {e : Int} (h : q.dec n = .fin neg v d e) :
    (n >>> q.m) % 2 ^ q.e = 0 ↔ v < 2 ^ q.m := by
  have hlow := Nat.mod_lt n (Nat.two_pow_pos q.m)
  unfold Fmt.dec at h
  dsimp only at h
  split at h
  · split at h <;> cases h
  · split at h
    · cases h
    · split at h
      next h0 =>
        cases h
        exact iff_of_true h0 hlow
      next h0 =>
        cases h
        exact iff_of_false h0 (by omega)

section
variable {q : Fmt} {n v d : Nat} {neg : Bool} {e : Int}

theorem classBits_nan (h : q.dec n = .nan) : classBits q n = 2 ^ 8 := by
  rw [classBits, h]
theorem classBits_inf (h : q.dec n = .inf neg) : classBits q n = if n.testBit (q.e + q.m) then 2 ^ 0 else 2 ^ 7 := by
  rw [classBits, h]
theorem classBits_fin (h : q.dec n = .fin neg v d e) :
    (v = 0 → classBits q n = if n.testBit (q.e + q.m) then 2 ^ 3 else 2 ^ 4) ∧
    (v ≠ 0 → v < 2 ^ q.m → classBits q n = if n.testBit (q.e + q.m) then 2 ^ 2 else 2 ^ 5) ∧
    (2 ^ q.m ≤ v → classBits q n = if n.testBit (q.e + q.m) then 2 ^ 1 else 2 ^ 6) := by
  have hfield := dec_exponent_zero h
  have hpos := Nat.two_pow_pos q.m
  rw [classBits, h]
  refine ⟨fun h0 => ?_, fun h0 hv => ?_, fun hv => ?_⟩
  · exact if_pos h0
  · exact (if_neg h0).trans (if_pos (hfield.2 hv))
  · exact (if_neg (by omega)).trans (if_neg (mt hfield.1 (by omega)))
end

/-! ## Rounding exact values (R102) -/

/-- FP32, BF16 and FP16: the formats of the element types of the functions. -/
def IsArith (q : Fmt) : Prop := q = fp32 ∨ q = bf16 ∨ q = fp16

section
variable {q : Fmt} (hq : IsArith q) (rm : Nat) (sat : Bool)

include hq

theorem kind_of_isArith : q.kind = .ieee := by
  rcases hq with rfl | rfl | rfl <;> rfl
theorem round_inf (n : Bool) : q.round rm sat (.inf n) = (q.infp n, 0) := by
  rw [Fmt.round, kind_of_isArith hq]
theorem round_nan : q.round rm sat .nan = (q.nan, 0) := by
  rw [Fmt.round, kind_of_isArith hq]
  rfl
theorem roundMag_one (n : Bool) : q.roundMag rm sat n ⟨1, 0, false⟩ = (q.signed n (q.bias * 2 ^ q.m), 0) := by
  have hlen : natLen 1 = 1 := by decide
  rcases hq with rfl | rfl | rfl <;> simp [Fmt.roundMag, roundAt, hlen, shiftUp, fp32, bf16, fp16, flagIf]
end

/-! ## The functions at their special operands (R201) -/

section
variable {q : Fmt} (rm : Nat) (sat n : Bool) (d : Nat) (e : Int)

theorem recip_eq (q : Fmt) (x : XV) : q.recip rm sat x =
    ((q.round rm sat (XV.div (.fin false 1 1 0) x).1).1,
      (XV.div (.fin false 1 1 0) x).2 ||| (q.round rm sat (XV.div (.fin false 1 1 0) x).1).2) := rfl
/-- One over a finite value that is not zero. -/
theorem div_one_fin {v : Nat} (hv : 0 < v) : XV.div (.fin false 1 1 0) (.fin n v d e) = (.fin n d v (-e), 0) := by
  rw [XV.div, if_neg hv.ne']
  simp
theorem recip_fin {v : Nat} (hv : 0 < v) : q.recip rm sat (.fin n v d e) = q.round rm sat (.fin n d v (-e)) := by
  rw [recip_eq, div_one_fin n d e hv]
  exact congrArg (Prod.mk _) BitVec.zero_or
theorem recip_zero (hq : IsArith q) : q.recip rm sat (.fin n 0 d e) = (q.infp n, fDz) := by
  have hdiv : XV.div (.fin false 1 1 0) (.fin n 0 d e) = (.inf n, fDz) := by cases n <;> rfl
  rw [recip_eq, hdiv, round_inf hq]
  exact congrArg (Prod.mk _) BitVec.or_zero
theorem recip_nan (hq : IsArith q) : q.recip rm sat .nan = (q.nan, 0) := by
  rw [recip_eq, show XV.div (.fin false 1 1 0) .nan = (.nan, 0) from rfl, round_nan hq]
  exact congrArg (Prod.mk _) BitVec.or_zero
theorem recip_inf : q.recip rm sat (.inf n) = (q.signed n 0, 0) := by
  cases n <;> rfl

theorem natLen_le_of_lt {v b : Nat} (hv : v < 2 ^ b) : natLen v ≤ b := by
  unfold natLen
  split
  · exact Nat.zero_le b
  next h0 => exact (Nat.log2_lt h0).2 hv
theorem floorFrac_integer (v k : Nat) :
    floorFrac n (v * 2 ^ k) (-(k : Int)) = (if n then -(v : Int) else v, 0, k) := by
  have hpos : ((2 ^ k : Nat) : Int) ≠ 0 := by positivity
  have hs : (-(-(k : Int))).toNat = k := by simp
  have hup : shiftUp (v * 2 ^ k) (-(k : Int)) = v * 2 ^ k := by simp [shiftUp]
  have hneg : (if n then -((v * 2 ^ k : Nat) : Int) else (v * 2 ^ k : Nat)) =
      (if n then -(v : Int) else v) * ((2 ^ k : Nat) : Int) := by
    cases n <;> simp
  unfold floorFrac
  dsimp only
  rw [hs, hup, hneg, Int.mul_ediv_cancel _ hpos, Int.mul_emod_left]
  rfl
/-- 2 to the power 0. -/
theorem exp2_zero (q : Fmt) : q.exp2 rm sat (.fin n 0 d e) = q.roundMag rm sat false ⟨1, 0, false⟩ := by
  have hfloor : floorFrac n 0 e = (0, 0, (-e).toNat) := by
    cases n <;> simp [floorFrac, shiftUp]
  rw [Fmt.exp2, hfloor]
  rfl
/-- 2 to an integer: `v * 2 ^ k` over `2 ^ k`. -/
theorem exp2_integer (q : Fmt) {v : Nat} (k : Nat) (hv : v < 2 ^ 10) : q.exp2 rm sat (.fin n (v * 2 ^ k) 1 (-(k : Int))) =
    q.round rm sat (.fin false 1 1 (if n then -(v : Int) else v)) := by
  have hlt : v * 2 ^ k < 2 ^ (10 + k) := by
    rw [pow_add]
    exact Nat.mul_lt_mul_of_pos_right hv (Nat.two_pow_pos k)
  have hlen := natLen_le_of_lt hlt
  have hsmall : (v * 2 ^ k ≠ 0 && 20 ≤ (natLen (v * 2 ^ k) : Int) + -(k : Int)) = false := by
    rw [Bool.and_eq_false_iff]
    exact .inr (decide_eq_false (by omega))
  rw [Fmt.exp2, hsmall, floorFrac_integer]
  rfl
/-- The logarithm of a power of two. -/
theorem log2_pow (q : Fmt) (k : Nat) : q.log2 rm sat (.fin false (2 ^ k) 1 e) = q.round rm sat (XV.ofInt (e + k)) := by
  have hpos : 2 ^ k ≠ 0 := by positivity
  have hlen : natLen (2 ^ k) - 1 = k := by rw [natLen, if_neg hpos, Nat.log2_two_pow, Nat.add_sub_cancel]
  rw [Fmt.log2, if_neg hpos, hlen]
  simp
end

/-- The sign of an operand decides where only positive values have the function. -/
theorem negative_invalid (q : Fmt) (rm : Nat) (sat : Bool) {v : Nat} (d : Nat) (e : Int) (hv : 0 < v) :
    q.rsqrt rm sat (.fin true v d e) = (q.nan, fInv) ∧ q.sqrt rm sat (.fin true v d e) = (q.nan, fInv) ∧
    q.log2 rm sat (.fin true v d e) = (q.nan, fInv) :=
  ⟨if_neg hv.ne', if_neg hv.ne', if_neg hv.ne'⟩

/-- Settles O31: the functions lane by lane, the classes by the value of the pattern, and each function at the operands that
R201 names. -/
theorem vectorFunctionsDeliver : Obligations.VectorFunctionsDeliver := by
  unfold Obligations.VectorFunctionsDeliver
  refine ⟨fun s u p d a m x q hp hq => ?_, fun q rm sat hq _ => ?_⟩
  · intro e w gives hx
    refine ⟨fun he ho hs => ?_, fun he ho hs => ?_⟩
    · have hfloat := float_of_fmtOf he hq
      exact ⟨vfun_delivers (exec_vrcp ..) hp hs ho hx hfloat, vfun_delivers (exec_vrsqrt ..) hp hs ho hx hfloat,
        vfun_delivers (exec_vsqrt ..) hp hs ho hx hfloat, vfun_delivers (exec_vexp2 ..) hp hs ho hx hfloat,
        vfun_delivers (exec_vlog2 ..) hp hs ho hx hfloat, vfun_delivers (exec_vtanh ..) hp hs ho hx hfloat⟩
    · refine ⟨fun j => classBits q (x.lane w j), vclass_delivers hp hs ho hx hq, fun j _ => ?_⟩
      intro n neg
      have hneg : neg = n.testBit (q.e + q.m) := by rw [fmtOf_signBit hq]
      rw [hneg]
      split
      next h => exact classBits_nan h
      next h => exact classBits_inf h
      next h => exact classBits_fin h
  · intro one
    have hone := roundMag_one hq rm sat
    refine ⟨fun n d e => ⟨recip_zero rm sat n d e hq, rfl, rfl, (exp2_zero rm sat n d e q).trans (hone false), rfl, rfl⟩,
      fun n => ⟨recip_inf rm sat n, hone n⟩, rfl, rfl, round_inf hq rm sat false, rfl, round_inf hq rm sat false, rfl,
      round_inf hq rm sat false, rfl, fun v d e hv => negative_invalid q rm sat d e hv, recip_nan rm sat hq,
      rfl, rfl, rfl, rfl, rfl, fun n v d e hv => recip_fin rm sat n d e hv, fun v k n hv => exp2_integer rm sat n q k hv,
      fun k e => log2_pow rm sat e q k⟩

end Sys2Proof.Machine
end

section
/-!
CERTIFICATE. VCVT, VSCALE and VQUANT (O32).
-/
namespace Sys2Proof.Machine
open Sys2Proof.Laws

/-! ## The operations -/

theorem exec_vcvt (u : VUnit) (p : Fin 64) (d : Dst 32) (a : VSrc) (m : VMods) (s : State) :
    exec (.vcvt u p d a m) s = execVcvt u p d a m s := rfl
theorem exec_vscale (u : VUnit) (p : Fin 64) (d : Dst 32) (a b : VSrc) (m : VMods) (s : State) :
    exec (.vscale u p d a b m) s = execVscale u p d a b m s := rfl
theorem exec_vquant (u : VUnit) (p : Fin 64) (d : Dst 32) (a b : VSrc) (m : VMods) (s : State) :
    exec (.vquant u p d a b m) s = execVquant u p d a b m s := rfl

section
variable {s : State} {u : VUnit} {p : Fin 64} {d : Dst 32} {a b : VSrc} {m : VMods} {x y : VIn}

theorem vcvt_delivers (hp : s.me.pget p = true) (hs : s.Sources d m.mask m.ety.toNat [a] [x]) (hx : bits x.tag 0 4 ≠ 0) :
    DeliversV (.vcvt u p d a m) s u d 3 (s.me.kget m.mask) m.ety.toNat (s.common d m.mask [x]) one32
      (cvtLane m.ety.toNat m.rnd.toNat m.sat x) := by
  obtain ⟨hcommon, hlt⟩ := commonPv_head s d m.mask [x]
  have he := exec_vcvt u p d a m s
  unfold execVcvt at he
  exact vop_delivers_parts he hp (fun h => nomatch h) (fun h => State.Sources.old_ok hs h) hs (if_neg hx) rfl m.ety.isLt
    hcommon hlt

theorem vscale_delivers (hp : s.me.pget p = true) (hs : s.Sources d m.mask m.ety.toNat [a, b] [x, y])
    (ho : s.OldPlain d m.mask m.ety.toNat) (hx : Plain m.ety.toNat x) (hy : Plain 11 y) :
    DeliversV (.vscale u p d a b m) s u d (latVMul s.me.kclass) (s.me.kget m.mask) m.ety.toNat (s.common d m.mask [x, y]) one32
      (fun j => m.scaled (x.lane (fmtBits m.ety.toNat) j) (sextNat (y.lane 32 j) 32)) := by
  obtain ⟨hcommon, hlt⟩ := commonPv_head s d m.mask [x, y]
  have he := exec_vscale u p d a b m s
  unfold execVscale at he
  have hchk : allOk [arithOk m.ety.toNat x, arithOk 11 y] = .ok () := by
    rw [arithOk_plain hx, arithOk_plain hy]
    rfl
  exact vop_delivers_parts he hp (fun h => nomatch h) (fun h => arithOk_plain (ho h)) hs hchk rfl m.ety.isLt hcommon hlt

theorem fmtOk_of {e : Nat} (h : bits x.tag 0 4 = 0 ∨ bits x.tag 0 4 = e) : fmtOk e x = .ok () := by
  rcases h with h | h <;> simp [fmtOk, tagFmt, h]

/-- The result of VQUANT is scaled, by lane 0 of vb, and has the prov and ver bits of va. -/
theorem vquant_delivers (hp : s.me.pget p = true) (hs : s.Sources d m.mask m.ety.toNat [a, b] [x, y])
    (h1 : 1 ≤ bits x.tag 0 4) (h3 : bits x.tag 0 4 ≤ 3) (hy : bits y.tag 0 4 = 0 ∨ bits y.tag 0 4 = 1) :
    DeliversV (.vquant u p d a b m) s u d 3 (s.me.kget m.mask) m.ety.toNat (1 + 2 * bits x.tag 5 5)
      (BitVec.ofNat 32 (y.lane 32 0))
      (quantLane m.ety.toNat m.rnd.toNat m.sat x (BitVec.ofNat 32 (y.lane 32 0))) := by
  have he := exec_vquant u p d a b m s
  unfold execVquant at he
  have hbits := bits_lt x.tag 5 5
  have hfloat : (1 ≤ tagFmt x.tag && tagFmt x.tag ≤ 3) = true := by simp [tagFmt, h1, h3]
  exact vop_delivers_parts he hp (fun h => nomatch h) (fun h => State.Sources.old_ok hs h) hs
    ((if_pos hfloat).trans (fmtOk_of hy)) rfl m.ety.isLt (by simp [nth]; ring) (by omega)
end

/-! ## The value of a lane and the lanes of the results -/

/-- The exact value of a pattern of any format (R96). -/
theorem patVal_eq {f n : Nat} (hn : n < 2 ^ fmtBits f) : patVal f n = match fmtOf f with
    | some q => q.dec n
    | none => XV.ofInt (if f = 7 ∨ f = 9 ∨ f = 11 then sextNat n (fmtBits f) else n) := by
  rw [patVal, intOf_pattern hn] <;> rfl

theorem scaled_float {m : VMods} {q : Fmt} (hq : m.float = some q) (v : Nat) (n : Int) : m.scaled v n = match q.dec v with
    | .fin neg k d e => q.round m.rnd.toNat m.sat (.fin neg k d (e + n))
    | .inf neg => (q.infp neg, 0)
    | .nan => (q.nan, 0) := by
  rw [VMods.scaled, hq] <;> rfl

theorem fmtInt_of_isSome {f : Nat} (h : (fmtOf f).isSome) : fmtInt f = false := by
  unfold fmtOf at h
  split at h
  case h_7 => cases h
  all_goals rfl

section
variable {e rm : Nat} {sat : Bool} {x : VIn} {i : Nat}

/-- A lane that converts as a real number (R202; log entry 9). -/
theorem cvtLane_real (h : (fmtOf e).isSome ∨ (fmtOf (bits x.tag 0 4)).isSome) : cvtLane e rm sat x i =
    ((intoFmt e rm sat (x.value i).1).1, (x.value i).2 ||| (intoFmt e rm sat (x.value i).1).2) := by
  have hreal : (fmtInt (tagFmt x.tag) && fmtInt e && !bitAt x.tag 4) = false := by
    rcases h with h | h
    · rw [fmtInt_of_isSome h, Bool.and_false, Bool.false_and]
    · rw [tagFmt, fmtInt_of_isSome h, Bool.false_and, Bool.false_and]
  rw [cvtLane, hreal]
  rfl
/-- A lane that converts from integer to integer (R104). -/
theorem cvtLane_int (h7 : 7 ≤ bits x.tag 0 4) (h12 : bits x.tag 0 4 ≤ 12) (hscl : bitAt x.tag 4 = false) (he7 : 7 ≤ e)
    (he12 : e ≤ 12) : cvtLane e rm sat x i = intToInt (fmtSigned e) (fmtBits e) sat
      (let f := bits x.tag 0 4
       let n := x.lane (fmtBits f) i
       if f = 7 ∨ f = 9 ∨ f = 11 then sextNat n (fmtBits f) else n) := by
  have hint : (fmtInt (tagFmt x.tag) && fmtInt e && !bitAt x.tag 4) = true := by
    simp [fmtInt, tagFmt, h7, h12, hscl, he7, he12]
  rw [cvtLane, hint, intOf_pattern (x.lane_lt _ i)]
  rfl
theorem quantLane_eq (sc : W32) : quantLane e rm sat x sc i =
    let t := XV.div (x.value i).1 (fp32.dec sc.toNat)
    ((intoFmt e rm sat t.1).1,
      (if (fp32.dec sc.toNat).isNan then 0 else (x.value i).2 ||| t.2) ||| (intoFmt e rm sat t.1).2) := by
  have hquiet (f : Flags) : quiet [f32 sc] f = if (fp32.dec sc.toNat).isNan then 0 else f := by
    rw [quiet, List.any_cons, List.any_nil, Bool.or_false]
    rfl
  dsimp only
  rw [← hquiet]
  rfl
end

/-- Settles O32: the lanes of VCVT, VSCALE and VQUANT by the value of their source's lane under its scale. -/
theorem vectorConversionsDeliver : Obligations.VectorConversionsDeliver := by
  unfold Obligations.VectorConversionsDeliver
  intro s u p d a b m hp e rm into value
  have hvalue (x : VIn) (i : Nat) : x.value i = value x i := by
    have hpattern := patVal_eq (x.lane_lt (fmtBits (tagFmt x.tag)) i)
    unfold VIn.value
    dsimp only
    rw [hpattern]
    rfl
  refine ⟨fun x hs hf => ⟨_, vcvt_delivers hp hs hf, fun i _ => ⟨fun h => ?_, fun _ h7 h12 hscl he7 he12 => ?_⟩⟩,
    fun x y q h1 h3 hq hs hx hy ho => ?_, fun x y hs h1 h3 hy => ?_⟩
  · rw [cvtLane_real h, hvalue]
    rfl
  · intro f n v lo hi
    have hlane := cvtLane_int (e := e) (rm := rm) (sat := m.sat) (i := i) h7 h12 hscl he7 he12
    refine ⟨fun hsat => ?_, fun hsat => ?_⟩
    · rw [hsat] at hlane ⊢
      exact hlane.trans (intToInt_wraps ..)
    · rw [hsat] at hlane ⊢
      exact hlane.trans (intToInt_clamps ..)
  · exact DeliversV.congr (vscale_delivers hp hs ho hx hy) fun i _ => scaled_float (float_of_fmtOf h3 hq) _ _
  · intro sc
    refine DeliversV.congr (vquant_delivers hp hs h1 h3 hy) fun i _ => ?_
    rw [quantLane_eq, hvalue]
    rfl

end Sys2Proof.Machine
end

section
/-!
SUPPORT. The value of an FP32 word over a denominator of one, and the rounding of a value that is divided by 1.0 (R102).
-/
namespace Sys2Proof.Machine

/-! ## A magnitude written with more bits -/

theorem natLen_mul_two_pow {n : Nat} (hn : n ≠ 0) (k : Nat) : natLen (n * 2 ^ k) = natLen n + k := by
  obtain ⟨hlo, hhi⟩ := (Nat.log2_eq_iff hn).1 rfl
  have hpos := Nat.two_pow_pos k
  have hlog : (n * 2 ^ k).log2 = n.log2 + k := by
    refine (Nat.log2_eq_iff (Nat.mul_ne_zero hn hpos.ne')).2 ⟨?_, ?_⟩
    · rw [pow_add]
      exact Nat.mul_le_mul_right _ hlo
    · rw [Nat.add_right_comm, pow_add]
      exact (Nat.mul_lt_mul_right hpos).2 hhi
  rw [natLen, natLen, if_neg (Nat.mul_ne_zero hn hpos.ne'), if_neg hn, hlog]
  omega

/-- The magnitude `q * 2 ^ sh`, written with `j` more bits. -/
def Mag.longer (q : Nat) (sh : Int) (j : Nat) : Mag := ⟨q * 2 ^ j, sh - j, false⟩

section
variable {q : Nat} (hq : q ≠ 0) (sh : Int) (j : Nat) (neg : Bool)
include hq

/-- Rounding to a multiple of `2 ^ u` sees a magnitude, not the bits that it is written with. -/
theorem roundAt_longer (u : Int) : roundAt (Mag.longer q sh j) neg 0 u = roundAt ⟨q, sh, false⟩ neg 0 u := by
  have hlen := natLen_mul_two_pow hq j
  simp only [roundAt, Mag.longer, hlen]
  rcases le_or_gt u (sh - j) with hlow | hlow
  · -- no bit is cut off of either
    have hexp : (sh - u).toNat = j + (sh - j - u).toNat := by omega
    rw [if_pos hlow, if_pos (show u ≤ sh by omega), shiftUp, shiftUp, hexp, pow_add, mul_assoc]
  rcases le_or_gt u sh with hmid | hhigh
  · -- the bits that are cut off are among the added zeros
    have hd : min (u - (sh - j)).toNat (natLen q + j + 2) = (u - (sh - j)).toNat := by omega
    have hexp : j = (sh - u).toNat + (u - (sh - j)).toNat := by omega
    rw [if_neg (show ¬u ≤ sh - j by omega), if_pos hmid, hd]
    generalize (u - (sh - j)).toNat = d at hexp
    have hcut : q * 2 ^ j = q * 2 ^ (sh - u).toNat * 2 ^ d := by rw [mul_assoc, ← pow_add, ← hexp]
    have hd0 := (Nat.two_pow_pos (d - 1)).ne'
    simp [hcut, Nat.shiftRight_eq_div_pow, shiftUp, hd0.symm]
  · -- the added zeros are cut off below the same bits
    have hd : min (u - (sh - j)).toNat (natLen q + j + 2) = min (u - sh).toNat (natLen q + 2) + j := by omega
    have hd1 : 1 ≤ min (u - sh).toNat (natLen q + 2) := by omega
    rw [if_neg (show ¬u ≤ sh - j by omega), if_neg (show ¬u ≤ sh by omega), hd]
    generalize min (u - sh).toNat (natLen q + 2) = d at hd1
    have hpos := Nat.two_pow_pos j
    have hquot : q * 2 ^ j / (2 ^ d * 2 ^ j) = q / 2 ^ d := Nat.mul_div_mul_right _ _ hpos
    have hrem : q * 2 ^ j % (2 ^ d * 2 ^ j) = q % 2 ^ d * 2 ^ j := Nat.mul_mod_mul_right ..
    have hhalf : 2 ^ (d + j - 1) = 2 ^ (d - 1) * 2 ^ j := by rw [← pow_add]; congr 1; omega
    simp [Nat.shiftRight_eq_div_pow, pow_add, hquot, hrem, hhalf, Nat.mul_lt_mul_right hpos, Nat.mul_left_inj hpos.ne']
theorem roundMag_longer (f : Fmt) (sat : Bool) :
    f.roundMag 0 sat neg (Mag.longer q sh j) = f.roundMag 0 sat neg ⟨q, sh, false⟩ := by
  have hex : (natLen (Mag.longer q sh j).q : Int) - 1 + (Mag.longer q sh j).sh = (natLen q : Int) - 1 + sh := by
    dsimp only [Mag.longer]
    rw [natLen_mul_two_pow hq j]
    omega
  simp only [Fmt.roundMag, hex, roundAt_longer hq]
end

/-! ## Division by 1.0 -/

/-- A value over a denominator of one whose numerator is short, or not finite. -/
def XV.Short (b : Nat) : XV → Prop
  | .fin _ n d _ => d = 1 ∧ n < 2 ^ b
  | _ => True

theorem XV.Short.ite {c : Prop} [Decidable c] {b : Nat} {v w : XV} (hv : v.Short b) (hw : w.Short b) :
    (if c then v else w).Short b := by
  by_cases h : c
  · rwa [if_pos h]
  · rwa [if_neg h]
theorem XV.short_dec (p : Nat) : (fp32.dec p).Short 24 := by
  have hm : p % 2 ^ fp32.m < 2 ^ 23 := Nat.mod_lt _ (by decide)
  have hnormal : p % 2 ^ fp32.m + 2 ^ fp32.m < 2 ^ 24 := Nat.add_lt_add_right hm (2 ^ 23)
  exact .ite (.ite trivial trivial) (.ite trivial (.ite ⟨rfl, by omega⟩ ⟨rfl, hnormal⟩))
theorem XV.Short.mul {v w : XV} {a b : Nat} (hv : v.Short a) (hw : w.Short b) : (XV.mul v w).1.Short (a + b) := by
  cases v with
  | nan => trivial
  | inf x => cases w with
    | fin t m c g => rw [XV.mul]; split <;> trivial
    | _ => trivial
  | fin s n d e => cases w with
    | nan => trivial
    | inf y => rw [XV.mul]; split <;> trivial
    | fin t m c g =>
      obtain ⟨rfl, hn⟩ := hv
      obtain ⟨rfl, hm⟩ := hw
      exact ⟨rfl, pow_add 2 a b ▸ Nat.mul_lt_mul'' hn hm⟩

theorem magOf_one (n : Nat) (e : Int) : magOf n 1 e = ⟨n, e, false⟩ := if_pos rfl
/-- A short value over a power of two is exact in its 64 bits and more. -/
theorem magOf_two_pow {n k : Nat} (hk : k ≠ 0) (hn : natLen n ≤ 65) (e : Int) :
    magOf n (2 ^ k) (e + k) = Mag.longer n e (65 - natLen n) := by
  have hlen : natLen (2 ^ k) = k + 1 := by
    rw [natLen, if_neg (Nat.two_pow_pos k).ne', Nat.log2_two_pow]
  have hexp : 64 + (k + 1) - natLen n = 65 - natLen n + k := by omega
  have hden : 2 ^ k ≠ 1 := by simp [hk]
  rw [magOf, if_neg hden]
  dsimp only
  rw [hlen, hexp, pow_add, ← mul_assoc, Nat.mul_div_cancel _ (Nat.two_pow_pos k), Nat.mul_mod_left, Mag.longer]
  simp
/-- A short value divided by 1.0 is rounded as it is. -/
theorem round_div_one {v : XV} (hv : v.Short 48) (f : Fmt) (sat : Bool) :
    f.round 0 sat (XV.div v (fp32.dec 0x3F800000)).1 = f.round 0 sat v := by
  have hone : fp32.dec 0x3F800000 = .fin false (2 ^ 23) 1 (-23) := by decide
  rw [hone]
  cases v with
  | nan => rfl
  | inf s => cases s <;> rfl
  | fin s n d e =>
    obtain ⟨rfl, hn⟩ := hv
    have hdiv : (XV.div (.fin s n 1 e) (.fin false (2 ^ 23) 1 (-23))).1 = .fin s n (2 ^ 23) (e + (23 : Nat)) := by
      simp [XV.div]
    rw [hdiv, Fmt.round, Fmt.round]
    by_cases h0 : n = 0
    · rw [if_pos h0, if_pos h0]
    · have hlen : natLen n ≤ 48 := by
        rw [natLen, if_neg h0]
        exact (Nat.log2_lt h0).2 hn
      rw [if_neg h0, if_neg h0, magOf_two_pow (by decide) (by omega), magOf_one, roundMag_longer h0]

end Sys2Proof.Machine
end

section
/-!
CERTIFICATE. The accumulator commands of the matrix engine: MZERO, MCOPY, MTRN, MACC and MSCL (O40).
-/
namespace Sys2Proof.Machine
open Sys2Proof.Laws

/-! ## Tiles and accumulators written whole (R97, R98, R381) -/

/-- The tile of the elements `f`. -/
def Grid.tile (f : Nat → Nat → W32) : Grid := (List.range 128).map fun i => (List.range 128).map (f i)

theorem Acc.grid_eq_tile (a : Acc) : a.grid = Grid.tile a.at := a.grid_eq
theorem Grid.tile_congr {f g : Nat → Nat → W32} (h : ∀ i < 128, ∀ j < 128, f i j = g i j) : Grid.tile f = Grid.tile g :=
  List.map_congr_left fun i hi => List.map_congr_left fun j hj => h i (List.mem_range.1 hi) j (List.mem_range.1 hj)
theorem Grid.cell_tile (f : Nat → Nat → W32) {i j : Nat} (hi : i < 128) (hj : j < 128) : (Grid.tile f).cell i j = f i j := by
  rw [Grid.cell, Grid.tile, getD_map_range hi, getD_map_range hj]
/-- A tile computed element by element. -/
theorem Grid.mapF_tile (f : Nat → Nat → W32) (g : Nat → Nat → W32 → W32 × Flags) :
    ((Grid.tile f).mapF g).1 = Grid.tile fun i j => (g i j (f i j)).1 := by
  refine List.ext_getElem (by simp [Grid.mapF, Grid.tile]) fun i _ _ => ?_
  refine List.ext_getElem (by simp [Grid.mapF, Grid.tile]) fun j _ _ => ?_
  simp [Grid.mapF, Grid.tile]

/-- An accumulator written whole, with good parity. -/
def Acc.ofTile (f : Nat → Nat → W32) (tag : Half) (ls : Option W32) : Acc := ⟨(Grid.tile f).sealed, tag, ls, true, true⟩

section
variable (f : Nat → Nat → W32) (tag : Half) (ls : Option W32)

theorem Acc.at_ofTile {i j : Nat} (hi : i < 128) (hj : j < 128) : (Acc.ofTile f tag ls).at i j = f i j := by
  rw [Acc.at_eq (by omega) (by omega)]
  exact (sealed_getElem (by omega) (by omega)).trans ((if_pos hi).trans (sealedRow_elem hj))
/-- Its checksums are those of its tile (R381). -/
theorem Acc.ofTile_sealed : Acc.ofTile f tag ls = { Acc.ofTile f tag ls with el := (Acc.ofTile f tag ls).grid.sealed } := by
  rw [Acc.grid_eq_tile, Grid.tile_congr fun i hi j hj => Acc.at_ofTile f tag ls hi hj]
  rfl
theorem Acc.verify_ofTile : (Acc.ofTile f tag ls).verify = .clean :=
  have hseal := Acc.ofTile_sealed f tag ls
  Acc.verify_clean rfl (Acc.badRows_sealed hseal) (Acc.badCols_sealed hseal) (Acc.total_sealed hseal)
end

/-- An accumulator written whole with the summaries of its tile in the tag (R97, R98). -/
def Acc.accOf (f : Nat → Nat → W32) (base : Nat) (ls : Option W32) : Acc := .ofTile f (accTag base (Grid.tile f)) ls
theorem Acc.accOf_eq {f : Nat → Nat → W32} {g : Grid} (hg : g = Grid.tile f) (base : Nat) (ls : Option W32) :
    Acc.accOf f base ls = g.acc base ls := by
  rw [hg]
  rfl

/-- The empty accumulator is the tile of zeros (R218). -/
theorem Acc.zero_eq_ofTile : Acc.zero = Acc.ofTile (fun _ _ => 0) 0 none := by
  have hsum (n : Nat) : sum32 ((List.range n).map fun _ => (0 : W32)) = 0 := by
    rw [sum32_map_range, Finset.sum_const_zero]
  have hrow {i j : Nat} (hj : j < 129) : (sealedRow (fun _ _ => 0) i).getD j 0 = 0 := by
    rcases Nat.lt_succ_iff_lt_or_eq.1 hj with h | rfl
    · exact sealedRow_elem h
    · exact sealedRow_check.trans (hsum 128)
  have hel : (Grid.tile fun _ _ => 0).sealed = Acc.zero.el := by
    refine Vector.ext fun i hi => Vector.ext fun j hj => ?_
    refine (sealed_getElem hi hj).trans ?_
    simp only [hrow hj, hsum, ite_self]
    simp [Acc.zero]
  rw [Acc.ofTile, hel]
  rfl

/-- Format, scl, prov and ver of a result are bits [9:0] of `base` (R98). -/
theorem bits_accTag (base : Nat) (g : Grid) : bits (accTag base g) 0 10 = base % 2 ^ 10 := by
  obtain ⟨a, b, hs⟩ := summary_two_bits 1 (g.flatten.map BitVec.toNat)
  rw [accTag, hs]
  simp only [bits, Nat.shiftRight_zero, BitVec.toNat_ofNat]
  omega
/-- The common prov and ver of operands lie above the format FP32. -/
theorem bits_accTag_common (ts : List Half) (g : Grid) : bits (accTag (1 + commonPv ts) g) 0 4 = 1 := by
  have hpv : commonPv ts % 2 ^ 5 = 0 := by
    rw [commonPv]
    split
    · exact Nat.mul_mod_left ..
    · rfl
  have hlow := bits_accTag (1 + commonPv ts) g
  simp only [bits, Nat.shiftRight_zero] at hlow ⊢
  omega

/-! ## The commands (R218, R219, R220, R223) -/

/-- A command that works on accumulators alone and writes `zd`. -/
inductive Maintains (zd : Fin 8) : Instr → Prop
  | mzero (p bar : Fin 64) : Maintains zd (.mzero p zd bar)
  | mcopy (p : Fin 64) (zs : Fin 8) (bar : Fin 64) : Maintains zd (.mcopy p zd zs bar)
  | mtrn (p : Fin 64) (zs : Fin 8) (bar : Fin 64) : Maintains zd (.mtrn p zd zs bar)
  | macc (p : Fin 64) (zs : Fin 8) (bar : Fin 64) : Maintains zd (.macc p zd zs bar)
  | mscl (p shp : Fin 64) (val : Bool) (bar : Fin 64) : Maintains zd (.mscl p zd shp val bar)

section
variable {s : State} {c : CtxId} {q : XCmd} {zd : Fin 8} (hm : Maintains zd q.op)
include hm

theorem Maintains.product : q.product = none := by
  rw [XCmd.product]
  generalize q.op = i at hm
  cases hm <;> rfl
theorem Maintains.inMemory : q.inMemory = false := by
  have hr : q.readItems = [] ∧ q.writeItems = [] := by
    rw [XCmd.readItems, hm.product, XCmd.writeItems]
    generalize q.op = i at hm
    cases hm <;> exact ⟨rfl, rfl⟩
  rw [XCmd.inMemory, hr.1, hr.2]
  rfl
theorem Maintains.operands (a : Actor) (look : Nat → Byte) : s.operands a look q = .ok [] := by
  rw [State.operands, hm.product]
  generalize q.op = i at hm
  cases hm <;> rfl
theorem Maintains.workX (hsolve : q.solve = none) :
    s.workX c q [] [] = s.tileStep ((s.ctx c).actor c.core) (s.look c q.snap) (s.ctx c) q [] := by
  rw [State.workX, hsolve]
  generalize q.op = i at hm
  cases hm <;> rfl
end

/-! ## The end of a step that wrote one accumulator (R212, R383) -/

theorem Ctx.raise_eq (x : Ctx) (sl : Slot) (pc : W32) (f : Flags) : ∃ cr, x.raise sl pc f = { x with cr := cr } := by
  rw [Ctx.raise]
  split
  · exact ⟨_, rfl⟩
  · exact ⟨x.cr, rfl⟩

/-- A command that is complete leaves the queue, and the engine may take up the next. -/
theorem State.completeX_eq (s : State) (c : CtxId) (q : XCmd) (hwait : (s.ctx c).wait = .none) : ∃ xq cr,
    s.completeX c q = s.modCtx c (fun x => { x with
      xq := xq
      cr := cr }) ∧ xq.map XCmd.op = (s.ctx c).xq.tail.map XCmd.op := by
  obtain ⟨cr, hraise⟩ := (s.ctx c).raise_eq .x q.pc q.flags
  have hleft : (s.modCtx c fun x => { (x.raise .x q.pc q.flags) with xq := x.xq.tail }) = s.modCtx c fun x => { x with
      xq := x.xq.tail
      cr := cr } := State.modCtx_congr (by rw [hraise])
  rw [State.completeX, hleft]
  have hstill {t : State} {x : Ctx} (h : t = s.modCtx c fun y => { y with
      xq := x.xq
      cr := x.cr }) : t.settleFence c = t := State.settleFence_none (by rw [h, State.ctx_modCtx]; exact hwait)
  obtain h | ⟨r, rest, r', cr', hxq, hk, h⟩ := (s.modCtx c fun x => { x with
      xq := x.xq.tail
      cr := cr }).startX_cases c
  · rw [h, hstill (x := { s.ctx c with xq := (s.ctx c).xq.tail, cr := cr }) (State.modCtx_congr rfl)]
    exact ⟨_, _, State.modCtx_congr rfl, rfl⟩
  · rw [State.ctx_modCtx] at hxq
    rw [State.modCtx_modCtx] at h
    rw [h, hstill (x := { s.ctx c with xq := r' :: rest, cr := cr' }) (State.modCtx_congr rfl)]
    refine ⟨r' :: rest, cr', rfl, ?_⟩
    rw [show (s.ctx c).xq.tail = r :: rest from hxq, List.map_cons, List.map_cons, hk.op]

theorem verifyEnd_clean {zd : Fin 8} {x : Ctx} (h : (x.zreg[zd]).verify = .clean) : verifyEnd [zd] x = .ok (x, []) := by
  rw [verifyEnd, h]
  rfl
theorem State.verifyRead_clean {s : State} {c : CtxId} {sl : Slot} {pc : W32} {zs : List (Fin 8)}
    (h : ∀ z ∈ zs, ((s.ctx c).zreg[z]).verify = .clean) : s.verifyRead c sl pc zs = .ok s := by
  induction zs with
  | nil => rfl
  | cons z zs ih =>
    rw [State.verifyRead, h z List.mem_cons_self]
    exact ih fun y hy => h y (List.mem_cons_of_mem z hy)

/-- The state after a step that has written accumulator `zd` whole. -/
def State.wroteZ (s : State) (c : CtxId) (zd : Fin 8) (a : Acc) : State := s.modCtx c fun y => { y with
  zreg := (s.ctx c).zreg.set zd a
  strikes := []
  shadow := none }

section
variable {s : State} {c : CtxId} {q : XCmd} {zd : Fin 8} {a : Acc} {f : Flags}

theorem Ctx.takes_oneStep (x : Ctx) (q : XCmd) (zd : Fin 8) (a : Acc) (f : Flags) :
    x.takes (oneStep x q zd a f) = x.putZ zd a :=
  congrArg (fun b => ({ x.putZ zd b with cr := x.cr } : Ctx)) (zreg_putZ x zd a)
/-- A whole command that nothing has struck, and whose accumulator verifies clean, is complete (R212, R383). -/
theorem State.endStep_oneStep (hstrikes : (s.ctx c).strikes = []) (hreplays : q.replays = 0) (hclean : a.verify = .clean) :
    s.endStep c q [] [] (oneStep (s.ctx c) q zd a f) = (s.wroteZ c zd a).completeX c { q with flags := q.flags ||| f } := by
  have hend : verifyEnd [zd] { (s.ctx c).putZ zd a with strikes := [] } = .ok ({ (s.ctx c).putZ zd a with strikes := [] }, []) :=
    verifyEnd_clean ((congrArg Acc.verify (zreg_putZ (s.ctx c) zd a)).trans hclean)
  rw [State.endStep]
  dsimp only
  rw [Ctx.takes_oneStep, hstrikes, List.foldl_nil]
  dsimp only [oneStep]
  rw [hend]
  refine (congrArg (fun t : State => t.completeX c { q with flags := q.flags ||| f }) (if_pos hreplays)).trans ?_
  exact congrArg (fun t : State => t.completeX c _) (State.modCtx_congr rfl)
end

/-! ## The step of a command (R212) -/

/-- The command at the head of a lane's queue is an accumulator command whose one engine step ends now: nothing has struck it,
and its sources verify clean (R212, R383). -/
structure State.StepEnds (s : State) (c : CtxId) (q : XCmd) (zd : Fin 8) : Prop where
  op      : Maintains zd q.op
  solve   : q.solve = none
  kb      : q.kb = 0
  replays : q.replays = 0
  strikes : (s.ctx c).strikes = []
  wait    : (s.ctx c).wait = .none
  sources : ∀ z ∈ q.sources, ((s.ctx c).zreg[z]).verify = .clean

/-- The engine step of context `c` leaves accumulator `zd` with the elements `e`, its tag, its loss scale and good parity, and the
commands `rest` in the queue; the other accumulators, the pivot vectors, the scalars and every byte stay. -/
def State.EndsStep (s : State) (c : CtxId) (rest : List XCmd) (zd : Fin 8) (tag : Half → Prop) (ls : Option W32)
    (e : Fin 128 → Fin 128 → W32) : Prop :=
  ∃ t, exec (.matrixEngineStep c) s = .next t ∧ (∀ z, z ≠ zd → (t.ctx c).zreg[z] = (s.ctx c).zreg[z]) ∧
    tag ((t.ctx c).zreg[zd]).tag ∧ ((t.ctx c).zreg[zd]).ls = ls ∧ ((t.ctx c).zreg[zd]).tagOk = true ∧
    ((t.ctx c).zreg[zd]).lsOk = true ∧
    (∀ i j : Fin 128, (((t.ctx c).zreg[zd]).el[i.val])[j.val] = e i j) ∧
    (t.ctx c).xq.map XCmd.op = rest.map XCmd.op ∧ (t.ctx c).pvreg = (s.ctx c).pvreg ∧ (t.ctx c).sreg = (s.ctx c).sreg ∧
    ∀ a, t.byte a = s.byte a

section
variable {s : State} {c : CtxId} {q : XCmd} {zd : Fin 8} {a : Acc} {f : Flags}

/-- The step of a command whose checks pass, and which has delivered accumulator `a`. -/
theorem State.StepEnds.runX (h : s.StepEnds c q zd) (hcheck : q.check (s.ctx c) = .ok ()) (hclean : a.verify = .clean)
    (hstep : s.tileStep ((s.ctx c).actor c.core) (s.look c q.snap) (s.ctx c) q [] = .ok (oneStep (s.ctx c) q zd a f)) :
    s.runX c q none = (s.wroteZ c zd a).completeX c { q with flags := q.flags ||| f } := by
  have henter : s.enterX c q = .ok s := by rw [State.enterX, h.op.inMemory]; rfl
  have hwork : s.workX c q [] [] = .ok (oneStep (s.ctx c) q zd a f) := (h.op.workX h.solve).trans hstep
  rw [State.runX, if_neg (by simp), State.verifyRead_clean h.sources]
  dsimp only
  rw [hcheck, henter, ite_self, ite_self]
  dsimp only
  rw [h.op.operands]
  dsimp only [Gate.bind]
  rw [hwork]
  exact State.endStep_oneStep h.strikes h.replays hclean

/-- What the engine step of a command leaves, from what the command delivers. -/
theorem State.StepEnds.endsStep {rest : List XCmd} {g : Nat → Nat → W32} {tag : Half} {ls : Option W32}
    (h : s.StepEnds c q zd) (hq : (s.ctx c).xq = q :: rest) (hexec : exec (.matrixEngineStep c) s = .next (s.runX c q none))
    (hcheck : q.check (s.ctx c) = .ok ())
    (hstep : ∃ f, s.tileStep ((s.ctx c).actor c.core) (s.look c q.snap) (s.ctx c) q [] =
      .ok (oneStep (s.ctx c) q zd (Acc.ofTile g tag ls) f))
    {p : Half → Prop} (hp : p tag) {e : Fin 128 → Fin 128 → W32} (he : ∀ i j : Fin 128, g i j = e i j) :
    s.EndsStep c rest zd p ls e := by
  obtain ⟨f, hstep⟩ := hstep
  have hwait : ((s.wroteZ c zd (Acc.ofTile g tag ls)).ctx c).wait = .none := by
    rw [State.wroteZ, State.ctx_modCtx]
    exact h.wait
  obtain ⟨xq, cr, hdone, hops⟩ := State.completeX_eq _ c { q with flags := q.flags ||| f } hwait
  have hctx : ((s.wroteZ c zd (Acc.ofTile g tag ls)).modCtx c fun x => { x with xq := xq, cr := cr }).ctx c = { s.ctx c with
      zreg := (s.ctx c).zreg.set zd (Acc.ofTile g tag ls)
      strikes := []
      shadow := none
      xq := xq
      cr := cr } := by
    rw [State.ctx_modCtx, State.wroteZ, State.ctx_modCtx]
  refine ⟨_, hexec.trans (congrArg Host.Outcome.next ((h.runX hcheck (Acc.verify_ofTile g tag ls) hstep).trans hdone)), ?_⟩
  rw [hctx]
  have hzd : ((s.ctx c).zreg.set zd (Acc.ofTile g tag ls))[zd] = Acc.ofTile g tag ls := zreg_putZ (s.ctx c) zd _
  dsimp only
  rw [hzd]
  refine ⟨fun z hz => ?_, hp, rfl, rfl, rfl, fun i j => ?_, ?_, rfl, rfl, fun _ => rfl⟩
  · exact Vector.getElem_set_ne _ _ fun h => hz (Fin.ext h.symm)
  · rw [← he, ← Acc.at_ofTile g tag ls i.isLt j.isLt, Acc.at_eq (by omega) (by omega)]
  · rw [hops, State.wroteZ, State.ctx_modCtx]
    dsimp only
    rw [hq, List.tail_cons]
end

/-! ## What each command delivers (R106, R217 to R220, R223) -/

/-- A product of two FP32 words over 1.0 is rounded as it is. -/
theorem sclElem_one (w e : W32) : (sclElem (f32 w) (f32 one32) e).1 = (r32 (XV.mul (f32 e) (f32 w)).1).1 :=
  congrArg (fun r : Nat × Flags => BitVec.ofNat 32 r.1)
    (round_div_one ((XV.short_dec e.toNat).mul (XV.short_dec w.toNat)) fp32 false)

section
variable {s : State} {act : Actor} {look : Nat → Byte} {x : Ctx} {q : XCmd} {vals : List Nat} {p bar shp : Fin 64}
  {zd zs : Fin 8}

theorem tileStep_mzero (hop : q.op = .mzero p zd bar) :
    ∃ f, s.tileStep act look x q vals = .ok (oneStep x q zd (.ofTile (fun _ _ => 0) 0 none) f) := by
  rw [← Acc.zero_eq_ofTile, State.tileStep, XCmd.product, hop]
  exact ⟨0, rfl⟩
theorem tileStep_mcopy (hop : q.op = .mcopy p zd zs bar) : ∃ f, s.tileStep act look x q vals =
    .ok (oneStep x q zd (.ofTile (x.zreg[zs]).at (x.zreg[zs]).tag (x.zreg[zs]).ls) f) := by
  rw [Acc.ofTile, ← Acc.grid_eq_tile, State.tileStep, XCmd.product, hop]
  exact ⟨0, rfl⟩
theorem tileStep_mtrn (hop : q.op = .mtrn p zd zs bar) : ∃ f, s.tileStep act look x q vals =
    .ok (oneStep x q zd (.ofTile (fun i j => (x.zreg[zs]).at j i) (x.zreg[zs]).tag (x.zreg[zs]).ls) f) := by
  have hg : ((x.zreg[zs]).grid.mapF fun i j _ => ((x.zreg[zs]).grid.cell j i, 0)).1 =
      Grid.tile fun i j => (x.zreg[zs]).at j i := by
    rw [Acc.grid_eq_tile, Grid.mapF_tile]
    exact Grid.tile_congr fun i hi j hj => Grid.cell_tile _ hj hi
  rw [Acc.ofTile, ← hg, State.tileStep, XCmd.product, hop]
  exact ⟨0, rfl⟩
/-- The sums of MACC (R219). -/
theorem tileStep_macc (hop : q.op = .macc p zd zs bar) : ∃ f, s.tileStep act look x q vals =
    .ok (oneStep x q zd (.accOf (fun i j => (add32 ((x.zreg[zd]).at i j) ((x.zreg[zs]).at i j)).1)
      (1 + commonPv [(x.zreg[zd]).tag, (x.zreg[zs]).tag]) ((x.zreg[zd]).ls <|> (x.zreg[zs]).ls)) f) := by
  have hg : ((x.zreg[zd]).grid.mapF fun i j e => add32 e ((x.zreg[zs]).grid.cell i j)).1 =
      Grid.tile fun i j => (add32 ((x.zreg[zd]).at i j) ((x.zreg[zs]).at i j)).1 := by
    rw [Acc.grid_eq_tile, Acc.grid_eq_tile, Grid.mapF_tile]
    exact Grid.tile_congr fun i hi j hj => by rw [Grid.cell_tile _ hi hj]
  rw [Acc.accOf_eq hg, State.tileStep, XCmd.product, hop]
  exact ⟨_, rfl⟩
/-- MSCL by its value (R220). -/
theorem tileStep_mscl_value (hop : q.op = .mscl p zd shp true bar) : ∃ f, s.tileStep act look x q vals =
    .ok (oneStep x q zd (.accOf (fun i j => (sclElem (f32 (q.shape.truncate 32)) (f32 one32) ((x.zreg[zd]).at i j)).1)
      (x.zreg[zd]).tag.toNat (x.zreg[zd]).ls) f) := by
  have hg := Grid.mapF_tile (x.zreg[zd]).at fun _ _ e => sclElem (f32 (q.shape.truncate 32)) (f32 one32) e
  rw [← Acc.grid_eq_tile] at hg
  rw [Acc.accOf_eq hg, State.tileStep, XCmd.product, hop]
  exact ⟨_, rfl⟩
/-- MSCL by the loss scale, where one is recorded (R217, R220). -/
theorem tileStep_mscl_scaled {r : W32} (hop : q.op = .mscl p zd shp false bar) (hls : (x.zreg[zd]).ls = some r) :
    ∃ f, s.tileStep act look x q vals =
      .ok (oneStep x q zd (.accOf (fun i j => (sclElem (f32 q.lscale) (f32 r) ((x.zreg[zd]).at i j)).1)
        (x.zreg[zd]).tag.toNat (some q.lscale)) f) := by
  have hg := Grid.mapF_tile (x.zreg[zd]).at fun _ _ e => sclElem (f32 q.lscale) (f32 r) e
  rw [← Acc.grid_eq_tile] at hg
  rw [Acc.accOf_eq hg, State.tileStep, XCmd.product, hop]
  dsimp only
  rw [hls]
  exact ⟨_, rfl⟩
theorem tileStep_mscl_unscaled (hop : q.op = .mscl p zd shp false bar) (hls : (x.zreg[zd]).ls = none) :
    ∃ f, s.tileStep act look x q vals =
      .ok (oneStep x q zd (.accOf (x.zreg[zd]).at (x.zreg[zd]).tag.toNat (some q.lscale)) f) := by
  rw [Acc.accOf_eq (x.zreg[zd]).grid_eq_tile, State.tileStep, XCmd.product, hop]
  dsimp only
  rw [hls]
  exact ⟨_, rfl⟩

theorem lsCheck_ok {r v : Option W32} (h : r = none ∨ v = r) : lsCheck r v = .ok () := by
  cases r with
  | none => rfl
  | some w => exact if_pos (h.resolve_left (Option.some_ne_none w))
/-- The checks of MACC pass (R99, R217). -/
theorem check_macc (hop : q.op = .macc p zd zs bar) (hd : bits (x.zreg[zd]).tag 0 4 ≤ 1) (hs : bits (x.zreg[zs]).tag 0 4 ≤ 1)
    (hls : (x.zreg[zd]).ls = none ∨ (x.zreg[zs]).ls = (x.zreg[zd]).ls)
    (htrack : trackAcc [(x.zreg[zd]).tag, (x.zreg[zs]).tag] [(x.zreg[zd]).tag, (x.zreg[zs]).tag] = .ok ()) :
    q.check x = .ok () := by
  have htyped {a : Acc} (h : bits a.tag 0 4 ≤ 1) : a.typed = .ok () := if_pos h
  rw [XCmd.check, XCmd.product, hop]
  dsimp only
  rw [htyped hd, htyped hs, lsCheck_ok hls, htrack]
  rfl
end

/-- Settles O40: each command passes its checks and delivers one accumulator, written whole; the end of its step is the same for
all. -/
theorem accumulatorCommandsComplete : Obligations.AccumulatorCommandsComplete := by
  unfold Obligations.AccumulatorCommandsComplete
  intro s c q rest t0 x hq hwait hlive hbusy ht0 hbad hfault hsolve hkb hreplays hstrikes foot hcut hshadow hbanks hway hsrc
    ends el f32' rne
  have hexec : exec (.matrixEngineStep c) s = .next (s.runX c q none) := by
    rw [← hshadow]
    exact exec_matrixEngineStep_due hq hlive hcut hbad hfault hbusy ht0 hbanks hway
  have hclean : ∀ z ∈ q.sources, ((s.ctx c).zreg[z]).verify = .clean := by
    intro z hz
    have h := hsrc z hz
    revert h
    cases ((s.ctx c).zreg[z]).verify with
    | clean => exact fun _ => rfl
    | fixed => exact False.elim
    | bad => exact False.elim
  have hel (z : Fin 8) (i j : Fin 128) : (x.zreg[z]).at i j = el z i j := Acc.at_eq (by omega) (by omega)
  have step {zd : Fin 8} (hm : Maintains zd q.op) : s.StepEnds c q zd := ⟨hm, hsolve, hkb, hreplays, hstrikes, hwait, hclean⟩
  have hends : ends = s.EndsStep c rest := rfl
  clear_value ends
  subst hends
  refine ⟨fun p zd b hop => ?_, fun p zd zs b hop => ?_, fun p zd zs b hop => ?_, fun p zd zs b hop hd hs hls htrack => ?_,
    fun p zd shp b hop => ?_, fun p zd shp b hop => ?_⟩
  · refine (step (hop ▸ .mzero p b)).endsStep hq hexec (by rw [XCmd.check, XCmd.product, hop]) (tileStep_mzero hop) ?_
      fun i j => ?_
    · rfl
    · rfl
  · refine (step (hop ▸ .mcopy p zs b)).endsStep hq hexec (by rw [XCmd.check, XCmd.product, hop]) (tileStep_mcopy hop) ?_
      (hel zs)
    rfl
  · refine (step (hop ▸ .mtrn p zs b)).endsStep hq hexec (by rw [XCmd.check, XCmd.product, hop]) (tileStep_mtrn hop) ?_
      fun i j => hel zs j i
    rfl
  · refine (step (hop ▸ .macc p zs b)).endsStep hq hexec (check_macc hop hd hs hls htrack) (tileStep_macc hop) ?_ fun i j => ?_
    · exact bits_accTag_common ..
    · rw [hel, hel]
      rfl
  · refine (step (hop ▸ .mscl p shp true b)).endsStep hq hexec (by rw [XCmd.check, XCmd.product, hop])
      (tileStep_mscl_value hop) (bits_accTag ..) fun i j => ?_
    rw [hel, sclElem_one]
    rfl
  · rcases hls : (x.zreg[zd]).ls with _ | r
    · exact (step (hop ▸ .mscl p shp false b)).endsStep hq hexec (by rw [XCmd.check, XCmd.product, hop])
        (tileStep_mscl_unscaled hop hls) (bits_accTag ..) (hel zd)
    · refine (step (hop ▸ .mscl p shp false b)).endsStep hq hexec (by rw [XCmd.check, XCmd.product, hop])
        (tileStep_mscl_scaled hop hls) (bits_accTag ..) fun i j => ?_
      rw [hel]
      rfl

end Sys2Proof.Machine
end

section
/-!
SUPPORT. What the operations of the O slot share: the row of the gradient, accesses, and the rows that results go to (R224).
-/
namespace Sys2Proof.Machine
open Sys2Proof.Laws

/-! ## FP32 patterns -/

/-- A pattern is read in its low 32 bits. -/
theorem fp32_dec_mod (p : Nat) : fp32.dec (p % 2 ^ 32) = fp32.dec p := by
  have hsign : (p % 2 ^ 32).testBit (fp32.e + fp32.m) = p.testBit (fp32.e + fp32.m) := by
    rw [Nat.testBit_mod_two_pow]
    rfl
  have hexp : (p % 2 ^ 32) >>> fp32.m % 2 ^ fp32.e = p >>> fp32.m % 2 ^ fp32.e := by
    simp only [fp32, Nat.shiftRight_eq_div_pow]
    omega
  have hman : p % 2 ^ 32 % 2 ^ fp32.m = p % 2 ^ fp32.m := Nat.mod_mod_of_dvd _ (by decide)
  rw [Fmt.dec, Fmt.dec, hsign, hexp, hman]
  rfl
theorem f32_ofNat (p : Nat) : f32 (BitVec.ofNat 32 p) = fp32.dec p := by
  rw [f32, BitVec.toNat_ofNat, fp32_dec_mod]

/-! ## The row of the gradient (R224, R383) -/

section
variable {s : State} {z : Fin 8} {r : Fin 128}

theorem State.zBusy_false (h : ∀ q ∈ s.me.xq, q.t ≠ s.time → z ∉ q.writes) : s.zBusy z = false :=
  List.any_eq_false.2 fun q hq => by simpa using h q hq
/-- A row whose sum holds is read as it stands. -/
theorem State.gradRow_ok (hz : ∀ q ∈ s.me.xq, q.t ≠ s.time → z ∉ q.writes) (hr : (s.me.zreg[z]).rowOk r = true)
    (k : Acc → List W32 → State → Res) :
    s.gradRow z r k = k s.me.zreg[z] ((s.me.zreg[z]).grid.getD r.val []) s := by
  rw [State.gradRow, State.zBusy_false hz, if_neg Bool.false_ne_true, hr, if_pos rfl]
end

/-! ## Accesses (R224, R254, R257) -/

/-- The access of an O operation passes its checks, and leaves the state `t`. -/
structure State.OReaches (s : State) (k : AKind) (l : List Span) (t : State) : Prop where
  waits  : s.waits (spanLocs l) = false
  poison : s.spanPoison l = none
  locks  : s.banksLocked s.cur.core s.bundleId l = false
  touch  : s.touchAs s.cur s.me.run s.me.step k s.me.phaseOpen none l = .ok t

theorem State.oTouch_ok {s t : State} {k : AKind} {l : List Span} (h : s.OReaches k l t) (go : State → Res) :
    s.oTouch k l go = go t := by
  rw [State.oTouch, h.waits, if_neg Bool.false_ne_true, h.poison]
  dsimp only
  rw [h.locks, if_neg Bool.false_ne_true, h.touch, need_ok]

end Sys2Proof.Machine
end

section
/-!
CERTIFICATE. OCLIP, OSCL and OGSQ (O39).
-/
namespace Sys2Proof.Machine
open Sys2Proof.Laws

/-! ## The clipping factor (R229) -/

/-- A value less than zero. -/
def XV.Below (v : XV) : Prop := v.neg = true ∧ v.isZero = false
theorem XV.below_iff (v : XV) : v.Below ↔ (v.neg && !v.isZero) = true := by
  rw [XV.Below, Bool.and_eq_true, Bool.not_eq_true']

section
variable {a b : W32}

theorem clipFactor_nan (h : (f32 a).isNan = true ∨ (f32 b).isNan = true) : clipFactor a b = (nan32, 0) :=
  if_pos (Bool.or_eq_true_iff.2 h.symm)

variable (ha : (f32 a).isNan = false) (hb : (f32 b).isNan = false)
include ha hb

theorem clipFactor_below (h : (f32 a).Below ∨ (f32 b).Below) : clipFactor a b = (nan32, fInv) := by
  rw [XV.below_iff, XV.below_iff] at h
  rw [clipFactor, if_neg (by simp [ha, hb])]
  exact if_pos (Bool.or_eq_true_iff.2 h)

variable (hna : ¬(f32 a).Below) (hnb : ¬(f32 b).Below)
include hna hnb

theorem clipFactor_one (h : (f32 b).isZero = true ∨ (f32 b).le (XV.mul (f32 a) (f32 a)).1 = true) :
    clipFactor a b = (one32, 0) := by
  rw [XV.below_iff] at hna hnb
  rw [clipFactor, if_neg (by simp [ha, hb]), if_neg (by simp [hna, hnb])]
  exact if_pos (Bool.or_eq_true_iff.2 h)

variable (hz : (f32 b).isZero = false) (hle : (f32 b).le (XV.mul (f32 a) (f32 a)).1 = false)
include hz hle

theorem clipFactor_inf (h : f32 b = .inf false) : clipFactor a b = (0, 0) := by
  rw [XV.below_iff] at hna hnb
  rw [clipFactor, if_neg (by simp [ha, hb]), if_neg (by simp [hna, hnb]), if_neg (by simp [hz, hle]), h]
theorem clipFactor_quotient {n d m c : Nat} {e g : Int} (hx : f32 a = .fin false n d e) (hy : f32 b = .fin false m c g) :
    clipFactor a b = (BitVec.ofNat 32 (fp32.divSqrt 0 (false, n, d, e) (m, c, g)).1,
      (fp32.divSqrt 0 (false, n, d, e) (m, c, g)).2) := by
  rw [XV.below_iff] at hna hnb
  rw [clipFactor, if_neg (by simp [ha, hb]), if_neg (by simp [hna, hnb]), if_neg (by simp [hz, hle]), hx, hy]
end

section
variable {s t : State} {p : Fin 64}

/-- OCLIP delivers its factor to its register and to q5. -/
theorem exec_oclip_delivers (hp : s.me.pget p = true) (d a b : Fin 8) {c : W32} {f : Flags}
    (h : clipFactor s.me.oreg[a] s.me.oreg[b] = (c, f)) : exec (.oclip p d a b) s =
      .next (s.land .o 4 [.o d c] (some (.scalar (SVal.of (c.zeroExtend 64)))) f).issued := by
  have he : exec (.oclip p d a b) s = execOclip p d a b s := rfl
  rw [he, execOclip, h]
  exact slotOp_done hp

/-! ## Loading the o registers (R230) -/

theorem gate0_inside (c : Fin 128) {a : Word} {n : Nat} (h : a.toNat + n ≤ 0x400000) (hlt : a.toNat < 0x400000) :
    gate0 c (a.toNat : Int) n = .ok ((List.range n).map fun i => spadLoc c (a.toNat + i)) := by
  have hlow : (decide ((a.toNat : Int) < 0) || decide ((0x400000 : Int) ≤ a.toNat)) = false := by
    simp; omega
  rw [gate0, hlow, if_neg Bool.false_ne_true, if_neg (by omega)]
  rfl
/-- The four bytes of one of eight words. -/
theorem word_of_range {α : Type} (f : Nat → α) {i : Nat} (hi : i < 8) :
    (((List.range 32).map f).drop (4 * i)).take 4 = (List.range 4).map fun j => f (4 * i + j) := by
  refine List.ext_getElem ?_ fun j _ _ => ?_
  · simp; omega
  · simp
theorem spadLoc_add (c : Fin 128) (a i : Nat) : spadLoc c (a + i) = spadLoc c a + i := by
  rw [spadLoc, spadLoc]
  omega

/-- OSCL loads eight words of the scratchpad, as the O operations before left them. -/
theorem exec_oscl_loads (hp : s.me.pget p = true) (ds : Fin 16) (n : Fin 128) {a : Word}
    (ha : s.me.dreg[ds].base + BitVec.ofNat 64 (32 * n.val) = a) (h32 : a.toNat % 32 = 0) (hlt : a.toNat < 0x400000)
    (hreach : s.OReaches .read (spansOf [(a, (List.range 32).map (spadLoc s.cur.core a.toNat + ·))]) t) :
    exec (.oscl p ds n) s = .next (t.land .o 4 ((List.range 8).map fun i => .o (Fin.ofNat 8 i)
      (BitVec.ofNat 32 (leNat ((List.range 4).map fun j =>
        s.me.throughPort s.byte (spadLoc s.cur.core a.toNat + (4 * i + j)))))) none 0).issued := by
  obtain ⟨as, rfl⟩ := State.touchAs_ok hreach.touch
  rw [exec_oscl, execOscl, ha, misaligned_eq_false h32, if_neg Bool.false_ne_true, gate0_inside _ (by omega) hlt]
  dsimp only
  simp only [spadLoc_add]
  rw [State.oTouch_ok hreach]
  have hwords : ((List.range 8).map fun i => RegWrite.o (Fin.ofNat 8 i) (BitVec.ofNat 32 (leNat
      (((((List.range 32).map fun i => spadLoc s.cur.core a.toNat + i).drop (4 * i)).take 4).map (s.me.throughPort s.byte))))) =
      (List.range 8).map fun i => .o (Fin.ofNat 8 i) (BitVec.ofNat 32 (leNat ((List.range 4).map fun j =>
        s.me.throughPort s.byte (spadLoc s.cur.core a.toNat + (4 * i + j))))) :=
    List.map_congr_left fun i hi => by rw [word_of_range _ (List.mem_range.1 hi), List.map_map]; rfl
  exact (slotOp_done hp).trans (congrArg (fun ws => Host.Outcome.next (State.land _ .o 4 ws none 0).issued) hwords)

/-! ## The sum of squares (R228) -/

/-- The gradient element of R226 and R228. -/
def gradOf (o : Vector W32 8) (sc : XV) (e : W32) : W32 := (r32 (XV.div (XV.mul (f32 e) (f32 o[5])).1 sc).1).1
theorem gradElem_fst (o : Vector W32 8) (sc : XV) (e : W32) : (gradElem o sc e).1 = gradOf o sc e := rfl
/-- The tree sum of the squares of a row of the gradient. -/
def squareSum (o : Vector W32 8) (sc : XV) (row : List W32) : W32 :=
  (treeReduce add32 (row.map fun e => (r32 (XV.mul (f32 (gradOf o sc e)) (f32 (gradOf o sc e))).1).1)).1

theorem Acc.typed_ok {a : Acc} (h : bits a.tag 0 4 ≤ 1) : a.typed = .ok () := if_pos h

variable {z : Fin 8} {r : Fin 128} {dx : Fin 16}

/-- OGSQ contributes its sum, and delivers it to q5. -/
theorem exec_ogsq_contributes (hdesc : (if Desc.space s.me.dreg[dx] = 2 then Desc.sans7 s.me.dreg[dx] else Desc.linear
      (Desc.sans7 s.me.dreg[dx])).bad ⟨2 ^ 32, 2 ^ 32, false, List.range 13, [1, 2], false⟩ = none)
    (hz : ∀ q ∈ s.me.xq, q.t ≠ s.time → z ∉ q.writes) (hr : (s.me.zreg[z]).rowOk r = true)
    (hfmt : bits (s.me.zreg[z]).tag 0 4 ≤ 1) :
    let ss := squareSum s.me.oreg (f32 ((s.me.zreg[z]).ls.getD one32)) ((s.me.zreg[z]).grid.getD r.val [])
    ∃ f, exec (.ogsq p z r dx) s = s.slotOp .o p (s.contribute s.me.dreg[dx] ss fun t =>
      .done (t.land .o 4 [] (latchS (ss.zeroExtend 64)) f)) := by
  intro ss
  have he : exec (.ogsq p z r dx) s = execOgsq p z r dx s := rfl
  rw [he, execOgsq]
  dsimp only
  rw [useDesc_ok hdesc, need_ok, State.gradRow_ok hz hr, Acc.typed_ok hfmt, need_ok, List.map_map, List.map_map]
  exact ⟨_, rfl⟩

section
variable {d : Desc} {v : W32} {go : State → Res}

/-- The contribution of OGSQ to the element at location list `l`, which its lane names from address `x` (R171, R228). -/
def Desc.contribution (d : Desc) (x : Int) (l : List Nat) (v : W32) : Pend :=
  ⟨.upd (l.headD 0) .sum 1 (v.zeroExtend 64), d.flatName x, true, false, some 2⟩
/-- The state after a contribution has joined the lane's writes. -/
def State.contributed (s : State) (upd : Pend) (foot : List Span) : State :=
  ({ s with nextId := s.nextId + 1 } : State).modMe fun (c : Ctx) => { c with
    pend := c.pend ++ [{ upd with sure := true }]
    xfoot := c.xfoot ++ [⟨s.nextId, [], foot, true⟩] }

theorem State.me_contributed (s : State) (upd : Pend) (foot : List Span) : (s.contributed upd foot).me = { s.me with
    pend := s.me.pend ++ [{ upd with sure := true }]
    xfoot := s.me.xfoot ++ [⟨s.nextId, [], foot, true⟩] } := State.me_modMe { s with nextId := s.nextId + 1 } _

theorem State.contribute_none (h : d.base = 0) : s.contribute d v go = go s := if_pos h

/-- A contribution that nothing refuses or holds. -/
theorem State.contribute_ok {x : Int} {l : List Nat} (hbase : d.base ≠ 0)
    (hx : (let first := d.pos (s.me.actor s.cur.core).fields (s.me.actor s.cur.core).step 0 0
      if d.space = 2 then d.offset 1 first.1 first.2 else (d.base.toNat : Int)) = x) (h4 : x % 4 = 0)
    (hgate : s.spaceGate (s.me.actor s.cur.core) d.space d.base x 4 ⟨true, false⟩ = .ok l) (hwaits : s.waits l = false)
    (hbehind : ∀ q ∈ s.me.xq, q.t ≠ s.time → ∀ u ∈ s.me.xfoot, u.seq = q.seq →
      spanMeet u.dst (spansOf [(d.flatName x, l)]) = none)
    (hrefuse : (s.view s.cur).refusePend (d.contribution x l v) = none)
    (hk : s.kcmds.all (fun k => k.owner ≠ s.cur) = true)
    (hloose : s.looseClash s.cur ⟨[], spansOf [(d.flatName x, l)], true⟩ s.me.mfoot = none)
    (htouch : s.touchAs s.cur s.me.run s.me.step .update s.me.phaseOpen none (spansOf [(d.flatName x, l)]) = .ok t) :
    s.contribute d v go = go (t.contributed (d.contribution x l v) (spansOf [(d.flatName x, l)])) := by
  have haddr (o : Int) : spaceAddr d.space d.base (if d.space = 2 then o else 0) =
      if d.space = 2 then o else (d.base.toNat : Int) := by
    rw [spaceAddr]
    split <;> simp
  have hqueue : (s.me.xq.any fun q => decide (q.t ≠ s.time) && ((s.me.xfoot.filter (·.seq = q.seq)).any fun u =>
      (spanMeet u.dst (spansOf [(d.flatName x, l)])).isSome)) = false := by
    simp only [List.any_eq_false, Bool.and_eq_true, List.any_eq_true, List.mem_filter, decide_eq_true_iff, not_and,
      not_exists]
    intro q hq ht u hu hsome
    rw [hbehind q hq ht u hu.1 hu.2] at hsome
    cases hsome
  have hnone : (s.kcmds.filter fun k => decide (k.owner = s.cur) && decide (k.run = s.me.run) && !k.seenVis &&
      decide (k.id < s.bundleId)) = [] := by
    refine List.filter_eq_nil_iff.2 fun k hmem => ?_
    have hne : k.owner ≠ s.cur := by simpa using List.all_eq_true.1 hk k hmem
    simp [hne]
  rw [State.contribute]
  dsimp only at hx ⊢
  rw [haddr, hx, if_neg hbase, if_neg (not_not.2 h4), hgate]
  dsimp only
  have hnoclash : (s.unordClash s.cur ⟨[], spansOf [(d.flatName x, l)], true⟩ [] <|>
      s.looseClash s.cur ⟨[], spansOf [(d.flatName x, l)], true⟩ s.me.mfoot) = none := hloose
  dsimp only [Desc.contribution] at hrefuse
  rw [hwaits, hqueue, Bool.or_self, if_neg Bool.false_ne_true, hrefuse, hnone, List.map_nil]
  dsimp only
  rw [hnoclash, htouch, need_ok]
  rfl
end
end

/-- Settles O39: the factor row by row of its table, the o registers from one access, and the sum with and without its
contribution. -/
theorem clipLoadAndSquaresDeliver : Obligations.ClipLoadAndSquaresDeliver := by
  unfold Obligations.ClipLoadAndSquaresDeliver
  intro s p hp
  refine ⟨fun d a b => ?_, fun ds n t => ?_, fun z r dx => ?_⟩
  · intro x y below gives
    have factor {c : W32} {f : Flags} (h : clipFactor s.me.oreg[a] s.me.oreg[b] = (c, f)) : gives c f :=
      exec_oclip_delivers hp d a b h
    refine ⟨fun h => factor (clipFactor_nan h), fun hx hy => ⟨fun h => factor (clipFactor_below hx hy h), fun hnx hny =>
      ⟨fun h => factor (clipFactor_one hx hy hnx hny h), fun hz hle =>
        ⟨fun hinf => factor (clipFactor_inf hx hy hnx hny hz hle hinf), fun n d' e m c g hxv hyv => ?_⟩⟩⟩⟩
    exact factor (clipFactor_quotient hx hy hnx hny hz hle hxv hyv)
  · intro x ls h32 hlt hwaits hpoison hlocks htouch
    exact ⟨_, exec_oscl_loads hp ds n rfl h32 hlt ⟨hwaits, hpoison, hlocks, htouch⟩, rfl⟩
  · intro a d hdesc hz hr hfmt rne g ss q5
    obtain ⟨f, he⟩ : ∃ f, exec (.ogsq p z r dx) s = s.slotOp .o p (s.contribute d ss fun t => .done (t.land .o 4 [] q5 f)) :=
      exec_ogsq_contributes hdesc hz hr hfmt
    refine ⟨fun hbase => ⟨f, ?_⟩, fun hbase l t => ?_⟩
    · rw [he, State.contribute_none hbase]
      exact slotOp_done hp
    · intro act first x h4 hgate hwaits upd foot hbehind hrefuse hk hloose htouch
      rw [he, State.contribute_ok hbase rfl h4 hgate hwaits hbehind hrefuse hk hloose htouch]
      obtain ⟨as, rfl⟩ := State.touchAs_ok htouch
      refine ⟨_, slotOp_done hp, rfl, rfl, fun _ => rfl, ?_, f, ?_⟩
      · rw [State.me_issued, State.me_land, State.me_contributed]
        rfl
      · rw [State.me_issued, State.me_land, State.me_contributed]
        rfl

end Sys2Proof.Machine
end

section
/-!
CERTIFICATE. OSGD, OMOM and OADAM (O38).
-/
namespace Sys2Proof.Machine
open Sys2Proof.Laws

/-! ## The columns of an update (R226) -/

/-- A row of results: column `j` of `n` has the bytes of pattern `v j`. -/
def columnCells (n : Nat) (l : List (Word × List Nat)) (v : Nat → Nat) : List Host.Cell :=
  (List.range n).flatMap fun j => let c := (l.getD j (0, [])).2
    c.zip (leBytes (v j) c.length)

theorem columnCells_eq (n : Nat) (l : List (Word × List Nat)) (v : Nat → Nat) :
    (List.zipWith (fun (c : Word × List Nat) p => c.2.zip (leBytes p c.2.length)) l
      ((List.range n).map v)).flatten = columnCells n l v := by
  induction l generalizing n v with
  | nil => simp [columnCells]
  | cons c l ih => cases n with
    | zero => rfl
    | succ n =>
      rw [List.range_succ_eq_map, List.map_cons, List.map_map, List.zipWith_cons_cons, List.flatten_cons, Function.comp_def,
        ih, columnCells, columnCells, List.range_succ_eq_map, List.flatMap_cons, List.flatMap_map]
      rfl

/-- The moments that an update reads and writes: rows `e.2` of descriptor `e.1`. -/
def State.momentRows (s : State) (x : Option (Fin 16 × List Nat)) (n : Nat) :
    Gate (List (List (Word × List Nat) × List Nat)) :=
  match x with
  | some e => gateAll (fun i => s.oRow s.me.dreg[e.1] i n) e.2
  | none => .ok []
/-- What the descriptor check looks at of the moments. -/
def State.momentCheck (s : State) (x : Option (Fin 16 × List Nat)) : Option (Desc × Fin 16 × Nat) :=
  x.map fun e => (s.me.dreg[e.1], e.1, e.2.foldl max 0)
/-- The tags of the moments. -/
def State.momentTags (s : State) (x : Option (Fin 16 × List Nat)) : List Half := (x.map fun e => Desc.tag s.me.dreg[e.1]).toList

/-- Column `j` of an update of weights `w` and moments `ms` by row `r` of the gradient. -/
def State.optCol (s : State) (z : Fin 8) (r : Fin 128) (wn : Fin 16)
    (col : Vector W32 8 → Fmt → XV → W32 → Nat → List Nat → OptCol) (w : List Nat)
    (ms : List (List (Word × List Nat) × List Nat)) (j : Nat) : OptCol :=
  col s.me.oreg ((fmtOf (Desc.fmt s.me.dreg[wn])).getD fp32) (f32 ((s.me.zreg[z]).ls.getD one32))
    (((s.me.zreg[z]).grid.getD r.val []).getD j 0) (w.getD j 0) (ms.map fun m => m.2.getD j 0)

section
variable {s t : State} {z : Fin 8} {r : Fin 128} {wn : Fin 16} {x : Option (Fin 16 × List Nat)}
  {wr : List (Word × List Nat) × List Nat} {ms : List (List (Word × List Nat) × List Nat)}

/-- An update whose checks pass lands the new moments `m` and the new weights `w` of its columns (R224, R226). -/
theorem exec_optimise_lands {p : Fin 64} {i : Instr} {w : Nat → Nat} {m : Nat → List Nat} (hp : s.me.pget p = true)
    (col : Vector W32 8 → Fmt → XV → W32 → Nat → List Nat → OptCol)
    (hexec : exec i s = s.slotOp .o p (s.optimise z r wn x col))
    (hz : ∀ q ∈ s.me.xq, q.t ≠ s.time → z ∉ q.writes) (hr : (s.me.zreg[z]).rowOk r = true)
    (hfmt : bits (s.me.zreg[z]).tag 0 4 ≤ 1) (hcheck : optCheck r s.me.dreg[wn] wn (s.momentCheck x) = .ok ())
    (htrack : trackAcc (Desc.tag s.me.dreg[wn] :: s.momentTags x)
      ((s.me.zreg[z]).tag :: Desc.tag s.me.dreg[wn] :: s.momentTags x) = .ok ())
    (hw : s.oRow s.me.dreg[wn] r.val (Desc.cols s.me.dreg[wn]) = .ok wr)
    (hm : s.momentRows x (Desc.cols s.me.dreg[wn]) = .ok ms)
    (hreach : s.OReaches .write (spansOf (wr.1 ++ ms.flatMap Prod.fst)) t)
    (hcol : ∀ j, (s.optCol z r wn col wr.2 ms j).w = w j ∧ (s.optCol z r wn col wr.2 ms j).ms = m j) :
    ∃ f, exec i s = .next (t.land .o 4 [.spad (
      ((ms.zip (List.range ms.length)).flatMap fun e => columnCells (Desc.cols s.me.dreg[wn]) e.1.1 fun j => (m j).getD e.2 0) ++
        columnCells (Desc.cols s.me.dreg[wn]) wr.1 w)] none f).issued := by
  have hchecks : checkAll [(s.me.zreg[z]).typed, trackAcc (Desc.tag s.me.dreg[wn] :: s.momentTags x)
      ((s.me.zreg[z]).tag :: Desc.tag s.me.dreg[wn] :: s.momentTags x)] = .ok () := by
    rw [Acc.typed_ok hfmt, htrack]
    rfl
  have hrows : ((s.oRow s.me.dreg[wn] r.val (Desc.cols s.me.dreg[wn])).bind fun wr =>
      (s.momentRows x (Desc.cols s.me.dreg[wn])).bind fun ms => .ok (wr, ms)) = .ok (wr, ms) := by
    rw [hw, hm]
    rfl
  have hme : t.me = s.me := by
    obtain ⟨as, rfl⟩ := State.touchAs_ok hreach.touch
    rfl
  have hlands : ∃ f, s.optimise z r wn x col = .done (t.land .o 4 [.spad (
      ((ms.zip (List.range ms.length)).flatMap fun e => columnCells (Desc.cols s.me.dreg[wn]) e.1.1 fun j =>
        (s.optCol z r wn col wr.2 ms j).ms.getD e.2 0) ++
      columnCells (Desc.cols s.me.dreg[wn]) wr.1 fun j => (s.optCol z r wn col wr.2 ms j).w)] none f) := by
    delta State.optimise
    cases x
    all_goals
      dsimp only [State.momentCheck, State.momentTags, State.momentRows, Option.map, Option.toList] at hcheck hchecks hrows ⊢
      rw [hcheck, need_ok, State.gradRow_ok hz hr, hchecks, need_ok, hrows]
      dsimp only
      rw [State.oTouch_ok hreach, hme]
      refine ⟨_, congrArg (fun cells => Res.done (t.land .o 4 [.spad cells] none _)) ?_⟩
      simp only [List.map_map, Function.comp_def, columnCells_eq]
      rfl
  obtain ⟨f, h⟩ := hlands
  refine ⟨f, ?_⟩
  rw [hexec, h, slotOp_done hp]
  simp only [hcol]
end

/-! ## The values of a column (R226, R227) -/

section
variable (o : Vector W32 8) (fw : Fmt) (sc : XV) (e : W32) (w : Nat) (ms : List Nat)

/-- The weight after a step of size o0 * `u`. -/
def stepped (o : Vector W32 8) (fw : Fmt) (w : Nat) (u : XV) : Nat :=
  (fw.round 0 false (XV.add 0 (fw.dec w) (XV.mul (f32 o[0]) u).1.negate).1).1
/-- The gradient element with the decay of its weight: g + o4 * w, rounded once. -/
def decayedGrad (o : Vector W32 8) (fw : Fmt) (sc : XV) (e : W32) (w : Nat) : XV :=
  f32 (r32 (XV.add 0 (f32 (gradOf o sc e)) (XV.mul (f32 o[4]) (fw.dec w)).1).1).1

theorem sgdCol_w : (sgdCol o fw sc e w ms).w = stepped o fw w (decayedGrad o fw sc e w) := rfl

/-- The moment of OMOM before its rounding. -/
def momSum (o : Vector W32 8) (fw : Fmt) (sc : XV) (e : W32) (w m : Nat) : XV :=
  (XV.add 0 (XV.mul (f32 o[1]) (fp32.dec m)).1 (decayedGrad o fw sc e w)).1

theorem momCol_eq : (momCol o fw sc e w ms).ms = [(fp32.round 0 false (momSum o fw sc e w (ms.getD 0 0))).1] ∧
    (momCol o fw sc e w ms).w = stepped o fw w (f32 (r32 (momSum o fw sc e w (ms.getD 0 0))).1) := by
  rw [momSum, ← f32_ofNat]
  exact ⟨rfl, rfl⟩

/-- The moments of OADAM before their rounding. -/
def adamMean (o : Vector W32 8) (sc : XV) (e : W32) (m : Nat) : XV :=
  (XV.add 0 (XV.mul (f32 o[1]) (fp32.dec m)).1
    (XV.mul (XV.add 0 (f32 one32) (f32 o[1]).negate).1 (f32 (gradOf o sc e))).1).1
def adamVar (o : Vector W32 8) (sc : XV) (e : W32) (v : Nat) : XV :=
  (XV.add 0 (XV.mul (f32 o[2]) (fp32.dec v)).1
    (XV.mul (XV.mul (XV.add 0 (f32 one32) (f32 o[2]).negate).1 (f32 (gradOf o sc e))).1 (f32 (gradOf o sc e))).1).1
/-- The quotient of OADAM. -/
def adamQuot (o : Vector W32 8) (sc : XV) (e : W32) (m v : Nat) : W32 :=
  (rootQuot (XV.mul (f32 (r32 (adamMean o sc e m)).1) (f32 o[6])).1 (XV.mul (f32 (r32 (adamVar o sc e v)).1) (f32 o[7])).1
    (f32 o[3])).1

theorem adamCol_eq : (adamCol o fw sc e w ms).ms = [(fp32.round 0 false (adamMean o sc e (ms.getD 0 0))).1,
      (fp32.round 0 false (adamVar o sc e (ms.getD 1 0))).1] ∧
    (adamCol o fw sc e w ms).w = stepped o fw w (XV.add 0 (f32 (adamQuot o sc e (ms.getD 0 0) (ms.getD 1 0)))
      (XV.mul (f32 o[4]) (fw.dec w)).1).1 := by
  rw [adamQuot, adamMean, adamVar, ← f32_ofNat, ← f32_ofNat]
  exact ⟨rfl, rfl⟩
end

/-! ## The format of the weights (R224) -/

/-- A descriptor in order has one of the formats that its command accepts. -/
theorem Desc.fmt_mem_of_bad {d : Desc} {u : DescUse} (h : d.bad u = none) : d.fmt ∈ u.fmts := by
  by_contra hne
  simp only [Desc.bad, List.contains_eq_mem, hne, decide_false, Bool.not_false, Bool.or_true, Bool.true_or, if_true] at h
  split_ifs at h
theorem optCheck_format {r : Fin 128} {w : Desc} {wn : Fin 16} {x : Option (Desc × Fin 16 × Nat)}
    (h : optCheck r w wn x = .ok ()) : (fmtOf w.fmt).getD fp32 = if w.fmt = 2 then bf16 else fp32 := by
  have hbad : w.sans7.bad weightUse = none := by
    cases hb : w.sans7.bad weightUse with
    | none => rfl
    | some f =>
      simp [optCheck, useDesc, hb] at h
  have hfmt : w.sans7.fmt = w.fmt := by simp [Desc.sans7, Desc.fmt]
  have hmem : w.fmt = 1 ∨ w.fmt = 2 := by simpa [hfmt, weightUse] using Desc.fmt_mem_of_bad hbad
  rcases hmem with h | h <;> rw [h] <;> rfl

/-! ## The statement -/

/-- Settles O38: an update lands what its columns come to, and each column is R226's expressions, rounded once each. -/
theorem optimiserRowsUpdate : Obligations.OptimiserRowsUpdate := by
  unfold Obligations.OptimiserRowsUpdate
  intro s p z r dw dx hp a w x n hz hr hfmt fw plus minus times rne pat o one sc g put lands wr hwr wv step decayed
  refine ⟨fun hcheck htrack => ?_, fun hcheck htrack mr hmr => ?_, fun hcheck htrack mr vr hmr hvr => ?_⟩
  · intro hwaits hpoison hlocks t htouch
    have hreach : s.OReaches .write (spansOf wr.1) t := ⟨hwaits, hpoison, hlocks, htouch⟩
    have hcol (j : Nat) : (s.optCol z r dw sgdCol wr.2 [] j).w = step j (decayed j) ∧
        (s.optCol z r dw sgdCol wr.2 [] j).ms = [] := by
      rw [State.optCol, optCheck_format hcheck, sgdCol_w]
      exact ⟨rfl, rfl⟩
    exact exec_optimise_lands hp (x := none) sgdCol rfl hz hr hfmt hcheck htrack hwr rfl
      (by rwa [List.flatMap_nil, List.append_nil]) hcol
  · intro m hwaits hpoison hlocks t htouch
    have hreach : s.OReaches .write (spansOf (wr.1 ++ mr.1)) t := ⟨hwaits, hpoison, hlocks, htouch⟩
    have hmom : s.momentRows (some (dx, [r.val])) n = .ok [mr] := by
      rw [State.momentRows, gateAll, hmr]
      rfl
    have hmoms : s.momentCheck (some (dx, [r.val])) = some (x, dx, r.val) := by simp [State.momentCheck, x]
    have hcol (j : Nat) : (s.optCol z r dw momCol wr.2 [mr] j).w = step j (rne (m j)) ∧
        (s.optCol z r dw momCol wr.2 [mr] j).ms = [pat (m j)] := by
      rw [State.optCol, optCheck_format hcheck, (momCol_eq ..).1, (momCol_eq ..).2]
      exact ⟨rfl, rfl⟩
    obtain ⟨f, h⟩ := exec_optimise_lands (i := .omom p z r dw dx) hp (x := some (dx, [r.val])) momCol rfl hz hr hfmt
      (hmoms ▸ hcheck) htrack hwr hmom (by rwa [List.flatMap_singleton]) hcol
    rw [show [mr].zip (List.range [mr].length) = [(mr, 0)] from rfl, List.flatMap_singleton] at h
    exact ⟨f, h⟩
  · intro m v e hwaits hpoison hlocks t htouch
    have hreach : s.OReaches .write (spansOf (wr.1 ++ (mr.1 ++ vr.1))) t := ⟨hwaits, hpoison, hlocks, htouch⟩
    have hmom : s.momentRows (some (dx, [2 * r.val, 2 * r.val + 1])) n = .ok [mr, vr] := by
      rw [State.momentRows, gateAll, hmr, gateAll, hvr]
      rfl
    have hmoms : s.momentCheck (some (dx, [2 * r.val, 2 * r.val + 1])) = some (x, dx, 2 * r.val + 1) := by
      simp [State.momentCheck, x]
    have hcol (j : Nat) : (s.optCol z r dw adamCol wr.2 [mr, vr] j).w = step j (plus (e j) (times (o 4) (wv j))) ∧
        (s.optCol z r dw adamCol wr.2 [mr, vr] j).ms = [pat (m j), pat (v j)] := by
      rw [State.optCol, optCheck_format hcheck, (adamCol_eq ..).1, (adamCol_eq ..).2]
      exact ⟨rfl, rfl⟩
    obtain ⟨f, h⟩ := exec_optimise_lands (i := .oadam p z r dw dx) hp (x := some (dx, [2 * r.val, 2 * r.val + 1])) adamCol rfl
      hz hr hfmt (hmoms ▸ hcheck) htrack hwr hmom (by rwa [List.flatMap_cons, List.flatMap_singleton]) hcol
    rw [show [mr, vr].zip (List.range [mr, vr].length) = [(mr, 0), (vr, 1)] from rfl, List.flatMap_cons,
      List.flatMap_singleton] at h
    exact ⟨f, h⟩

end Sys2Proof.Machine
end
